-- ==== Sys2Proof/Word.lean ====
section
/-!
DEFINITION. Word.lean: the word types of the device and the sparse tables that hold its numbered units.
Multi-byte fields are little-endian in descriptors, events and images and big-endian on the wire (spec R5); the
functions that say so stand in Machine/Bits.lean, where a repair can mend them.
-/
namespace Sys2Proof

/-- One byte (R4: bit 0 is the least significant bit). -/
abbrev Byte := BitVec 8

/-- A 64-byte descriptor as one word, byte 0 in its least significant bits (R223). -/
abbrev Desc := BitVec 512

/-- A sparse table of numbered units: `(number, record)` in rising number; a number that is not listed has the
table's default record. -/
abbrev Tab (α : Type) := List (Nat × α)

/-- The bytes of a message or an image, byte 0 first. -/
abbrev Bytes := List (BitVec 8)

end Sys2Proof
end

