-- ==== Sys2Proof/Config.lean ====
section
/-!
DEFINITION. Config.lean: what the part fixes (its limits, fixed per silicon step, R22) and the FREE VALUES, constants
with no body: nothing in Lean can evaluate one, so a statement that mentions one holds for every value of it.
-/
namespace Sys2Proof.Config

/-- The `n`-th free value: 64 bits that the spec leaves open (the number of a session; the metric of an alignment without
energy; how many active cycles an operation adds to a shared bench). UNVERIFIED by intent, safe: assumption log 1. -/
opaque freeBits : Nat → BitVec 64

/-- A free word of any length, for keys, signatures and other unit secrets (R456, R457): no proof can see a bit of it.
Safe: assumption log 1. -/
opaque freeByte : Nat → Nat → BitVec 8

/-- A fixed latency, in ticks, of converter links with the records given (R289, R290), which the spec leaves open. Safe:
assumption log 1. -/
opaque linkLatency : List Nat → Nat

/-- The figure of the Blackman–Harris window for sample `n` of a mask block (R298), which the spec does not print. Safe:
assumption log 1. -/
opaque maskWindow : Nat → Int

/-- The level of a bin in 0.25 dB relative to a full-scale tone, from the terms of its transform, I and Q of the factor of
each power of the 512-th root of unity (R298); the rounding is open. Safe: assumption log 1. -/
opaque binLevel : List (Int × Int) → Int

/-- Samples delayed by a number of eighths of a sample, 1 to 7 (R302), by an interpolation that the spec does not give. Safe:
assumption log 1. -/
opaque dpdShift : Nat → List (Int × Int) → List (Int × Int)

/-- The normalised error of a capture in 0.01 dB, from its input and its aligned observation (R302); the spec gives no
formula. Safe: assumption log 1. -/
opaque dpdError : List (Int × Int) → List (Int × Int) → Int

/-- The coefficients of the least-squares problem of R302, as FP32 pairs, from the order of the FP32 operations, which
is open, `K`, `Q`, the input and the aligned observation. Safe: assumption log 1. -/
opaque dpdSolve : Nat → Nat → Nat → List (Int × Int) → List (Int × Int) → List (Nat × Nat)

/-- A coefficient with two infinite components scaled to a ceiling (R303): its direction is open. Safe: assumption log 1. -/
opaque infCoef : Nat → Bool → Bool → Nat × Nat

/-- The chip-rate sample of a listener (R360): from the mixed-down samples with their ticks, the chip period, the carrier
offset in Hz and a time in 1/32 chip after the first sample. The spec gives no resampling filter. Safe: assumption log 1. -/
opaque chipSample : List (Nat × (Int × Int)) → Nat → Int → Nat → Int × Int

/-- The estimates of a frame (R360): from the mixed-down samples with their ticks, the chip period, the spreading factor and
the declared symbol timing, once the frame mark has been heard: the first header symbol in 1/32 chip after the first sample,
the carrier offset in Hz, the SNR in 0.01 dB and the preamble's mean peak. The spec gives no algorithm. Safe: assumption
log 1. -/
opaque frameEstimate : List (Nat × (Int × Int)) → Nat → Nat → Nat → Option (Nat × Int × Int × Nat)

/-- Whether the radix-2 transform of R361 decimates in time, or in frequency: their roundings differ, and the spec names
neither. Safe: assumption log 1. -/
opaque fftInTime : Bool

/-- Fields of a haul-road flit that the spec does not lay out, from what the flit says and the place of the field: the bytes of
a descriptor that is none of a queue's, and the ring and slot of a system-ring flit (R169, R170, R419). Safe: assumption
log 1. -/
opaque roadField : List Nat → Nat → Nat

/-- Number of physical benches, vector engines and quantisation units (R15). -/
def benches : Nat := 16
/-- Resident contexts (R229). -/
def contexts : Nat := 64
/-- Hardware queues (R226). -/
def queues : Nat := 16384
/-- Numbered rings (R160). -/
def rings : Nat := 4096
/-- Sync objects (R248). -/
def syncs : Nat := 8192
/-- Signal cores (R317). -/
def cores : Nat := 32
/-- Page size in bytes, 64 KiB (R198). -/
def pageBytes : Nat := 65536
/-- Spoil granule in bytes (R82). -/
def blockBytes : Nat := 64
/-- `DEVICE_TYPE` (R22). -/
def deviceType : Nat := 0x4B568816
/-- `SILICON_STEP` (R22). -/
def siliconStep : Nat := 0x0100
/-- `CLOCK_RATES` in kHz (R22, R17). -/
def clockRates : List Nat := [800000, 1200000, 1600000, 100000, 0, 0, 0, 0]

end Sys2Proof.Config
end

