-- ==== Sys2Proof/Syntax.lean ====
section
/-!
DEFINITION. Syntax.lean: the commands of the block, one constructor per row of spec/opcode_table.json, and the shapes of
what they carry: frames, boot images, measured outcomes. A number operand names a unit (queue, context, bench, stream,
core and so on); `WellFormed` says which units exist.
-/
namespace Sys2Proof

/-- What a checked unit reports of a command's work: no mismatch, one mismatch whose retry agreed, or two (R94, R129,
R150, R196, R347, R470). -/
inductive HwOutcome where
  | ok | transient | permanent
deriving DecidableEq, Repr

/-- A block whose CRC failed as a page was read from LPDDR6: its page in the context, its place in the page, and whether the
second read failed too (R196). -/
structure BlockFail where
  page : Nat
  block : Nat
  permanent : Bool
deriving DecidableEq, Repr

/-- An operand of a command that reads LPDDR6, with the blocks whose CRC fails as it reads (R196). -/
structure Reading (α : Type) where
  of : α
  fails : List BlockFail
deriving DecidableEq, Repr

/-- How one command carries the work of a MATMUL, CONV, VOP or QUANT, which runs from its cursor in units of work (a
streamed vector, an output tile's pass or an FMA of the lanes; an element group or block): where the work stands when the
command ends, one cursor for each range of a split reduction (to the end where none is given), one entry for each mismatch
whose retry agreed, by bench, and the bench of a second mismatch, which ends the operation there (R59, R68, R92, R94, R128,
R129, R149, R150). -/
structure WorkRun where
  till : List Nat
  transients : List Nat
  failed : Option Nat
deriving DecidableEq, Repr

/-- Work carried to its end with no mismatch. -/
def WorkRun.whole : WorkRun := ⟨[], [], none⟩

/-- An operation that goes on, and how far this command carries its work (R246). -/
structure Resumed where
  op : Nat
  run : WorkRun
deriving DecidableEq, Repr

/-- A word of a signal core's memory whose check fails: the program's instance that reads it, at or after which of the
instance's cycles, and whether the second read fails too (R347). -/
structure CoreFail where
  inst : Nat
  cycle : Nat
  permanent : Bool
deriving DecidableEq, Repr

/-- Direction of the haul road: signal die to tensor die, or back. -/
inductive Dir where
  | st | ts
deriving DecidableEq, Repr

/-- What the receiving port knows of an Ethernet frame (R405, R503, R504): port, addresses, tag, size in bytes, and the
drop-eligible bit, and the sequence number of an 802.1CB tag if it carries one. IP addresses are 128-bit numbers, an IPv4
address in the form of R410. -/
structure EthMeta where
  port : Nat
  srcMac : Nat
  dstMac : Nat
  vlan : Nat
  pcp : Nat
  dei : Bool
  ipVer : Nat
  srcIp : Nat
  dstIp : Nat
  dscp : Nat
  srcUdp : Nat
  dstUdp : Nat
  size : Nat
  rtag : Option Nat
deriving DecidableEq, Repr

/-- A dictionary frame that passed its CRC (R433), with the port and addresses it came with; `LEN` stands beside the payload
the datagram holds. -/
structure DictFrame where
  eth : EthMeta
  version : Nat
  resv0 : Nat
  type : Nat
  len : Nat
  session : Nat
  seq : Nat
  index : Nat
  sub : Nat
  resv15 : Nat
  last : Bool
  first : Bool
  offset : Nat
  total : Nat
  abort : Nat
  resv28 : Nat
  payload : Bytes
deriving DecidableEq, Repr

/-- A work-transport frame that passed its CRC (R412), with the port and addresses it came with. -/
structure WtFrame where
  eth : EthMeta
  version : Nat
  lc : Bool
  resv0 : Nat
  type : Nat
  session : Nat
  seq : Nat
  ackSeq : Nat
  resv16 : Nat
  ackValid : Bool
  last : Bool
  ctx : Nat
  freed : Nat
  arg0 : Nat
  arg1 : Nat
  spoil : Nat
  box : Bytes
  payload : Bytes
deriving DecidableEq, Repr

/-- One slot of the boot flash as the boot reads it (R447 to R450): the headers, the firmware's measured digest, the
record body and its signature block, and the outcome of each signature and key-hash check. -/
structure SlotImage where
  fwHeader : Bytes
  fwDigest : Bytes
  fwKeys : Bool
  fwRsa : Bool
  fwSlh : Bool
  recHeader : Bytes
  recBody : Bytes
  recSig : Bytes
  recKeys : Bool
  recRsa : Bool
  recSlh : Bool
deriving DecidableEq, Repr

/-- What start-up meets (R452, R493, R498): the level of TEST_MODE at the rise of PORST_N, whether the PUF is recovered, the identity it yields, the two flash slots, the
haul-road lanes that fail the pattern, the LPDDR6 channels that fail training twice, and the ports with block lock. -/
structure Boot where
  testMode : Bool
  puf : Bool
  deviceId : Bytes
  slotA : SlotImage
  slotB : SlotImage
  laneFail : List Nat
  chanFail : List Nat
  portLock : List Nat
deriving DecidableEq, Repr

/-- PTP message kinds (R391). -/
inductive PtpKind where
  | sync | followUp | delayReq | delayResp | pdelayReq | pdelayResp | pdelayRespFollowUp | announce
deriving DecidableEq, Repr

/-- The data set that an Announce carries of its grandmaster, and its sender (IEEE 1588-2019 names, R391). -/
structure PtpAnn where
  prio1 : Nat
  cls : Nat
  accuracy : Nat
  variance : Nat
  prio2 : Nat
  identity : Nat
  steps : Nat
  sender : Nat
deriving DecidableEq, Repr

/-- A received PTP message as the engine reads it (IEEE 1588-2019 names): its frame, kind, domain, sequence number, two-step
flag, correctionField in units of 2^−16 ns, the timestamp it carries, and an Announce's data set. -/
structure PtpMsg where
  eth : EthMeta
  kind : PtpKind
  domain : Nat
  seqId : Nat
  twoStep : Bool
  corr : Int
  tsSec : Nat
  tsNs : Nat
  ann : PtpAnn
deriving DecidableEq, Repr

/-- What a unit under self-test reports: the first run, the retest, the detail word of the failing run, and for test 0x0E
the power domain a failing pattern is localised to and the channels that fail the training that follows twice (R194, R477, R479,
R480). -/
structure TestRun where
  pass : Bool
  retest : Bool
  detail : Nat
  domain : Nat
  chanFail : List Nat
deriving DecidableEq, Repr

/-- The commands, one constructor per row of the table of operations and events. -/
inductive Instr where
  /-- PORST_ASSERT: PORST_N held low for at least 10 µs starts a full reset: every engine stops, every domain but always-on is gated and every entry returns to its default. (R497) -/
  | porstAssert
  /-- PORST_RELEASE: The rise of PORST_N starts the start-up sequence: PLL lock, haul-road training, boot steps 1 to 6 and LPDDR6 training. (R498) -/
  | porstRelease (b : Boot)
  /-- RESET_ASSERT: RESET_N held low for at least 1 µs starts a full reset with the PLL kept locked. (R497) -/
  | resetAssert
  /-- RESET_RELEASE: The rise of RESET_N resumes start-up at boot step 1 within 10 µs, and the global counter restarts at zero. (R497) -/
  | resetRelease (b : Boot)
  /-- PWR_GOOD_LOW: PWR_GOOD low for 1 µs or longer acts as PORST_N low. (R490) -/
  | pwrGoodLow
  /-- PLL_LOCK_LOSS: Loss of PLL lock while the device runs causes a full reset, as PORST_N does. (R497) -/
  | pllLockLoss
  /-- RSA_IDENTITY_DERIVED: Derivation of the RSA identity key completes and sets ATTEST_READY or ID_MISMATCH. (R456) -/
  | rsaIdentityDerived (matchesRecord : Bool)
  /-- THERMAL_TRIP: A junction reaches 115 °C: every domain except management Ethernet and always-on is gated, THERMTRIP_N is driven and TRIPPED is set until reset. (R467) -/
  | thermalTrip
  /-- THERMAL_THROTTLE: The hottest junction reaches 105 °C or falls back to 100 °C, which starts or ends the hold on best-effort work and posts THERMAL_THROTTLE. (R466) -/
  | thermalThrottle (temp : Int)
  /-- POWER_ESTIMATE: Every 100 µs the package power is estimated, and best-effort work is held back or released against P_CEIL. (R466) -/
  | powerEstimate (watts : Nat) (milliamps : Nat) (ack : Bool)
  /-- AVS_LOOP_UPDATE: Every 100 µs the adaptive loop reads the timing-margin monitors and moves the core-voltage target within AVS_ENVELOPE. (R464) -/
  | avsLoopUpdate (choice : Nat) (sensed : Nat) (ack : Bool)
  /-- SUPPLY_UNDERVOLTAGE: The core rail stays below 680 mV for 100 ns: every READY bench is gated, its running work aborts with spoil, and the target is set to V_CEIL. (R468) -/
  | supplyUndervoltage (mv : Nat)
  /-- SUPPLY_RECOVERY: After the rail has stayed at or above V_FLOOR for 1 ms, the benches gated by undervoltage protection return to READY. (R468) -/
  | supplyRecovery (mv : Nat)
  /-- POWER_UP_COMPLETE: A powering domain finishes zeroing its memories and its register reads READY. (R462) -/
  | powerUpComplete
  /-- IDCODE: The IEEE 1149.1 IDCODE instruction returns 0x0881_64F3 plus the major silicon step. (R496) -/
  | idcode
  /-- BYPASS: The IEEE 1149.1 BYPASS instruction. (R496) -/
  | bypass
  /-- BOUNDARY_SCAN: A boundary-scan instruction is accepted only with SCAN_ALLOW = 1 and after the secrets are zeroed, and otherwise acts as BYPASS. (R496) -/
  | boundaryScan
  /-- TIMEBASE_DESCRIPTOR: The tensor die receives the time unit's count and loads its replica of the global counter with it plus the haul-road latency. (R19) -/
  | timebaseDescriptor
  /-- TB_INCREMENT_WRITE: A write to TB_INCREMENT within ±1,000 ppm takes effect on the next tick. (R384) -/
  | tbIncrementWrite (f : DictFrame)
  /-- TB_SLEW_WRITE: A write to TB_SLEW starts a slew that spreads offset O over D ticks. (R385) -/
  | tbSlewWrite (f : DictFrame)
  /-- SLEW_COMPLETE: The last tick of a slew has passed and the whole offset has been applied. (R385) -/
  | slewComplete
  /-- TB_STEP_WRITE: A write to TB_STEP adds whole nanoseconds to the time of day and ends any slew. (R386) -/
  | tbStepWrite (f : DictFrame)
  /-- TB_TOD_SET_WRITE: A write to TB_TOD_SET replaces the time of day on the next tick and ends any slew. (R386) -/
  | tbTodSetWrite (f : DictFrame)
  /-- TIMEBASE_ALIGN: A request for ALIGNED loads the global counter from the time of day on the second tick and resends the timebase descriptor. (R389) -/
  | timebaseAlign (f : DictFrame)
  /-- TIMEBASE_FREE_RUN: A request for FREE_RUN from ALIGNED changes the state and leaves the counter as it is. (R390) -/
  | timebaseFreeRun (f : DictFrame)
  /-- SECOND_ROLLOVER: The time-of-day nanoseconds reach 10^9, the seconds advance, and TU_PPS pulses when enabled. (R401) -/
  | secondRollover
  /-- PTP_MESSAGE_RECEIVED: A received PTP message is timestamped, and on Sync or Follow_Up the offset and mean path delay are updated. (R392) -/
  | ptpMessageReceived (m : PtpMsg)
  /-- PTP_MESSAGE_TRANSMIT: The protocol engine sends a PTP message on its interval, with one-step time insertion where configured. (R391) -/
  | ptpMessageTransmit (k : PtpKind)
  /-- TU_ARM: TU_ARM arms a time trigger on a grid of global counts and completes on its arming tick. (R396) -/
  | tuArm (q : Nat)
  /-- TU_DISARM: TU_DISARM disarms a trigger on its acceptance tick and withdraws any increment already sent ahead. (R399) -/
  | tuDisarm (q : Nat)
  /-- TRIGGER_INCREMENT_SEND: Sixty-four ticks before a firing, the trigger's increment is sent as an LC descriptor flit stamped with the firing tick. (R397) -/
  | triggerIncrementSend (trig : Nat)
  /-- TRIGGER_FIRING: The global counter equals F_k: the trigger fires, its increment applies, its pulse begins, and it disarms after its last firing. (R396) -/
  | triggerFiring (trig : Nat)
  /-- PULSE_END: The configured pulse width of a trigger or PPS output expires and the pulse ends. (R397) -/
  | pulseEnd (out : Nat)
  /-- CAPTURE_EDGE: A rising edge on TU_CAP0 or TU_CAP1 is timestamped and counted. (R401) -/
  | captureEdge (cap : Nat)
  /-- SYSREF_EDGE: A rising SYSREF edge is timestamped, and at link start-up it fixes the LEMC boundaries. (R288) -/
  | sysrefEdge
  /-- DICT_OPEN: An OPEN frame with a valid token opens a dictionary session. (R434) -/
  | dictOpen (f : DictFrame)
  /-- DICT_CLOSE: A CLOSE frame ends a session and discards its staged value. (R434) -/
  | dictClose (f : DictFrame)
  /-- DICT_READ: A READ frame returns a scalar, or DOMAIN bytes from a snapshot. (R437) -/
  | dictRead (f : DictFrame)
  /-- DICT_WRITE_SEGMENT: A WRITE segment without LAST is staged for a multi-segment DOMAIN value. (R438) -/
  | dictWriteSegment (f : DictFrame)
  /-- DICT_SESSION_TIMEOUT: A session idle for DICT_SESSION_TIMEOUT ends and discards its staged value. (R434) -/
  | dictSessionTimeout (session : Nat)
  /-- DICT_CRC_ERROR: A dictionary frame fails its CRC, is discarded unanswered and counted, and the transient or permanent rule applies. (R441) -/
  | dictCrcError (port : Nat)
  /-- ENTRY_WRITE: A complete write replaces the value of an entry that has no row of its own, after the checks of R439. (R432) -/
  | entryWrite (f : DictFrame)
  /-- FLAG_CLEAR: A write to CTX_FLAGS clears the flags written as one, and a flag set on the same cycle stays set. (R61) -/
  | flagClear (f : DictFrame)
  /-- CONTEXT_CREATE: A request for STOPPED on a FREE context creates it with empty queues and a zero flag word. (R230) -/
  | contextCreate (f : DictFrame)
  /-- CONTEXT_ACTIVATE: A request for ACTIVE on a STOPPED context makes its queue heads eligible to issue. (R230) -/
  | contextActivate (f : DictFrame)
  /-- CONTEXT_STOP: A request for STOPPED on an ACTIVE context enters STOPPING, and no new descriptor issues. (R230) -/
  | contextStop (f : DictFrame)
  /-- CONTEXT_STOPPED: The last issued or parked operation of a STOPPING context completes, and the context becomes STOPPED. (R230) -/
  | contextStopped (ctx : Nat)
  /-- CONTEXT_DESTROY: A request for FREE on a STOPPED context frees its tensors, rings, graphs, sync objects, triggers, queues and events. (R232) -/
  | contextDestroy (f : DictFrame)
  /-- QUEUE_RESUME: QUEUE_CONTROL RESUME discards the halted head of a queue and resumes it. (R228) -/
  | queueResume (f : DictFrame)
  /-- QUEUE_RESET: QUEUE_CONTROL RESET discards every descriptor of a stopped context's queue and sets the tail to the head. (R228) -/
  | queueReset (f : DictFrame)
  /-- GRAPH_ADMIT: An LC_GRAPH write with ADMIT = 1 runs the admission conditions and places, or refuses, the graph. (R239) -/
  | graphAdmit (f : DictFrame)
  /-- GRAPH_WITHDRAW: An LC_GRAPH write with ADMIT = 0 withdraws the graph at the end of its current window's last reservation. (R244) -/
  | graphWithdraw (f : DictFrame)
  /-- HAUL_TAGS_PEAK_RESET: Any write to HAUL_TAGS_PEAK sets it to zero. (R191) -/
  | haulTagsPeakReset (f : DictFrame)
  /-- LOCKSTEP_ARM: Writing 1 to LOCKSTEP_ENABLE arms lock-step for the named context. (R277) -/
  | lockstepArm (f : DictFrame)
  /-- LOCKSTEP_DISABLE: Writing 0 to LOCKSTEP_ENABLE sets the state to OFF, so that a halted LAYER completes on the next activation. (R282) -/
  | lockstepDisable (f : DictFrame)
  /-- BENCH_GATE_REQUEST: A request for GATED on a READY bench enters DRAINING, remaps its logical bench and starts write-back. (R96) -/
  | benchGateRequest (f : DictFrame)
  /-- BENCH_READY_REQUEST: A request for READY on a GATED bench powers it up under R462. (R96) -/
  | benchReadyRequest (f : DictFrame)
  /-- BENCH_DRAIN_COMPLETE: A DRAINING bench finishes its operations, write-back and copies, becomes GATED and switches its domain off. (R96) -/
  | benchDrainComplete (bench : Nat)
  /-- PAIR_GATE_REQUEST: A request for GATED on a signal-core pair gates it, or enters DRAINING while an instance runs. (R348) -/
  | pairGateRequest (f : DictFrame)
  /-- PAIR_READY_REQUEST: A request for READY on a gated signal-core pair powers it up. (R348) -/
  | pairReadyRequest (f : DictFrame)
  /-- PAIR_DRAIN_COMPLETE: The running instances of a DRAINING pair finish, and the pair becomes GATED. (R348) -/
  | pairDrainComplete (pair : Nat)
  /-- DOMAIN_GATE_REQUEST: A request for GATED on another power domain is accepted under that domain's conditions. (R461) -/
  | domainGateRequest (f : DictFrame)
  /-- DOMAIN_READY_REQUEST: A request for READY on another power domain powers it up and zeroes its memories. (R461) -/
  | domainReadyRequest (f : DictFrame)
  /-- CHANNEL_DRAIN_REQUEST: A request for DRAINING on a READY LPDDR6 channel starts moving its pages to other channels. (R215) -/
  | channelDrainRequest (f : DictFrame)
  /-- PAGE_MOVE_COMPLETE: One page of a draining channel has moved, and after the last page the channel becomes WORKED_OUT. (R216) -/
  | pageMoveComplete (chan : Nat) (target : Reading Nat)
  /-- LINK_START_REQUEST: A request for RUNNING on a STOPPED JESD204C link enters ALIGNING. (R291) -/
  | linkStartRequest (f : DictFrame)
  /-- LINK_STOP_REQUEST: A request for STOPPED stops a JESD204C link. (R291) -/
  | linkStopRequest (f : DictFrame)
  /-- STREAM_STOP_REQUEST: A dictionary request for STOPPED on an ARMED or RUNNING stream stops it at its next slot boundary. (R311) -/
  | streamStopRequest (f : DictFrame)
  /-- LISTENER_STOP_REQUEST: A dictionary request for STOPPED stops a long-range listener. (R363) -/
  | listenerStopRequest (f : DictFrame)
  /-- PORT_DOWN_REQUEST: A request for DOWN takes an Ethernet port out of service. (R406) -/
  | portDownRequest (f : DictFrame)
  /-- PORT_READY_REQUEST: A request for READY brings an Ethernet port into service. (R406) -/
  | portReadyRequest (f : DictFrame)
  /-- MASK_REARM: Writing 0x01 to MASK_REARM ends the MUTE of a transmit stream. (R299) -/
  | maskRearm (f : DictFrame)
  /-- DPD_SWAP: Writing 0x01 to DPD_SWAP requests a coefficient bank swap, accepted only with PIN = 1. (R301) -/
  | dpdSwap (f : DictFrame)
  /-- ATTEST_REQUEST: A nonce written to ATTEST_REQUEST starts one signed attestation report. (R457) -/
  | attestRequest (f : DictFrame)
  /-- ATTEST_REPORT_READY: A signed report completes and replaces ATTEST_REPORT. (R457) -/
  | attestReportReady
  /-- SELFTEST_START: A SELFTEST_REQUEST with a test number is checked and starts that test on the selected units. (R475) -/
  | selftestStart (f : DictFrame)
  /-- SELFTEST_CANCEL: A SELFTEST_REQUEST with TEST 0x00 cancels the running test at the next unit boundary. (R476) -/
  | selftestCancel (f : DictFrame)
  /-- SELFTEST_UNIT_COMPLETE: A unit finishes a test, is retested after a failure, and its result is recorded; a second failure retires it. (R479) -/
  | selftestUnitComplete (r : TestRun)
  /-- SYNC_DECLARE: SYNC DECLARE gives an object a class, an owner and an initial value. (R510) -/
  | syncDeclare (q : Nat)
  /-- SYNC_SET: SYNC SET writes a new counter value, which may lower it. (R510) -/
  | syncSet (q : Nat)
  /-- SYNC_WAIT: SYNC WAIT completes when its counter reaches the target by the deadline. (R252) -/
  | syncWait (q : Nat)
  /-- SYNC_HOLD: SYNC HOLD waits until the object has no holder, then records its context as holder. (R253) -/
  | syncHold (q : Nat)
  /-- SYNC_RELEASE: SYNC RELEASE from the holder's context clears the holder. (R253) -/
  | syncRelease (q : Nat)
  /-- SYNC_UNDECLARE: SYNC UNDECLARE by the owner returns an unused object to undeclared. (R510) -/
  | syncUndeclare (q : Nat)
  /-- FENCE: FENCE covers earlier descriptors of its queue or context and completes when all of them have completed. (R255) -/
  | fence (q : Nat)
  /-- LAUNCH_AT: LAUNCH_AT issues and completes on the tick the global counter equals COUNT. (R256) -/
  | launchAt (q : Nat)
  /-- WAIT_TIMEOUT: A SYNC WAIT still short at the end of its deadline tick times out, posts WAIT_TIMEOUT and may increment TIMEOUT_OBJ. (R252) -/
  | waitTimeout (q : Nat)
  /-- BOOST_EXHAUSTED: A boost runs 16,000 ticks without the wait being met, ends, and posts BOOST_EXHAUSTED. (R254) -/
  | boostExhausted (obj : Nat)
  /-- DESCRIPTOR_COMPLETE: A descriptor has written or spoiled every output and raised every flag, so its SIGNAL increment applies and COMPLETE may be posted. (R225) -/
  | descriptorComplete (op : Nat)
  /-- RESERVATION_OPEN: At the opening tick of a reservation, BE issue stops and pre-emption requests go to the reserved engines. (R245) -/
  | reservationOpen (g : Nat) (k : Nat)
  /-- RESERVATION_END: A reservation ends, and an LC operation still running is parked with one BUDGET_OVERRUN per engine. (R243) -/
  | reservationEnd (g : Nat) (k : Nat)
  /-- PREEMPT_COMPLETE: An engine has saved cursor and state, the operation is parked, and the engine is free for the graph's ready head. (R245) -/
  | preemptComplete (op : Nat)
  /-- OPERATION_RESUME: A parked operation resumes at its cursor on a free engine of its kind outside LC reservations. (R246) -/
  | operationResume (op : Resumed)
  /-- ADMISSION_REVOKED: At the tick a revoked graph's next window would open, ADMISSION_REVOKED is posted and its parked work runs as best effort. (R244) -/
  | admissionRevoked (g : Nat)
  /-- USAGE_RATIO_HALVING: Every 2^20 ticks the best-effort usage ratios are halved. (R235) -/
  | usageRatioHalving
  /-- MATMUL: MATMUL computes D = A·W with exact pass sums, on one engine or split across logical benches. (R85) -/
  | matmul (q : Nat) (run : WorkRun)
  /-- CONV: CONV computes a two-dimensional convolution as passes over k. (R87) -/
  | convolve (q : Nat) (run : WorkRun)
  /-- VOP: VOP runs one vector-engine function over ROWS × VL elements, with an optional reduction. (R123) -/
  | vop (q : Nat) (run : WorkRun)
  /-- QUANT: QUANT quantises, quantises with given scales, gathers statistics or dequantises a tensor. (R145) -/
  | quant (q : Nat) (run : WorkRun)
  /-- LAYER: LAYER fences its context, waits for drains, computes and posts core samples, waits for lock-step, then completes. (R270) -/
  | layer (q : Nat)
  /-- LOCKSTEP_SAMPLE: A peer's lock-step sample record arrives and is compared with the local sample of the same sequence and slot. (R279) -/
  | lockstepSample (f : WtFrame)
  /-- LOCKSTEP_TIMEOUT: A LAYER waits at step 5 longer than LOCKSTEP_TIMEOUT, posts LOCKSTEP_TIMEOUT and halts the context. (R281) -/
  | lockstepTimeout
  /-- MOVE: MOVE copies a box between tensors, rings or a peer, block by block in cursor order. (R157) -/
  | move (q : Nat)
  /-- RING_CREATE: RING CREATE allocates slot storage and sets every slot EMPTY. (R166) -/
  | ringCreate (q : Nat)
  /-- RING_DESTROY: RING DESTROY frees a ring and discards slots not taken. (R166) -/
  | ringDestroy (q : Nat)
  /-- RING_RESET: RING RESET returns a ring to the state just after CREATE, keeping its parameters. (R166) -/
  | ringReset (q : Nat)
  /-- RING_SLOT_FULL: The last byte of a slot is written on the consumer's die, and the slot becomes FULL or SPOIL with its FULL increment. (R163) -/
  | ringSlotFull (ring : Nat)
  /-- RING_SLOT_EMPTY: The consumer finishes taking a slot, which returns to EMPTY with its EMPTY increment. (R163) -/
  | ringSlotEmpty (ring : Nat)
  /-- CONVEYOR_SLOT_ACCEPT: A conveyor receiver gets room and accepts a staged 64 KiB slot. (R178) -/
  | conveyorSlotAccept (op : Nat) (bench : Reading Nat)
  /-- CONVEYOR_FETCH: The conveyor fetches the next slot once its attached receivers allow, detaching any receiver at skew 2. (R179) -/
  | conveyorFetch (op : Reading Nat)
  /-- PAGE_IN_COMPLETE: The pager completes a page fetch or zero-fill, and the stalled engine resumes. (R207) -/
  | pageInComplete (op : Nat) (crc : List BlockFail)
  /-- HOST_PAGE_TIMEOUT: The host misses MEM_HOST_TIMEOUT, the page becomes SPOILED, and the reader gets spoil with an unserved-page FAULT. (R209) -/
  | hostPageTimeout (ctx : Nat) (page : Nat)
  /-- PAGE_MIGRATION: The pager migrates a page between channels or benches by itself, within the placement envelope. (R211) -/
  | pageMigration (ctx : Nat) (page : Nat) (target : Reading Nat)
  /-- ALLOC: ALLOC records the tensor's shape, assigns its virtual range, and makes pinned pages resident. (R200) -/
  | alloc (q : Nat)
  /-- FREE: FREE, after its ordered uses complete, discards every page copy and frees the range. (R201) -/
  | free (q : Nat)
  /-- SLOT_DATA: A SLOT_DATA flit is accepted and its payload written into the ring slot, with spoil marks. (R169) -/
  | slotData (dir : Dir)
  /-- SLOT_RELEASE: A SLOT_RELEASE flit tells the producer's die that a slot is EMPTY. (R169) -/
  | slotRelease (dir : Dir)
  /-- DESCRIPTOR_FLIT: A DESCRIPTOR flit delivers a descriptor, sync increment, timebase or management request to the other die. (R170) -/
  | descriptorFlit (dir : Dir)
  /-- LINK_FLIT: A LINK flit carries acknowledgements that free replay-buffer space. (R171) -/
  | linkFlit (dir : Dir)
  /-- FLIT_CRC_ERROR: A flit fails its CRC: it and later flits are discarded and a NAK is returned, and a second failure starts a retrain. (R172) -/
  | flitCrcError (dir : Dir)
  /-- ROAD_RETRAIN_COMPLETE: A retrain finishes, failing halves are worked out, the link resumes at 32 or 16 lanes and replays. (R173) -/
  | roadRetrainComplete (failing : List Nat)
  /-- LANE_LOCK: A converter lane gains sync-header and extended-multiblock lock. (R291) -/
  | laneLock (lane : Nat)
  /-- LANE_LOCK_TIMEOUT: A lane without lock after 80,000 ticks retries once, and a second failure works it out. (R292) -/
  | laneLockTimeout (lane : Nat)
  /-- LANE_LOCK_LOSS: A running lane loses lock and retries once, and a second failure works it out. (R292) -/
  | laneLockLoss (lane : Nat)
  /-- LEMC_RELEASE: At an LEMC boundary plus RELEASE, the elastic buffers release a period's data, and the link becomes RUNNING or fails RELEASE_LATE. (R289) -/
  | lemcRelease (link : Nat) (late : Option Nat)
  /-- JESD_MULTIBLOCK: A received multiblock's CRC-12 is checked: a failure spoils its samples, and two failures in a row work the lane out. (R293) -/
  | jesdMultiblock (lane : Nat) (crcOk : Bool)
  /-- RX_SAMPLE: A receive converter sample passes the NCO, halfbands and channel filter into the stream's ring and detector. (R295) -/
  | rxSample (stream : Nat) (i : Int) (qd : Int)
  /-- TX_SAMPLE_DUE: A transmit sample is due: it is read from the ring, or a zero is sent when the slot is not ready. (R312) -/
  | txSampleDue (stream : Nat)
  /-- MASK_BLOCK: A block of 512 transmit samples is checked against the spectral mask. (R298) -/
  | maskBlock (stream : Nat)
  /-- DPD_CAPTURE_START: With adaptation on, a DPD engine begins a capture at an LEMC boundary. (R302) -/
  | dpdCaptureStart (n : Nat)
  /-- DPD_CAPTURE_COMPLETE: A capture ends, is aligned and solved, and the update is written to the shadow bank with a swap request. (R302) -/
  | dpdCaptureComplete (n : Nat) (c : Nat)
  /-- DPD_BANK_SWAP: A requested swap takes effect at the first sample of a qualifying LEMC period. (R301) -/
  | dpdBankSwap (n : Nat)
  /-- FE_START: FE_START arms a STOPPED stream on its ring for a start count. (R310) -/
  | feStart (q : Nat)
  /-- STREAM_START: An armed stream reaches its start count, begins slot 0 and becomes RUNNING, and FE_START completes. (R310) -/
  | streamStart (stream : Nat)
  /-- FE_STOP: FE_STOP sets the stop count of a stream. (R311) -/
  | feStop (q : Nat)
  /-- STREAM_STOP: A stream reaches its stop point, closes its open slot and stops. (R311) -/
  | streamStop (stream : Nat)
  /-- FE_DETECT_START: FE_DETECT with ENABLE = 1 starts a detector, optionally linked to a correlator, on a ring. (R306) -/
  | feDetectStart (q : Nat)
  /-- FE_DETECT_STOP: FE_DETECT with ENABLE = 0 stops a detector. (R309) -/
  | feDetectStop (q : Nat)
  /-- NOISE_FLOOR_UPDATE: Every W samples the detector sets or updates its noise floor and re-forms its threshold within the envelope. (R306) -/
  | noiseFloorUpdate (det : Nat)
  /-- DETECTION: A candidate run reaches QUAL samples: the detector enters DETECTED and issues a record or arms its correlator. (R305) -/
  | detection (det : Nat)
  /-- HOLDOFF_END: A detector's HOLDOFF samples expire and it returns to IDLE. (R305) -/
  | holdoffEnd (det : Nat)
  /-- CORRELATOR_SEARCH_END: The correlator's search window ends, and it writes the record with the best passing alignment. (R307) -/
  | correlatorSearchEnd (corr : Nat)
  /-- SC_RUN: SC_RUN loads and starts one program instance on each of CORES signal cores. (R340) -/
  | scRun (q : Nat) (checks : List CoreFail)
  /-- NOP: Class-0 instruction with no compute, carrying its two moves. (R327) -/
  | nop (core : Nat)
  /-- VMOV: Copy VA to VD in the same form. (R327) -/
  | vmov (core : Nat)
  /-- CADD: Exact complex sample add, optionally halved, saturated to INT16. (R324) -/
  | cadd (core : Nat)
  /-- CSUB: Exact complex sample subtract, optionally halved, saturated. (R324) -/
  | csub (core : Nat)
  /-- CONJ: Negate Q of each sample, saturating −32,768. (R327) -/
  | conj (core : Nat)
  /-- PERM: Permute lanes of VA by indices in VB, writing zero with PERM_OOB for indices beyond 8. (R327) -/
  | perm (core : Nat)
  /-- BFLY: Butterfly writing VA + VB and VA − VB into two registers. (R324) -/
  | bfly (core : Nat)
  /-- WIDEN: Sign-extend samples into the integer accumulator form. (R327) -/
  | widen (core : Nat)
  /-- CMUL: Exact complex product into the integer accumulator. (R324) -/
  | cmul (core : Nat)
  /-- CMULC: Exact product by the conjugate into the integer accumulator. (R324) -/
  | cmulc (core : Nat)
  /-- CMAC: Accumulate an exact complex product, saturating at 40 bits. (R324) -/
  | cmac (core : Nat)
  /-- CMACC: Accumulate an exact product by the conjugate, saturating at 40 bits. (R324) -/
  | cmacc (core : Nat)
  /-- MAG2: Squared magnitude of each sample into the accumulator. (R327) -/
  | mag2 (core : Nat)
  /-- HADD: Exact sum of eight accumulator lanes into lane 0. (R327) -/
  | hadd (core : Nat)
  /-- RNDS: Round and shift an integer accumulator to INT16 samples with saturation. (R324) -/
  | rnds (core : Nat)
  /-- CLS: Count leading sign bits per component. (R326) -/
  | cls (core : Nat)
  /-- BEXP: Lower An to the smallest count of leading sign bits of VA. (R326) -/
  | bexp (core : Nat)
  /-- BSHL: Shift components left by An, saturating. (R326) -/
  | bshl (core : Nat)
  /-- BSHR: Shift components right by An with RNA rounding. (R326) -/
  | bshr (core : Nat)
  /-- CFADD: Add float accumulators with one rounding per component. (R325) -/
  | cfadd (core : Nat)
  /-- CFMUL: CF16 complex product rounded once to FP32 per component. (R325) -/
  | cfmul (core : Nat)
  /-- CFMAC: CF16 multiply-accumulate into the float accumulator. (R325) -/
  | cfmac (core : Nat)
  /-- CFMACC: CF16 multiply by the conjugate and accumulate into the float accumulator. (R325) -/
  | cfmacc (core : Nat)
  /-- RNDF: Convert a float accumulator to CF16 with saturation. (R325) -/
  | rndf (core : Nat)
  /-- CVTF: Convert CI16 samples exactly to a float accumulator. (R325) -/
  | cvtf (core : Nat)
  /-- LDI: Scalar load of an immediate into an address register. (R328) -/
  | ldi (core : Nat)
  /-- ADDI: Scalar add of an immediate to an address register. (R328) -/
  | addi (core : Nat)
  /-- ADD: Scalar add of address registers. (R328) -/
  | add (core : Nat)
  /-- SUB: Scalar subtract of address registers. (R328) -/
  | sub (core : Nat)
  /-- AND: Scalar bitwise AND of address registers. (R328) -/
  | and (core : Nat)
  /-- SHLI: Scalar shift left of an address register by an immediate. (R328) -/
  | shli (core : Nat)
  /-- CONTROL_NOP: Control-class instruction that does nothing. (R328) -/
  | controlNop (core : Nat)
  /-- LOOP: Start a counted, optionally rotating and pipelined loop over BODY instructions. (R330) -/
  | loop (core : Nat)
  /-- LOOP_EXIT: A loop's count of runs expires, its body ends and RRB returns to 0. (R333) -/
  | loopExit (core : Nat)
  /-- BR: Unconditional branch to a target instruction. (R328) -/
  | br (core : Nat)
  /-- BZ: Branch when An is zero. (R328) -/
  | bz (core : Nat)
  /-- BNZ: Branch when An is not zero. (R328) -/
  | bnz (core : Nat)
  /-- HALT: End the instance and close any slot it still holds. (R343) -/
  | halt (core : Nat)
  /-- CYCLE_LIMIT_REACHED: An instance's counted cycles reach CYCLE_LIMIT, and it faults with SC_CYCLE_LIMIT. (R342) -/
  | cycleLimitReached (core : Nat)
  /-- RCLAIM: Wait for the tail slot to be EMPTY, set it FILLING and map it to a window. (R334) -/
  | rclaim (core : Nat)
  /-- RPOST: Post a FILLING window slot as FULL or SPOIL and advance the tail. (R335) -/
  | rpost (core : Nat)
  /-- RTAKE: Wait for the head slot to be FULL or SPOIL, set it DRAINING and map it. (R334) -/
  | rtake (core : Nat)
  /-- RGIVE: Return a DRAINING window slot to EMPTY and advance the head. (R334) -/
  | rgive (core : Nat)
  /-- SIG: Increment a sync object after every earlier store and RPOST has completed. (R337) -/
  | sig (core : Nat)
  /-- LR_TX: LR_TX takes a modulator and a payload slot and prepares a long-range frame for a start count. (R359) -/
  | lrTx (q : Nat)
  /-- LR_FRAME_START: A modulator's frame begins at the first mix sample at or after COUNT, or later with LATE_LAUNCH. (R359) -/
  | lrFrameStart (m : Nat) (hw : HwOutcome)
  /-- LR_MIX_ENABLE: LR_MIX with ENABLE = 1 binds a mix to a transmit stream and ring. (R358) -/
  | lrMixEnable (q : Nat)
  /-- LR_MIX_DISABLE: LR_MIX with ENABLE = 0 stops the mix at its next slot boundary. (R358) -/
  | lrMixDisable (q : Nat)
  /-- MIX_SLOT_FILL: A mix fills an EMPTY slot of its stream ring with the saturated sum of the active modulators. (R358) -/
  | mixSlotFill (mix : Nat)
  /-- LR_LISTEN_START: LR_LISTEN with ENABLE = 1 starts a listener on a RUNNING receive stream. (R363) -/
  | lrListenStart (q : Nat)
  /-- LR_LISTEN_STOP: LR_LISTEN with ENABLE = 0 stops a listener and abandons its demodulations. (R363) -/
  | lrListenStop (q : Nat)
  /-- PREAMBLE_DECLARED: A search sees PRE_MIN qualifying symbol windows and takes a demodulation context, or counts a refusal. (R360) -/
  | preambleDeclared (lst sf : Nat)
  /-- DEMOD_SYMBOL: A symbol window is dechirped, transformed and decided into soft values or an identity value. (R361) -/
  | demodSymbol (dem : Nat) (hw : HwOutcome)
  /-- TR_ENC: TR_ENC encodes codewords from an input ring into an output ring. (R365) -/
  | trEnc (q : Nat)
  /-- TR_DEC: TR_DEC decodes codewords with hard or soft output. (R367) -/
  | trDec (q : Nat)
  /-- TRELLIS_CODEWORD_START: A decoder engine takes the next waiting job by class order and starts a codeword. (R369) -/
  | trellisCodewordStart (eng : Nat)
  /-- TRELLIS_CODEWORD_COMPLETE: A codeword's encoding or decoding finishes and its output slot is written. (R370) -/
  | trellisCodewordComplete (eng : Nat) (hw : HwOutcome)
  /-- PCS_LOCK_LOSS: A READY port loses PCS block lock and moves to NO_LINK. (R406) -/
  | pcsLockLoss (port : Nat)
  /-- PCS_LOCK_REGAIN: A NO_LINK port regains block lock and returns to READY. (R406) -/
  | pcsLockRegain (port : Nat)
  /-- ARP_REQUEST: The device answers ARP. (R405) -/
  | arpRequest (m : EthMeta)
  /-- NEIGHBOR_DISCOVERY: The device answers IPv6 neighbour discovery. (R405) -/
  | neighborDiscovery (m : EthMeta)
  /-- ICMP_ECHO: The device answers ICMP echo. (R405) -/
  | icmpEcho (m : EthMeta) (payload : List (BitVec 8))
  /-- UNADDRESSED_FRAME: Any other received frame, pause frames included, is discarded and counted. (R405) -/
  | unaddressedFrame (m : EthMeta)
  /-- FCS_ERROR: A frame fails its Ethernet FCS, is dropped and counted, and is recovered by re-send. (R416) -/
  | fcsError (port : Nat)
  /-- WT_CRC_ERROR: A work-transport frame fails its CRC and is discarded; a failing retry works the data port out. (R416) -/
  | wtCrcError (port : Nat)
  /-- QUEUE_WRITE: A QUEUE_WRITE frame stores descriptors at their indices in a queue. (R422) -/
  | queueWrite (f : WtFrame)
  /-- DOORBELL: A DOORBELL frame moves a queue's tail and publishes descriptors to the dispatcher. (R422) -/
  | doorbell (f : WtFrame)
  /-- TENSOR_WRITE: A TENSOR_WRITE frame writes bytes of a tensor image, completing HOST_ABSENT pages when whole. (R423) -/
  | tensorWrite (f : WtFrame)
  /-- TENSOR_READ: A TENSOR_READ frame is answered with READ_DATA holding the bytes and their spoil marks. (R422) -/
  | tensorRead (f : WtFrame)
  /-- SIGNAL: A SIGNAL frame increments a sync object after the earlier frames of its stream. (R418) -/
  | signal (f : WtFrame)
  /-- EVENT_READ: An EVENT_READ frame returns event records in READ_DATA frames. (R423) -/
  | eventRead (f : WtFrame)
  /-- EVENT_ACK: An EVENT_ACK frame frees event records below an index. (R423) -/
  | eventAck (f : WtFrame)
  /-- PEER_PUT: A PEER_PUT segment is buffered and written into a local tensor or ring. (R425) -/
  | peerPut (f : WtFrame)
  /-- PEER_GET: A PEER_GET frame is served with PEER_DATA, LC gets before BE gets. (R425) -/
  | peerGet (f : WtFrame)
  /-- PEER_DATA: A PEER_DATA reply lands in the local destination and frees its remote tag. (R188) -/
  | peerData (f : WtFrame)
  /-- WT_OPEN: An OPEN frame starts a session on a stream and ends any older one, spoiling its FILLING ring slot. (R411) -/
  | wtOpen (f : WtFrame)
  /-- WT_ACK: An ACK frame acknowledges frames cumulatively and frees credits. (R414) -/
  | wtAck (f : WtFrame)
  /-- WT_STATUS: A STATUS frame reports a refused frame, and a peer refusal faults the MOVE. (R427) -/
  | wtStatus (f : WtFrame)
  /-- RESEND_TIMEOUT: No acknowledgement within WT_RESEND_US re-sends from the oldest frame, and past the limit the endpoint becomes UNREACHABLE. (R415) -/
  | resendTimeout (ep : Nat) (lc : Bool)
  /-- SYSTEM_RING_SLOT_APPLY: The tensor-die haul engine takes an inbound system-ring slot and applies or refuses its frame. (R420) -/
  | systemRingSlotApply (lc : Reading Bool)
  /-- SYSTEM_RING_SLOT_SEND: The signal-die haul engine takes an outbound system-ring slot and sends its frame or STATUS. (R420) -/
  | systemRingSlotSend (lc : Bool)
  /-- GATE_INTERVAL_END: A gate-control interval or cycle ends, the next gate states apply, and a new list becomes operational at a cycle start. (R408) -/
  | gateIntervalEnd (port : Nat)
  /-- STREAM_GATE_INTERVAL_END: An 802.1Qci stream gate interval ends and the gate opens or closes. (R504) -/
  | streamGateIntervalEnd (gate : Nat)
  /-- CB_HISTORY_RESET: A recovery stream with no accepted frame for RESET_US resets its history. (R503) -/
  | cbHistoryReset (stream : Nat)
deriving DecidableEq, Repr

end Sys2Proof
end

