-- ==== Sys2Proof/WellFormed.lean ====
section
/-!
DEFINITION. WellFormed.lean: which commands can reach the part: every unit number names a unit that exists (R15, R22,
R160, R226, R229, R248), and every field of a frame fits its width (R412, R433).
-/
namespace Sys2Proof

/-- The ranges of what a port knows of a frame (R405): five ports, 48-bit addresses, 12-bit tag, and so on. -/
def ethOk (m : EthMeta) : Bool :=
  m.port < 5 && m.srcMac < 2 ^ 48 && m.dstMac < 2 ^ 48 && m.vlan < 4096 && m.pcp < 8 && m.srcIp < 2 ^ 128
    && m.dstIp < 2 ^ 128 && m.dscp < 64 && m.srcUdp < 65536 && m.dstUdp < 65536 && m.size < 65536
    && (match m.rtag with | some n => decide (n < 65536) | none => true)

/-- The field widths of a dictionary frame (R433). -/
def dictFrameOk (f : DictFrame) : Bool :=
  ethOk f.eth && f.version < 16 && f.resv0 < 16 && f.type < 256 && f.len < 65536 && f.session < 2 ^ 32
    && f.seq < 2 ^ 32 && f.index < 65536 && f.sub < 256 && f.resv15 < 64 && f.offset < 2 ^ 32 && f.total < 2 ^ 32 && f.abort < 2 ^ 32
    && f.resv28 < 2 ^ 32 && f.payload.length < 65536

/-- The field widths of a work-transport frame (R412). -/
def wtFrameOk (f : WtFrame) : Bool :=
  ethOk f.eth && f.version < 16 && f.resv0 < 8 && f.type < 256 && f.session < 2 ^ 32 && f.seq < 2 ^ 32
    && f.ackSeq < 2 ^ 32 && f.resv16 < 64 && f.ctx < 256 && f.freed < 65536 && f.arg0 < 2 ^ 32 && f.arg1 < 2 ^ 64
    && f.spoil < 2 ^ 64 && f.box.length ≤ 32 && f.payload.length < 65536

/-- The units a start-up names: 32 lanes in each direction, eight channels, five ports (R192, R173, R404). -/
def bootOk (b : Boot) : Bool :=
  b.laneFail.all (· < 64) && b.chanFail.all (· < 8) && b.portLock.all (· < 5)

/-- The benches that a compute command's checks name (R15). -/
def workRunOk (r : WorkRun) : Bool := r.transients.all (· < 16) && (match r.failed with | some b => decide (b < 16) | none => true)

/-- The blocks of a page and the pages of a context (R196, R198). -/
def failsOk (l : List BlockFail) : Bool := l.all fun f => f.page < 2 ^ 32 && f.block < 1024

/-- Whether a command's operands name units that exist. -/
def wellFormed (i : Instr) : Bool :=
  match i with
  | .porstAssert => true
  | .porstRelease b => bootOk b
  | .resetAssert => true
  | .resetRelease b => bootOk b
  | .pwrGoodLow => true
  | .pllLockLoss => true
  | .rsaIdentityDerived _ => true
  | .thermalTrip => true
  | .thermalThrottle _ => true
  | .powerEstimate _ _ _ => true
  | .avsLoopUpdate _ _ _ => true
  | .supplyUndervoltage _ => true
  | .supplyRecovery _ => true
  | .powerUpComplete => true
  | .idcode => true
  | .bypass => true
  | .boundaryScan => true
  | .timebaseDescriptor => true
  | .tbIncrementWrite f => dictFrameOk f
  | .tbSlewWrite f => dictFrameOk f
  | .slewComplete => true
  | .tbStepWrite f => dictFrameOk f
  | .tbTodSetWrite f => dictFrameOk f
  | .timebaseAlign f => dictFrameOk f
  | .timebaseFreeRun f => dictFrameOk f
  | .secondRollover => true
  | .ptpMessageReceived m => ethOk m.eth
  | .ptpMessageTransmit _ => true
  | .tuArm q => q < 16384
  | .tuDisarm q => q < 16384
  | .triggerIncrementSend trig => trig < 64
  | .triggerFiring trig => trig < 64
  | .pulseEnd out => out < 3
  | .captureEdge cap => cap < 2
  | .sysrefEdge => true
  | .dictOpen f => dictFrameOk f
  | .dictClose f => dictFrameOk f
  | .dictRead f => dictFrameOk f
  | .dictWriteSegment f => dictFrameOk f
  | .dictSessionTimeout _ => true
  | .dictCrcError port => port < 5
  | .entryWrite f => dictFrameOk f
  | .flagClear f => dictFrameOk f
  | .contextCreate f => dictFrameOk f
  | .contextActivate f => dictFrameOk f
  | .contextStop f => dictFrameOk f
  | .contextStopped ctx => ctx < 64
  | .contextDestroy f => dictFrameOk f
  | .queueResume f => dictFrameOk f
  | .queueReset f => dictFrameOk f
  | .graphAdmit f => dictFrameOk f
  | .graphWithdraw f => dictFrameOk f
  | .haulTagsPeakReset f => dictFrameOk f
  | .lockstepArm f => dictFrameOk f
  | .lockstepDisable f => dictFrameOk f
  | .benchGateRequest f => dictFrameOk f
  | .benchReadyRequest f => dictFrameOk f
  | .benchDrainComplete bench => bench < 16
  | .pairGateRequest f => dictFrameOk f
  | .pairReadyRequest f => dictFrameOk f
  | .pairDrainComplete pair => pair < 16
  | .domainGateRequest f => dictFrameOk f
  | .domainReadyRequest f => dictFrameOk f
  | .channelDrainRequest f => dictFrameOk f
  | .pageMoveComplete chan target => chan < 8 && target.of < 8 && failsOk target.fails
  | .linkStartRequest f => dictFrameOk f
  | .linkStopRequest f => dictFrameOk f
  | .streamStopRequest f => dictFrameOk f
  | .listenerStopRequest f => dictFrameOk f
  | .portDownRequest f => dictFrameOk f
  | .portReadyRequest f => dictFrameOk f
  | .maskRearm f => dictFrameOk f
  | .dpdSwap f => dictFrameOk f
  | .attestRequest f => dictFrameOk f
  | .attestReportReady => true
  | .selftestStart f => dictFrameOk f
  | .selftestCancel f => dictFrameOk f
  | .selftestUnitComplete r => r.chanFail.all (· < 8)
  | .syncDeclare q => q < 16384
  | .syncSet q => q < 16384
  | .syncWait q => q < 16384
  | .syncHold q => q < 16384
  | .syncRelease q => q < 16384
  | .syncUndeclare q => q < 16384
  | .fence q => q < 16384
  | .launchAt q => q < 16384
  | .waitTimeout q => q < 16384
  | .boostExhausted obj => obj < 8192
  | .descriptorComplete _ => true
  | .reservationOpen g k => g < 64 && k < 4
  | .reservationEnd g k => g < 64 && k < 4
  | .preemptComplete _ => true
  | .operationResume r => workRunOk r.run
  | .admissionRevoked g => g < 64
  | .usageRatioHalving => true
  | .matmul q r => q < 16384 && workRunOk r
  | .convolve q r => q < 16384 && workRunOk r
  | .vop q r => q < 16384 && workRunOk r
  | .quant q r => q < 16384 && workRunOk r
  | .layer q => q < 16384
  | .lockstepSample f => wtFrameOk f
  | .lockstepTimeout => true
  | .move q => q < 16384
  | .ringCreate q => q < 16384
  | .ringDestroy q => q < 16384
  | .ringReset q => q < 16384
  | .ringSlotFull ring => ring < 4096
  | .ringSlotEmpty ring => ring < 4096
  | .conveyorSlotAccept _ bench => bench.of < 16 && failsOk bench.fails
  | .conveyorFetch op => failsOk op.fails
  | .pageInComplete _ crc => failsOk crc
  | .hostPageTimeout ctx page => ctx < 64 && page < 2 ^ 32
  | .pageMigration ctx page target => ctx < 64 && page < 2 ^ 32 && target.of < 24 && failsOk target.fails
  | .alloc q => q < 16384
  | .free q => q < 16384
  | .slotData _ => true
  | .slotRelease _ => true
  | .descriptorFlit _ => true
  | .linkFlit _ => true
  | .flitCrcError _ => true
  | .roadRetrainComplete failing => failing.all (· < 64)
  | .laneLock lane => lane < 32
  | .laneLockTimeout lane => lane < 32
  | .laneLockLoss lane => lane < 32
  | .lemcRelease link _ => link < 8
  | .jesdMultiblock lane _ => lane < 32
  | .rxSample stream _ _ => stream < 80
  | .txSampleDue stream => stream < 64
  | .maskBlock stream => stream < 64
  | .dpdCaptureStart n => n < 16
  | .dpdCaptureComplete n _ => n < 16
  | .dpdBankSwap n => n < 16
  | .feStart q => q < 16384
  | .streamStart stream => stream < 128
  | .feStop q => q < 16384
  | .streamStop stream => stream < 128
  | .feDetectStart q => q < 16384
  | .feDetectStop q => q < 16384
  | .noiseFloorUpdate det => det < 64
  | .detection det => det < 64
  | .holdoffEnd det => det < 64
  | .correlatorSearchEnd corr => corr < 16
  | .scRun q _ => q < 16384
  | .nop core => core < 32
  | .vmov core => core < 32
  | .cadd core => core < 32
  | .csub core => core < 32
  | .conj core => core < 32
  | .perm core => core < 32
  | .bfly core => core < 32
  | .widen core => core < 32
  | .cmul core => core < 32
  | .cmulc core => core < 32
  | .cmac core => core < 32
  | .cmacc core => core < 32
  | .mag2 core => core < 32
  | .hadd core => core < 32
  | .rnds core => core < 32
  | .cls core => core < 32
  | .bexp core => core < 32
  | .bshl core => core < 32
  | .bshr core => core < 32
  | .cfadd core => core < 32
  | .cfmul core => core < 32
  | .cfmac core => core < 32
  | .cfmacc core => core < 32
  | .rndf core => core < 32
  | .cvtf core => core < 32
  | .ldi core => core < 32
  | .addi core => core < 32
  | .add core => core < 32
  | .sub core => core < 32
  | .and core => core < 32
  | .shli core => core < 32
  | .controlNop core => core < 32
  | .loop core => core < 32
  | .loopExit core => core < 32
  | .br core => core < 32
  | .bz core => core < 32
  | .bnz core => core < 32
  | .halt core => core < 32
  | .cycleLimitReached core => core < 32
  | .rclaim core => core < 32
  | .rpost core => core < 32
  | .rtake core => core < 32
  | .rgive core => core < 32
  | .sig core => core < 32
  | .lrTx q => q < 16384
  | .lrFrameStart m _ => m < 64
  | .lrMixEnable q => q < 16384
  | .lrMixDisable q => q < 16384
  | .mixSlotFill mix => mix < 16
  | .lrListenStart q => q < 16384
  | .lrListenStop q => q < 16384
  | .preambleDeclared lst sf => lst < 64 && sf ≤ 12
  | .demodSymbol dem _ => dem < 256
  | .trEnc q => q < 16384
  | .trDec q => q < 16384
  | .trellisCodewordStart eng => eng < 5
  | .trellisCodewordComplete eng _ => eng < 5
  | .pcsLockLoss port => port < 5
  | .pcsLockRegain port => port < 5
  | .arpRequest m => ethOk m
  | .neighborDiscovery m => ethOk m
  | .icmpEcho m _ => ethOk m
  | .unaddressedFrame m => ethOk m
  | .fcsError port => port < 5
  | .wtCrcError port => port < 5
  | .queueWrite f => wtFrameOk f
  | .doorbell f => wtFrameOk f
  | .tensorWrite f => wtFrameOk f
  | .tensorRead f => wtFrameOk f
  | .signal f => wtFrameOk f
  | .eventRead f => wtFrameOk f
  | .eventAck f => wtFrameOk f
  | .peerPut f => wtFrameOk f
  | .peerGet f => wtFrameOk f
  | .peerData f => wtFrameOk f
  | .wtOpen f => wtFrameOk f
  | .wtAck f => wtFrameOk f
  | .wtStatus f => wtFrameOk f
  | .resendTimeout ep _ => ep < 64
  | .systemRingSlotApply lc => failsOk lc.fails
  | .systemRingSlotSend _ => true
  | .gateIntervalEnd port => port < 4
  | .streamGateIntervalEnd gate => gate < 64
  | .cbHistoryReset stream => stream < 128

end Sys2Proof
end

