-- ==== Sys2Proof/Decode.lean ====
section
/-!
DEFINITION. Decode.lean: the command that a table word spells. The table of operations gives none of its rows any bits
(the block has no instruction encoding; commands arrive as frames, descriptors, pin events and signal-core programs, whose
layouts are read where they are used), so no word spells a command.
-/
namespace Sys2Proof

/-- The command a word spells by the table's bits: none, since no row of the table has bits. -/
def decodeTableWord (_nbits _w : Nat) : Option Instr := none

end Sys2Proof
end

