-- ==== Sys2Proof/Machine/Bits.lean ====
section
/-!
DEFINITION. Machine/Bits.lean: bit fields, sign extension, byte order and sparse tables: the plain helpers every family
uses.
-/
namespace Sys2Proof.Machine

/-- Bits `[lo+w-1 : lo]` of a natural number (R4). -/
def bitsAt (x lo w : Nat) : Nat := (x / 2 ^ lo) % 2 ^ w

/-- Bit `k` of a natural number. -/
def bitAt (x k : Nat) : Bool := bitsAt x k 1 == 1

/-- A field of a descriptor: `w` bits from bit `bit` of byte `byte` on, little-endian (R5, R223). -/
def dfield (d : Desc) (byte bit w : Nat) : Nat := bitsAt d.toNat (8 * byte + bit) w

/-- A one-bit field of a descriptor. -/
def dbit (d : Desc) (byte bit : Nat) : Bool := dfield d byte bit 1 == 1

/-- The two's complement value of the low `w` bits of `x`. -/
def sext (w x : Nat) : Int :=
  let y := x % 2 ^ w
  if y < 2 ^ (w - 1) then (y : Int) else (y : Int) - (2 ^ w : Nat)

/-- The low `w` bits of an integer, as a natural number. -/
def wrapBits (w : Nat) (x : Int) : Nat := (x % ((2 ^ w : Nat) : Int)).toNat

/-- `x` held inside `[lo, hi]`. -/
def clampInt (lo hi x : Int) : Int := if x < lo then lo else if hi < x then hi else x

/-- Smallest value of a `w`-bit signed integer. -/
def intMin (w : Nat) : Int := -((2 ^ (w - 1) : Nat) : Int)
/-- Largest value of a `w`-bit signed integer. -/
def intMax (w : Nat) : Int := ((2 ^ (w - 1) : Nat) : Int) - 1

/-- `x` saturated to a `w`-bit signed integer. -/
def satInt (w : Nat) (x : Int) : Int := clampInt (intMin w) (intMax w) x

/-- Whether `x` lies outside a `w`-bit signed integer. -/
def outsideInt (w : Nat) (x : Int) : Bool := x < intMin w || intMax w < x

/-- A saturating counter of `w` bits advanced by `n`. -/
def satAdd (w x n : Nat) : Nat := min (x + n) (2 ^ w - 1)

/-- `⌈a / b⌉`. -/
def ceilDiv (a b : Nat) : Nat := (a + b - 1) / b

/-- The little-endian value of a list of bytes. -/
def leNat : Bytes → Nat
  | [] => 0
  | b :: bs => b.toNat + 256 * leNat bs

/-- The `n` low bytes of `x`, least significant first. -/
def leBytes : Nat → Nat → Bytes
  | 0, _ => []
  | n + 1, x => BitVec.ofNat 8 x :: leBytes n (x / 256)

/-- The big-endian value of a list of bytes. -/
def beNat (bs : Bytes) : Nat := leNat bs.reverse

/-- The `n` low bytes of `x`, most significant first. -/
def beBytes (n x : Nat) : Bytes := (leBytes n x).reverse

/-- `n` zero bytes. -/
def zeros (n : Nat) : Bytes := List.replicate n 0

/-- Bytes `[off, off + n)` of an image; bytes beyond its end read zero. -/
def slice (bs : Bytes) (off n : Nat) : Bytes :=
  let t := (bs.drop off).take n
  t ++ zeros (n - t.length)

/-- Big-endian field of `n` bytes at `off`. -/
def beAt (bs : Bytes) (off n : Nat) : Nat := beNat (slice bs off n)

/-- Little-endian field of `n` bytes at `off`. -/
def leAt (bs : Bytes) (off n : Nat) : Nat := leNat (slice bs off n)

/-- `bs` with `new` written over the bytes from `off` on (within its length). -/
def overlay (bs : Bytes) (off : Nat) (new : Bytes) : Bytes :=
  let pre := slice bs 0 off
  pre ++ new ++ bs.drop (off + new.length)

/-- The record of unit `k`, or the default. -/
def tget {α : Type} (d : α) : Tab α → Nat → α
  | [], _ => d
  | (j, a) :: t, k => if j = k then a else tget d t k

/-- Whether unit `k` is listed. -/
def thas {α : Type} : Tab α → Nat → Bool
  | [], _ => false
  | (j, _) :: t, k => j == k || thas t k

/-- The record of unit `k` if it is listed. -/
def tfind {α : Type} : Tab α → Nat → Option α
  | [], _ => none
  | (j, a) :: t, k => if j = k then some a else tfind t k

/-- `t` with unit `k` at `a`, in rising number. -/
def tset {α : Type} : Tab α → Nat → α → Tab α
  | [], k, a => [(k, a)]
  | (j, b) :: t, k, a =>
    if k < j then (k, a) :: (j, b) :: t
    else if k = j then (k, a) :: t
    else (j, b) :: tset t k a

/-- `t` without unit `k`. -/
def tdel {α : Type} : Tab α → Nat → Tab α
  | [], _ => []
  | (j, b) :: t, k => if j = k then tdel t k else (j, b) :: tdel t k

/-- `t` with unit `k` changed by `f`, from its default where it is not listed. -/
def tmod {α : Type} (d : α) (t : Tab α) (k : Nat) (f : α → α) : Tab α := tset t k (f (tget d t k))

/-- Element `k` of a list, or the default. -/
def lget {α : Type} (d : α) (l : List α) (k : Nat) : α := l.getD k d

/-- `l` with element `k` replaced (unchanged where it has no element `k`). -/
def lset {α : Type} (l : List α) (k : Nat) (a : α) : List α := l.set k a

/-- `l` with element `k` changed by `f`. -/
def lmod {α : Type} (l : List α) (k : Nat) (f : α → α) : List α := l.modify k f

/-- The smallest `k < n` with `p k`. -/
def firstBelow (n : Nat) (p : Nat → Bool) : Option Nat := (List.range n).find? p

/-- The number of `k < n` with `p k`. -/
def countBelow (n : Nat) (p : Nat → Bool) : Nat := ((List.range n).filter p).length

/-- The bytes of an ASCII text. -/
def ascii (t : String) : Bytes := t.toList.map fun c => BitVec.ofNat 8 c.toNat

/-- Insertion of `k` into a rising list without repeats. -/
def insSorted : List Nat → Nat → List Nat
  | [], k => [k]
  | j :: t, k => if k < j then k :: j :: t else if k = j then j :: t else j :: insSorted t k

/-- Removal of `k` from a list. -/
def delSorted (l : List Nat) (k : Nat) : List Nat := l.filter (· ≠ k)

end Sys2Proof.Machine
end

