-- ==== Sys2Proof/Machine/Flags.lean ====
section
/-!
DEFINITION. Machine/Flags.lean: the bits of the sticky flag word (R9) and how flags gather in it.
-/
namespace Sys2Proof.Machine

/-- A set of flags, in the layout of the sticky flag word (R9). -/
abbrev Flags := BitVec 32

/-- `INVALID`, bit 0 (R9). -/
def fInvalid : Flags := 0x001#32
/-- `OVERFLOW`, bit 1 (R9). -/
def fOverflow : Flags := 0x002#32
/-- `UNDERFLOW`, bit 2 (R9). -/
def fUnderflow : Flags := 0x004#32
/-- `INEXACT`, bit 3 (R9). -/
def fInexact : Flags := 0x008#32
/-- `FLUSHED`, bit 4 (R9). -/
def fFlushed : Flags := 0x010#32
/-- `SATURATED`, bit 5 (R9). -/
def fSaturated : Flags := 0x020#32
/-- `PERM_OOB`, bit 6 (R9). -/
def fPermOob : Flags := 0x040#32
/-- `ROW_EMPTY`, bit 7 (R9). -/
def fRowEmpty : Flags := 0x080#32
/-- `DIV_BY_ZERO`, bit 8 (R9). -/
def fDivByZero : Flags := 0x100#32

/-- No flag. -/
def fNone : Flags := 0#32

/-- `f` if `b`, else no flag. -/
def fWhen (b : Bool) (f : Flags) : Flags := if b then f else fNone

/-- The union of a list of flag sets: flags are sticky (R9). -/
def fAll : List Flags → Flags
  | [] => fNone
  | f :: fs => f ||| fAll fs

/-- A software write of `w` to a flag word: each flag written as one is cleared, the others stay, and reserved bits
read zero (R9, R11, R61). -/
def flagClear (old : Flags) (w : Nat) : Flags := old &&& ~~~(BitVec.ofNat 32 w) &&& 0x1FF#32

end Sys2Proof.Machine
end

