-- ==== Sys2Proof/Machine/Num.lean ====
section
/-!
DEFINITION. Machine/Num.lean: the number formats, rounding, special values, flush-to-zero and conversions of chapter 02
(R32 to R57). Every finite value is an exact fraction; a result is rounded once, where the spec rounds it.
-/
namespace Sys2Proof.Machine

/-- The ten element formats (R64). -/
inductive Fmt where
  | int4 | int8 | int16 | int32 | f8 | fp16 | bf16 | fp32 | ci16 | cf16
deriving DecidableEq, Repr

/-- The format of a 4-bit code; codes 0xA to 0xF are reserved (R64). -/
def fmtOf (c : Nat) : Option Fmt :=
  match c with
  | 0 => some .int4 | 1 => some .int8 | 2 => some .int16 | 3 => some .int32 | 4 => some .f8
  | 5 => some .fp16 | 6 => some .bf16 | 7 => some .fp32 | 8 => some .ci16 | 9 => some .cf16
  | _ => none

/-- Width of an element in bits (R32 to R37). -/
def fmtBits : Fmt → Nat
  | .int4 => 4 | .int8 => 8 | .int16 => 16 | .int32 => 32 | .f8 => 8
  | .fp16 => 16 | .bf16 => 16 | .fp32 => 32 | .ci16 => 32 | .cf16 => 32

/-- Whether the format is an integer format of one component (R32). -/
def fmtIsInt : Fmt → Bool
  | .int4 | .int8 | .int16 | .int32 => true
  | _ => false

/-- Whether the format is a floating format of one component (R35). -/
def fmtIsFloat : Fmt → Bool
  | .f8 | .fp16 | .bf16 | .fp32 => true
  | _ => false

/-- Whether the format is complex (R34, R35). -/
def fmtIsComplex : Fmt → Bool
  | .ci16 | .cf16 => true
  | _ => false

/-- The format of one component of an element. -/
def fmtComp : Fmt → Fmt
  | .ci16 => .int16
  | .cf16 => .fp16
  | f => f

/-- Parameters of a floating format: exponent bits, mantissa bits, bias, and whether the top exponent field is
reserved (R35). -/
structure FloatP where
  ebits : Nat
  mbits : Nat
  bias : Nat
  special : Bool
deriving DecidableEq, Repr

/-- The parameters of R35; an integer format answers those of FP32 and is never asked. -/
def floatP : Fmt → FloatP
  | .f8 => ⟨4, 3, 7, false⟩
  | .fp16 => ⟨5, 10, 15, true⟩
  | .bf16 => ⟨8, 7, 127, true⟩
  | .cf16 => ⟨5, 10, 15, true⟩
  | _ => ⟨8, 23, 127, true⟩

/-- Width of a floating format. -/
def fpWidth (p : FloatP) : Nat := 1 + p.ebits + p.mbits

/-- A value: a NaN, an infinity, or a finite magnitude `n / d` with its sign (a zero keeps its sign). -/
inductive Val where
  | nan (signalling : Bool)
  | inf (neg : Bool)
  | fin (neg : Bool) (n d : Nat)
deriving DecidableEq, Repr

/-- A rounded result in its destination's bits, with the flags it raised. -/
structure FR where
  bits : Nat
  flags : Flags
deriving DecidableEq, Repr

/-- An exact fraction `num / den`, `den` positive. -/
structure Frac where
  num : Int
  den : Nat
deriving DecidableEq, Repr

/-- The fraction of an integer. -/
def fracInt (x : Int) : Frac := ⟨x, 1⟩
/-- Sum of fractions; equal or dividing denominators are kept, so that sums of binary fractions stay small. -/
def fracAdd (a b : Frac) : Frac :=
  if a.den = b.den then ⟨a.num + b.num, a.den⟩
  else if b.den % a.den = 0 then ⟨a.num * (b.den / a.den : Nat) + b.num, b.den⟩
  else if a.den % b.den = 0 then ⟨a.num + b.num * (a.den / b.den : Nat), a.den⟩
  else ⟨a.num * b.den + b.num * a.den, a.den * b.den⟩
/-- Negation. -/
def fracNeg (a : Frac) : Frac := ⟨-a.num, a.den⟩
/-- Difference. -/
def fracSub (a b : Frac) : Frac := fracAdd a (fracNeg b)
/-- Product. -/
def fracMul (a b : Frac) : Frac := ⟨a.num * b.num, a.den * b.den⟩
/-- Quotient by a non-zero fraction. -/
def fracDiv (a b : Frac) : Frac :=
  if b.num < 0 then ⟨-(a.num * b.den), a.den * b.num.natAbs⟩ else ⟨a.num * b.den, a.den * b.num.natAbs⟩
/-- Order. -/
def fracLt (a b : Frac) : Bool := a.num * b.den < b.num * a.den
/-- Equality of value. -/
def fracEq (a b : Frac) : Bool := a.num * b.den == b.num * a.den

/-- The fraction of a finite value (0 for the others). -/
def valFrac : Val → Frac
  | .fin neg n d => ⟨if neg then -(n : Int) else n, d⟩
  | _ => ⟨0, 1⟩

/-- The value of a fraction, a zero taking the sign given. -/
def fracVal (r : Frac) (zneg : Bool) : Val :=
  if r.num = 0 then .fin zneg 0 1 else .fin (r.num < 0) r.num.natAbs r.den

/-- Whether a value is a NaN. -/
def valNan : Val → Bool
  | .nan _ => true
  | _ => false
/-- Whether a value is a signalling NaN. -/
def valSnan : Val → Bool
  | .nan s => s
  | _ => false
/-- Whether a value is infinite. -/
def valInf : Val → Bool
  | .inf _ => true
  | _ => false
/-- Whether a value is a zero. -/
def valZero : Val → Bool
  | .fin _ n _ => n == 0
  | _ => false
/-- The sign of a value (false for a NaN). -/
def valNeg : Val → Bool
  | .nan _ => false
  | .inf s => s
  | .fin s _ _ => s
/-- Negation: the sign is flipped, a NaN stays. -/
def valFlip : Val → Val
  | .nan s => .nan s
  | .inf s => .inf (!s)
  | .fin s n d => .fin (!s) n d
/-- +0. -/
def valZeroP : Val := .fin false 0 1

/-- `⌊log2 (n / d)⌋` for positive `n` and `d`. -/
def lg2 (n d : Nat) : Int :=
  let a := Nat.log2 n
  let b := Nat.log2 d
  if b ≤ a then
    if d * 2 ^ (a - b) ≤ n then ((a - b : Nat) : Int) else ((a - b : Nat) : Int) - 1
  else
    if d ≤ n * 2 ^ (b - a) then -((b - a : Nat) : Int) else -((b - a : Nat) : Int) - 1

/-- `n / d` rounded to the nearest integer: RNA, or RNE when `rne` (R38). -/
def roundQ (rne : Bool) (n d : Nat) : Nat :=
  let q := n / d
  let r := n % d
  if d < 2 * r || (2 * r == d && (!rne || q % 2 == 1)) then q + 1 else q

/-- `n / d × 2^(−q)` rounded to the nearest integer. -/
def roundAt (rne : Bool) (n d : Nat) (q : Int) : Nat :=
  if 0 ≤ q then roundQ rne n (d * 2 ^ q.toNat) else roundQ rne (n * 2 ^ (-q).toNat) d

/-- Whether `m × 2^q` is exactly `n / d`. -/
def exactAt (m : Nat) (q : Int) (n d : Nat) : Bool :=
  if 0 ≤ q then m * 2 ^ q.toNat * d == n else m * d == n * 2 ^ (-q).toNat

/-- Smallest normal exponent. -/
def fpEmin (p : FloatP) : Int := 1 - (p.bias : Int)
/-- Largest exponent of a finite value. -/
def fpEmax (p : FloatP) : Int := (if p.special then (2 ^ p.ebits - 2 : Nat) else (2 ^ p.ebits - 1 : Nat)) - (p.bias : Int)

/-- Sign bit. -/
def fpSign (p : FloatP) (neg : Bool) : Nat := if neg then 2 ^ (p.ebits + p.mbits) else 0
/-- A zero of the sign given; F8 has no negative zero (R36). -/
def fpZero (p : FloatP) (neg : Bool) : Nat := if p.special then fpSign p neg else 0
/-- An infinity; a format without infinities gives its largest finite value (R37). -/
def fpInf (p : FloatP) (neg : Bool) : Nat :=
  if p.special then fpSign p neg + (2 ^ p.ebits - 1) * 2 ^ p.mbits
  else fpSign p neg + (2 ^ (p.ebits + p.mbits) - 1)
/-- The largest finite value of a sign (R37). -/
def fpMax (p : FloatP) (neg : Bool) : Nat :=
  if p.special then fpSign p neg + (2 ^ p.ebits - 1) * 2 ^ p.mbits - 1
  else fpSign p neg + (2 ^ (p.ebits + p.mbits) - 1)
/-- The canonical NaN (R13). -/
def fpNan (p : FloatP) : Nat :=
  if p.special then (2 ^ p.ebits - 1) * 2 ^ p.mbits + 2 ^ (p.mbits - 1) else 2 ^ (p.ebits + p.mbits)

/-- The code of a finite magnitude `m × 2^q` that the format holds. -/
def fpCode (p : FloatP) (neg : Bool) (m : Nat) (q : Int) : Nat :=
  if m = 0 then fpZero p neg
  else
    let m' := if 2 ^ (p.mbits + 1) ≤ m then m / 2 else m
    let q' := if 2 ^ (p.mbits + 1) ≤ m then q + 1 else q
    if m' < 2 ^ p.mbits then fpSign p neg + m'
    else fpSign p neg + (q' + p.mbits + p.bias).toNat * 2 ^ p.mbits + (m' - 2 ^ p.mbits)

/-- How a rounded result is delivered: `strict` mode, flush-to-zero, and whether a finite value beyond an FP16 or BF16
range saturates (fast-mode conversion, R51). -/
structure RMode where
  strict : Bool
  ftz : Bool
  sat : Bool
deriving DecidableEq, Repr

/-- The one rounding of a finite exact magnitude `n / d` to a floating format (R38, R43, R46, R49, R51, R52, R54). -/
def fpRound (p : FloatP) (rne : Bool) (mode : RMode) (neg : Bool) (n d : Nat) : FR :=
  if n = 0 then ⟨fpZero p neg, fNone⟩
  else
    let e := lg2 n d
    let qu := e - p.mbits
    let mu := roundAt rne n d qu
    let eu := if 2 ^ (p.mbits + 1) ≤ mu then e + 1 else e
    let beyond := fpEmax p < eu
    let tiny := eu < fpEmin p
    if beyond then
      if p.special && !(mode.sat && !mode.strict) then
        ⟨fpInf p neg, fOverflow ||| fWhen mode.strict fInexact⟩
      else ⟨fpMax p neg, fSaturated ||| fWhen mode.strict fInexact⟩
    else
      let q := max qu (fpEmin p - p.mbits)
      let m := roundAt rne n d q
      let inexact := !exactAt m q n d
      let sub := m != 0 && m < 2 ^ p.mbits
      if sub && mode.ftz && !mode.strict then ⟨fpZero p neg, fFlushed⟩
      else ⟨fpCode p neg m q, fWhen (mode.strict && inexact) (fInexact ||| fWhen tiny fUnderflow)⟩

/-- Decoding of a floating code (R35, R36, R37). -/
def fpDecode (p : FloatP) (x : Nat) : Val :=
  let s := bitAt x (p.ebits + p.mbits)
  let e := bitsAt x p.mbits p.ebits
  let m := bitsAt x 0 p.mbits
  if p.special && e == 2 ^ p.ebits - 1 then
    if m == 0 then .inf s else .nan (m < 2 ^ (p.mbits - 1))
  else if !p.special && s && e == 0 && m == 0 then .nan false
  else
    let mant := if e == 0 then m else m + 2 ^ p.mbits
    let q : Int := (if e == 0 then 1 else (e : Int)) - p.bias - p.mbits
    if 0 ≤ q then .fin s (mant * 2 ^ q.toNat) 1 else .fin s mant (2 ^ (-q).toNat)

/-- Whether a floating code is a subnormal number. -/
def fpSubnormal (p : FloatP) (x : Nat) : Bool := bitsAt x p.mbits p.ebits == 0 && bitsAt x 0 p.mbits != 0

/-- The value of an integer code of `w` bits. -/
def intVal (w x : Nat) : Val :=
  let v := sext w x
  .fin (v < 0) v.natAbs 1

/-- The value of a one-component element, without any flush. -/
def decodeVal (f : Fmt) (x : Nat) : Val :=
  if fmtIsFloat f || f == .cf16 then fpDecode (floatP f) x
  else intVal (match f with | .ci16 => 16 | g => fmtBits g) x

/-- The value of an input element: flushed in fast mode when the context's flush-to-zero bit is set (R49). -/
def inVal (f : Fmt) (strict ftz : Bool) (x : Nat) : Val × Flags :=
  if (fmtIsFloat f || f == .cf16) && !strict && ftz && fpSubnormal (floatP f) x then
    (.fin ((floatP f).special && bitAt x (fmtBits (fmtComp f) - 1)) 0 1, fFlushed)
  else (decodeVal f x, fNone)

/-- Conversion of a value to an integer of `w` bits: RNA in both modes, saturating (R39, R51, R52, R54). -/
def toInt (w : Nat) (strict : Bool) (v : Val) : FR :=
  match v with
  | .nan _ => ⟨0, fInvalid⟩
  | .inf s => ⟨wrapBits w (if s then intMin w else intMax w), fSaturated⟩
  | .fin s n d =>
    let m := roundQ false n d
    let x : Int := if s then -(m : Int) else m
    if outsideInt w x then ⟨wrapBits w (satInt w x), fSaturated ||| fWhen strict fInexact⟩
    else ⟨wrapBits w x, fWhen (strict && m * d != n) fInexact⟩

/-- Conversion of a value to a floating format (R39, R50 to R54). Any result in F8, an element-wise one in strict mode too,
rounds RNA. DEDUCED (R39's row of quantising conversions names every conversion to F8, R104 gives arithmetic results RNE in
strict mode): assumption log 115. -/
def toFloat (f : Fmt) (strict ftz : Bool) (v : Val) : FR :=
  let p := floatP f
  match v with
  | .nan sig => ⟨fpNan p, fWhen (strict && sig) fInvalid⟩
  | .inf s => ⟨fpInf p s, fWhen (!p.special) fSaturated⟩
  | .fin s n d => fpRound p (strict && f != .f8) ⟨strict, ftz, f != .fp32⟩ s n d

/-- Conversion of a value to a one-component format (R39, R50 to R54). -/
def convert (f : Fmt) (strict ftz : Bool) (v : Val) : FR :=
  if fmtIsInt f then toInt (fmtBits f) strict v else toFloat (fmtComp f) strict ftz v

/-- FP32 of a value, as an arithmetic result (R40, R43, R46). -/
def toFp32 (strict ftz : Bool) (v : Val) : FR := toFloat .fp32 strict ftz v

/-- The value of an FP32 code. -/
def fp32Val (x : Nat) : Val := fpDecode (floatP .fp32) x

/-- FP32 addition in the mode given: RNA with +0 for an exact zero sum in fast mode, RNE with the IEEE sign in strict
mode (R40, R43, R44, R46, R69). -/
def fp32Add (strict ftz : Bool) (a b : Val) : FR :=
  let snan := fWhen (strict && (valSnan a || valSnan b)) fInvalid
  match a, b with
  | .nan _, _ => ⟨fpNan (floatP .fp32), snan⟩
  | _, .nan _ => ⟨fpNan (floatP .fp32), snan⟩
  | .inf s, .inf t => if s == t then ⟨fpInf (floatP .fp32) s, fNone⟩ else ⟨fpNan (floatP .fp32), fInvalid⟩
  | .inf s, _ => ⟨fpInf (floatP .fp32) s, fNone⟩
  | _, .inf t => ⟨fpInf (floatP .fp32) t, fNone⟩
  | x, y =>
    let r := fracAdd (valFrac x) (valFrac y)
    let zneg := strict && valZero x && valZero y && valNeg x && valNeg y
    toFp32 strict ftz (fracVal r zneg)

/-- One strict-mode fused multiply-add `a·b + c`, rounded RNE to FP32 (R45, R46, R56). -/
def fmaStrict (a b c : Val) : FR :=
  let qnan := fpNan (floatP .fp32)
  let snan := fWhen (valSnan a || valSnan b || valSnan c) fInvalid
  let bad := (valInf a && valZero b) || (valZero a && valInf b)
  let psign := valNeg a != valNeg b
  if bad then ⟨qnan, fInvalid⟩
  else if valNan a || valNan b || valNan c then ⟨qnan, snan⟩
  else if valInf a || valInf b then
    match c with
    | .inf t => if t == psign then ⟨fpInf (floatP .fp32) t, fNone⟩ else ⟨qnan, fInvalid⟩
    | _ => ⟨fpInf (floatP .fp32) psign, fNone⟩
  else
    match c with
    | .inf t => ⟨fpInf (floatP .fp32) t, fNone⟩
    | _ =>
      let pr := fracMul (valFrac a) (valFrac b)
      let r := fracAdd pr (valFrac c)
      let zneg := pr.num == 0 && valZero c && psign && valNeg c
      toFp32 true false (fracVal r zneg)

end Sys2Proof.Machine
end

