-- ==== Sys2Proof/Machine/Dot.lean ====
section
/-!
DEFINITION. Machine/Dot.lean: the dot products of chapters 02 and 03: exact passes of 128 k-steps in fast mode, FMA
chains in strict mode, saturating integer passes, and the split of a reduction across logical benches (R42 to R48,
R65 to R70).
-/
namespace Sys2Proof.Machine

/-- An exact sum in units of 2^−298, in which every product of two floating inputs is an integer, with what the
column foot learns of special products (R42, R69). -/
structure FoldAcc where
  sum : Int
  nan : Bool
  invalid : Bool
  pinf : Bool
  ninf : Bool
  flags : Flags
deriving DecidableEq, Repr

/-- The empty pass. -/
def foldAcc0 : FoldAcc := ⟨0, false, false, false, false, fNone⟩

/-- A finite value in units of 2^−149. -/
def fix149 : Val → Int
  | .fin s n d => let m : Int := ((n * 2 ^ 149 / d : Nat) : Int); if s then -m else m
  | _ => 0

/-- One product taken into a fast-mode pass (R42, R56, R69). -/
def foldProduct (acc : FoldAcc) (a w : Val) : FoldAcc :=
  if valNan a || valNan w then { acc with nan := true }
  else if (valInf a && valZero w) || (valZero a && valInf w) then { acc with invalid := true }
  else
    let neg := valNeg a != valNeg w
    if valInf a || valInf w then
      if neg then { acc with ninf := true } else { acc with pinf := true }
    else
      let p := fix149 a * fix149 w
      if 2 ^ 426 ≤ p.natAbs then
        if neg then { acc with ninf := true, flags := acc.flags ||| fOverflow }
        else { acc with pinf := true, flags := acc.flags ||| fOverflow }
      else if p ≠ 0 ∧ p.natAbs < 2 ^ 138 then { acc with flags := acc.flags ||| fUnderflow }
      else { acc with sum := acc.sum + p }

/-- The products of one pass. -/
def foldPass (ps : List (Val × Val)) : FoldAcc := ps.foldl (fun acc p => foldProduct acc p.1 p.2) foldAcc0

/-- The pass partial: the exact pass sum rounded once, RNA, to FP32 (R42 to R44, R49, R55, R56). -/
def passPartial (ftz : Bool) (acc : FoldAcc) : FR :=
  let clash := acc.pinf && acc.ninf && !acc.nan
  let fl := acc.flags ||| fWhen (acc.invalid || clash) fInvalid
  if acc.nan || acc.invalid || (acc.pinf && acc.ninf) then ⟨fpNan (floatP .fp32), fl⟩
  else if acc.pinf then ⟨fpInf (floatP .fp32) false, fl⟩
  else if acc.ninf then ⟨fpInf (floatP .fp32) true, fl⟩
  else
    let r := toFp32 false ftz (fracVal ⟨acc.sum, 2 ^ 298⟩ false)
    ⟨r.bits, fl ||| r.flags⟩

/-- `xs` cut into pieces of `n`, the last one shorter; `fuel` bounds the number of pieces. -/
def chunks {α : Type} (n : Nat) : Nat → List α → List (List α)
  | 0, _ => []
  | _ + 1, [] => []
  | fuel + 1, x :: xs => (x :: xs).take n :: chunks n fuel ((x :: xs).drop n)

/-- The number of ranges a reduction of `passes` passes is split into (R68). -/
def splitRanges (ksplit : Bool) (benches passes : Nat) : Nat := if ksplit then min benches passes else 1

/-- Range `j` of `S`: passes `⌊P·j/S⌋` to `⌊P·(j+1)/S⌋ − 1` (R68). -/
def rangeOf {α : Type} (ps : List α) (S j : Nat) : List α :=
  let lo := ps.length * j / S
  let hi := ps.length * (j + 1) / S
  (ps.drop lo).take (hi - lo)

/-- One step of an accumulation: a pass added to the accumulator, or one fused multiply-add of a chain. It takes the code
of the accumulator and gives the next one with the flags that the step raises (R59), and it knows whether a block it reads
is spoil (R83). -/
structure AccStep where
  run : Nat → FR
  spoil : Bool

/-- Steps run one after the other on an accumulator. -/
def runSteps (start : FR) (ss : List AccStep) : FR :=
  ss.foldl (fun acc s => let r := s.run acc.bits; ⟨r.bits, acc.flags ||| r.flags⟩) start

/-- An FP32 addition to the accumulator, rounded RNA (R66). -/
def addFp32 (ftz : Bool) (acc p : FR) : FR :=
  let r := fp32Add false ftz (fp32Val acc.bits) (fp32Val p.bits)
  ⟨r.bits, acc.flags ||| p.flags ||| r.flags⟩

/-- An integer saturated to INT32, with `SATURATED` when it was outside (R48). -/
def sat32 (x : Int) : Int × Flags := (satInt 32 x, fWhen (outsideInt 32 x) fSaturated)

/-- An addition to an INT32 accumulator, saturated (R48, R66). -/
def addInt32 (acc p : FR) : FR :=
  let r := sat32 (sext 32 acc.bits + sext 32 p.bits)
  ⟨wrapBits 32 r.1, acc.flags ||| p.flags ||| r.2⟩

/-- The steps of a fast-mode floating accumulation: one for each pass of 128 k-steps, `perK` products a k-step (1, or 2 for
a complex component), with the spoil of each k-step (R42, R47, R65, R66). -/
def fastSteps (ftz : Bool) (perK : Nat) (ps : List (Val × Val)) (fl : List Flags) (sp : List Bool) : List AccStep :=
  let n := sp.length + 1
  ((chunks (128 * perK) (ps.length + 1) ps).zip ((chunks 128 n fl).zip (chunks 128 n sp))).map fun c =>
    { run := fun acc => addFp32 ftz ⟨acc, fAll c.2.1⟩ (passPartial ftz (foldPass c.1)), spoil := c.2.2.any fun b => b }

/-- The steps of an integer accumulation: one for each pass, summed exactly and saturated once (R48, R65, R66, R70). -/
def intSteps (perK : Nat) (ts : List Int) (sp : List Bool) : List AccStep :=
  ((chunks (128 * perK) (ts.length + 1) ts).zip (chunks 128 (sp.length + 1) sp)).map fun c =>
    { run := fun acc => addInt32 ⟨acc, fNone⟩ ⟨wrapBits 32 (sat32 c.1.sum).1, (sat32 c.1.sum).2⟩, spoil := c.2.any fun b => b }

/-- The steps of a strict-mode chain: one fused multiply-add for each product in increasing `k` (R45, R47). -/
def strictSteps (perK : Nat) (ps : List (Val × Val)) (fl : List Flags) (sp : List Bool) : List AccStep :=
  ps.zipIdx.map fun p =>
    { run := fun acc => let r := fmaStrict p.1.1 p.1.2 (fp32Val acc); ⟨r.bits, r.flags ||| lget fNone fl (p.2 / perK)⟩,
      spoil := lget false sp (p.2 / perK) }

/-- A strict-mode chain of fused multiply-adds in increasing `k` (R45). -/
def dotStrict (start : Val) (ps : List (Val × Val)) : FR :=
  runSteps ⟨(toFp32 false false start).bits, fNone⟩ (strictSteps 1 ps [] [])

/-- The results of the ranges of a split reduction added in increasing `j` (R68). -/
def addRanges (add : FR → FR → FR) : List FR → FR
  | [] => ⟨0, fNone⟩
  | r :: rs => rs.foldl add r

/-- A whole accumulation from its start: its steps dealt over `S` ranges, of which range 0 alone starts from the start, and
the ranges' results added (R66, R68). -/
def accumulate (add : FR → FR → FR) (S : Nat) (start : FR) (ss : List AccStep) : FR :=
  addRanges add ((List.range S).map fun j => runSteps (if j = 0 then start else ⟨0, fNone⟩) (rangeOf ss S j))

/-- An integer dot product over exact terms in increasing `k`, `perK` terms for each k-step: each pass is summed
exactly and saturated once (R48, R65, R66, R68, R70). -/
def dotInt (ksplit : Bool) (benches perK : Nat) (start : Int) (ts : List Int) : Int × Flags :=
  let ss := intSteps perK ts (List.replicate (ceilDiv ts.length perK) false)
  let r := accumulate addInt32 (splitRanges ksplit benches ss.length) ⟨wrapBits 32 start, fNone⟩ ss
  (sext 32 r.bits, r.flags)

end Sys2Proof.Machine
end

