-- ==== Sys2Proof/Machine/Crc.lean ====
section
/-!
DEFINITION. Machine/Crc.lean: the check codes of the spec: CRC-16 of a memory block (R195), CRC-32 of a flit (R169),
CRC-32C of a frame (R412), CRC-64 of a core sample (R265).
-/
namespace Sys2Proof.Machine

/-- One shift of a `w`-bit CRC register, most significant bit first. -/
def crcShift (w poly r : Nat) : Nat :=
  let top := r / 2 ^ (w - 1) % 2
  let s := r * 2 % 2 ^ w
  if top = 1 then s ^^^ poly else s

/-- `n` shifts. -/
def crcShifts (w poly : Nat) : Nat → Nat → Nat
  | 0, r => r
  | n + 1, r => crcShifts w poly n (crcShift w poly r)

/-- A CRC without reflection over bytes in order. -/
def crcMsb (w poly init : Nat) (bs : Bytes) : Nat :=
  bs.foldl (fun r b => crcShifts w poly 8 (r ^^^ (b.toNat * 2 ^ (w - 8)))) init

/-- One shift of a reflected CRC register. -/
def crcShiftR (poly r : Nat) : Nat := if r % 2 = 1 then r / 2 ^^^ poly else r / 2

/-- `n` reflected shifts. -/
def crcShiftsR (poly : Nat) : Nat → Nat → Nat
  | 0, r => r
  | n + 1, r => crcShiftsR poly n (crcShiftR poly r)

/-- CRC-16 of a memory block and its spoil byte (R195). -/
def crc16 (bs : Bytes) : Nat := crcMsb 16 0x8BB7 0 bs

/-- CRC-32 of a flit (R169). -/
def crc32 (bs : Bytes) : Nat := crcMsb 32 0x04C11DB7 0xFFFFFFFF bs ^^^ 0xFFFFFFFF

/-- CRC-32C of a frame (R412): polynomial 0x1EDC_6F41 reflected. -/
def crc32c (bs : Bytes) : Nat :=
  bs.foldl (fun r b => crcShiftsR 0x82F63B78 8 (r ^^^ b.toNat)) 0xFFFFFFFF ^^^ 0xFFFFFFFF

/-- CRC-64 of a core sample (R265). -/
def crc64 (bs : Bytes) : Nat := crcMsb 64 0x42F0E1EBA9EA3693 0 bs

end Sys2Proof.Machine
end

