-- ==== Sys2Proof/Machine/State.lean ====
section
/-!
DEFINITION. Machine/State.lean: the whole state of the block as plain data. `State` holds the queue of waiting commands
(first in, first out), what the trust rules protect, and the device itself (`Dev`), whose parts follow the subsystems of
R15. A table that does not list a unit holds that unit's default (its reset value). Inventory: INVENTORY.md, '## State'.
-/
namespace Sys2Proof.Machine
open Sys2Proof

/-- Why a step stops. -/
inductive Fault where
  /-- Raised by every meaning whose command names a unit, ball, lane, stream or field value that the device does not
  have (`WellFormed` is false of it): no such command can reach the part. Safe: assumption log 4. -/
  | noSuchUnit
deriving DecidableEq, Repr

/-- Why a command has no meaning here. -/
inductive Refusal where
  /-- Raised only by an arm of `exec` whose row has no meaning yet, under the row's mnemonic. Safe. -/
  | notModelled (mnemonic : String)
deriving DecidableEq, Repr

/-- A state register of the arbiter: generation and state (R95, R177, R215, R229, R442). -/
structure GenSt where
  gen : Nat
  st : Nat
deriving DecidableEq, Repr

/-- Page states (R206). -/
inductive PageSt where
  | untouched | hostAbsent | memory | shared | dirty | lost | spoiled
deriving DecidableEq, Repr

/-- One page of one tensor: its state, the LPDDR6 channel assigned, the benches with a copy and with dirty blocks (masks),
the copies whose frame a latency-critical fault took (R203, R205), whether it counts as written (R208), the tick of its outstanding `PAGE_REQUEST`, and the blocks the host has supplied
while it is HOST_ABSENT (R423). -/
structure Page where
  st : PageSt
  chan : Option Nat
  copies : Nat
  dirty : Nat
  lcFrames : Nat
  written : Bool
  req : Option Nat
  got : Nat
deriving DecidableEq, Repr

/-- An allocated tensor, as recorded at its ALLOC (R200, R508). -/
structure Tensor where
  fmt : Nat
  dims : List Nat
  base : Nat
  pages : Nat
  size : Nat
  host : Bool
  pinMask : Nat
  pinMem : Bool
  freeze : Bool
deriving DecidableEq, Repr

/-- The memory system (chapter 07). Tensors and pages are keyed `ctx·2^32 + number`; bytes are keyed
`ctx·2^48 + virtual address`, spoil marks by that key divided by 64; a byte that is not listed reads as zero. -/
structure MemSt where
  cells : List Host.Cell
  spoil : List Nat
  tensors : Tab Tensor
  pages : Tab Page
  chans : List GenSt
  ceil : List Nat
  crcTransients : List Nat
  chanPages : Nat
  rate : Nat
  softFaults : Nat
  hardFaults : Nat
  hostTimeout : Nat
  migrateFreeze : Bool
  policyClamps : Nat
  clamping : List (Nat × Nat × Nat)
  rotation : Nat
  down : Bool
deriving DecidableEq, Repr

/-- A resident context: its state register, its entries (R60, R219, R261), its flag word, its event queue (R257) and
what best-effort scheduling counts for it (R235). -/
structure Ctx where
  reg : GenSt
  qbase : Nat
  qcount : Nat
  lcq : Nat
  depth : Nat
  weight : Nat
  share : Nat
  evqDepth : Nat
  evqDropped : Nat
  table : Bytes
  numeric : Nat
  flags : BitVec 32
  floor : Nat
  ceiling : Nat
  evFirst : Nat
  evs : List Bytes
  evLost : Bool
  usage : List Nat
  lastQ : List Nat
deriving DecidableEq, Repr

/-- A hardware queue: descriptors by index modulo 2^32, head, tail, halt (R226 to R228, R422, R509); the covering set of
a FENCE or LAYER at its head once its covering tick has come (R255, R270); whether the boost of the head's wait has run
out (R254); the tick on which a LAYER at its head entered step 5 of R270, or a WAIT at its head ran past its deadline (R252). -/
structure Queue where
  descs : Tab Desc
  head : Nat
  tail : Nat
  halted : Bool
  cover : Option (List Nat)
  boosted : Bool
  mark : Option Nat
deriving DecidableEq, Repr

/-- A sync object (R248 to R253). -/
structure Sync where
  declared : Bool
  cls : Nat
  owner : Nat
  value : Nat
  holder : Option Nat
  holderLc : Bool
deriving DecidableEq, Repr

/-- A latency-critical graph slot: its record (R237), its status (R240), its placement per kind, the placement it
had before and the first window of the new one (R27), the tick of its admission, a withdrawal that waits for its window's end, and the tick on which it was revoked
(R244). -/
structure Graph where
  rcd : Bytes
  st : Nat
  reason : Nat
  place : List (List Nat)
  old : List (List Nat)
  newFrom : Nat
  admitAt : Nat
  leaving : Bool
  revokedIn : Option Nat
deriving DecidableEq, Repr

/-- An open reservation of a graph's kind: its window, its end and its engines (R238, R243). -/
structure Resv where
  graph : Nat
  kind : Nat
  window : Nat
  till : Nat
  engines : List Nat
deriving DecidableEq, Repr

/-- Engine kinds: the four that admission reserves (R241), and the others. -/
inductive EngKind where
  | bench | vec | quant | core | haul | mem | disp | fe | lr | trellis | time
deriving DecidableEq, Repr

/-- How far an issued operation has come. -/
inductive OpPhase where
  /-- Its pages are not all resident: it stalls (R207). -/
  | stalled
  /-- It moves slot by slot, segment by segment or layer step by layer step. -/
  | moving
  /-- A compute operation whose work stands at a cursor (R92, R128, R149). -/
  | running
  /-- Every output is written or marked spoil; it waits for its completion (R225). -/
  | done
deriving DecidableEq, Repr

/-- One value of an operation's running state: the accumulator or FMA chain of an output in a range (R66, R92), an element
of a reduction or row that is under way (R128), or a group's running maximum (R149), with its spoil. -/
structure Held where
  key : Nat
  code : Nat
  spoil : Bool
deriving DecidableEq, Repr

/-- The processing elements of one partition of a bench array (R62, R73): the stationary tiles that their active and shadow
registers hold, as the operation and the pass-step, and the selector, which equals the epoch tag last seen. -/
structure PeSt where
  active : Option (Nat × Nat)
  shadow : Option (Nat × Nat)
  selector : Bool
deriving DecidableEq, Repr

/-- An operation issued to an engine: issued, running, stalled or parked (R225, R245). A compute operation holds its cursor,
one for each range of its reduction, its running state, and the array state saved with them (R92, R128, R149); every
operation holds the 64-byte output blocks it writes and those it has not wholly written yet (R82), and the benches whose frames
hold its running state (R203, R245). A MOVE holds its cursor, the bytes it has read or sent for (`pos`), those its source ring
or its peer has given (`got`), and those written at its destination (`landed`; R153, R158, R182). A parked operation has left
its engines; of a signal-core program, the cores whose instances are parked are `away`, and it counts as parked while any is
(R345, R346). -/
structure Op where
  desc : Desc
  queue : Nat
  idx : Nat
  ctx : Nat
  lc : Bool
  graph : Nat
  kind : EngKind
  units : List Nat
  phase : OpPhase
  parked : Bool
  away : List Nat
  run : WorkRun
  cur : List Nat
  held : List Held
  pes : List PeSt
  spoilSeen : Bool
  blocks : List Nat
  left : List Nat
  scratch : List Nat
  issued : Nat
  occ : Nat
  needs : List (Nat × Nat)
  pos : Nat
  got : Nat
  landed : Nat
  spoilRest : Bool
  cut : Option Nat
  outs : List (Nat × Nat)
deriving DecidableEq, Repr

/-- A boost in progress, with the descriptors that wait: each a queue and its index (R254). -/
structure Boost where
  holder : Nat
  obj : Nat
  start : Nat
  waiters : List (Nat × Nat)
deriving DecidableEq, Repr

/-- The dispatcher (chapter 08). -/
structure DispSt where
  ctxs : Tab Ctx
  queues : Tab Queue
  syncs : Tab Sync
  graphs : Tab Graph
  resv : List Resv
  ops : Tab Op
  nextOp : Nat
  boosts : List Boost
  lcFrame : Nat
  lcCap : Nat
  syncSelect : Nat
  preemptions : Nat
  boostsBegun : Nat
  boostsExhausted : Nat
  lateLaunches : Nat
  halvedAt : Nat
deriving DecidableEq, Repr

/-- Benches, vector engines and quantisation units (R95, R97, R130, R151). -/
structure CompSt where
  bench : List GenSt
  map : List Nat
  benchCycles : List Nat
  benchTransients : List Nat
  vecCycles : List Nat
  vecTransients : List Nat
  quantCycles : List Nat
  quantTransients : List Nat
  /-- The processing elements of each partition: four a bench (R62, R73, R76). -/
  pe : List PeSt
  /-- Logical benches that wait to return to their re-powered bench, with the contexts still to complete a LAYER (R96). -/
  returning : List (Nat × List Nat)
deriving DecidableEq, Repr

/-- Ring slot states (R162). -/
inductive SlotSt where
  | empty | filling | full | draining | spoil
deriving DecidableEq, Repr

/-- What serves a side of a ring (R160, R334, and the engines of chapters 10, 12 and 15); a MOVE serves a side while it
is the oldest operation on it. -/
inductive Agent where
  /-- A program instance: 32 times its SC_RUN's operation, plus its index. -/
  | core (n : Nat)
  | rx (stream : Nat)
  | tx (stream : Nat)
  | mix (n : Nat)
  | listener (n : Nat)
  | detector (n : Nat)
  | modulator (n : Nat)
  | job (n : Nat)
  | put (endpoint : Nat) (lc : Bool)
  | get (endpoint : Nat) (lc : Bool)
deriving DecidableEq, Repr

/-- A ring (R160 to R168). -/
structure Ring where
  ctx : Nat
  lc : Bool
  bench : Nat
  slots : Nat
  blocks : Nat
  prodDie : Nat
  consDie : Nat
  rt : Bool
  fullEn : Bool
  fullObj : Nat
  emptyEn : Bool
  emptyObj : Nat
  dlPeriod : Nat
  dlBase : Nat
  head : Nat
  tail : Nat
  count : Nat
  taken : Nat
  slotSt : List SlotSt
  fullAt : List Nat
  prod : Option Agent
  cons : Option Agent
  /-- The producer has finished the slot at the tail, and its last flit is on the road. -/
  posted : Bool
  /-- The consumer has finished the slot at the head, and its SLOT_RELEASE is on the road. -/
  given : Bool
  /-- Bytes of the FILLING slot that a signal core has stored in the staging buffer, and the flits of it already sent
  (R335). -/
  staged : List Nat
  sent : List Nat
  faulted : Bool
deriving DecidableEq, Repr

/-- An increment that a time trigger sends: its trigger, its object, the context that armed it, and the firing tick it is
stamped with (R397). -/
structure TrigInc where
  trig : Nat
  obj : Nat
  inc : Nat
  ctx : Nat
  tick : Nat
deriving DecidableEq, Repr

/-- What a haul-road flit carries (R169, R170). -/
inductive Payload where
  | slotData (ring slot idx : Nat) (last spoil : Bool) (bytes : Bytes)
  | slotRelease (ring slot : Nat)
  | syncInc (obj inc ctx : Nat) (tag queue op idx : Nat)
  | ringInc (ring obj : Nat)
  | descriptor (x : Desc)
  | preempt (core tick : Nat)
  | complete (ctx queue idx : Nat) (x : Desc)
  | request (index sub : Nat)
  | answer (index sub : Nat)
  | trigInc (i : TrigInc)
  | timebase (count : Nat)
  | sysData (out lc : Bool) (num idx : Nat)
  | sysRelease (out lc : Bool) (num : Nat)
deriving DecidableEq, Repr

/-- A flit: class and payload. -/
structure Flit where
  lc : Bool
  pay : Payload
  image : Bytes
deriving DecidableEq, Repr

/-- One direction of the haul road (R169 to R175): flits waiting in order, the places of the receive buffer in use by each
class, the next sequence number, the replay buffer,
the sequence number refused by the receiver, and whether that flit has failed exactly once. -/
structure RoadDir where
  wait : List Flit
  lcUsed : Nat
  beUsed : Nat
  seq : Nat
  replay : List (Nat × Flit)
  refused : Option Nat
  failed : Bool
  retrain : Bool
deriving DecidableEq, Repr

/-- A conveyor transfer's progress (R178 to R180): its operation, slot count, slots fetched, the slots in its staging buffer
(bytes with the marks of their blocks), slots accepted per receiver, and the detached receivers with their first missed slot. -/
structure Conv where
  op : Nat
  total : Nat
  fetched : Nat
  staged : List (Nat × List (BitVec 8 × Bool))
  accepted : Tab Nat
  detached : Tab Nat
deriving DecidableEq, Repr

/-- Haul engines, rings, haul road and conveyor (chapter 06). Slot bytes are keyed `ring·2^24 + slot·2^16 + byte`, slot
spoil marks by that key divided by 64. -/
structure HaulSt where
  rings : Tab Ring
  cells : List Host.Cell
  spoil : List Nat
  st : RoadDir
  ts : RoadDir
  lanes : List GenSt
  roadLanes : Nat
  roadLatency : Nat
  replays : Nat
  retrains : Nat
  blocks : List Nat
  tagsPeak : List Nat
  misses : Nat
  deadlineMisses : Nat
  convs : List Conv
deriving DecidableEq, Repr

/-- A lock-step sample held for comparison: sequence, slot, sample, index, out count, spoil blocks, logical benches. -/
structure LsSample where
  lseq : Nat
  slot : Nat
  sample : Nat
  index : Nat
  outCount : Nat
  spoilN : Nat
  lbench : Nat
deriving DecidableEq, Repr

/-- Lock-step (R276 to R282). -/
structure LockSt where
  enable : Bool
  peer : Nat
  ctx : Nat
  peerCtx : Nat
  timeout : Nat
  state : Nat
  first : Bytes
  lseq : Nat
  mine : List LsSample
  theirs : List LsSample
  compared : List (Nat × Nat)
  mismatch : List Nat
deriving DecidableEq, Repr
/-- A time trigger (R395 to R399): its TU_ARM, the next firing's number k, firings since arming, its arming tick, whether
the next firing's increment has been sent ahead, and whether its undeclared object has been reported (R510). -/
structure Trigger where
  armed : Bool
  ctx : Nat
  tag : Nat
  queue : Nat
  event : Bool
  out : Nat
  objEn : Bool
  obj : Nat
  inc : Nat
  first : Nat
  period : Nat
  repeats : Nat
  pulse : Nat
  k : Nat
  firings : Nat
  armedAt : Nat
  sent : Bool
  faulted : Bool
deriving DecidableEq, Repr

/-- An edge capture (R401): the record of the last edge, the edges seen, the count of the last edge recorded. -/
structure Capture where
  rcd : Bytes
  edges : Nat
  last : Option Nat
deriving DecidableEq, Repr

/-- A pulse on a time output: ball 0 TU_OUT0, 1 TU_OUT1, 2 TU_PPS, with its first tick and the tick after its last. -/
structure Pulse where
  out : Nat
  start : Nat
  till : Nat
deriving DecidableEq, Repr

/-- A PTP message that the engine sends (R391, R394): kind, sequence number, transport, two-step flag, the timestamp it carries
as seconds and nanoseconds, correctionField in 2^−16 ns, whether its UDP checksum is zero, and an Announce's data set. -/
structure PtpSent where
  kind : PtpKind
  seqId : Nat
  transport : Nat
  twoStep : Bool
  sec : Nat
  ns : Nat
  corr : Int
  zeroSum : Bool
  ann : Option PtpAnn
deriving DecidableEq, Repr

/-- The PTP engine (R391 to R394): its entries, and the times of the exchange in progress in 2^−16 ns: t1 and t2 of the
last Sync with its correction, t3 of the last request sent, the way up that its answer gave, the responder's time of
a peer-delay exchange, the mean path delay, the requests still to answer with their times and corrections, and the best master
heard of with the tick of its last Announce. -/
structure PtpSt where
  profile : Nat
  port : Nat
  transport : Nat
  domain : Nat
  role : Nat
  oneStep : Bool
  priority : Nat
  logSync : Int
  offset : Int
  meanDelay : Nat
  updates : Nat
  syncSeq : Nat
  syncT2 : Option Int
  syncCorr : Int
  reqSeq : Nat
  reqT : Option Int
  uplink : Option Int
  peerGap : Option Int
  mean : Int
  answer : List (PtpKind × Nat × Int × Int)
  txSeq : Nat
  syncAt : Option Nat
  best : Option PtpAnn
  heard : Nat
deriving DecidableEq, Repr

/-- The time unit (chapter 14): the global counter and the tensor die's replica (R19), the time of day as seconds and
32.32 nanoseconds (R382), the increment and the step or setting that waits for the next tick (R383 to R386), the slew's offset, duration and
ticks done, the timebase register with the ticks left to an alignment (R389), triggers and increments held at the
dispatcher (R397), outputs and captures (R401). -/
structure TimeSt where
  ticks : Nat
  replica : Nat
  sec : Nat
  nano : Nat
  inc : Nat
  slew : Option (Int × Nat × Nat)
  slewRcd : Bytes
  step : Option Int
  set : Option (Nat × Nat)
  base : GenSt
  align : Option Nat
  trigs : Tab Trigger
  heldIncs : List TrigInc
  lateIncs : Nat
  pulses : List Pulse
  pps : Bytes
  caps : List Capture
  sysrefLast : Nat
  sysrefSeen : Option Nat
  ptp : PtpSt
  txLat : List Nat
  rxLat : List Nat
  asym : List Int
deriving DecidableEq, Repr

/-- A disarmed trigger. -/
def trigDefault : Trigger :=
  { armed := false, ctx := 0, tag := 0, queue := 0xFFFF, event := false, out := 0, objEn := false, obj := 0, inc := 0,
    first := 0, period := 0, repeats := 0, pulse := 0, k := 0, firings := 0, armedAt := 0, sent := false,
    faulted := false }

/-- The PTP engine at its defaults (R403). -/
def PtpSt.reset : PtpSt :=
  { profile := 0, port := 4, transport := 0, domain := 0, role := 0, oneStep := false, priority := 0x8080,
    logSync := -3, offset := 0, meanDelay := 0, updates := 0, syncSeq := 0, syncT2 := none, syncCorr := 0,
    reqSeq := 0, reqT := none, uplink := none, peerGap := none, mean := 0, answer := [], txSeq := 0, syncAt := none,
    best := none, heard := 0 }

/-- The time unit at its defaults (R388, R403). -/
def TimeSt.reset : TimeSt :=
  { ticks := 0, replica := 0, sec := 0, nano := 0, inc := 0x140000000, slew := none,
    slewRcd := List.replicate 16 0, step := none, set := none, base := ⟨0, 0⟩, align := none, trigs := [],
    heldIncs := [], lateIncs := 0, pulses := [], pps := List.replicate 8 0,
    caps := List.replicate 2 ⟨List.replicate 24 0, 0, none⟩, sysrefLast := 0, sysrefSeen := none, ptp := PtpSt.reset,
    txLat := List.replicate 5 0, rxLat := List.replicate 5 0, asym := List.replicate 5 0 }

/-- Where the device stands between reset and service (R452, R467, R495, R497). -/
inductive Phase where
  /-- Reset held, or the PLL not locked. -/
  | held
  /-- The boot halted: nothing is served (R452). -/
  | halted
  /-- Start-up is complete. -/
  | up
  /-- A thermal trip: only the management domains run (R467). -/
  | tripped
deriving DecidableEq, Repr

/-- Start-up, the boot status and the configuration record (R452 to R455, R495). -/
structure BootSt where
  phase : Phase
  failCode : Nat
  step : Nat
  slotB : Bool
  fallback : Bool
  trainedPartial : Bool
  tripped : Bool
  sigs : Nat
  lbenches : Nat
  part : Bytes
  rcd : Bytes
  body : Bytes
  fwMeasure : Bytes
  pllLocked : Bool
  thermTrip : Bool
  /-- TEST_MODE was high at the rise of PORST_N: the device stays in reset (R493). -/
  testHeld : Bool
deriving DecidableEq, Repr

/-- A unit that powers up under R462. -/
inductive PowerUnit where
  | bench (n : Nat) | pair (n : Nat) | domain (n : Nat)
deriving DecidableEq, Repr

/-- Power domains, voltage, power and temperature (R460 to R468, R487). -/
structure PwrSt where
  domains : List GenSt
  powering : List PowerUnit
  envelope : Bytes
  target : Nat
  acked : Nat
  noAck : Nat
  sensed : Nat
  temp : Int
  powerHold : Bool
  heatHold : Bool
  throttles : Nat
  current : Nat
  uv : Bool
  uvBenches : Nat
deriving DecidableEq, Repr

/-- What the trust rules protect (R453, R456, R457, R459): the two bits of `BOOT_STATUS` that attestation moves, whether
the secrets have been overwritten, whether scan is enabled, the report in progress and the last report, and the test
port's instruction and the data register it selects (R496). -/
structure Trust where
  attestReady : Bool
  idMismatch : Bool
  secretsZeroed : Bool
  scanEnabled : Bool
  signing : Option Bytes
  report : Bytes
  scanInstr : Nat
  scanData : Nat
deriving DecidableEq, Repr


/-- A complex sample: I and Q components. -/
abbrev Cplx := Int × Int

/-- A JESD204C link (R287, R291): its register, its record, the tick it began to align or its last lane locked, its locked
physical lanes, a tick of its LEMC grid, the LEMC boundary of its first released period, and the multiblocks whose CRC
failed, counted from that boundary (R293). -/
structure LinkSt where
  reg : GenSt
  rcd : Bytes
  since : Nat
  locked : List Nat
  lemc : Option Nat
  base : Nat
  badMb : List Nat
deriving DecidableEq, Repr

/-- A converter lane (R292, R293): its register, transient CRC failures, the start of its present attempt at lock and whether
that is the second one, multiblocks received, and whether the last one failed. -/
structure LaneSt where
  reg : GenSt
  transients : Nat
  since : Nat
  second : Bool
  mb : Nat
  bad : Bool
deriving DecidableEq, Repr

/-- What binds a stream: its ring, context and class, the FE_START that armed it, its tag and queue, the start count and
whether it had passed, the converter index of its start sample, the converter samples since, the stop counts of FE_STOPs
with their operations, a request to stop at the next slot boundary, whether a slot is open, and the bytes of it done
(R309 to R312). -/
structure Binding where
  ring : Nat
  ctx : Nat
  lc : Bool
  op : Option Nat
  tag : Nat
  queue : Nat
  count : Nat
  late : Bool
  start : Nat
  n : Nat
  stops : List (Nat × Nat)
  halt : Bool
  slot : Bool
  pos : Nat
deriving DecidableEq, Repr

/-- A receive stream (R289, R295, R296, R312): its register, configuration and saturations, its binding, samples dropped since
the last one written, the delay lines of its halfband stages and channel filter, newest first, and the output samples on
their way to the signal store, oldest first: sample tick, sample, whether spoil. -/
structure FeRx where
  reg : GenSt
  cfg : Bytes
  sats : Nat
  bind : Binding
  dropped : Nat
  half : List (List Cplx)
  chan : List Cplx
  line : List (Nat × Cplx × Bool)
deriving DecidableEq, Repr

/-- A transmit stream (R297 to R299, R312): as a receive stream, with the zero samples inserted, whether it starves now, its
mask record and the one that waits for the next block, violations, the tick it mutes from, the samples of the present
block, newest first, and the last converter sample sent (none where it sends nothing). -/
structure FeTx where
  reg : GenSt
  cfg : Bytes
  sats : Nat
  bind : Binding
  zeros : Nat
  starved : Bool
  half : List (List Cplx)
  shape : List Cplx
  mask : Bytes
  maskNew : Option Bytes
  violations : Nat
  muted : Option Nat
  block : List Cplx
  last : Option Cplx
deriving DecidableEq, Repr

/-- A DPD engine (R300 to R304): configuration, banks, envelope, the tick of a swap requested, saturations, its input delay
line, and a capture in progress: start tick, the samples of its input and of the observation stream, newest first, whether one
was spoil, and whether the envelope has ended it. -/
structure DpdSt where
  cfg : Bytes
  shadow : Bytes
  active : Bytes
  env : Bytes
  swap : Option Nat
  sats : Nat
  hist : List Cplx
  cap : Option Nat
  ins : List Cplx
  obs : List Cplx
  obsBad : Bool
  ended : Bool
deriving DecidableEq, Repr

/-- Energy detector states (R305). -/
inductive DetPhase where
  | idle | candidate | detected | holdoff
deriving DecidableEq, Repr

/-- An energy detector (R305, R306): configuration, envelope, N, T and its counters; what bound it; whether its window has
filled once, its state, window (newest first), samples since N was last set, run count, first candidate sample with its tick, HOLDOFF samples passed, P of the last sample
and at entry to DETECTED; and which of a noise-floor update, a detection and the end of HOLDOFF is due. -/
structure DetSt where
  cfg : Bytes
  env : Bytes
  noise : Nat
  thresh : Nat
  falseStarts : Nat
  dropped : Nat
  on : Bool
  ctx : Nat
  lc : Bool
  ring : Nat
  corr : Option Nat
  filled : Bool
  phase : DetPhase
  win : List Nat
  seen : Nat
  run : Nat
  first : Nat × Nat
  held : Nat
  p : Nat
  power : Nat
  noiseDue : Bool
  detDue : Bool
  endDue : Bool
deriving DecidableEq, Repr

/-- A correlator (R307): configuration, reference, the detector it is linked to, its history (newest first) with the number
of the newest sample, and a search in progress: the first candidate sample's number and tick, P, T and N. -/
structure CorrSt where
  cfg : Bytes
  ref : Bytes
  det : Option Nat
  hist : List (Cplx × Nat)
  newest : Nat
  search : Option (Nat × Nat × Nat × Nat × Nat)
deriving DecidableEq, Repr

/-- The converter ports and the radio front end (chapter 10). -/
structure FeSt where
  laneRate : Nat
  sysrefOffset : Nat
  drifts : Nat
  links : List LinkSt
  lanes : List LaneSt
  rx : Tab FeRx
  tx : Tab FeTx
  obs : Tab Nat
  dpd : Tab DpdSt
  det : Tab DetSt
  corr : Tab CorrSt
deriving DecidableEq, Repr

/-- A link STOPPED and disabled (R316). -/
def linkDefault : LinkSt :=
  { reg := ⟨0, 0⟩, rcd := List.replicate 24 0, since := 0, locked := [], lemc := none, base := 0, badMb := [] }
/-- A lane READY (R316). -/
def laneDefault : LaneSt := { reg := ⟨0, 1⟩, transients := 0, since := 0, second := false, mb := 0, bad := false }
/-- Nothing bound. -/
def bindDefault : Binding :=
  { ring := 0, ctx := 0, lc := false, op := none, tag := 0, queue := 0, count := 0, late := false, start := 0, n := 0,
    stops := [], halt := false, slot := false, pos := 0 }
/-- The default receive configuration: NCO 0, `DEC` 1, one tap of 0x7FFF (R316). -/
def rxCfgDefault : Bytes := [0, 0, 0, 0, 1, 0, 1, 0, 0xFF, 0x7F] ++ List.replicate 254 0
/-- The default transmit configuration: NCO 0, `INTERP` 1, `GAIN` 0x4000, one tap of 0x7FFF (R316). -/
def txCfgDefault : Bytes := [0, 0, 0, 0, 1, 0, 0, 0x40, 1, 0, 0xFF, 0x7F] ++ List.replicate 510 0
/-- The default mask: limits 0x7FFF, REPORT, `MON` 0 (R316). -/
def maskDefault : Bytes := (List.replicate 64 [0xFF, 0x7F]).flatten ++ [0, 0]
/-- A receive stream STOPPED. -/
def feRxDefault : FeRx :=
  { reg := ⟨0, 0⟩, cfg := rxCfgDefault, sats := 0, bind := bindDefault, dropped := 0, half := [[], [], []], chan := [],
    line := [] }
/-- A transmit stream STOPPED. -/
def feTxDefault : FeTx :=
  { reg := ⟨0, 0⟩, cfg := txCfgDefault, sats := 0, bind := bindDefault, zeros := 0, starved := false, half := [[], [], []],
    shape := [], mask := maskDefault, maskNew := none, violations := 0, muted := none, block := [],
    last := none }
/-- A coefficient bank with a_{0,0} = 1.0, the others 0 (R316). -/
def bankDefault : Bytes := [0, 0, 0x80, 0x3F] ++ List.replicate 444 0
/-- An unbound DPD engine (R316). -/
def dpdDefault : DpdSt :=
  { cfg := [0xFF, 1, 1, 0, 0, 0x10, 0, 0], shadow := bankDefault, active := bankDefault,
    env := [1, 0, 0, 0, 0, 0, 1, 0, 0, 0, 0x80, 0x40, 0, 0, 0, 0], swap := none, sats := 0, hist := [], cap := none,
    ins := [], obs := [], obsBad := false, ended := false }
/-- A detector at its defaults (R316). -/
def detDefault : DetSt :=
  { cfg := [0, 1, 16, 0, 0, 1, 0, 0, 8, 0, 0xDA, 0x0F], env := [0, 0, 0, 0, 0, 0, 0, 0, 0, 0, 0, 0, 0xFF, 0xFF, 0xFF, 0xFF],
    noise := 0, thresh := 0, falseStarts := 0, dropped := 0, on := false, ctx := 0, lc := false, ring := 0, corr := none,
    filled := false, phase := .idle, win := [], seen := 0, run := 0, first := (0, 0), held := 0, p := 0, power := 0, noiseDue := false,
    detDue := false, endDue := false }
/-- A correlator at its defaults (R316). -/
def corrDefault : CorrSt :=
  { cfg := [16, 0, 0, 1, 0, 0x80, 0, 0], ref := List.replicate 4096 0, det := none, hist := [], newest := 0, search := none }
/-- The front end at its defaults (R316). -/
def FeSt.reset : FeSt :=
  { laneRate := 3, sysrefOffset := 0, drifts := 0, links := List.replicate 8 linkDefault,
    lanes := List.replicate 32 laneDefault, rx := [], tx := [], obs := [], dpd := [], det := [], corr := [] }

/-- A modulator in use (R351, R358, R359): its LR_TX, its mix, whether its payload slot has been taken, the coded values of
the header and payload symbols, the mix sample its frame began at, the samples written, and its phase. -/
structure ModSt where
  op : Nat
  mix : Nat
  taken : Bool
  values : List Nat
  begun : Option Nat
  m : Nat
  phase : Nat
deriving DecidableEq, Repr

/-- A mix (R358): its register, stream, ring, context and class, the samples written since its stream started, and its
saturations. -/
structure MixSt where
  reg : GenSt
  stream : Nat
  ring : Nat
  ctx : Nat
  lc : Bool
  written : Nat
  sats : Nat
deriving DecidableEq, Repr

/-- A listener (R360, R363, R375): its register and configuration, what bound it, its counters, and the samples of its stream
since it started with their ticks, newest first. -/
structure LsnSt where
  reg : GenSt
  cfg : Bytes
  ctx : Nat
  lc : Bool
  ring : Nat
  framesOk : Nat
  headerErrors : Nat
  payloadErrors : Nat
  netRejects : Nat
  recordsDropped : Nat
  heard : List (Nat × Cplx)
deriving DecidableEq, Repr

/-- A demodulation context in use (R360 to R363): its listener, the symbol timing declared and, once the frame mark has been
heard, the frame's estimates, with its place in 1/32 chip after the listener's first sample, the symbols decided (identity,
header, payload, in order), the identity and header decided, the soft values, whether it waits for a decode, the ticks of
spoil samples, and whether a symbol held one. -/
structure DemSt where
  lsn : Nat
  sf : Nat
  found : Bool
  frameTick : Nat
  place : Nat
  cfo : Int
  snr : Int
  peak : Nat
  symbols : Nat
  netId : Nat
  header : Option (Nat × Nat × Bool)
  soft : List Int
  waiting : Bool
  badTicks : List Nat
  spoil : Bool
deriving DecidableEq, Repr

/-- The chirp modem (chapter 12). -/
structure LrSt where
  mods : Tab ModSt
  mixes : Tab MixSt
  lsns : Tab LsnSt
  dems : Tab DemSt
  refused : Nat
  framesSent : Nat
deriving DecidableEq, Repr

/-- A job of the trellis unit (R368 to R370): a descriptor's operation or a demodulation, its class, its code entry, length,
modes and codewords still to do, the soft input of an internal job, the tick it arrived, and whether a codeword of it is in an
engine now. -/
structure TrJob where
  op : Option Nat
  dem : Option Nat
  lc : Bool
  enc : Bool
  code : Bytes
  soft : Bool
  tail : Bool
  len : Nat
  left : Nat
  input : List Int
  avail : Nat
  running : Bool
deriving DecidableEq, Repr

/-- The trellis unit (chapter 12): code entries 3 to 15, jobs in order of arrival by number, the job each engine runs
(decoders 0 to 3, encoder 4), and its counters. -/
structure TrSt where
  codes : List Bytes
  jobs : Tab TrJob
  nextJob : Nat
  engines : List (Option Nat)
  cycles : List Nat
  codewords : Nat
  softSats : Nat
  transients : Nat
deriving DecidableEq, Repr

/-- A mix STOPPED. -/
def mixDefault : MixSt := { reg := ⟨0, 0⟩, stream := 0, ring := 0, ctx := 0, lc := false, written := 0, sats := 0 }
/-- The default listener configuration (R375). -/
def lsnCfgDefault : Bytes := [0, 0x40, 1, 0, 0, 0, 0, 0, 0, 0, 5, 0, 0, 8, 0, 0]
/-- A listener STOPPED. -/
def lsnDefault : LsnSt :=
  { reg := ⟨0, 0⟩, cfg := lsnCfgDefault, ctx := 0, lc := false, ring := 0, framesOk := 0, headerErrors := 0,
    payloadErrors := 0, netRejects := 0, recordsDropped := 0, heard := [] }
/-- The chirp modem at its defaults (R375). -/
def LrSt.reset : LrSt := { mods := [], mixes := [], lsns := [], dems := [], refused := 0, framesSent := 0 }

/-- A code entry with K 7, n 2 and the generators of entry 0: its period and its two masks (R364). -/
def codeK7 (p m0 m1 : Nat) : Bytes :=
  [7, 2, BitVec.ofNat 8 p, 0, 0x79, 0, 0x5B, 0, 0, 0, 0, 0, BitVec.ofNat 8 m0, 0, BitVec.ofNat 8 m1, 0, 0, 0, 0, 0]
/-- The code entries at their defaults (R364, R375). -/
def codesDefault : List Bytes := [codeK7 1 1 1, codeK7 2 1 3, codeK7 3 5 3] ++ List.replicate 13 (codeK7 1 1 1)
/-- The trellis unit at its defaults (R375). -/
def TrSt.reset : TrSt :=
  { codes := codesDefault, jobs := [], nextJob := 0, engines := List.replicate 5 none, cycles := List.replicate 4 0,
    codewords := 0, softSats := 0, transients := 0 }

/-- A work-transport frame the device sends (R412, R413). -/
structure TxFrame where
  ep : Nat
  lc : Bool
  type : Nat
  session : Nat
  seq : Nat
  ackSeq : Nat
  freed : Nat
  ackValid : Bool
  last : Bool
  ctx : Nat
  arg0 : Nat
  arg1 : Nat
  spoil : Nat
  box : Bytes
  payload : Bytes
deriving DecidableEq, Repr

/-- What a frame that the device has sent carries: a work-transport frame with its image on the wire (R5, R412), a dictionary
answer, an answer to ARP (1), neighbour discovery (2) or ICMP echo (3), or a PTP message (R391, R405, R433). -/
inductive SentBody where
  | wt (f : TxFrame) (image : Bytes)
  | dict (bytes : Bytes)
  | answer (kind : Nat) (bytes : Bytes)
  | ptp (m : PtpSent)
deriving DecidableEq, Repr

/-- A frame that the device has sent: its port, its PCP with the transmit queue of its traffic class (R407, R409), its 802.1CB
sequence number if it carries a tag (R503), and what it carries. -/
structure Sent where
  port : Nat
  pcp : Nat
  queue : Nat
  tag : Option Nat
  body : SentBody
deriving DecidableEq, Repr

/-- A frame kept until it is acknowledged: its re-sends, the tick of its last sending, and the MOVE it serves with its last
byte (R415). -/
structure Unacked where
  f : TxFrame
  resends : Nat
  tick : Nat
  op : Option (Nat × Nat)
deriving DecidableEq, Repr

/-- A stream the device sends (R411, R415, R425): its session, next sequence number, unacknowledged frames, the credits of
the peer's OPEN and its FREED count, and the put segments sent. -/
structure TxStream where
  session : Option Nat
  next : Nat
  unacked : List Unacked
  credit : Nat
  freed : Nat
  puts : Nat
deriving DecidableEq, Repr

/-- A received put segment that waits in a receive buffer until it can be written (R425): the tensor or ring it names, its
context, sequence number, index in the box, `LAST`, spoil bits, box and payload, and the bytes of it already written. -/
structure PutSeg where
  dst : Nat
  ctx : Nat
  seq : Nat
  off : Nat
  last : Bool
  spoil : Nat
  box : Bytes
  payload : Bytes
  done : Nat
deriving DecidableEq, Repr

/-- A received get of a ring that waits for its slots (R413, R424): ring, context, sequence number, index and length, and the
bytes taken so far with their spoil marks. -/
structure RingAsk where
  ring : Nat
  ctx : Nat
  seq : Nat
  off : Nat
  len : Nat
  data : List (BitVec 8 × Bool)
deriving DecidableEq, Repr

/-- A stream the device receives (R411, R414, R425): its session, the next sequence number expected, the one next to be
acknowledged, the tick of the last ACK of a later frame, put segments accepted and freed, segments that wait, gets of rings
that wait; by ring, the bytes of the put in progress that were accepted and those written into its FILLING slot, and the bytes
taken from its DRAINING slot; and the transfers of which a segment was refused (R426). -/
structure RxStream where
  session : Option Nat
  next : Nat
  done : Nat
  ackTick : Option Nat
  puts : Nat
  freed : Nat
  held : List PutSeg
  asks : List RingAsk
  fills : Tab (Nat × Nat)
  takes : Tab Nat
  broken : List (Nat × Bytes)
deriving DecidableEq, Repr

/-- An endpoint: its 48-byte entry, its state, its port, and its streams, BE first (R410, R411, R428). -/
structure Endpoint where
  rcd : Bytes
  st : Nat
  port : Nat
  rx : List RxStream
  tx : List TxStream
deriving DecidableEq, Repr

/-- A get in flight: its endpoint, class, sequence number, the MOVE and the bytes of its box (R187, R188). -/
structure GetSeg where
  ep : Nat
  lc : Bool
  seq : Nat
  op : Nat
  lo : Nat
  len : Nat
deriving DecidableEq, Repr

/-- A slot of a system ring: its route header and payload, and the MOVE it serves (R419); its number among all slots posted,
the flits of it still to arrive, and whether its consumer has given it back (R420). -/
structure SysSlot where
  type : Nat
  ctx : Nat
  ep : Nat
  last : Bool
  seq : Nat
  arg0 : Nat
  arg1 : Nat
  spoil : Nat
  box : Bytes
  payload : Bytes
  op : Option (Nat × Nat)
  num : Nat := 0
  left : Nat := 0
  ret : Bool := false
deriving DecidableEq, Repr

/-- A gate schedule as it runs: the operational list, the list that waits with its start, the entry running, the tick on
which that entry ends, the cycle's start, and the gates open (R408, R504). -/
structure GateRun where
  oper : Bytes
  admin : Option (Bytes × Nat)
  idx : Nat
  till : Nat
  start : Nat
  gates : Nat
deriving DecidableEq, Repr

/-- An Ethernet port (R405 to R409, R416, R428): its register, block lock, configuration, MAC address, counters, whether the
last work-transport or dictionary frame failed its CRC, its gates, shaper and pre-emption entries. -/
structure PortSt where
  reg : GenSt
  lock : Bool
  cfg : Bytes
  mac : Nat
  discards : Nat
  fcs : Nat
  wtTransients : Nat
  crcFailed : Bool
  dictFailed : Bool
  gcl : Bytes
  run : GateRun
  cbs : Bytes
  preempt : Bytes
deriving DecidableEq, Repr

/-- An 802.1CB record as it runs: the next sequence number to insert, the recovery vector's newest number and its history,
and the tick of the last accepted frame (R503). -/
structure CbRun where
  gen : Nat
  newest : Option Nat
  hist : List Nat
  tick : Nat
deriving DecidableEq, Repr

/-- A flow meter as it runs: committed and excess tokens in bits over 800,000, the tick they were filled to, and whether
every frame is red (R504). -/
structure MeterRun where
  ct : Nat
  et : Nat
  tick : Nat
  red : Bool
deriving DecidableEq, Repr

/-- The network ports and the work transport (chapter 15); `lastSession` is the last session number the device chose (R411). -/
structure NetSt where
  ports : List PortSt
  eps : Tab Endpoint
  resendUs : Nat
  resendLimit : Nat
  resends : Nat
  arriveDropped : Nat
  cb : Bytes
  cbRun : List CbRun
  psfp : Bytes
  psfpGates : List GateRun
  meters : List MeterRun
  blocked : List Nat
  inLc : List SysSlot
  inBe : List SysSlot
  outLc : List SysSlot
  outBe : List SysSlot
  sysNum : Nat
  gets : List GetSeg
  lastSession : Nat
  sent : List Sent
deriving DecidableEq, Repr

/-- A stream the device has not opened. -/
def txDefault : TxStream := { session := none, next := 0, unacked := [], credit := 0, freed := 0, puts := 0 }
/-- A stream no sender has opened. -/
def rxDefault : RxStream :=
  { session := none, next := 0, done := 0, ackTick := none, puts := 0, freed := 0, held := [], asks := [], fills := [],
    takes := [], broken := [] }
/-- An unused endpoint (R428). -/
def epDefault : Endpoint :=
  { rcd := List.replicate 48 0, st := 0, port := 0, rx := [rxDefault, rxDefault], tx := [txDefault, txDefault] }
/-- A schedule with every gate open (R408). -/
def gateDefault : GateRun := { oper := [], admin := none, idx := 0, till := 0, start := 0, gates := 0xFF }
/-- A port before the configuration record is loaded (R428). -/
def portDefault : PortSt :=
  { reg := ⟨0, 1⟩, lock := false, cfg := [0, 0, 0, 0, 6, 0] ++ List.replicate 34 0, mac := 0, discards := 0, fcs := 0, wtTransients := 0,
    crcFailed := false, dictFailed := false, gcl := List.replicate 16 0, run := gateDefault,
    cbs := List.replicate 64 0, preempt := List.replicate 4 0 }
/-- The network at its defaults (R428). -/
def NetSt.reset : NetSt :=
  { ports := List.replicate 5 portDefault, eps := [], resendUs := 200, resendLimit := 8, resends := 0, arriveDropped := 0,
    cb := [], cbRun := [], psfp := List.replicate 16 0, psfpGates := [], meters := [], blocked := [], inLc := [], inBe := [],
    outLc := [], outBe := [], sysNum := 0, gets := [], lastSession := 0, sent := [] }

/-- A lane of a vector register: 80 bits and a spoil bit (R321). -/
structure Lane where
  bits : BitVec 80
  spoil : Bool
deriving DecidableEq, Repr

/-- A loop that runs: its counter, first and last instruction, iteration count N, stages S, rotating registers, and the run
j (R330 to R333). -/
structure LoopSt where
  lc : Nat
  first : Nat
  last : Nat
  count : Nat
  stages : Nat
  rot : Nat
  run : Nat
deriving DecidableEq, Repr

/-- A slot mapped to a window: ring, slot, whether it is FILLING, and the 32-byte units of it that have been stored (R319,
R334, R343). -/
structure Window where
  ring : Nat
  slot : Nat
  filling : Bool
  wrote : List Nat
deriving DecidableEq, Repr

/-- A program instance on a core (R321, R340): its SC_RUN and index, code, footprints, registers, the spoil marks of address
registers, memories with their spoil blocks, loops (innermost first), rotation base, windows, the cycles that CYCLE_LIMIT
counts, the first instruction of the body in the loop cache, whether it has read spoil, and the failing memory words it has
still to read: its cycle, and whether the second read fails too (R347). -/
structure Inst where
  op : Nat
  index : Nat
  prog : Bytes
  xfoot : Nat
  yfoot : Nat
  pc : Nat
  v : List (List Lane)
  a : List (BitVec 32)
  aspoil : List Bool
  lc : List (BitVec 32)
  x : List Host.Cell
  y : List Host.Cell
  xspoil : List Nat
  yspoil : List Nat
  loops : List LoopSt
  rrb : Nat
  windows : List (Option Window)
  cycles : Nat
  limit : Nat
  cached : Option Nat
  spoilRead : Bool
  fails : List (Nat × Bool)
deriving DecidableEq, Repr

/-- A program's part of a core's LC region: its context and graph, the image it holds, and where its code, X and Y begin with
their sizes (R320). -/
structure Part where
  ctx : Nat
  graph : Nat
  image : Bytes
  p : Nat × Nat
  x : Nat × Nat
  y : Nat × Nat
deriving DecidableEq, Repr

/-- A signal core: the instances it holds, running or parked, the program whose code its BE region holds, the parts of its
LC region, and its counters (R320, R349). -/
structure CoreSt where
  insts : List Inst
  code : Option (Nat × Nat)
  parts : List Part
  active : Nat
  transients : Nat
deriving DecidableEq, Repr

/-- The signal cores (chapter 11): the pair registers, the region sizes (R318), the cores, and the program store by context
(R338). -/
structure ScSt where
  pairs : List GenSt
  region : Bytes
  cores : Tab CoreSt
  store : Tab Bytes
deriving DecidableEq, Repr

/-- A core that holds nothing. -/
def coreDefault : CoreSt := { insts := [], code := none, parts := [], active := 0, transients := 0 }

/-- A dictionary session (R434 to R438): the `SEQ` of its last request, its last response, the value it stages (index, subindex,
full length, bytes so far), its snapshot (index, subindex, bytes), and the tick of its last frame. -/
structure Session where
  seq : Nat
  last : Bytes
  staged : Option (Nat × Nat × Nat × Bytes)
  snap : Option (Nat × Nat × Bytes)
  heard : Nat
deriving DecidableEq, Repr

/-- The dictionary server (R434 to R445): its open sessions by number, and its entries. -/
structure DictSt where
  sessions : Tab Session
  timeout : Nat
  requests : Nat
  aborts : Nat
  lastAbort : Bytes
  crcErrors : Nat
  stale : Nat
deriving DecidableEq, Repr

/-- A self-test that runs (R474 to R480): its number and units, units done, failed twice and passed on retest, the first failing
detail, the count at its acceptance, and whether a cancel waits for the next unit boundary. -/
structure TestSt where
  test : Nat
  mask : Nat
  done : Nat
  failed : Nat
  transient : Nat
  detail : Nat
  start : Nat
  cancel : Bool
deriving DecidableEq, Repr

/-- Self-test: the test that runs, and the results by test number less one (R480). -/
structure StSt where
  running : Option TestSt
  results : List Bytes
deriving DecidableEq, Repr

/-- The dictionary at its defaults (R445). -/
def DictSt.reset : DictSt :=
  { sessions := [], timeout := 60, requests := 0, aborts := 0, lastAbort := List.replicate 16 0, crcErrors := 0, stale := 0 }
/-- No test has run (R480). -/
def StSt.reset : StSt := { running := none, results := List.replicate 16 (List.replicate 32 0) }

/-- The device: every subsystem's state, and the model's own counter of free values (`free`, assumption log 1). -/
structure Dev where
  boot : BootSt
  time : TimeSt
  comp : CompSt
  mem : MemSt
  disp : DispSt
  haul : HaulSt
  ls : LockSt
  pwr : PwrSt
  sc : ScSt
  fe : FeSt
  lr : LrSt
  tr : TrSt
  net : NetSt
  dict : DictSt
  test : StSt
  free : Nat
deriving DecidableEq, Repr

/-- The whole block: the commands that wait, what the trust rules protect, and the device. -/
structure State where
  pending : List Instr
  trust : Trust
  dev : Dev
deriving DecidableEq, Repr

/-- A context's defaults (R60, R219, R229, R261). -/
def ctxDefault (n : Nat) : Ctx :=
  { reg := ⟨0, 0⟩, qbase := 256 * n % 65536, qcount := 256, lcq := 0, depth := 256, weight := 16, share := 0xFFFFFFFF,
    evqDepth := 1024, evqDropped := 0, table := [], numeric := 0, flags := 0#32, floor := 0, ceiling := 88,
    evFirst := 0, evs := [], evLost := false, usage := [0, 0, 0, 0], lastQ := [0, 0, 0, 0] }

/-- An empty queue. -/
def queueDefault : Queue := { descs := [], head := 0, tail := 0, halted := false, cover := none, boosted := false, mark := none }

/-- An undeclared sync object (R248). -/
def syncDefault : Sync := { declared := false, cls := 0, owner := 0, value := 0, holder := none, holderLc := false }

/-- An empty graph slot (R237, R261). -/
def graphDefault : Graph :=
  { rcd := List.replicate 72 0, st := 0, reason := 0, place := [], old := [], newFrom := 0, admitAt := 0, leaving := false, revokedIn := none }

/-- A direction of the haul road with nothing in flight. -/
def roadDefault : RoadDir :=
  { wait := [], lcUsed := 0, beUsed := 0, seq := 0, replay := [], refused := none, failed := false, retrain := false }

/-- Benches before any grade is known (R95): every register DISABLED, every counter zero. -/
def CompSt.reset : CompSt :=
  { bench := List.replicate 16 ⟨0, 4⟩, map := List.replicate 16 0xFF,
    benchCycles := List.replicate 16 0, benchTransients := List.replicate 16 0,
    vecCycles := List.replicate 16 0, vecTransients := List.replicate 16 0,
    quantCycles := List.replicate 16 0, quantTransients := List.replicate 16 0,
    pe := List.replicate 64 ⟨none, none, false⟩, returning := [] }

/-- The memory system at its defaults (R219). -/
def MemSt.reset : MemSt :=
  { cells := [], spoil := [], tensors := [], pages := [], chans := List.replicate 8 ⟨0, 1⟩,
    ceil := List.replicate 8 100, crcTransients := List.replicate 8 0, chanPages := 0, rate := 0,
    softFaults := 0, hardFaults := 0, hostTimeout := 10000, migrateFreeze := false, policyClamps := 0,
    clamping := [], rotation := 0, down := false }

/-- The dispatcher at its defaults (R261). -/
def DispSt.reset : DispSt :=
  { ctxs := [], queues := [], syncs := [], graphs := [], resv := [], ops := [], nextOp := 0, boosts := [],
    lcFrame := 400000, lcCap := 80, syncSelect := 0, preemptions := 0, boostsBegun := 0, boostsExhausted := 0,
    lateLaunches := 0, halvedAt := 0 }

/-- Haul engines and haul road at their defaults (R191). -/
def HaulSt.reset : HaulSt :=
  { rings := [], cells := [], spoil := [], st := roadDefault, ts := roadDefault, lanes := List.replicate 64 ⟨0, 1⟩,
    roadLanes := 32, roadLatency := 48, replays := 0, retrains := 0, blocks := [0, 0], tagsPeak := [0, 0],
    misses := 0, deadlineMisses := 0, convs := [] }

/-- Lock-step at its defaults (R276). -/
def LockSt.reset : LockSt :=
  { enable := false, peer := 0xFF, ctx := 0, peerCtx := 0, timeout := 1000, state := 0,
    first := List.replicate 32 0, lseq := 0, mine := [], theirs := [], compared := [], mismatch := [] }

/-- Start-up not begun (R453, R495). -/
def BootSt.reset : BootSt :=
  { phase := .held, failCode := 0, step := 0, slotB := false, fallback := false, trainedPartial := false,
    tripped := false, sigs := 0, lbenches := 0, part := [], rcd := [], body := [], fwMeasure := [],
    pllLocked := false, thermTrip := false, testHeld := false }

/-- `AVS_ENVELOPE` at its default, `P_CEIL` still unknown (R465). -/
def avsDefault : Bytes :=
  [0, 0, 0, 0, 0xD0, 0x02, 0x52, 0x03, 0x20, 0x03, 0, 0, 0, 0, 0, 0]

/-- Power at its defaults (R461, R465, R466). -/
def PwrSt.reset : PwrSt :=
  { domains := List.replicate 16 ⟨0, 1⟩, powering := [], envelope := avsDefault, target := 800, acked := 800,
    noAck := 0, sensed := 0, temp := 0, powerHold := false, heatHold := false, throttles := 0, current := 0,
    uv := false, uvBenches := 0 }

/-- The signal cores at their defaults (R349). -/
def ScSt.reset : ScSt :=
  { pairs := List.replicate 16 ⟨0, 1⟩, region := [32, 0, 64, 0, 64, 0, 0, 0], cores := [], store := [] }

/-- Nothing held, nothing enabled (R453, R457, R459). -/
def Trust.reset : Trust :=
  { attestReady := false, idMismatch := false, secretsZeroed := false, scanEnabled := false, signing := none,
    report := [], scanInstr := 0, scanData := 0 }

/-- The device with reset held (R497). -/
def Dev.reset : Dev :=
  { boot := BootSt.reset, time := TimeSt.reset, comp := CompSt.reset, mem := MemSt.reset, disp := DispSt.reset,
    haul := HaulSt.reset, ls := LockSt.reset, pwr := PwrSt.reset, sc := ScSt.reset, fe := FeSt.reset,
    lr := LrSt.reset, tr := TrSt.reset, net := NetSt.reset, dict := DictSt.reset, test := StSt.reset, free := 0 }

/-- The block right after reset: reset held, every entry at its default, no command waiting (R497). -/
def State.reset : State := { pending := [], trust := Trust.reset, dev := Dev.reset }

end Sys2Proof.Machine
end

