-- ==== Sys2Proof/Machine/Ops.lean ====
section
/-!
DEFINITION. Machine/Ops.lean: the named operations the families share: access to units, free values, event records
(R257 to R259), flag words (R58), sync objects (R248 to R254), memory bytes with their spoil marks (R197, R198) and
pages.
-/
namespace Sys2Proof.Machine
open Sys2Proof

/-- A command's effect on the device, where its operands name units that exist. -/
def onDev (ok : Bool) (s : State) (f : Dev → Dev) : Host.Outcome State Fault Refusal :=
  if ok then .next { s with dev := f s.dev } else .fault .noSuchUnit

/-- The next free value, and the device with the counter advanced. -/
def takeFree (d : Dev) : BitVec 64 × Dev := (Config.freeBits d.free, { d with free := d.free + 1 })

/-- The present global count, as the tensor die's replica has it (R19). -/
def now (d : Dev) : Nat := d.time.replica

/-- Context `n`. -/
def ctxOf (d : Dev) (n : Nat) : Ctx := tget (ctxDefault n) d.disp.ctxs n
/-- The device with context `n` changed. -/
def setCtx (d : Dev) (n : Nat) (c : Ctx) : Dev := { d with disp := { d.disp with ctxs := tset d.disp.ctxs n c } }
/-- The device with context `n` changed by `f`. -/
def modCtx (d : Dev) (n : Nat) (f : Ctx → Ctx) : Dev := setCtx d n (f (ctxOf d n))

/-- Queue `q`. -/
def queueOf (d : Dev) (q : Nat) : Queue := tget queueDefault d.disp.queues q
/-- The device with queue `q` replaced. -/
def setQueue (d : Dev) (q : Nat) (x : Queue) : Dev :=
  { d with disp := { d.disp with queues := tset d.disp.queues q x } }
/-- The device with queue `q` changed by `f`. -/
def modQueue (d : Dev) (q : Nat) (f : Queue → Queue) : Dev := setQueue d q (f (queueOf d q))

/-- Sync object `o`. -/
def syncOf (d : Dev) (o : Nat) : Sync := tget syncDefault d.disp.syncs o
/-- The device with sync object `o` replaced. -/
def setSync (d : Dev) (o : Nat) (x : Sync) : Dev :=
  { d with disp := { d.disp with syncs := tset d.disp.syncs o x } }

/-- Graph slot `g`. -/
def graphOf (d : Dev) (g : Nat) : Graph := tget graphDefault d.disp.graphs g
/-- The device with graph slot `g` replaced. -/
def setGraph (d : Dev) (g : Nat) (x : Graph) : Dev :=
  { d with disp := { d.disp with graphs := tset d.disp.graphs g x } }

/-- Operation `id`, if issued and not completed. -/
def opOf (d : Dev) (id : Nat) : Option Op := tfind d.disp.ops id
/-- The device with operation `id` replaced. -/
def setOp (d : Dev) (id : Nat) (o : Op) : Dev := { d with disp := { d.disp with ops := tset d.disp.ops id o } }
/-- The device with operation `id` changed by `f`. -/
def modOp (d : Dev) (id : Nat) (f : Op → Op) : Dev :=
  match opOf d id with
  | some o => setOp d id (f o)
  | none => d
/-- The device without operation `id`. -/
def dropOp (d : Dev) (id : Nat) : Dev := { d with disp := { d.disp with ops := tdel d.disp.ops id } }

/-- Ring `r`, if in use. -/
def ringOf (d : Dev) (r : Nat) : Option Ring := tfind d.haul.rings r
/-- The device with ring `r` replaced. -/
def setRing (d : Dev) (r : Nat) (x : Ring) : Dev := { d with haul := { d.haul with rings := tset d.haul.rings r x } }
/-- The device with ring `r` changed by `f`. -/
def modRing (d : Dev) (r : Nat) (f : Ring → Ring) : Dev :=
  match ringOf d r with
  | some x => setRing d r (f x)
  | none => d

/-! ### The common header (R221) -/

/-- `OPCODE`. -/
def hOpcode (x : Desc) : Nat := dfield x 0 0 16
/-- `FLAGS.EVENT`. -/
def hEvent (x : Desc) : Bool := dbit x 2 1
/-- `FLAGS.STRICT`. -/
def hStrict (x : Desc) : Bool := dbit x 2 0
/-- `CLASS`. -/
def hClass (x : Desc) : Nat := dfield x 3 0 8
/-- `CTX`. -/
def hCtx (x : Desc) : Nat := dfield x 4 0 6
/-- `GRAPH`. -/
def hGraph (x : Desc) : Nat := dfield x 5 0 6
/-- `TAG`. -/
def hTag (x : Desc) : Nat := dfield x 6 0 16
/-- `WAIT_EN`. -/
def hWaitEn (x : Desc) : Bool := dbit x 8 15
/-- `WAIT_OBJ`. -/
def hWaitObj (x : Desc) : Nat := dfield x 8 0 13
/-- `WAIT_VALUE`. -/
def hWaitValue (x : Desc) : Nat := dfield x 10 0 48
/-- `SIGNAL_EN`. -/
def hSignalEn (x : Desc) : Bool := dbit x 16 15
/-- `SIGNAL_OBJ`. -/
def hSignalObj (x : Desc) : Nat := dfield x 16 0 13
/-- `SIGNAL_INC`. -/
def hSignalInc (x : Desc) : Nat := dfield x 20 0 32
/-- Whether a reserved bit of the header is set (R6, R221). -/
def hReserved (x : Desc) : Bool :=
  dfield x 2 2 6 != 0 || dfield x 4 6 2 != 0 || dfield x 5 6 2 != 0 || dfield x 8 13 2 != 0 || dfield x 16 13 2 != 0
    || dfield x 18 0 16 != 0

/-! ### Events (R257, R258, R259) -/

/-- What an event record says of its cause: tag and queue (0 and 0xFFFF for no descriptor, R258). -/
structure Cause where
  tag : Nat
  queue : Nat
deriving DecidableEq, Repr

/-- No causing descriptor. -/
def noCause : Cause := ⟨0, 0xFFFF⟩

/-- A 32-byte event record (R258). -/
def eventRecord (code ctx : Nat) (lost : Bool) (c : Cause) (tick : Nat) (payload : Bytes) : Bytes :=
  leBytes 2 code ++ leBytes 1 ctx ++ leBytes 1 (if lost then 1 else 0) ++ leBytes 2 c.tag ++ leBytes 2 c.queue
    ++ leBytes 8 tick ++ slice payload 0 16

/-- An event posted to a context at a given tick: appended, or dropped and counted when the queue is full (R257). -/
def postAt (d : Dev) (tick ctx code : Nat) (c : Cause) (payload : Bytes) : Dev :=
  modCtx d ctx fun x =>
    if x.evqDepth ≤ x.evs.length then { x with evLost := true, evqDropped := satAdd 32 x.evqDropped 1 }
    else { x with evs := x.evs ++ [eventRecord code ctx x.evLost c tick payload], evLost := false }

/-- An event posted now. -/
def post (d : Dev) (ctx code : Nat) (c : Cause) (payload : Bytes) : Dev := postAt d (now d) ctx code c payload

/-- The payload of a FAULT (R259). -/
def faultPayload (reason opcode idx vaddr : Nat) : Bytes :=
  leBytes 2 reason ++ leBytes 2 opcode ++ leBytes 4 idx ++ leBytes 8 vaddr

/-- A FAULT event (R259, 0x0002). -/
def postFault (d : Dev) (ctx : Nat) (c : Cause) (reason opcode idx vaddr : Nat) : Dev :=
  post d ctx 0x0002 c (faultPayload reason opcode idx vaddr)

/-- A FAULT event of an issued operation. -/
def postOpFault (d : Dev) (o : Op) (reason vaddr : Nat) : Dev :=
  postFault d o.ctx ⟨hTag o.desc, o.queue⟩ reason (hOpcode o.desc) o.idx vaddr

/-- A SPOIL_READ event of an issued operation (R83, R259). -/
def postSpoilRead (d : Dev) (o : Op) : Dev :=
  post d o.ctx 0x0003 ⟨hTag o.desc, o.queue⟩ (leBytes 2 (hOpcode o.desc) ++ zeros 2 ++ leBytes 4 o.idx)

/-- Context states (R229). -/
def ctxFree : Nat := 0
/-- STOPPED. -/
def ctxStopped : Nat := 1
/-- ACTIVE. -/
def ctxActive : Nat := 2
/-- STOPPING. -/
def ctxStopping : Nat := 3

/-- The contexts whose state satisfies `p`, in rising number. -/
def ctxsWhere (d : Dev) (p : Ctx → Bool) : List Nat := (List.range 64).filter fun n => p (ctxOf d n)

/-- An event posted to every ACTIVE context. -/
def postActive (d : Dev) (code : Nat) (payload : Bytes) : Dev :=
  (ctxsWhere d fun c => c.reg.st == ctxActive).foldl (fun d n => post d n code noCause payload) d

/-- Flags raised in a context's flag word (R58, R59). -/
def raise (d : Dev) (ctx : Nat) (f : Flags) : Dev := modCtx d ctx fun c => { c with flags := c.flags ||| f }

/-- The numeric mode of an operation of a context (R41, R61). -/
def ftzOf (d : Dev) (ctx : Nat) : Bool := bitAt (ctxOf d ctx).numeric 0

/-! ### Sync objects -/

/-- Whether a class may wait on or signal an object (R250): 0 BE, 1 LC, 2 SHARED. -/
def syncClassOk (s : Sync) (lc : Bool) : Bool := s.cls == 2 || (s.cls == 1) == lc

/-- An increment of a declared object by the context named, from a cause that a saturation is reported to (R251, R253);
an increment to an undeclared object is discarded. -/
def syncAdd (d : Dev) (obj inc ctx blame : Nat) (c : Cause) (opcode idx : Nat) : Dev :=
  let s := syncOf d obj
  if !s.declared then d
  else
    let v := s.value + inc
    let ovf := 2 ^ 64 ≤ v
    let h := if s.holder = some ctx then none else s.holder
    let d := setSync d obj { s with value := min v (2 ^ 64 - 1), holder := h }
    if ovf then postFault d blame c 0x0806 opcode idx 0 else d

/-! ### Memory bytes -/

/-- The byte of a cell list at a key; a byte not listed reads as zero. -/
def cellGet : List Host.Cell → Nat → BitVec 8
  | [], _ => 0
  | (a, b) :: t, k => if a = k then b else cellGet t k

/-- The cell list with a byte stored at a key, in canonical form: keys rise, and no listed byte is zero. -/
def cellPut : List Host.Cell → Nat → BitVec 8 → List Host.Cell
  | [], k, v => if v = 0 then [] else [(k, v)]
  | (a, b) :: t, k, v =>
    if k < a then (if v = 0 then (a, b) :: t else (k, v) :: (a, b) :: t)
    else if k = a then (if v = 0 then t else (k, v) :: t)
    else (a, b) :: cellPut t k v

/-- The canonical form of listed memory: keys rise strictly, and no listed byte is zero, which is what an unlisted one reads as. -/
def Memory.wf : List Host.Cell → Bool
  | [] => true
  | [(_, b)] => b != 0
  | (j, a) :: (k, b) :: t => decide (j < k) && a != 0 && Memory.wf ((k, b) :: t)

/-- Bytes stored from a key on. -/
def cellsPut (m : List Host.Cell) (k : Nat) : Bytes → List Host.Cell
  | [] => m
  | b :: bs => cellsPut (cellPut m k b) (k + 1) bs

/-- `n` bytes from a key on. -/
def cellsGet (m : List Host.Cell) (k : Nat) : Nat → Bytes
  | 0 => []
  | n + 1 => cellGet m k :: cellsGet m (k + 1) n

/-- The cell list without the keys in `[lo, hi)`. -/
def cellsDrop (m : List Host.Cell) (lo hi : Nat) : List Host.Cell := m.filter fun c => c.1 < lo || hi ≤ c.1

/-- The sorted list of marks with block `k` set or cleared. -/
def markSet (m : List Nat) (k : Nat) (on : Bool) : List Nat := if on then insSorted m k else delSorted m k

/-- The marks without the blocks in `[lo, hi)`. -/
def marksDrop (m : List Nat) (lo hi : Nat) : List Nat := m.filter fun k => k < lo || hi ≤ k

/-- The key of a byte of a context's virtual space. -/
def vkey (ctx va : Nat) : Nat := ctx * 2 ^ 48 + va

/-- The key of tensor or page `n` of a context. -/
def ckey (ctx n : Nat) : Nat := ctx * 2 ^ 32 + n

/-- Tensor `id` of a context, if allocated. -/
def tensorOf (d : Dev) (ctx id : Nat) : Option Tensor := tfind d.mem.tensors (ckey ctx id)

/-- A page that is not listed. -/
def pageDefault : Page :=
  { st := .untouched, chan := none, copies := 0, dirty := 0, lcFrames := 0, written := false, req := none, got := 0 }

/-- Page `p` of a context. -/
def pageOf (d : Dev) (ctx p : Nat) : Page := tget pageDefault d.mem.pages (ckey ctx p)
/-- The device with page `p` of a context replaced. -/
def setPage (d : Dev) (ctx p : Nat) (x : Page) : Dev :=
  { d with mem := { d.mem with pages := tset d.mem.pages (ckey ctx p) x } }
/-- The device with page `p` of a context changed by `f`. -/
def modPage (d : Dev) (ctx p : Nat) (f : Page → Page) : Dev := setPage d ctx p (f (pageOf d ctx p))

/-- The byte of a virtual address. -/
def memByte (d : Dev) (ctx va : Nat) : BitVec 8 := cellGet d.mem.cells (vkey ctx va)

/-- Whether the block of a virtual address is spoil. -/
def memSpoil (d : Dev) (ctx va : Nat) : Bool := d.mem.spoil.contains (vkey ctx va / 64)

/-- A write of bytes at a virtual address, with each touched block's spoil mark set as given (R197). -/
def memWrite (d : Dev) (ctx va : Nat) (bs : Bytes) (spoil : Bool) : Dev :=
  let k := vkey ctx va
  let blocks := (List.range ((k + bs.length + 63) / 64 - k / 64)).map fun i => k / 64 + i
  { d with mem := { d.mem with cells := cellsPut d.mem.cells k bs,
                               spoil := blocks.foldl (fun m b => markSet m b spoil) d.mem.spoil } }

/-- A block, by its key, written as 64 zero bytes and marked spoil (R82). -/
def memSpoilKey (d : Dev) (b : Nat) : Dev :=
  { d with mem := { d.mem with cells := cellsDrop d.mem.cells (b * 64) (b * 64 + 64), spoil := insSorted d.mem.spoil b } }

/-- A block of a virtual space written as 64 zero bytes and marked spoil (R82). -/
def memSpoilBlock (d : Dev) (ctx va : Nat) : Dev := memSpoilKey d (vkey ctx va / 64)

/-- Every block of a page zero and spoil (R206, SPOILED). -/
def memSpoilPage (d : Dev) (ctx p : Nat) : Dev :=
  let k := vkey ctx (p * 65536)
  { d with mem := { d.mem with cells := cellsDrop d.mem.cells k (k + 65536),
                               spoil := (List.range 1024).foldl (fun m i => insSorted m (k / 64 + i)) d.mem.spoil } }

/-- A page's bytes and marks discarded. -/
def memClearPage (d : Dev) (ctx p : Nat) : Dev :=
  let k := vkey ctx (p * 65536)
  { d with mem := { d.mem with cells := cellsDrop d.mem.cells k (k + 65536),
                               spoil := marksDrop d.mem.spoil (k / 64) (k / 64 + 1024) } }

/-! ### Ring slots -/

/-- The key of a byte of a ring slot. -/
def slotKey (ring slot off : Nat) : Nat := ring * 2 ^ 24 + slot * 2 ^ 16 + off

/-- A slot's size in bytes. -/
def slotBytes (r : Ring) : Nat := 256 * r.blocks

/-- Bytes of a slot. -/
def slotRead (d : Dev) (ring slot off n : Nat) : Bytes := cellsGet d.haul.cells (slotKey ring slot off) n

/-- Whether the 64-byte block at an offset of a slot is spoil. -/
def slotSpoilAt (d : Dev) (ring slot off : Nat) : Bool := d.haul.spoil.contains (slotKey ring slot off / 64)

/-- Whether any block of a slot is spoil. -/
def slotSpoil (d : Dev) (ring slot : Nat) : Bool :=
  d.haul.spoil.any fun b => slotKey ring slot 0 / 64 ≤ b && b < slotKey ring slot 0 / 64 + 1024

/-- A write into a slot with the marks of the blocks it touches. -/
def slotWrite (d : Dev) (ring slot off : Nat) (bs : Bytes) (spoil : Bool) : Dev :=
  let k := slotKey ring slot off
  let blocks := (List.range ((k + bs.length + 63) / 64 - k / 64)).map fun i => k / 64 + i
  { d with haul := { d.haul with cells := cellsPut d.haul.cells k bs,
                                 spoil := blocks.foldl (fun m b => markSet m b spoil) d.haul.spoil } }

/-- A slot's bytes and marks discarded. -/
def slotClear (d : Dev) (ring slot : Nat) : Dev :=
  let k := slotKey ring slot 0
  { d with haul := { d.haul with cells := cellsDrop d.haul.cells k (k + 65536),
                                 spoil := marksDrop d.haul.spoil (k / 64) (k / 64 + 1024) } }

/-- Every block of a slot from an offset on marked spoil, its bytes zero. -/
def slotSpoilRest (d : Dev) (ring slot off size : Nat) : Dev :=
  let k := slotKey ring slot off
  let e := slotKey ring slot size
  { d with haul := { d.haul with cells := cellsDrop d.haul.cells k e,
                                 spoil := (List.range ((e + 63) / 64 - k / 64)).foldl
                                   (fun m i => insSorted m (k / 64 + i)) d.haul.spoil } }

end Sys2Proof.Machine
end

