-- ==== Sys2Proof/Machine/Operands.lean ====
section
/-!
DEFINITION. Machine/Operands.lean: tensors as operands: the tensor table (R233), the element order and packing of a byte
image (R33, R233, R265), reads and writes of elements with their spoil marks (R82, R83, R197), and the pages a range of a
tensor touches (R198, R205 to R209).
-/
namespace Sys2Proof.Machine
open Sys2Proof

/-- Bytes of an innermost row of `n` elements (R33). -/
def rowBytes (bits n : Nat) : Nat := ceilDiv (n * bits) 8

/-- The format of a tensor. -/
def tFmt (t : Tensor) : Fmt := (fmtOf t.fmt).getD .int8

/-- Extent of the innermost dimension. -/
def tInner (t : Tensor) : Nat := t.dims.headD 1

/-- Number of innermost rows. -/
def tRows (t : Tensor) : Nat := (t.dims.drop 1).foldl (· * ·) 1

/-- Number of elements. -/
def tElems (t : Tensor) : Nat := tInner t * tRows t

/-- Byte size of a tensor of a format and extents (R233). -/
def imageSize (f : Fmt) (dims : List Nat) : Nat :=
  rowBytes (fmtBits f) (dims.headD 1) * (dims.drop 1).foldl (· * ·) 1

/-- Byte offset and bit shift of the element of linear index `i` in the image (R33, R265). -/
def elemPos (t : Tensor) (i : Nat) : Nat × Nat :=
  let n := tInner t
  let b := fmtBits (tFmt t)
  (i / n * rowBytes b n + i % n * b / 8, i % n * b % 8)

/-- Virtual address of a byte of a tensor. -/
def tAddr (t : Tensor) (off : Nat) : Nat := t.base * 65536 + off

/-- The 64-byte block of a tensor's byte, as a key of its context's virtual space. -/
def blockKey (ctx : Nat) (t : Tensor) (off : Nat) : Nat := vkey ctx (tAddr t off) / 64

/-- The block of element `i` of a tensor; no element spans two blocks. -/
def elemBlock (ctx : Nat) (t : Tensor) (i : Nat) : Nat := blockKey ctx t (elemPos t i).1

/-- An operand as an engine reads it: its context, its tensor, and the blocks of it that another operation still writes,
whose reading R24 leaves open. -/
structure Src where
  ctx : Nat
  t : Tensor
  hot : List Nat
deriving DecidableEq, Repr

/-- A byte of an operand; a free byte where no order covers its writer (R24). -/
def srcByte (d : Dev) (s : Src) (off : Nat) : BitVec 8 :=
  if s.hot.contains (blockKey s.ctx s.t off) then Config.freeByte d.free (vkey s.ctx (tAddr s.t off)) else memByte d s.ctx (tAddr s.t off)

/-- `n` bytes of an operand, little-endian. -/
def srcLe (d : Dev) (s : Src) (off : Nat) : Nat → Nat
  | 0 => 0
  | n + 1 => (srcByte d s off).toNat + 256 * srcLe d s (off + 1) n

/-- The raw code of element `i` of an operand. -/
def srcElem (d : Dev) (s : Src) (i : Nat) : Nat :=
  let p := elemPos s.t i
  match tFmt s.t with
  | .int4 => (srcByte d s p.1).toNat / 2 ^ p.2 % 16
  | f => srcLe d s p.1 (fmtBits f / 8)

/-- Whether the block of element `i` of an operand is spoil. -/
def srcSpoil (d : Dev) (s : Src) (i : Nat) : Bool := memSpoil d s.ctx (tAddr s.t (elemPos s.t i).1)

/-- The pages of a tensor that bytes `[lo, hi)` of its image touch. -/
def pagesOf (t : Tensor) (lo hi : Nat) : List Nat :=
  if lo < hi then (List.range ((hi - 1) / 65536 + 1 - lo / 65536)).map fun i => t.base + lo / 65536 + i else []

/-- The lowest bench of a mask. -/
def lowBit (m : Nat) : Option Nat := firstBelow 16 fun b => bitAt m b

/-- A page as an engine's write on a bench leaves it (R205, R206, R208, R209): its blocks join the dirty set and other clean
copies go; where its frame has been evicted since it was touched, its bytes are in LPDDR6 again. A SPOILED page stays so under
a write of spoil data, and is DIRTY after one of other data. -/
def pageWritten (bench : Option Nat) (spoil : Bool) (p : Page) : Page :=
  match p.st with
  | .hostAbsent | .lost => p
  | s =>
    if s = .spoiled && spoil then { p with written := true }
    else
      match (bench.orElse fun _ => lowBit p.copies).filter fun k => bitAt p.copies k with
      | some k =>
        if s = .dirty then { p with dirty := p.dirty ||| 2 ^ k, written := true }
        else { p with st := .dirty, copies := 2 ^ k, dirty := 2 ^ k, written := true }
      | none => { p with st := if s = .spoiled then .dirty else .memory, copies := 0, dirty := 0, written := true }

/-- The device with the pages of a written range recorded as written on a bench. -/
def markWritten (d : Dev) (ctx : Nat) (t : Tensor) (bench : Option Nat) (lo hi : Nat) (spoil : Bool) : Dev :=
  (pagesOf t lo hi).foldl (fun d p => modPage d ctx p (pageWritten bench spoil)) d

/-- An element stored in a destination, its block's spoil mark set as given; behind the last element of an INT4 row of odd
length stands a zero element (R33). -/
def dstElem (d : Dev) (ctx : Nat) (t : Tensor) (i code : Nat) (spoil : Bool) : Dev :=
  let p := elemPos t i
  let va := tAddr t p.1
  match tFmt t with
  | .int4 =>
    let old := (memByte d ctx va).toNat
    let keep := if p.2 = 0 then (if i % tInner t + 1 = tInner t then 0 else old / 16 * 16) else old % 16
    memWrite d ctx va [BitVec.ofNat 8 (keep + code % 16 * 2 ^ p.2)] spoil
  | f => memWrite d ctx va (leBytes (fmtBits f / 8) code) spoil

/-- One output element: linear index, raw code, whether it depends on spoil, and the flags it raised. -/
structure OutElem where
  i : Nat
  code : Nat
  spoil : Bool
deriving DecidableEq, Repr

/-- Output elements stored on a bench: a block is spoil afterwards when an element stored in it depends on spoil, and
clear otherwise (R83, R127, R197). -/
def storeElems (d : Dev) (ctx : Nat) (t : Tensor) (bench : Option Nat) (es : List OutElem) : Dev :=
  let d := es.foldl (fun d e => dstElem d ctx t e.i e.code false) d
  let d := (es.filter fun e => e.spoil).foldl (fun d e => dstElem d ctx t e.i e.code true) d
  es.foldl (fun d e => markWritten d ctx t bench (elemPos t e.i).1 ((elemPos t e.i).1 + 1) e.spoil) d

/-! ### The tensor table (R233) -/

/-- An entry of the tensor table. -/
structure TableEntry where
  id : Nat
  fmt : Nat
  rank : Nat
  dims : List Nat
deriving DecidableEq, Repr

/-- The entry of 32 bytes. -/
def tableEntryOf (b : Bytes) : TableEntry :=
  let f := leAt b 4 1
  { id := leAt b 0 4, fmt := f / 16, rank := f % 16,
    dims := (List.range (f % 16)).map fun i => leAt b (8 + 4 * i) 4 }

/-- The entries of a table image, at most `fuel`. -/
def tableEntries : Nat → Bytes → List TableEntry
  | 0, _ => []
  | fuel + 1, b => if b.length < 32 then [] else tableEntryOf (b.take 32) :: tableEntries fuel (b.drop 32)

/-- Whether one entry keeps the ranges of R233. -/
def tableEntryOk (b : Bytes) : Bool :=
  let e := tableEntryOf b
  e.id < 0xFFFFE000 && e.fmt < 10 && 1 ≤ e.rank && e.rank ≤ 5
    && e.dims.all (fun n => 1 ≤ n && n ≤ 16777216)
    && (List.range (5 - e.rank)).all (fun i => leAt b (8 + 4 * (e.rank + i)) 4 == 0)
    && leAt b 5 3 == 0 && leAt b 28 4 == 0

/-- Whether the identifiers rise strictly. -/
def risingIds : List TableEntry → Bool
  | [] => true
  | [_] => true
  | a :: b :: t => a.id < b.id && risingIds (b :: t)

/-- Whether a table image is accepted (R233). -/
def tableOk (b : Bytes) : Bool :=
  b.length % 32 == 0 && b.length ≤ 2097152
    && (List.range (b.length / 32)).all (fun i => tableEntryOk (slice b (32 * i) 32))
    && risingIds (tableEntries (b.length / 32 + 1) b)

/-- The current table's entry of an identifier. -/
def tableFind (d : Dev) (ctx id : Nat) : Option TableEntry :=
  let b := (ctxOf d ctx).table
  (tableEntries (b.length / 32 + 1) b).find? fun e => e.id == id

/-! ### Identifiers (R154, R119) -/

/-- No tensor. -/
def noTensor : Nat := 0xFFFFFFFF
/-- Whether an identifier names a ring (R154). -/
def isRingId (id : Nat) : Bool := 0xFFFFE000 ≤ id && id < 0xFFFFF000
/-- The ring of a ring identifier. -/
def ringIdOf (id : Nat) : Nat := id - 0xFFFFE000
/-- Whether an identifier lies in the built-in table range (R119, R154). -/
def isBuiltinId (id : Nat) : Bool := 0xFFFFFE00 ≤ id && id ≤ 0xFFFFFEFF
/-- Whether an identifier can name a tensor. -/
def isTensorId (id : Nat) : Bool := id != noTensor && !isRingId id && !isBuiltinId id

end Sys2Proof.Machine
end

