-- ==== Sys2Proof/Machine/Admit.lean ====
section
/-!
DEFINITION. Machine/Admit.lean: latency-critical graphs: the record (R237), the reservation arithmetic (R238), the
admission conditions and the placement (R239, R240), windows, withdrawal, revocation and re-admission (R243, R244).
-/
namespace Sys2Proof.Machine
open Sys2Proof

/-- `CTX` of a graph record (R237). -/
def gCtx (r : Bytes) : Nat := leAt r 0 1 % 64
/-- `ADMIT`. -/
def gAdmit (r : Bytes) : Bool := leAt r 1 1 % 2 == 1
/-- `SHARED_WAITS`. -/
def gShared (r : Bytes) : Nat := leAt r 2 1 % 16
/-- `FRAMES`. -/
def gFrames (r : Bytes) : Nat := leAt r 3 1
/-- `PERIOD`. -/
def gPeriod (r : Bytes) : Nat := leAt r 4 4
/-- `PHASE`. -/
def gPhase (r : Bytes) : Nat := leAt r 8 4
/-- `DL_BYTES`. -/
def gDl (r : Bytes) : Nat := leAt r 12 4
/-- `FLITS_ST` (`false`) or `FLITS_TS` (`true`). -/
def gFlits (r : Bytes) (ts : Bool) : Nat := leAt r (if ts then 18 else 16) 2
/-- `COUNT` of kind `k`. -/
def gCount (r : Bytes) (k : Nat) : Nat := leAt r (24 + 12 * k) 1
/-- `START` of kind `k`. -/
def gStart (r : Bytes) (k : Nat) : Nat := leAt r (28 + 12 * k) 4
/-- `BUDGET` of kind `k`. -/
def gBudget (r : Bytes) (k : Nat) : Nat := leAt r (32 + 12 * k) 4

/-- τ: the budget in ticks (R238). -/
def gTau (r : Bytes) (k : Nat) : Nat := if k = 3 then ceilDiv (2 * gBudget r 3) 3 else gBudget r k
/-- ρ: the reservation length (R238). -/
def gRho (r : Bytes) (k : Nat) : Nat := gTau r k + 1600 + 16000 * gShared r
/-- The kinds a record uses. -/
def gKinds (r : Bytes) : List Nat := (List.range 4).filter fun k => 0 < gCount r k
/-- The declared budget B (R238). -/
def gBound (r : Bytes) : Nat := (gKinds r).foldl (fun m k => max m (gStart r k + gTau r k)) 0
/-- End of a window's last reservation, from its opening. -/
def gSpan (r : Bytes) : Nat := (gKinds r).foldl (fun m k => max m (gStart r k + gRho r k)) 0

/-- Physical engines of a kind in service: READY benches for kinds 0 to 2, the cores of READY pairs for kind 3. -/
def engineReady (bench pair : List GenSt) (k e : Nat) : Bool :=
  if k < 3 then e < 16 && (lget ⟨0, 4⟩ bench e).st == 1 else e < 32 && (lget ⟨0, 4⟩ pair (e / 2)).st == 1

/-- Number of engines of a kind. -/
def engineCount (k : Nat) : Nat := if k < 3 then 16 else 32

/-- Whether two reservations, repeated over one frame that both periods divide, meet (R239). -/
def resvMeet (startA lenA periodA startB lenB periodB : Nat) : Bool :=
  let g := Nat.gcd periodA periodB
  if g = 0 then true
  else
    let x := startA % g
    let y := startB % g
    (y + g - x) % g < lenA || (x + g - y) % g < lenB

/-- A graph that holds engines: its record and its placement. -/
structure Placed where
  rcd : Bytes
  place : List (List Nat)
deriving DecidableEq, Repr

/-- Engines placed for kind `k`. -/
def placedOn (p : Placed) (k : Nat) : List Nat := lget [] p.place k

/-- Whether kind `k` of a record meets no reservation of the placed graphs on engine `e` (R239 Engines). -/
def engineClear (gs : List Placed) (r : Bytes) (k e : Nat) : Bool :=
  gs.all fun p => !(placedOn p k).contains e
    || !resvMeet (gPhase r + gStart r k) (gRho r k) (gPeriod r) (gPhase p.rcd + gStart p.rcd k) (gRho p.rcd k)
        (gPeriod p.rcd)

/-- Reserved ticks per frame of kind `k` of a record. -/
def gTicks (frame : Nat) (r : Bytes) (k : Nat) : Nat := if gPeriod r = 0 then 0 else gRho r k * (frame / gPeriod r)

/-- Whether engine `e` stays under the cap with the record added (R239 Cap). -/
def engineCap (frame cap : Nat) (gs : List Placed) (r : Bytes) (k e : Nat) : Bool :=
  let used := (gs.filter fun p => (placedOn p k).contains e).foldl (fun n p => n + gTicks frame p.rcd k) 0
  100 * (used + gTicks frame r k) ≤ cap * frame

/-- Whether bench `e` stays within four LC frames with the record added (R239 Frames). -/
def benchFrames (gs : List Placed) (r : Bytes) (e : Nat) : Bool :=
  let on (p : Placed) : Bool := (List.range 3).any fun k => (placedOn p k).contains e
  (gs.filter on).foldl (fun n p => n + gFrames p.rcd) 0 + gFrames r ≤ 4

/-- A ratio `n / B`; with `B` = 0 it is zero for a zero numerator and absent otherwise (R239). -/
def gRatio (n : Nat) (r : Bytes) : Option (Nat × Nat) :=
  let b := gBound r
  if b = 0 then if n = 0 then some (0, 1) else none else some (n, b)

/-- Whether a sum of ratios is at most `num / den`; an absent ratio fails. -/
def ratiosAtMost (num den : Nat) (rs : List (Option (Nat × Nat))) : Bool :=
  let acc := rs.foldl (fun (a : Option (Nat × Nat)) x =>
    match a, x with
    | some (p, q), some (n, b) => some (p * b + n * q, q * b)
    | _, _ => none) (some (0, 1))
  match acc with
  | some (p, q) => p * den ≤ num * q
  | none => false

/-- What admission sees of the device: frame and cap, engines in service, contexts able to hold a graph. -/
structure AdmitEnv where
  frame : Nat
  cap : Nat
  bench : List GenSt
  pair : List GenSt
  ctxOk : Bool
deriving DecidableEq, Repr

/-- The admission decision: the placement, or the reason of the first failing condition (R239, R240). -/
def admitDecide (env : AdmitEnv) (gs : List Placed) (r : Bytes) : Except Nat (List (List Nat)) :=
  let ks := gKinds r
  let per := gPeriod r
  if per = 0 || env.frame % per != 0 || per ≤ gPhase r || ks.any (fun k => per < gStart r k + gRho r k) then .error 1
  else
    let clear (k : Nat) : List Nat := (List.range (engineCount k)).filter fun e =>
      engineReady env.bench env.pair k e && engineClear gs r k e
    let capped (k : Nat) : List Nat := (clear k).filter fun e => engineCap env.frame env.cap gs r k e
    let framed (k : Nat) : List Nat := (capped k).filter fun e => k == 3 || benchFrames gs r e
    if ks.any fun k => (clear k).length < gCount r k then .error 2
    else if ks.any fun k => (capped k).length < gCount r k then .error 3
    else if !ratiosAtMost 128 5 ((r :: gs.map (·.rcd)).map fun x => gRatio (gDl x) x) then .error 4
    else if !ratiosAtMost 5 16 ((r :: gs.map (·.rcd)).map fun x => gRatio (gFlits x false) x)
        || !ratiosAtMost 5 16 ((r :: gs.map (·.rcd)).map fun x => gRatio (gFlits x true) x) then .error 5
    else if ks.any fun k => (framed k).length < gCount r k then .error 6
    else if !env.ctxOk then .error 7
    else .ok ((List.range 4).map fun k => (framed k).take (gCount r k))

/-- The ADMITTED graphs below slot `n`, or all with `n` = 64, except slot `skip`. -/
def admittedGraphs (d : Dev) (n skip : Nat) : List Placed :=
  ((List.range n).filter fun g => (graphOf d g).st == 1 && g != skip).map fun g =>
    ⟨(graphOf d g).rcd, (graphOf d g).place⟩

/-- What admission sees, for a graph of context `ctx`, with the signal-core pair registers given. -/
def admitEnv (d : Dev) (pair : List GenSt) (ctx : Nat) : AdmitEnv :=
  let c := ctxOf d ctx
  { frame := d.disp.lcFrame, cap := d.disp.lcCap, bench := d.comp.bench, pair := pair,
    ctxOk := (c.reg.st == ctxStopped || c.reg.st == ctxActive) && 1 ≤ c.lcq }

/-- The opening tick of the window a graph is in at a tick: the last `T_j` not after it (R238). -/
def windowAt (r : Bytes) (t : Nat) : Option Nat :=
  let per := gPeriod r
  if per = 0 || t < gPhase r then none else some (t - (t - gPhase r) % per)

/-- A request for admission of a record in slot `g` (R239, R240). -/
def graphAdmit (d : Dev) (pair : List GenSt) (g : Nat) (r : Bytes) : Dev :=
  match admitDecide (admitEnv d pair (gCtx r)) (admittedGraphs d 64 g) r with
  | .ok p => setGraph d g { rcd := r, st := 1, reason := 0, place := p, old := [], newFrom := 0, admitAt := now d, leaving := false,
                            revokedIn := none }
  | .error e => setGraph d g { rcd := r, st := 2, reason := e, place := [], old := [], newFrom := 0, admitAt := now d, leaving := false,
                               revokedIn := none }

/-- The parked operations of a graph that is no longer reserved resume as best-effort work (R244). -/
def parkedToBe (d : Dev) (g : Nat) : Dev :=
  { d with disp := { d.disp with ops := d.disp.ops.map fun o =>
      (o.1, if o.2.lc && o.2.parked && o.2.graph == g then { o.2 with lc := false } else o.2) } }

/-- A graph slot emptied (R244). -/
def graphEmpty (d : Dev) (g : Nat) : Dev :=
  let d := parkedToBe d g
  setGraph d g { graphOf d g with st := 0, reason := 0, place := [], old := [], newFrom := 0, leaving := false, revokedIn := none }

/-- A withdrawal: at once outside a window, else at the end of the window's last reservation (R244). -/
def graphWithdraw (d : Dev) (g : Nat) : Dev :=
  let x := graphOf d g
  match windowAt x.rcd (now d) with
  | some t =>
    if x.st = 1 && x.admitAt + 8000 < t && now d < t + gSpan x.rcd then setGraph d g { x with leaving := true }
    else graphEmpty d g
  | none => graphEmpty d g

/-- The first opening tick of a graph's windows after a tick (R238). -/
def nextOpening (r : Bytes) (t : Nat) : Nat :=
  if t < gPhase r then gPhase r
  else
    match windowAt r t with
    | some w => w + gPeriod r
    | none => t

/-- The placement of a graph in the window that opens at `t`: a graph that was re-admitted moves from its next window on
(R27). -/
def placeIn (x : Graph) (t : Nat) : List (List Nat) := if x.newFrom ≤ t then x.place else x.old

/-- One graph re-admitted against the lower slots (R27, R244). -/
def readmitOne (pair : List GenSt) (d : Dev) (g : Nat) : Dev :=
  let x := graphOf d g
  if x.st ≠ 1 then d
  else
    match admitDecide (admitEnv d pair (gCtx x.rcd)) (admittedGraphs d g g) x.rcd with
    | .ok p =>
      if p = x.place then d
      else
        let w := (windowAt x.rcd (now d)).getD 0
        setGraph d g { x with place := p, old := placeIn x w, newFrom := nextOpening x.rcd (now d) }
    | .error e =>
      setGraph d g { x with st := 3, reason := e, revokedIn := some (now d) }

/-- Every ADMITTED graph re-admitted in increasing slot order against what remains (R27, R244); a reservation on an
engine out of service ends (R244). -/
def readmit (d : Dev) (pair : List GenSt) : Dev :=
  let d := (List.range 64).foldl (readmitOne pair) d
  { d with disp := { d.disp with resv := d.disp.resv.map fun r =>
      { r with engines := r.engines.filter fun e => engineReady d.comp.bench pair r.kind e } } }

/-- The ADMISSION_REVOKED event of a graph (R259). -/
def postRevoked (d : Dev) (g : Nat) : Dev :=
  let x := graphOf d g
  post d (gCtx x.rcd) 0x0009 noCause (leBytes 1 g ++ leBytes 1 x.reason)

/-- Every admission revoked: as a graph that fails its re-admission (R176, R244). The reason is the haul road's, 5. -/
def revokeAll (d : Dev) : Dev :=
  (List.range 64).foldl (fun d g =>
    if (graphOf d g).st = 1 then setGraph d g { graphOf d g with st := 3, reason := 5, revokedIn := some (now d) } else d) d

/-- Whether an LC descriptor of a graph may issue at all: admitted for its context, or revoked in the window that still
runs (R241, R244). -/
def lcAllowed (d : Dev) (ctx g : Nat) : Bool :=
  let x := graphOf d g
  gCtx x.rcd == ctx && (x.st == 1 || (x.st == 3 && x.revokedIn.isSome))

end Sys2Proof.Machine
end

