-- ==== Sys2Proof/Machine/Retire.lean ====
section
/-!
DEFINITION. Machine/Retire.lean: what gating and retirement do: aborted operations and their outputs (R81, R82, R129,
R150), the remapping of logical benches (R21, R96, R214), frames and pins of bench stores (R203, R204), policy clamps
(R212), and the return of a logical bench (R96).
-/
namespace Sys2Proof.Machine
open Sys2Proof

/-- A state register moved to a state, its generation counted (R95). -/
def genTo (g : GenSt) (st : Nat) : GenSt := ⟨(g.gen + 1) % 65536, st⟩

/-- The state register of bench `b`. -/
def benchReg (d : Dev) (b : Nat) : GenSt := lget ⟨0, 4⟩ d.comp.bench b
/-- Bench `b` moved to a state. -/
def benchTo (d : Dev) (b st : Nat) : Dev :=
  { d with comp := { d.comp with bench := lmod d.comp.bench b fun g => genTo g st } }

/-- The physical bench that hosts logical bench `l`. -/
def hostOf (d : Dev) (l : Nat) : Nat := lget 0xFF d.comp.map l

/-- The logical benches, in rising number. -/
def logicals (d : Dev) : List Nat := List.range d.boot.lbenches

/-- How many logical benches a physical bench hosts. -/
def hosted (d : Dev) (b : Nat) : Nat := ((logicals d).filter fun l => hostOf d l == b).length

/-- Whether bench `b` takes work: READY and hosting a logical bench (R96). -/
def benchTakes (d : Dev) (b : Nat) : Bool := (benchReg d b).st == 1 && 0 < hosted d b

/-- The new host of a logical bench (R21): the lowest-numbered READY bench among those hosting the fewest, or else the
lowest-numbered GATED or DRAINING one; another bench than the one it leaves. -/
def newHost (d : Dev) (old : Nat) : Option Nat :=
  let ready := (List.range 16).filter fun b => b != old && (benchReg d b).st == 1
  match ready with
  | [] => firstBelow 16 fun b => b != old && ((benchReg d b).st == 0 || (benchReg d b).st == 2)
  | _ =>
    let least := ready.foldl (fun m b => min m (hosted d b)) 16
    ready.find? fun b => hosted d b == least

/-- Logical bench `l` remapped (R21). -/
def remapOne (d : Dev) (l : Nat) : Dev :=
  match newHost d (hostOf d l) with
  | some b => { d with comp := { d.comp with map := lset d.comp.map l b } }
  | none => d

/-- Every logical bench hosted on `b` remapped. -/
def remapFrom (d : Dev) (b : Nat) : Dev :=
  ((logicals d).filter fun l => hostOf d l == b).foldl remapOne d

/-- A policy clamp posted to a context for a bound that begins to clamp it (R212): the bound's own key, and the entry and
subindex that the event names. -/
def clampAs (d : Dev) (ctx key idx sub : Nat) : Dev :=
  if d.mem.clamping.contains (ctx, key, sub) then d
  else
    let d := post d ctx 0x0008 noCause (leBytes 2 idx ++ leBytes 1 sub)
    { d with mem := { d.mem with clamping := (ctx, key, sub) :: d.mem.clamping } }

/-- A policy clamp for a bound that an entry sets (R212). -/
def clampCtx (d : Dev) (ctx idx sub : Nat) : Dev := clampAs d ctx idx idx sub

/-- The bound has stopped clamping the context. -/
def unclampCtx (d : Dev) (ctx key sub : Nat) : Dev :=
  { d with mem := { d.mem with clamping := d.mem.clamping.filter fun x => x != (ctx, key, sub) } }

/-- A clamp posted by the memory system, counted in `MEM_POLICY_CLAMPS` (R212). -/
def memClampAs (d : Dev) (ctx key idx sub : Nat) : Dev :=
  if d.mem.clamping.contains (ctx, key, sub) then d
  else
    let d := clampAs d ctx key idx sub
    { d with mem := { d.mem with policyClamps := satAdd 32 d.mem.policyClamps 1 } }

/-- A clamp by a bound that an entry sets. -/
def memClamp (d : Dev) (ctx idx sub : Nat) : Dev := memClampAs d ctx idx idx sub

/-- A clamp by a bound that has no entry: the number its event names is a free value (R211, R212, R259). -/
def memClampFree (d : Dev) (ctx key sub : Nat) : Dev :=
  if d.mem.clamping.contains (ctx, key, sub) then d
  else memClampAs { d with free := d.free + 1 } ctx key ((Config.freeBits d.free).toNat % 65536) sub

/-- The key of the freeze of tensor `id` as a bound. -/
def freezeKey (id : Nat) : Nat := 2 ^ 16 + id
/-- The key of the pin limit of a bench as a bound. -/
def pinKey : Nat := 2 ^ 49

/-- Frames that a ring on the tensor die occupies (R161, R204). -/
def ringFrames (r : Ring) : Nat := if r.consDie = 1 then ceilDiv (r.slots * slotBytes r) 65536 else 0

/-- Whether a tensor is pinned to physical bench `b`. -/
def pinnedOn (d : Dev) (t : Tensor) (b : Nat) : Bool :=
  (logicals d).any fun l => bitAt t.pinMask l && hostOf d l == b

/-- Frames of bench `b` that ring storage occupies (R161, R204). -/
def ringFramesOn (d : Dev) (b : Nat) : Nat :=
  (d.haul.rings.filter fun r => hostOf d r.2.bench == b).foldl (fun n r => n + ringFrames r.2) 0

/-- Frames of bench `b` pinned by rings and tensor pins (R204). -/
def pinnedFrames (d : Dev) (b : Nat) : Nat :=
  (d.mem.tensors.filter fun t => pinnedOn d t.2 b).foldl (fun n t => n + t.2.pages) 0 + ringFramesOn d b

/-- The tensor a page of a context belongs to, with its identifier. -/
def tensorAt (d : Dev) (ctx p : Nat) : Option (Nat × Tensor) :=
  (d.mem.tensors.find? fun e => e.1 / 2 ^ 32 == ctx && e.2.base ≤ p && p < e.2.base + e.2.pages).map fun e =>
    (e.1 % 2 ^ 32, e.2)

/-- The pages of tensors pinned to bench `b` that come before page `key`, in order of context and virtual address (R214). -/
def pinRank (d : Dev) (b key : Nat) : Nat :=
  d.mem.tensors.foldl (fun n t =>
    if pinnedOn d t.2 b then n + min t.2.pages (key - ckey (t.1 / 2 ^ 32) t.2.base) else n) 0

/-- Whether a page is pinned on bench `b`: its tensor is pinned there, and its pin is one of the first 88 frames behind the
rings (R203, R204, R214). -/
def pagePinned (d : Dev) (b key : Nat) : Bool :=
  (match tensorAt d (key / 2 ^ 32) (key % 2 ^ 32) with
    | some t => pinnedOn d t.2 b
    | none => false) && ringFramesOn d b + pinRank d b key < 88

/-- A page without its copy on bench `b`, its dirty blocks written back (R96, R205). -/
def pageLeave (b : Nat) (p : Page) : Page :=
  if bitAt p.copies b then
    let c := p.copies - 2 ^ b
    let di := if bitAt p.dirty b then p.dirty - 2 ^ b else p.dirty
    let st := match p.st with
      | .dirty => if di = 0 then (if c = 0 then .memory else .shared) else .dirty
      | .shared => if c = 0 then .memory else .shared
      | s => s
    { p with st := st, copies := c, dirty := di, lcFrames := if bitAt p.lcFrames b then p.lcFrames - 2 ^ b else p.lcFrames }
  else p

/-- A page with a copy added on bench `b`. -/
def pageJoin (b : Nat) (p : Page) : Page :=
  let st := match p.st with
    | .memory => .shared
    | s => s
  { p with st := st, copies := p.copies ||| 2 ^ b }

/-- Every page's copy on bench `b` written back and dropped; pages pinned to a logical bench that `b` hosted are copied
to the new host, on which they stay pinned (R96, R214). -/
def evacuate (d : Dev) (b : Nat) (wasHosted : List Nat) : Dev :=
  { d with mem := { d.mem with pages := d.mem.pages.map fun e =>
      let p := pageLeave b e.2
      let ls := wasHosted.filter fun l =>
        match tensorAt d (e.1 / 2 ^ 32) (e.1 % 2 ^ 32) with
        | some t => bitAt t.2.pinMask l
        | none => false
      (e.1, if bitAt e.2.copies b then ls.foldl (fun p l => pageJoin (hostOf d l) p) p else p) } }

/-- Whether a context has a pin on bench `b` beyond the first 88 frames (R214). -/
def pinBeyond (d : Dev) (b c : Nat) : Bool :=
  d.mem.tensors.any fun t =>
    t.1 / 2 ^ 32 == c && pinnedOn d t.2 b && 0 < t.2.pages
      && 88 ≤ ringFramesOn d b + pinRank d b (ckey c (t.2.base + t.2.pages - 1))

/-- The pin limit of bench `b` clamps every context with a pin beyond it, once, until it has none (R212, R214). -/
def pinOverload (d : Dev) (b : Nat) : Dev :=
  (List.range 64).foldl (fun d c =>
    if pinBeyond d b c then memClampFree d c pinKey (b + 1) else unclampCtx d c pinKey (b + 1)) d

/-- The pin limits of all benches looked at again after pins or rings have changed. -/
def pinLimits (d : Dev) : Dev := (List.range 16).foldl pinOverload d

/-- Running state of operations that lies on bench `old` copied to bench `b` (R96). -/
def moveScratch (d : Dev) (old b : Nat) : Dev :=
  { d with disp := { d.disp with ops := d.disp.ops.map fun o =>
      (o.1, { o.2 with scratch := (o.2.scratch.map fun x => if x = old then b else x).eraseDups }) } }

/-- The outputs of an aborted operation (R82): every block that it has not wholly written is zero and spoil. -/
def abortOutputs (d : Dev) (o : Op) : Dev := o.left.foldl memSpoilKey d

/-- An operation ended by a fault: its unwritten output blocks are spoil, the FAULT is posted, its engines are released,
and it completes (R82, R225). -/
def abortOp (d : Dev) (id reason : Nat) : Dev :=
  match opOf d id with
  | none => d
  | some o =>
    let d := postOpFault (abortOutputs d o) o reason 0
    setOp d id { o with phase := .done, units := [], needs := [], left := [], held := [], parked := false }

/-- The physical bench of a unit number of a kind: four partitions a bench (R76). -/
def unitBench (k : EngKind) (u : Nat) : Nat := match k with | .bench => u / 4 | _ => u

/-- Whether an operation runs on bench `b`, its vector engine or its quantisation unit. -/
def opOnBench (o : Op) (b : Nat) : Bool :=
  (o.kind == .bench || o.kind == .vec || o.kind == .quant) && !o.parked && o.units.any fun u => unitBench o.kind u == b

/-- The reason an operation of a kind ends with when its bench is retired under it (R90, R124, R146). -/
def workedOutReason : EngKind → Nat
  | .vec => 0x0404
  | .quant => 0x0504
  | _ => 0x0304

/-- Every operation on bench `b` aborted, with a reason by kind. -/
def abortOnBench (d : Dev) (b : Nat) (reason : EngKind → Nat) : Dev :=
  (d.disp.ops.filter fun e => opOnBench e.2 b).foldl (fun d e => abortOp d e.1 (reason e.2.kind)) d

/-- `UNIT_WORKED_OUT` for a state register (R469, R471). -/
def postWorkedOut (d : Dev) (idx sub : Nat) : Dev := postActive d 0x0042 (leBytes 2 idx ++ leBytes 1 sub)

/-- The bench to which the running state kept on bench `b` goes: the host of the first logical bench that `b` hosted, or else
the one R21 would choose (R96, R214). -/
def newHostOf (d : Dev) (b : Nat) : List Nat → Nat
  | l :: _ => hostOf d l
  | [] => (newHost d b).getD b

/-- A bench worked out (R21, R27, R94, R471). -/
def benchRetire (d : Dev) (b : Nat) : Dev :=
  if (benchReg d b).st = 3 || (benchReg d b).st = 4 then d
  else
    let ls := (logicals d).filter fun l => hostOf d l == b
    let d := benchTo d b 3
    let d := abortOnBench d b workedOutReason
    let d := remapFrom d b
    let d := pinLimits (moveScratch (evacuate d b ls) b (newHostOf d b ls))
    readmit (postWorkedOut d 0x5100 (b + 1)) d.sc.pairs

/-- Whether every bench the grade enables is worked out (R472). -/
def noBenchLeft (d : Dev) : Bool :=
  d.comp.bench.all fun g => g.st == 3 || g.st == 4

/-- A bench that leaves service without being worked out: its logical benches are remapped (R96, R468). -/
def benchLeave (d : Dev) (b st : Nat) : Dev := remapFrom (benchTo d b st) b

/-- The contexts that use logical bench `l`: an operation issued, running or parked there, or a tensor pinned to it (R96). -/
def usersOf (d : Dev) (l : Nat) : List Nat :=
  (List.range 64).filter fun c =>
    d.mem.tensors.any (fun t => t.1 / 2 ^ 32 == c && bitAt t.2.pinMask l)
      || d.disp.ops.any fun o => o.2.ctx == c && (o.2.kind == .bench || o.2.kind == .vec || o.2.kind == .quant)
          && (o.2.scratch.contains (hostOf d l) || o.2.units.any fun u => unitBench o.2.kind u == hostOf d l)

/-- The home bench of logical bench `l`, from the configuration record (R454). -/
def homeOf (d : Dev) (l : Nat) : Nat := leAt d.boot.body (120 + l) 1

/-- The pins of logical bench `l` moved from bench `old` to bench `b` (R214). -/
def movePins (d : Dev) (l old b : Nat) : Dev :=
  let move (e : Nat × Page) : Nat × Page :=
    match tensorAt d (e.1 / 2 ^ 32) (e.1 % 2 ^ 32) with
    | some t => (e.1, if bitAt t.2.pinMask l && bitAt e.2.copies old then pageJoin b (pageLeave old e.2) else e.2)
    | none => e
  { d with mem := { d.mem with pages := d.mem.pages.map move } }

/-- Logical bench `l` back on its home bench (R96). -/
def returnHome (d : Dev) (l : Nat) : Dev :=
  let old := hostOf d l
  let ret := d.comp.returning.filter fun x => x.1 != l
  let alone := hosted d old == 1
  let d := { d with comp := { d.comp with map := lset d.comp.map l (homeOf d l), returning := ret } }
  let d := movePins d l old (homeOf d l)
  pinLimits (if alone then moveScratch d old (homeOf d l) else d)

/-- Logical benches whose last user has completed a LAYER since their bench came back return to it (R96). -/
def checkReturn (d : Dev) : Dev :=
  d.comp.returning.foldl (fun d e =>
    if (usersOf d e.1).all (fun c => e.2.contains c) && (benchReg d (homeOf d e.1)).st == 1 then returnHome d e.1
    else d) d

/-- A context has completed a LAYER: it no longer holds back a return (R96). -/
def layerSeen (d : Dev) (ctx : Nat) : Dev :=
  checkReturn { d with comp := { d.comp with returning := d.comp.returning.map fun e => (e.1, insSorted e.2 ctx) } }

end Sys2Proof.Machine
end

