-- ==== Sys2Proof/Machine/Pager.lean ====
section
/-!
DEFINITION. Machine/Pager.lean: LPDDR6 channels, page assignment, page faults and their service, drops, host supply and
channel retirement (R205 to R217).
-/
namespace Sys2Proof.Machine
open Sys2Proof

/-- The state register of channel `c`. -/
def chanReg (d : Dev) (c : Nat) : GenSt := lget ⟨0, 3⟩ d.mem.chans c
/-- Channel `c` moved to a state (R215). -/
def chanTo (d : Dev) (c st : Nat) : Dev :=
  { d with mem := { d.mem with chans := lmod d.mem.chans c fun g => genTo g st } }

/-- Pages assigned to channel `c`. -/
def chanUsed (d : Dev) (c : Nat) : Nat := (d.mem.pages.filter fun p => p.2.chan == some c).length
/-- Unassigned pages of channel `c`. -/
def chanFree (d : Dev) (c : Nat) : Nat := d.mem.chanPages - chanUsed d c
/-- Whether channel `c` is filled to its ceiling (R211). -/
def chanFull (d : Dev) (c : Nat) : Bool := lget 100 d.mem.ceil c * d.mem.chanPages ≤ 100 * chanUsed d c
/-- READY channels in rising number. -/
def readyChans (d : Dev) : List Nat := (List.range 8).filter fun c => (chanReg d c).st == 1
/-- `MEM_FREE_PAGES` (R219). -/
def freePages (d : Dev) : Nat := (readyChans d).foldl (fun n c => n + chanFree d c) 0
/-- `MEM_CAPACITY` (R219). -/
def memCapacity (d : Dev) : Nat := (readyChans d).length * d.mem.chanPages * 65536

/-- The channel for a new or moving page of a context, in rotation over the READY channels and under their ceilings;
ceilings that block the choice clamp it (R211 to R213). -/
def pickChan (d : Dev) (ctx : Nat) : Option Nat × Dev :=
  let order := (List.range 8).map fun i => (d.mem.rotation + i) % 8
  let ready := order.filter fun c => (chanReg d c).st == 1 && 0 < chanFree d c
  let ok := ready.filter fun c => !chanFull d c
  match ok with
  | c :: _ =>
    let d := match ready with
      | b :: _ => if chanFull d b then memClamp d ctx 0x5502 (b + 1) else unclampCtx d ctx 0x5502 (b + 1)
      | [] => d
    (some c, { d with mem := { d.mem with rotation := (c + 1) % 8 } })
  | [] =>
    match ready with
    | [] => (none, d)
    | b :: bs =>
      let c := bs.foldl (fun m c => if chanFree d m < chanFree d c then c else m) b
      (some c, memClamp d ctx 0x5502 (b + 1))

/-- Whether a page may be dropped back to its host, which frees a page that can be used: its channel is READY (R210, R216). -/
def droppable (d : Dev) (e : Nat × Page) : Bool :=
  e.2.st == .memory && !e.2.written && (match e.2.chan with | some c => (chanReg d c).st == 1 | none => false) &&
    match tensorAt d (e.1 / 2 ^ 32) (e.1 % 2 ^ 32) with
    | some t => t.2.host && !t.2.pinMem
    | none => false

/-- The operation that waits for a page, if any. -/
def waitingOp (d : Dev) (ctx p : Nat) : Option Op :=
  (d.disp.ops.find? fun o => o.2.needs.any fun n => n.1 == ckey ctx p).map fun e => e.2

/-- What an event says of an operation as its cause (R221, R258). -/
def causeOf (o : Option Op) : Cause := match o with | some o => ⟨hTag o.desc, o.queue⟩ | none => noCause

/-- A PAGE_REQUEST for a page, posted once, with the tag and queue of the descriptor that touched it (R208, R221, R259). -/
def pageRequest (d : Dev) (ctx p : Nat) (o : Option Op) : Dev :=
  if (pageOf d ctx p).req.isSome then d
  else
    match tensorAt d ctx p with
    | some t =>
      let d := post d ctx 0x0006 (causeOf o) (leBytes 4 t.1 ++ leBytes 4 (p - t.2.base) ++ leBytes 8 (p * 65536))
      modPage d ctx p fun x => { x with req := some (now d) }
    | none => d

/-- A page dropped back to HOST_ABSENT, its LPDDR6 page freed; an operation that waits for it asks its host again (R208,
R210). -/
def dropPage (d : Dev) (ctx p : Nat) : Dev :=
  let d := modPage (memClearPage d ctx p) ctx p fun x => { x with st := .hostAbsent, chan := none, got := 0, req := none }
  match waitingOp d ctx p with
  | some o =>
    let d := { d with mem := { d.mem with hardFaults := satAdd 64 d.mem.hardFaults 1 } }
    pageRequest d ctx p (some o)
  | none => d

/-- An LPDDR6 page for a page of a context; with none free, an unwritten HOST page is dropped (R210). -/
def takeChan (d : Dev) (ctx : Nat) : Option Nat × Dev :=
  match pickChan d ctx with
  | (some c, d) => (some c, d)
  | (none, d) =>
    match d.mem.pages.find? (droppable d) with
    | some e => pickChan (dropPage d (e.1 / 2 ^ 32) (e.1 % 2 ^ 32)) ctx
    | none => (none, d)

/-- A page assigned to a channel if it has none. -/
def assignPage (d : Dev) (ctx p : Nat) : Dev :=
  if (pageOf d ctx p).chan.isSome then d
  else
    match takeChan d ctx with
    | (some c, d) => modPage d ctx p fun x => { x with chan := some c }
    | (none, d) => d

/-- The reason of a page fault that cannot be served (R209). -/
def unservedReason : EngKind → Nat
  | .haul => 0x0603
  | _ => 0x0705

/-- A page whose fault is unserved: SPOILED, with one FAULT to its context (R209). A LOST page that had been written still
counts as written (R208). -/
def pageUnserved (d : Dev) (ctx p : Nat) (o : Option Op) : Dev :=
  let d := modPage (memSpoilPage d ctx p) ctx p fun x =>
    { x with st := .spoiled, req := none, got := 0, written := x.st == .lost && x.written, copies := 0, dirty := 0, lcFrames := 0 }
  let mark (e : Nat × Op) : Nat × Op :=
    (e.1, if e.2.kind == .haul && e.2.needs.any (fun n => n.1 == ckey ctx p) then { e.2 with spoilRest := true } else e.2)
  let d := { d with disp := { d.disp with ops := d.disp.ops.map mark } }
  match o with
  | some o => postOpFault d o (unservedReason o.kind) (p * 65536)
  | none => postFault d ctx noCause 0x0603 0 0 (p * 65536)

/-- A touch of a page whose contents the device does not hold: a hard fault (R206, R208, R209). -/
def touchPage (d : Dev) (ctx p : Nat) (o : Option Op) : Dev :=
  let x := pageOf d ctx p
  match x.st with
  | .hostAbsent =>
    let d := { d with mem := { d.mem with hardFaults := satAdd 64 d.mem.hardFaults 1 } }
    pageRequest d ctx p o
  | .lost =>
    let d := { d with mem := { d.mem with hardFaults := satAdd 64 d.mem.hardFaults 1 } }
    match tensorAt d ctx p with
    | some t =>
      if t.2.host && !x.written then pageRequest (modPage d ctx p fun x => { x with st := .hostAbsent, got := 0 }) ctx p o
      else pageUnserved d ctx p o
    | none => d
  | _ => d

/-- The pages of a byte range that an engine on bench `b` must wait for: not resident there (R206). -/
def needPages (d : Dev) (ctx : Nat) (t : Tensor) (lo hi b : Nat) : List (Nat × Nat) :=
  ((pagesOf t lo hi).filter fun p => !bitAt (pageOf d ctx p).copies b).map fun p => (ckey ctx p, b)

/-- The pages of a byte range that a haul engine must wait for: resident on no bench (R181); the bench is chosen when
the page comes in. -/
def needHaul (d : Dev) (ctx : Nat) (t : Tensor) (lo hi : Nat) : List (Nat × Nat) :=
  ((pagesOf t lo hi).filter fun p => (pageOf d ctx p).copies == 0).map fun p => (ckey ctx p, 16)

/-- Every page a list of needs names, touched. -/
def touchAll (d : Dev) (ns : List (Nat × Nat)) (o : Option Op) : Dev :=
  ns.foldl (fun d n => touchPage d (n.1 / 2 ^ 32) (n.1 % 2 ^ 32) o) d

/-- Whether a need can be served: the device holds the page's contents, or it reads as zero or spoil. -/
def servable (d : Dev) (n : Nat × Nat) : Bool :=
  let s := (pageOf d (n.1 / 2 ^ 32) (n.1 % 2 ^ 32)).st
  s != .hostAbsent && s != .lost

/-- Unpinned frames that pages of a context hold on bench `b` (R203, R211). -/
def ctxFrames (d : Dev) (ctx b : Nat) : Nat :=
  (d.mem.pages.filter fun e => e.1 / 2 ^ 32 == ctx && bitAt e.2.copies b && !pagePinned d b e.1).length

/-- Frames on each bench that hold the running state of an operation: four bytes a value, shared by the benches it runs on
(R66, R149, R203). DESIGN CHOICE: assumption log 119. -/
def opScratch (o : Op) : Nat := ceilDiv (4 * o.held.length) (65536 * max 1 o.scratch.length)

/-- Frames of running state on bench `b`, of the operations that `f` picks. -/
def scratchOn (d : Dev) (b : Nat) (f : Op → Bool) : Nat :=
  (d.disp.ops.filter fun o => o.2.scratch.contains b && f o.2).foldl (fun n o => n + opScratch o.2) 0

/-- Pinned frames in use on bench `b`: ring storage and resident pinned pages (R203). -/
def fixedUsed (d : Dev) (b : Nat) : Nat :=
  (d.mem.pages.filter fun e => bitAt e.2.copies b && pagePinned d b e.1).length + ringFramesOn d b

/-- Frames of a class in use on bench `b`: unpinned pages that its faults brought in, and its running state (R203). -/
def classUsed (d : Dev) (b : Nat) (lc : Bool) : Nat :=
  (d.mem.pages.filter fun e => bitAt e.2.copies b && !pagePinned d b e.1 && bitAt e.2.lcFrames b == lc).length
    + scratchOn d b fun o => o.lc == lc

/-- Frames in use on bench `b`. -/
def benchFramesUsed (d : Dev) (b : Nat) : Nat := fixedUsed d b + classUsed d b true + classUsed d b false

/-- Whether bench `b` has frames for `p` more pinned ones, `l` more latency-critical and `e` more best-effort ones: 88 frames
serve anything, four more each class alone (R203). -/
def frameFree (d : Dev) (b p l e : Nat) : Bool :=
  fixedUsed d b + p + (classUsed d b true + l - 4) + (classUsed d b false + e - 4) ≤ 88

/-- An evictable page on bench `b` of a class, of the context given or of any: unpinned there, its context above its floor
(R203, R205, R211). -/
def victimOf (d : Dev) (b : Nat) (lc : Bool) (ctx : Option Nat) : Option Nat :=
  (d.mem.pages.find? fun e =>
    let c := e.1 / 2 ^ 32
    bitAt e.2.copies b && bitAt e.2.lcFrames b == lc && (ctx == none || ctx == some c) && !pagePinned d b e.1
      && (ctxOf d c).floor < ctxFrames d c b + scratchOn d b fun o => o.ctx == c).map fun e => e.1

/-- The victim for a frame of a class: among the frames of that class first, then of the other where it holds more than its own
four (R205). -/
def victim (d : Dev) (b : Nat) (lc : Bool) (ctx : Option Nat) : Option Nat :=
  (victimOf d b lc ctx).orElse fun _ => if 4 < classUsed d b (!lc) || ctx.isSome then victimOf d b (!lc) ctx else none

/-- A page evicted from bench `b`, its dirty blocks written back (R205). -/
def evictPage (d : Dev) (key b : Nat) : Dev := modPage d (key / 2 ^ 32) (key % 2 ^ 32) (pageLeave b)

/-- Pages evicted from bench `b` until the frames asked for are free; whether they are. -/
def makeFrames : Nat → Dev → Nat → Bool → Nat → Nat → Nat → Dev × Bool
  | 0, d, b, _, p, l, e => (d, frameFree d b p l e)
  | n + 1, d, b, lc, p, l, e =>
    if frameFree d b p l e then (d, true)
    else
      match victim d b lc none with
      | some k => makeFrames n (evictPage d k b) b lc p l e
      | none => (d, false)

/-- Room made on bench `b` for one more unpinned frame of a context and class, inside the placement envelope (R205, R211,
R212); whether it was. -/
def makeRoom (d : Dev) (ctx b : Nat) (lc : Bool) : Dev × Bool :=
  let c := ctxOf d ctx
  if c.ceiling ≤ ctxFrames d ctx b then
    let d := memClamp d ctx 0x5511 (ctx + 1)
    match victim d b lc (some ctx) with
    | some k => makeFrames 96 (evictPage d k b) b lc 0 (if lc then 1 else 0) (if lc then 0 else 1)
    | none => (d, false)
  else makeFrames 96 (unclampCtx d ctx 0x5511 (ctx + 1)) b lc 0 (if lc then 1 else 0) (if lc then 0 else 1)

/-- Frames granted to the running state of an operation on its benches: pages give way (R203, R205). -/
def grantScratch (d : Dev) (o : Op) : Dev := o.scratch.foldl (fun d b => (makeFrames 96 d b o.lc 0 0 0).1) d

/-- A page brought into bench `b` for a fault of a class (R205 to R207): written back first where it is dirty elsewhere,
zero-filled where it is UNTOUCHED. -/
def pageIn (d : Dev) (ctx p b : Nat) (lc : Bool) : Dev :=
  let d := modPage d ctx p fun x =>
    let y := match x.st with
      | .dirty => { x with st := .shared, dirty := 0, copies := x.copies ||| 2 ^ b }
      | _ => pageJoin b x
    if lc then { y with lcFrames := y.lcFrames ||| 2 ^ b } else y
  { d with mem := { d.mem with softFaults := satAdd 64 d.mem.softFaults 1 } }

/-- Pages that hold a write but no LPDDR6 page get one; where none is free the page is SPOILED (R209, R210, R217). -/
def homeWritten (d : Dev) : Dev :=
  (d.mem.pages.filter fun e => e.2.chan.isNone && e.2.written && (e.2.st == .dirty || e.2.st == .memory)).foldl (fun d e =>
    let ctx := e.1 / 2 ^ 32
    let p := e.1 % 2 ^ 32
    let d := assignPage d ctx p
    if (pageOf d ctx p).chan.isSome then d else pageUnserved d ctx p (waitingOp d ctx p)) d

/-- Pages made LOST, one PAGES_LOST for each context that has any (R217). -/
def postLost (d : Dev) (lost : List Nat) : Dev :=
  (List.range 64).foldl (fun d c =>
    let n := (lost.filter fun k => k / 2 ^ 32 == c).length
    if n = 0 then d else post d c 0x0007 noCause (leBytes 4 n)) d

/-- A page of a retired channel re-placed, or left as `lose` says when there is no room (R217). -/
def replacePage (d : Dev) (key : Nat) (lose : Bool) : Dev × List Nat :=
  let ctx := key / 2 ^ 32
  let p := key % 2 ^ 32
  match pickChan d ctx with
  | (some c, d) => (modPage d ctx p fun x => { x with chan := some c }, [])
  | (none, d) =>
    if lose then
      (modPage (memClearPage d ctx p) ctx p fun x =>
        { x with st := .lost, chan := none, copies := 0, dirty := 0, lcFrames := 0 }, [key])
    else (modPage d ctx p fun x => { x with chan := none }, [])

/-- Whether an identifier names a ring whose slots lie on the tensor die. -/
def tensorRing (d : Dev) (i : Nat) : Bool :=
  isRingId i && match ringOf d (ringIdOf i) with | some x => x.consDie == 1 | none => false

/-- Whether a descriptor uses tensor-die memory (R194). -/
def usesMemory (d : Dev) (x : Desc) : Bool :=
  let near (i : Nat) : Bool := isTensorId i || tensorRing d i
  match hOpcode x with
  | 0x08 | 0x10 | 0x11 | 0x20 | 0x30 | 0x50 | 0x51 => true
  | 0x40 => near (dfield x 24 0 32) && !(dbit x 57 3 && dbit x 57 2) || near (dfield x 28 0 32) && !(dbit x 57 3 && !dbit x 57 2)
  | 0x41 => dfield x 24 0 8 == 1 && dbit x 29 6
  | _ => false

/-- The memory system worked out: every bench is gated, tensor-die work ends with MEM_DOWN (R194). -/
def memDown (d : Dev) : Dev :=
  let d := { d with mem := { d.mem with down := true } }
  let d := (List.range 16).foldl (fun d b =>
    let d := abortOnBench d b fun _ => 0x0706
    if (benchReg d b).st = 1 || (benchReg d b).st = 2 then benchTo d b 0 else d) d
  (d.disp.ops.filter fun o => (o.2.kind == .haul || o.2.kind == .mem) && usesMemory d o.2.desc).foldl (fun d o =>
    abortOp d o.1 0x0706) d

/-- Channel `c` worked out by hardware, and what becomes of its pages (R217, R461, R471). -/
def chanRetire (d : Dev) (c : Nat) : Dev :=
  if (chanReg d c).st = 3 then d
  else
    let on := d.mem.pages.filter fun e => e.2.chan == some c
    let held := on.filter fun e => e.2.copies != 0
    let bare := on.filter fun e => e.2.copies == 0
    let empty := bare.filter fun e => e.2.st == .untouched || e.2.st == .hostAbsent
    let spoiled := bare.filter fun e => e.2.st == .spoiled
    let gone := bare.filter fun e => e.2.st != .untouched && e.2.st != .hostAbsent && e.2.st != .spoiled
    let d := chanTo d c 3
    let step (lose : Bool) (a : Dev × List Nat) (e : Nat × Page) : Dev × List Nat :=
      let r := replacePage a.1 e.1 lose
      (r.1, a.2 ++ r.2)
    let a := held.foldl (step true) (d, [])
    let a := empty.foldl (step false) a
    let a := spoiled.foldl (step true) a
    let d := gone.foldl (fun d e =>
      modPage (memClearPage d (e.1 / 2 ^ 32) (e.1 % 2 ^ 32)) (e.1 / 2 ^ 32) (e.1 % 2 ^ 32) fun x =>
        { x with st := .lost, chan := none }) a.1
    let d := postLost d (a.2 ++ gone.map fun e => e.1)
    let d := postWorkedOut d 0x5501 (c + 1)
    let q := c / 2
    let d := if (chanReg d (2 * q)).st = 3 && (chanReg d (2 * q + 1)).st = 3 then
        { d with pwr := { d.pwr with domains := lmod d.pwr.domains (2 + q) fun g => genTo g 3 } }
      else d
    let d := d.disp.ops.foldl (fun d o => touchAll d (o.2.needs.filter fun n => !servable d n) (some o.2)) d
    if (List.range 8).all fun k => (chanReg d k).st == 3 then memDown d else d

/-- Whether a page is read from LPDDR6 when it comes in (R206, R207). -/
def fetched (s : PageSt) : Bool := s == .memory || s == .shared || s == .dirty || s == .spoiled

/-- The 64 bits of metadata that a block carries in LPDDR6: its CRC-16 over the 64 data bytes and the spoil byte, its spoil
mark, and zeros (R193, R195). They follow from the block, so they change with every write of it. -/
def blockMeta (d : Dev) (ctx va : Nat) : BitVec 64 :=
  let bs := (List.range 64).map fun i => memByte d ctx (va / 64 * 64 + i)
  let spoil := memSpoil d ctx va
  BitVec.ofNat 64 (crc16 (bs ++ [if spoil then 1 else 0]) + if spoil then 65536 else 0)

/-- What one block's failed CRC comes to as its page is read: a transient is counted, a permanent failure delivers the block
as spoil (R196). -/
def blockCheck (ctx : Nat) (d : Dev) (f : BlockFail) : Dev :=
  match (pageOf d ctx f.page).chan with
  | none => d
  | some c =>
    if f.permanent then memSpoilBlock d ctx (f.page * 65536 + 64 * f.block)
    else { d with mem := { d.mem with crcTransients := lmod d.mem.crcTransients c fun n => satAdd 32 n 1 } }

/-- The failures among the blocks that a read of pages takes from LPDDR6. -/
def readFails (d : Dev) (ctx : Nat) (ps : List Nat) (fs : List BlockFail) : List BlockFail :=
  fs.filter fun f => ps.contains f.page && fetched (pageOf d ctx f.page).st && (pageOf d ctx f.page).chan.isSome

/-- The channels that a read works out. -/
def readRetires (d : Dev) (ctx : Nat) (fs : List BlockFail) : List Nat :=
  ((fs.filter fun f => f.permanent).filterMap fun f => (pageOf d ctx f.page).chan).eraseDups

/-- The failures of a read marked: its blocks are delivered as the second read leaves them (R196). -/
def readMarked (d : Dev) (ctx : Nat) (ps : List Nat) (fs : List BlockFail) : Dev := (readFails d ctx ps fs).foldl (blockCheck ctx) d

/-- What a read comes to: the channels that failed are worked out once it is done (R196, R217). -/
def readDone (d : Dev) (ctx : Nat) (ps : List Nat) (fs : List BlockFail) (after : Dev) : Dev :=
  (readRetires d ctx (readFails d ctx ps fs)).foldl chanRetire after

/-- Pages of a context read from LPDDR6 with the failures of their blocks, for what `use` makes of them (R196, R217). -/
def readPages (d : Dev) (ctx : Nat) (ps : List Nat) (fs : List BlockFail) (use : Dev → Dev) : Dev :=
  readDone d ctx ps fs (use (readMarked d ctx ps fs))

/-- Bytes the host supplies for a page it holds (R208, R423): kept until every byte of the page is there, then the page
is in MEMORY; bytes beyond the tensor are ignored. -/
def hostSupply (d : Dev) (ctx p : Nat) : Dev :=
  match tensorAt d ctx p with
  | none => d
  | some t =>
    let bytes := min 65536 (t.2.size - (p - t.2.base) * 65536)
    let want := 2 ^ ceilDiv bytes 64 - 1
    let x := pageOf d ctx p
    if x.got &&& want = want then
      let d := assignPage d ctx p
      if (pageOf d ctx p).chan.isSome then
        modPage d ctx p fun x => { x with st := .memory, req := none, got := 0, written := false }
      else pageUnserved d ctx p (waitingOp d ctx p)
    else d

end Sys2Proof.Machine
end

