-- ==== Sys2Proof/Machine/Rings.lean ====
section
/-!
DEFINITION. Machine/Rings.lean: ring slots and their transitions (R160 to R168), and the haul road's flits, replay and
acknowledgements (R169 to R176).
-/
namespace Sys2Proof.Machine
open Sys2Proof

/-! ### The haul road -/

/-- A direction of the haul road. -/
def roadOf (d : Dev) (dir : Dir) : RoadDir := match dir with | .st => d.haul.st | .ts => d.haul.ts
/-- The device with a direction of the haul road replaced. -/
def setRoad (d : Dev) (dir : Dir) (x : RoadDir) : Dev :=
  match dir with
  | .st => { d with haul := { d.haul with st := x } }
  | .ts => { d with haul := { d.haul with ts := x } }
/-- The other direction. -/
def otherDir : Dir → Dir | .st => .ts | .ts => .st
/-- Whether the haul road is worked out (R176). -/
def roadDown (d : Dev) : Bool := d.haul.roadLanes == 0
/-- Whether a retrain is in progress (R173). -/
def retraining (d : Dev) : Bool := d.haul.st.retrain || d.haul.ts.retrain

/-- A flit that waits to be sent. -/
def newFlit (lc : Bool) (p : Payload) : Flit := ⟨lc, p, []⟩

/-- A flit queued for a direction (R170); nothing crosses a worked-out road (R176). -/
def enqueue (d : Dev) (dir : Dir) (lc : Bool) (p : Payload) : Dev :=
  if roadDown d then d
  else
    let x := roadOf d dir
    setRoad d dir { x with wait := x.wait ++ [newFlit lc p] }

/-- Whether a class has a credit: the receive buffer has 256 places, 64 of them for latency-critical flits (R175). -/
def flitCredit (x : RoadDir) (lc : Bool) : Bool := if lc then x.lcUsed < 64 else x.beUsed < 192

/-- The next flit of a direction to be accepted: a refused one first (R172), else the first latency-critical one, else the
first best-effort one, each with a credit of its class (R175), while the replay buffer has room (R171). -/
def nextFlit (x : RoadDir) : Option Flit :=
  match x.refused with
  | some n => tfind x.replay n
  | none =>
    if 64 ≤ x.replay.length then none
    else
      ((x.wait.find? fun f => f.lc).filter fun f => flitCredit x f.lc).orElse fun _ =>
        (x.wait.find? fun f => !f.lc).filter fun f => flitCredit x f.lc

/-- A list without the first flit of a class. -/
def dropFlit (lc : Bool) : List Flit → List Flit
  | [] => []
  | f :: t => if f.lc == lc then t else f :: dropFlit lc t

/-- Places of the receive buffer taken or given back by a flit of a class (R175). -/
def useCredit (x : RoadDir) (lc take : Bool) : RoadDir :=
  let n (k : Nat) : Nat := if take then k + 1 else k - 1
  if lc then { x with lcUsed := n x.lcUsed } else { x with beUsed := n x.beUsed }

/-- The route header of a system-ring slot and its payload (R419). -/
def routeBytes (s : SysSlot) : Bytes :=
  leBytes 1 s.type ++ leBytes 1 s.ctx ++ leBytes 1 s.ep ++ leBytes 1 (if s.last then 1 else 0) ++ leBytes 2 s.payload.length
    ++ zeros 2 ++ leBytes 4 s.seq ++ leBytes 4 s.arg0 ++ leBytes 8 s.arg1 ++ leBytes 8 s.spoil
    ++ (s.box ++ zeros (32 - s.box.length)) ++ s.payload

/-- The system-ring slot of a number. -/
def sysSlot (d : Dev) (num : Nat) : Option SysSlot :=
  (d.net.inLc ++ d.net.inBe ++ d.net.outLc ++ d.net.outBe).find? fun s => s.num == num

/-- What a descriptor that is none of a queue's says, as numbers. -/
def payloadKey : Payload → List Nat
  | .syncInc obj inc ctx tag queue op idx => [1, obj, inc, ctx, tag, queue, op, idx]
  | .ringInc r obj => [2, r, obj]
  | .preempt c t => [3, c, t]
  | .complete ctx q idx x => [4, ctx, q, idx, x.toNat]
  | .request i s => [5, i, s]
  | .answer i s => [6, i, s]
  | .trigInc i => [7, i.trig, i.obj, i.inc, i.ctx, i.tick]
  | .timebase n => [8, n]
  | .sysRelease out lc n => [9, if out then 1 else 0, if lc then 1 else 0, n]
  | .sysData out lc n i => [10, if out then 1 else 0, if lc then 1 else 0, n, i]
  | _ => []

/-- `TYPE` of a flit (R169). -/
def flitType : Payload → Nat
  | .slotData _ _ _ _ _ _ | .sysData _ _ _ _ => 1
  | .slotRelease _ _ | .sysRelease _ _ _ => 2
  | _ => 3

/-- The fields of a flit's payload: `LAST`, `SPOIL`, `RING`, `SLOT`, `FLIT_INDEX`, and its bytes (R169, R419). -/
def flitFields (d : Dev) (p : Payload) : Bool × Bool × Nat × Nat × Nat × Bytes :=
  let k := payloadKey p
  match p with
  | .slotData r s i last spoil bs => (last, spoil, r, s, i, bs)
  | .slotRelease r s => (false, false, r, s, 0, [])
  | .sysRelease _ _ _ => (false, false, Config.roadField k 64 % 4096, Config.roadField k 65 % 64, 0, [])
  | .sysData _ _ n i =>
    let bs := match sysSlot d n with | some s => routeBytes s | none => []
    (240 * (i + 1) ≥ bs.length, false, Config.roadField k 64 % 4096, Config.roadField k 65 % 64, i, (bs.drop (240 * i)).take 240)
  | .descriptor x => (false, false, 0, 0, 0, leBytes 64 x.toNat)
  | _ => (false, false, 0, 0, 0, (List.range 64).map fun i => BitVec.ofNat 8 (Config.roadField k i))

/-- The 256 bytes of the next flit of a direction (R169): it acknowledges every flit of the other direction, or refuses one. -/
def flitImage (d : Dev) (dir : Dir) (f : Flit) : Bytes :=
  let y := roadOf d (otherDir dir)
  let w := flitFields d f.pay
  let ack := match y.refused with | some n => n | none => (y.seq + 65535) % 65536
  let head := beBytes 1 (16 * flitType f.pay + (if f.lc then 8 else 0) + (if w.1 then 4 else 0) + if w.2.1 then 2 else 0)
    ++ beBytes 1 0 ++ beBytes 2 (roadOf d dir).seq ++ beBytes 2 w.2.2.1 ++ beBytes 1 w.2.2.2.1
    ++ beBytes 1 (if y.refused.isSome then 2 else 1) ++ beBytes 2 ack ++ beBytes 2 w.2.2.2.2.1
  let body := head ++ w.2.2.2.2.2 ++ zeros (240 - w.2.2.2.2.2.length)
  body ++ beBytes 4 (crc32 body)

/-- The next flit sent: it leaves the waiting list, takes a credit and a sequence number, and stays in the replay buffer with its
image, whose bytes a replay sends again (R169, R171, R173, R175). -/
def sendFlit (d : Dev) (dir : Dir) (f : Flit) : RoadDir :=
  let y := useCredit (roadOf d dir) f.lc true
  { y with wait := dropFlit f.lc y.wait, seq := (y.seq + 1) % 65536,
           replay := tset y.replay y.seq { f with image := flitImage d dir f } }

/-- The next flit of a direction accepted at its receiver, which gives its place back; its acknowledgement of the other
direction frees that replay buffer (R169, R171, R175); a flit that arrives intact after one replay counts as transient, one
that had failed twice does not (R172). -/
def acceptFlit (d : Dev) (dir : Dir) (f : Flit) : Dev :=
  let x := roadOf d dir
  let d := match x.refused with
    | some _ =>
      let d := setRoad d dir (useCredit { x with refused := none, failed := false } f.lc false)
      if x.failed then { d with haul := { d.haul with replays := satAdd 32 d.haul.replays 1 } } else d
    | none => setRoad d dir (useCredit (sendFlit d dir f) f.lc false)
  let y := roadOf d (otherDir dir)
  setRoad d (otherDir dir) (if y.refused.isSome then y else { y with replay := [] })

/-- Whether flits of a direction can move. -/
def roadRuns (d : Dev) : Bool := !roadDown d && !retraining d

/-- Whether a flit of a class sent now is the next to be accepted: no flit that goes before it waits, none is being replayed,
and it finds a credit and room in the replay buffer (R171, R172, R175). -/
def canCross (d : Dev) (dir : Dir) (lc : Bool) : Bool :=
  let x := roadOf d dir
  roadRuns d && x.refused.isNone && x.replay.length < 64 && flitCredit x lc && x.wait.all fun f => lc && !f.lc

/-- A flit sent and accepted before any other (R170). -/
def crossFlit (d : Dev) (dir : Dir) (lc : Bool) (p : Payload) : Dev :=
  let x := roadOf d dir
  acceptFlit (setRoad d dir { x with wait := x.wait ++ [newFlit lc p] }) dir (newFlit lc p)

/-! ### Rings -/

/-- The direction a ring's data crosses, if it crosses the haul road (R161). -/
def ringDir (r : Ring) : Option Dir :=
  if r.prodDie = r.consDie then none else if r.prodDie = 0 then some .st else some .ts

/-- The state of slot `s` of a ring. -/
def slotStOf (r : Ring) (s : Nat) : SlotSt := lget .empty r.slotSt s

/-- A slot's state set. -/
def setSlot (d : Dev) (r s : Nat) (st : SlotSt) : Dev := modRing d r fun x => { x with slotSt := lset x.slotSt s st }

/-- Whether the producer of a ring may write the slot at the tail, or is writing it (R163). -/
def tailOpen (x : Ring) : Bool := slotStOf x x.tail == .filling && !x.posted
/-- Whether the consumer of a ring is reading the slot at the head (R163). -/
def headOpen (x : Ring) : Bool := slotStOf x x.head == .draining && !x.given

/-- An increment by a ring at the dispatcher; one to an undeclared object is discarded, with one FAULT for the ring (R163,
R510). -/
def ringAdd (d : Dev) (r obj : Nat) : Dev :=
  match ringOf d r with
  | none => d
  | some x =>
    if (syncOf d obj).declared then syncAdd d obj 1 x.ctx x.ctx noCause 0 0
    else if x.faulted then d
    else postFault (setRing d r { x with faulted := true }) x.ctx noCause 0x0802 0 0 0

/-- An increment by a ring on a die: from the signal die it crosses to the dispatcher in a DESCRIPTOR flit (R164, R170). -/
def ringInc (d : Dev) (die r obj : Nat) : Dev :=
  if die = 1 then ringAdd d r obj
  else match ringOf d r with
    | some x => enqueue d .st x.lc (.ringInc r obj)
    | none => d

/-- The global count on a die (R19). -/
def countOn (d : Dev) (die : Nat) : Nat := if die = 1 then d.time.replica else d.time.ticks

/-- The deadline check of an arriving slot `n` of a ring (R167, R168). -/
def deadlineCheck (d : Dev) (r : Nat) (x : Ring) : Dev :=
  let dl := x.dlBase + x.count * x.dlPeriod
  let a := countOn d x.consDie
  if x.rt && dl < a then
    let d := postAt d a x.ctx 0x0004 noCause (leBytes 2 r ++ zeros 2 ++ leBytes 4 x.count ++ leBytes 8 dl)
    { d with haul := { d.haul with deadlineMisses := satAdd 32 d.haul.deadlineMisses 1 } }
  else d

/-- The next slot to arrive is complete on the consumer's die: FULL, or SPOIL when a block of it is spoil; the tail advances,
the deadline is checked and the FULL object incremented (R162 to R168). -/
def slotFull (d : Dev) (r : Nat) : Dev :=
  match ringOf d r with
  | none => d
  | some x =>
    let s := x.count % x.slots
    let d := setRing d r { x with slotSt := lset x.slotSt s (if slotSpoil d r s then .spoil else .full),
                                  fullAt := lset x.fullAt s (now d), tail := (s + 1) % x.slots, posted := false,
                                  staged := [], sent := [], count := x.count + 1 }
    let d := deadlineCheck d r x
    if x.fullEn then ringInc d x.consDie r x.fullObj else d

/-- Where the producer's writes to slot `s` of a ring collect: where the consumer is on the other die, in a staging buffer on
the producer's die, numbered behind the slots (R169, R335). -/
def stageSlot (x : Ring) (s : Nat) : Nat := if (ringDir x).isSome then 64 + s else s

/-- Flit `i` of the slot at the tail (R169): 240 bytes, the last one with `LAST`, with `SPOIL` where any byte of the payload
is spoil. -/
def slotFlit (d : Dev) (r : Nat) (x : Ring) (i : Nat) : Payload :=
  let size := slotBytes x
  let len := min 240 (size - 240 * i)
  let s := stageSlot x x.tail
  .slotData r x.tail i (240 * (i + 1) ≥ size) ((List.range (ceilDiv len 4)).any fun j => slotSpoilAt d r s (240 * i + 4 * j))
    (slotRead d r s (240 * i) len)

/-- The flits of a slot in order, but for those already sent. -/
def slotFlits (d : Dev) (r : Nat) (x : Ring) : List Payload :=
  ((List.range (ceilDiv (slotBytes x) 240)).filter fun i => !x.sent.contains i || 240 * (i + 1) ≥ slotBytes x).map
    (slotFlit d r x)

/-- Bytes stored in the slot at the tail: a payload of 240 bytes that is complete is sent at once, the last one of the slot
with its post (R335). -/
def noteStored (d : Dev) (r off n : Nat) : Dev :=
  match ringOf d r with
  | none => d
  | some x =>
    match ringDir x with
    | none => d
    | some dir =>
      let staged := (List.range n).foldl (fun l i => insSorted l (off + i)) x.staged
      let now_ := (List.range (ceilDiv (slotBytes x) 240 - 1)).filter fun i =>
        !x.sent.contains i && (List.range 240).all fun j => staged.contains (240 * i + j)
      let d := setRing d r { x with staged := staged, sent := x.sent ++ now_ }
      now_.foldl (fun d i => enqueue d dir x.lc (slotFlit d r x i)) d

/-- The producer has finished the slot at the tail: the slot is FULL at once on its own die, or the flits of it that have not
been sent are queued for the road (R161, R163, R335). -/
def slotPost (d : Dev) (r : Nat) : Dev :=
  match ringOf d r with
  | none => d
  | some x =>
    match ringDir x with
    | none => slotFull d r
    | some dir => (slotFlits d r x).foldl (fun d p => enqueue d dir x.lc p) (setRing d r { x with posted := true })

/-- The producer's die records a slot as EMPTY: the head advances, and the EMPTY object is incremented (R163, R164). -/
def slotRelease (d : Dev) (r s : Nat) : Dev :=
  match ringOf d r with
  | none => d
  | some x =>
    if slotStOf x s = .draining then
      let d := modRing (slotClear (slotClear d r s) r (64 + s)) r fun y =>
        { y with slotSt := lset y.slotSt s .empty, head := (s + 1) % y.slots, given := false, taken := y.taken + 1 }
      if x.emptyEn then ringInc d x.prodDie r x.emptyObj else d
    else d

/-- The consumer has finished taking the slot at the head: it returns to EMPTY, across the road by a SLOT_RELEASE flit (R163,
R164, R169). -/
def slotGive (d : Dev) (r : Nat) : Dev :=
  match ringOf d r with
  | none => d
  | some x =>
    match ringDir x with
    | none => slotRelease d r x.head
    | some dir => enqueue (setRing d r { x with given := true }) (otherDir dir) x.lc (.slotRelease r x.head)

/-- A slot FILLING whose producer ends is completed with zero bytes marked spoil and becomes SPOIL (R343); `off` is where
its written bytes end. -/
def slotAbandon (d : Dev) (r off : Nat) : Dev :=
  match ringOf d r with
  | none => d
  | some x =>
    if tailOpen x then
      slotPost (slotSpoilRest d r (stageSlot x x.tail) off (slotBytes x)) r
    else d

/-- A SLOT_DATA flit's payload written into its slot with its spoil mark; the last one completes the slot (R169, R335). -/
def slotArrive (d : Dev) (p : Payload) : Dev :=
  match p with
  | .slotData r s i last spoil bs =>
    match ringOf d r with
    | none => d
    | some x =>
      if slotStOf x s = .filling then
        let d := { d with haul := { d.haul with cells := cellsPut d.haul.cells (slotKey r s (240 * i)) bs } }
        let off := 240 * i / 64 * 64
        let d := if spoil then slotWrite d r s off (slotRead d r s off (240 * i + bs.length - off)) true else d
        if last then slotFull d r else d
      else d
  | _ => d

/-- A new ring (R166). -/
def ringFresh (x : Ring) : Ring :=
  { x with head := 0, tail := 0, count := 0, taken := 0, slotSt := List.replicate x.slots .empty,
           fullAt := List.replicate x.slots 0, faulted := false,
           prod := none, cons := none, posted := false, given := false, staged := [], sent := [] }

/-- The bytes and marks of every slot of a ring discarded. -/
def ringClear (d : Dev) (r n : Nat) : Dev := (List.range n).foldl (fun d s => slotClear (slotClear d r s) r (64 + s)) d

/-- Whether a flit carries data or a release of a ring. -/
def flitOfRing (r : Nat) (f : Flit) : Bool :=
  match f.pay with
  | .slotData n _ _ _ _ _ => n == r
  | .slotRelease n _ => n == r
  | _ => false

/-- The waiting flits of a ring withdrawn: it is freed, or set back to its creation. -/
def ringUnsend (d : Dev) (r : Nat) : Dev :=
  let cut (x : RoadDir) : RoadDir := { x with wait := x.wait.filter fun f => !flitOfRing r f }
  setRoad (setRoad d .st (cut (roadOf d .st))) .ts (cut (roadOf d .ts))

/-- A ring freed (R166). -/
def ringDrop (d : Dev) (r : Nat) : Dev :=
  match ringOf d r with
  | none => d
  | some x =>
    let d := ringUnsend (ringClear d r x.slots) r
    { d with haul := { d.haul with rings := tdel d.haul.rings r } }

/-- Whether an agent still writes the slot at the tail of a ring or reads the one at its head; one whose last flit is on the
road is written or read by none (R166). -/
def ringBusy (x : Ring) : Bool := tailOpen x || headOpen x

end Sys2Proof.Machine
end

