-- ==== Sys2Proof/Machine/Boxes.lean ====
section
/-!
DEFINITION. Machine/Boxes.lean: the box of a MOVE: its fields (R157), its rows in cursor order (R153), its bytes with
their spoil marks read and written (R152, R156, R197), and the pages its bytes lie in.
-/
namespace Sys2Proof.Machine
open Sys2Proof

/-- `MOVE.SRC_ID`. -/
def mvSrc (x : Desc) : Nat := dfield x 24 0 32
/-- `MOVE.DST_ID`. -/
def mvDst (x : Desc) : Nat := dfield x 28 0 32
/-- `MOVE.EXT` of dimension `i`. -/
def mvExt (x : Desc) (i : Nat) : Nat := dfield x (32 + 2 * i) 0 16
/-- `MOVE.OFS` of dimension `i`. -/
def mvOfs (x : Desc) (i : Nat) : Nat := dfield x (42 + 3 * i) 0 24
/-- `MOVE.OFS_DST`. -/
def mvOfsDst (x : Desc) : Bool := dbit x 57 7
/-- `MOVE.DIMS`. -/
def mvDims (x : Desc) : Nat := dfield x 57 4 3
/-- `MOVE.REMOTE`. -/
def mvRemote (x : Desc) : Bool := dbit x 57 3
/-- `MOVE.REMOTE_GET`. -/
def mvGet (x : Desc) : Bool := dbit x 57 2
/-- `MOVE.CONVEY`. -/
def mvConvey (x : Desc) : Bool := dbit x 57 1
/-- `MOVE.RECV_MASK`. -/
def mvMask (x : Desc) : Nat := dfield x 58 0 16
/-- `MOVE.PEER`. -/
def mvPeer (x : Desc) : Nat := dfield x 60 0 8

/-- A box in one tensor: extents and origin over five dimensions. -/
structure Box where
  ext : List Nat
  ofs : List Nat
deriving DecidableEq, Repr

/-- Extents of a MOVE over five dimensions, 1 where unused. -/
def mvExts (x : Desc) : List Nat := (List.range 5).map fun i => if i < mvDims x then mvExt x i else 1

/-- The box of a MOVE on its source or destination side (R157). -/
def mvBox (x : Desc) (dst : Bool) : Box :=
  { ext := mvExts x,
    ofs := (List.range 5).map fun i => if mvOfsDst x == dst && i < mvDims x then mvOfs x i else 0 }

/-- Extent of dimension `i` of a tensor, 1 beyond its rank. -/
def tDim (t : Tensor) (i : Nat) : Nat := lget 1 t.dims i

/-- Whether a box lies inside a tensor. -/
def boxInside (t : Tensor) (b : Box) : Bool :=
  (List.range 5).all fun i => lget 0 b.ofs i + lget 1 b.ext i ≤ tDim t i

/-- Number of innermost rows of a box. -/
def boxRows (b : Box) : Nat := (b.ext.drop 1).foldl (· * ·) 1

/-- Bytes of a row of a box. -/
def boxRowBytes (bits : Nat) (b : Box) : Nat := rowBytes bits (lget 1 b.ext 0)

/-- Bytes of a box. -/
def boxBytes (bits : Nat) (b : Box) : Nat := boxRowBytes bits b * boxRows b

/-- 256-byte blocks of a box (R152). -/
def boxBlocks (bits : Nat) (b : Box) : Nat := ceilDiv (boxRowBytes bits b) 256 * boxRows b

/-- Blocks of a box begun before byte `p`, in cursor order (R152, R153). -/
def boxBegun (bits : Nat) (b : Box) (p : Nat) : Nat :=
  let rb := boxRowBytes bits b
  p / rb * ceilDiv rb 256 + ceilDiv (p % rb) 256

/-- Blocks of a box that end at or before byte `p`. -/
def boxEnded (bits : Nat) (b : Box) (p : Nat) : Nat :=
  let rb := boxRowBytes bits b
  p / rb * ceilDiv rb 256 + p % rb / 256

/-- The byte behind the first `n` blocks of a box. -/
def boxBlockEnd (bits : Nat) (b : Box) (n : Nat) : Nat :=
  let rb := boxRowBytes bits b
  let k := ceilDiv rb 256
  n / k * rb + min rb (n % k * 256)

/-- Index of a row's first element in the tensor, dimension 1 varying fastest (R153). -/
def boxRowElem (t : Tensor) (b : Box) (r : Nat) : Nat :=
  let e (i : Nat) : Nat := lget 1 b.ext i
  let o (i : Nat) : Nat := lget 0 b.ofs i
  let i1 := r % e 1
  let i2 := r / e 1 % e 2
  let i3 := r / (e 1 * e 2) % e 3
  let i4 := r / (e 1 * e 2 * e 3)
  o 0 + tDim t 0 * (o 1 + i1 + tDim t 1 * (o 2 + i2 + tDim t 2 * (o 3 + i3 + tDim t 3 * (o 4 + i4))))

/-- One byte in transit, with the mark of the block it came from. -/
abbrev MByte := BitVec 8 × Bool

/-- Byte `p` of a box, in cursor order: two elements of INT4, or a byte of one wider element. -/
def boxByte (d : Dev) (s : Src) (b : Box) (p : Nat) : MByte :=
  let bits := fmtBits (tFmt s.t)
  let rb := boxRowBytes bits b
  let e := boxRowElem s.t b (p / rb)
  let k := p % rb
  match tFmt s.t with
  | .int4 =>
    let lo := e + 2 * k
    if 2 * k + 1 < lget 1 b.ext 0 then
      (BitVec.ofNat 8 (srcElem d s lo + 16 * srcElem d s (lo + 1)), srcSpoil d s lo || srcSpoil d s (lo + 1))
    else (BitVec.ofNat 8 (srcElem d s lo), srcSpoil d s lo)
  | _ =>
    let off := (elemPos s.t e).1 + k
    (srcByte d s off, memSpoil d s.ctx (tAddr s.t off))

/-- Bytes `[lo, lo + n)` of a box. -/
def boxRead (d : Dev) (s : Src) (b : Box) (lo n : Nat) : List MByte := (List.range n).map fun i => boxByte d s b (lo + i)

/-- One byte written into a box. -/
def boxPut (d : Dev) (ctx : Nat) (t : Tensor) (b : Box) (p : Nat) (v : BitVec 8) (spoil : Bool) : Dev :=
  let bits := fmtBits (tFmt t)
  let rb := boxRowBytes bits b
  let e := boxRowElem t b (p / rb)
  let k := p % rb
  match tFmt t with
  | .int4 =>
    let d := dstElem d ctx t (e + 2 * k) (v.toNat % 16) spoil
    if 2 * k + 1 < lget 1 b.ext 0 then dstElem d ctx t (e + 2 * k + 1) (v.toNat / 16) spoil else d
  | _ => memWrite d ctx (tAddr t ((elemPos t e).1 + k)) [v] spoil

/-- The offset in the tensor of byte `p` of a box. -/
def boxOffset (t : Tensor) (b : Box) (p : Nat) : Nat :=
  let bits := fmtBits (tFmt t)
  let rb := boxRowBytes bits b
  (elemPos t (boxRowElem t b (p / rb) + (if bits = 4 then 2 else 0) * (p % rb))).1 + (if bits = 4 then 0 else p % rb)

/-- Bytes written into a box from byte `lo` on: blocks that receive a spoil byte are spoil, the others clear (R156, R197);
the pages are written on a bench. -/
def boxWrite (d : Dev) (ctx : Nat) (t : Tensor) (bench : Option Nat) (b : Box) (lo : Nat) (bs : List MByte) : Dev :=
  let l := bs.zipIdx lo
  let d := l.foldl (fun d e => boxPut d ctx t b e.2 e.1.1 false) d
  let d := (l.filter fun e => e.1.2).foldl (fun d e => boxPut d ctx t b e.2 e.1.1 true) d
  l.foldl (fun d e => markWritten d ctx t bench (boxOffset t b e.2) (boxOffset t b e.2 + 1) e.1.2) d

/-- The pages that bytes `[lo, lo + n)` of a box touch, each row's range taken whole. -/
def boxPages (t : Tensor) (b : Box) (lo n : Nat) : List Nat :=
  let rb := boxRowBytes (fmtBits (tFmt t)) b
  if n = 0 || rb = 0 then []
  else
    ((List.range ((lo + n - 1) / rb + 1 - lo / rb)).map fun i =>
      let r := lo / rb + i
      let a := max lo (r * rb)
      let z := min (lo + n) ((r + 1) * rb)
      pagesOf t (boxOffset t b a) (boxOffset t b (z - 1) + 1)).flatten.eraseDups

/-- The pages among those given that a haul engine must wait for: resident on no bench, or, where no bench takes pages, not held
by the device (R181, R472). -/
def needList (d : Dev) (ctx : Nat) (ps : List Nat) : List (Nat × Nat) :=
  (ps.filter fun p => (pageOf d ctx p).copies == 0
      && ((List.range 16).any (benchTakes d) || !servable d (ckey ctx p, 16))).map fun p => (ckey ctx p, 16)

/-- Bytes of a slot with their marks. -/
def slotGet (d : Dev) (ring slot off n : Nat) : List MByte :=
  (List.range n).map fun i => (cellGet d.haul.cells (slotKey ring slot (off + i)), slotSpoilAt d ring slot (off + i))

/-- Bytes written into a slot, marking the blocks that receive a spoil byte; a fresh slot has no marks. -/
def slotPut (d : Dev) (ring slot off : Nat) (bs : List MByte) : Dev :=
  let d := { d with haul := { d.haul with cells := cellsPut d.haul.cells (slotKey ring slot off) (bs.map fun e => e.1) } }
  (bs.zipIdx off).foldl (fun d e =>
    if e.1.2 then { d with haul := { d.haul with spoil := insSorted d.haul.spoil (slotKey ring slot e.2 / 64) } } else d) d

end Sys2Proof.Machine
end

