-- ==== Sys2Proof/Machine/Wire.lean ====
section
/-!
DEFINITION. Machine/Wire.lean: endpoints and their streams (R410, R411), frames the device sends (R412 to R415), and the
system rings (R419).
-/
namespace Sys2Proof.Machine
open Sys2Proof

/-- Endpoint `n`. -/
def epOf (d : Dev) (n : Nat) : Endpoint := tget epDefault d.net.eps n
/-- The device with endpoint `n` replaced. -/
def setEp (d : Dev) (n : Nat) (x : Endpoint) : Dev := { d with net := { d.net with eps := tset d.net.eps n x } }
/-- `KIND` of an endpoint: 0 unused, 1 HOST, 2 PEER (R410). -/
def epKind (x : Endpoint) : Nat := leAt x.rcd 0 1
/-- `PORT_MASK` of an endpoint. -/
def epPorts (x : Endpoint) : Nat := leAt x.rcd 1 1 % 16
/-- `REMOTE_CTX` of a peer. -/
def epRemoteCtx (x : Endpoint) : Nat := leAt x.rcd 2 1 % 64
/-- `CTX_MASK` of an endpoint. -/
def epMask (x : Endpoint) : Nat := beAt x.rcd 24 8
/-- Whether an endpoint may address a context. -/
def epMay (x : Endpoint) (ctx : Nat) : Bool := bitAt (epMask x) ctx
/-- Receive credits granted to a peer in a class (R410). -/
def epCredits (x : Endpoint) (lc : Bool) : Nat := leAt x.rcd (if lc then 35 else 34) 1

/-- Index of a class in the streams of an endpoint. -/
def clsIdx (lc : Bool) : Nat := if lc then 1 else 0
/-- The stream an endpoint receives in a class. -/
def rxOf (x : Endpoint) (lc : Bool) : RxStream := lget rxDefault x.rx (clsIdx lc)
/-- The stream an endpoint is sent in a class. -/
def txOf (x : Endpoint) (lc : Bool) : TxStream := lget txDefault x.tx (clsIdx lc)
/-- A receive stream changed. -/
def modRx (d : Dev) (n : Nat) (lc : Bool) (f : RxStream → RxStream) : Dev :=
  let x := epOf d n
  setEp d n { x with rx := lmod x.rx (clsIdx lc) f }
/-- A send stream changed. -/
def modTx (d : Dev) (n : Nat) (lc : Bool) (f : TxStream → TxStream) : Dev :=
  let x := epOf d n
  setEp d n { x with tx := lmod x.tx (clsIdx lc) f }

/-- Port `p`. -/
def portOf (d : Dev) (p : Nat) : PortSt := lget portDefault d.net.ports p
/-- The device with a port changed. -/
def modPort (d : Dev) (p : Nat) (f : PortSt → PortSt) : Dev :=
  { d with net := { d.net with ports := lmod d.net.ports p f } }

/-- Whether a port's power domain is up: port 4 is always powered with the device, ports 0 to 3 share domain 07 (R461). -/
def portPowered (d : Dev) (p : Nat) : Bool :=
  if p = 4 then d.boot.phase == .up || d.boot.phase == .tripped
  else d.boot.phase == .up && (lget ⟨0, 1⟩ d.pwr.domains 6).st == 1
/-- Whether a port is in service: powered and READY (R406). -/
def portUp (d : Dev) (p : Nat) : Bool := portPowered d p && (portOf d p).reg.st == 1

/-! ### 802.1CB streams (R503) -/

/-- Stream record `i`. -/
def cbRecord (d : Dev) (i : Nat) : Bytes := slice d.net.cb (32 * i) 32
/-- Stream records written. -/
def cbCount (d : Dev) : Nat := d.net.cb.length / 32
/-- Whether a record identifies a frame: by null identification, or by IP identification. -/
def cbMatch (r : Bytes) (m : EthMeta) : Bool :=
  bitAt (leAt r 1 1) m.port && m.port < 4 && beAt r 20 2 % 4096 == m.vlan &&
    (if leAt r 2 1 % 2 = 0 then beAt r 4 6 == m.dstMac
     else beAt r 4 16 == m.dstIp && (beAt r 22 2 == 0 || beAt r 22 2 == m.dstUdp)
       && (!bitAt (leAt r 24 1) 7 || leAt r 24 1 % 64 == m.dscp))
/-- The stream handle of a frame: the first record that identifies it. -/
def cbFind (d : Dev) (m : EthMeta) : Option Nat := firstBelow (cbCount d) fun i => cbMatch (cbRecord d i) m
/-- How record `i` runs. -/
def cbRunOf (d : Dev) (i : Nat) : CbRun := lget ⟨0, none, [], 0⟩ d.net.cbRun i
/-- The device with a record's run changed. -/
def modCb (d : Dev) (i : Nat) (f : CbRun → CbRun) : Dev := { d with net := { d.net with cbRun := lmod d.net.cbRun i f } }

/-- The traffic class, and so the transmit queue, of a priority on a port: eight queues under the default mapping of IEEE 802.1Q
on ports 0 to 3, one on port 4 (R407). PRESUMED: assumption log 127. -/
def trafficClass (p pcp : Nat) : Nat := if p = 4 then 0 else match pcp with | 0 => 1 | 1 => 0 | n => n

/-- A frame sent on a port in service. -/
def emit (d : Dev) (p pcp : Nat) (tag : Option Nat) (x : SentBody) : Dev :=
  if portUp d p then { d with net := { d.net with sent := d.net.sent ++ [⟨p, pcp, trafficClass p pcp, tag, x⟩] } } else d

/-- A frame sent: where a generation record identifies it, it carries the record's next sequence number and goes out on every
port of the record (R503). -/
def emitFrame (d : Dev) (m : EthMeta) (x : SentBody) : Dev :=
  match cbFind d m with
  | none => emit d m.port m.pcp none x
  | some i =>
    let r := cbRecord d i
    if leAt r 0 1 = 1 then
      let k := (cbRunOf d i).gen
      let d := ((List.range 4).filter (bitAt (leAt r 1 1))).foldl (fun d p => emit d p m.pcp (some k) x) d
      modCb d i fun c => { c with gen := (k + 1) % 65536 }
    else emit d m.port m.pcp none x

/-- The PCP of a class of work-transport frames on a port: `PCP_LC` or `PCP_BE` of its `NET_PORT_CFG` (R409). -/
def wtPcp (d : Dev) (p : Nat) (lc : Bool) : Nat := leAt (portOf d p).cfg (if lc then 4 else 5) 1 % 8

/-- What is known of a work-transport frame to an endpoint; its destination MAC address and DSCP, which the spec does not give,
are free. -/
def frameTo (d : Dev) (x : Endpoint) (lc : Bool) : EthMeta :=
  let r := (Config.freeBits d.free).toNat
  { port := x.port, srcMac := (portOf d x.port).mac, dstMac := r % 2 ^ 48, vlan := beAt x.rcd 22 2 % 4096,
    pcp := wtPcp d x.port lc, dei := false, ipVer := leAt x.rcd 3 1, srcIp := beAt (portOf d x.port).cfg 16 16,
    dstIp := beAt x.rcd 4 16, dscp := r / 2 ^ 48 % 64, srcUdp := 50211, dstUdp := beAt x.rcd 20 2, size := 0, rtag := none }

/-- A frame as it stands on the wire, without its CRC: multi-byte fields big-endian (R5, R412). -/
def wtHead (f : TxFrame) : Bytes :=
  beBytes 1 (16 + if f.lc then 8 else 0) ++ beBytes 1 f.type ++ beBytes 2 f.payload.length ++ beBytes 4 f.session
    ++ beBytes 4 f.seq ++ beBytes 4 f.ackSeq ++ beBytes 1 ((if f.ackValid then 2 else 0) + if f.last then 1 else 0)
    ++ beBytes 1 f.ctx ++ beBytes 2 f.freed ++ beBytes 4 f.arg0 ++ beBytes 8 f.arg1 ++ beBytes 8 f.spoil ++ f.box ++ f.payload

/-- A frame's image with its CRC-32C (R412). -/
def wtImage (f : TxFrame) : Bytes := wtHead f ++ beBytes 4 (crc32c (wtHead f))

/-- A work-transport frame sent to its endpoint. -/
def emitWt (d : Dev) (f : TxFrame) : Dev :=
  let m := frameTo d (epOf d f.ep) f.lc
  let d := if d.net.cb.isEmpty then d else { d with free := d.free + 1 }
  emitFrame d m (.wt f (wtImage f))

/-- The largest payload of a frame on an endpoint's port, with or without a `BOX` (R412). -/
def payloadLimit (d : Dev) (ep : Nat) (box : Bool) : Nat :=
  let x := epOf d ep
  let mtu := leAt (portOf d x.port).cfg 6 2
  let head := (if leAt x.rcd 3 1 = 6 then 40 else 20) + 8 + 40 + (if box then 32 else 0) + 4
  min 4096 ((mtu - head) / 64 * 64)

/-- The acknowledgement fields of a frame to an endpoint: the next sequence number expected and the credits freed on the
reverse stream of the class (R412). -/
def withAck (d : Dev) (f : TxFrame) : TxFrame :=
  let r := rxOf (epOf d f.ep) f.lc
  { f with ackSeq := r.done, freed := r.freed % 65536, ackValid := r.session.isSome }

/-- An unsequenced frame sent: ACK or STATUS (R412, R414). -/
def sendBare (d : Dev) (ep : Nat) (lc : Bool) (type arg0 arg1 : Nat) : Dev :=
  let f : TxFrame :=
    { ep := ep, lc := lc, type := type, session := (txOf (epOf d ep) lc).session.getD 0, seq := 0, ackSeq := 0, freed := 0,
      ackValid := false, last := false, ctx := 0, arg0 := arg0, arg1 := arg1, spoil := 0, box := [], payload := [] }
  emitWt d (withAck d f)

/-- A sequenced frame sent on an open stream: numbered, kept until it is acknowledged (R411, R415). -/
def sendOn (d : Dev) (f : TxFrame) (op : Option (Nat × Nat)) : Dev :=
  let x := epOf d f.ep
  let t := txOf x f.lc
  let f := withAck d { f with session := t.session.getD 0, seq := t.next }
  let d := modTx d f.ep f.lc fun t =>
    { t with next := (t.next + 1) % 2 ^ 32, unacked := t.unacked ++ [⟨f, 0, d.time.ticks, op⟩],
             puts := if f.type = 0x10 then t.puts + 1 else t.puts }
  emitWt d f

/-- The lowest-numbered READY port of an endpoint (R418). -/
def readyPort (d : Dev) (x : Endpoint) : Option Nat := firstBelow 4 fun p => bitAt (epPorts x) p && portUp d p

/-- A stream opened on first use: OPEN with a new session, whose number is free, sequence
number 0, and the credits granted (R411, R413). -/
def openTx (d : Dev) (ep : Nat) (lc : Bool) : Dev :=
  if (txOf (epOf d ep) lc).session.isSome then d
  else
    let f := (Config.freeBits d.free).toNat % 2 ^ 32
    let s := if f = d.net.lastSession then (f + 1) % 2 ^ 32 else f
    let d := { d with free := d.free + 1, net := { d.net with lastSession := s } }
    let x := epOf d ep
    let d := if portUp d x.port && bitAt (epPorts x) x.port then d else setEp d ep { x with port := (readyPort d x).getD x.port }
    let d := modTx d ep lc fun t => { t with session := some s, next := 0, unacked := [], puts := 0, freed := 0 }
    sendOn d { ep := ep, lc := lc, type := 0x20, session := s, seq := 0, ackSeq := 0, freed := 0, ackValid := false,
               last := false, ctx := 0, arg0 := s, arg1 := epCredits (epOf d ep) lc, spoil := 0, box := [], payload := [] } none

/-- Whether a stream can take another sequenced frame: fewer than 64 are unacknowledged (R415). -/
def canSend (d : Dev) (ep : Nat) (lc : Bool) : Bool :=
  let t := txOf (epOf d ep) lc
  t.unacked.length + (if t.session.isSome then 0 else 1) < 64

/-- Whether a put segment has a credit of its class (R425). -/
def hasCredit (d : Dev) (ep : Nat) (lc : Bool) : Bool :=
  let t := txOf (epOf d ep) lc
  t.puts < t.credit + t.freed

/-- A sequenced frame sent, its stream opened first where needed. -/
def sendFrame (d : Dev) (f : TxFrame) (op : Option (Nat × Nat)) : Dev := sendOn (openTx d f.ep f.lc) f op

/-! ### System rings (R419) -/

/-- An inbound or outbound system ring. -/
def sysRing (d : Dev) (out lc : Bool) : List SysSlot :=
  match out, lc with
  | true, true => d.net.outLc
  | true, false => d.net.outBe
  | false, true => d.net.inLc
  | false, false => d.net.inBe

/-- The device with a system ring replaced. -/
def setSysRing (d : Dev) (out lc : Bool) (l : List SysSlot) : Dev :=
  match out, lc with
  | true, true => { d with net := { d.net with outLc := l } }
  | true, false => { d with net := { d.net with outBe := l } }
  | false, true => { d with net := { d.net with inLc := l } }
  | false, false => { d with net := { d.net with inBe := l } }

/-- Whether a system ring has an EMPTY slot. -/
def sysRoom (d : Dev) (out lc : Bool) : Bool := (sysRing d out lc).length < 32

/-- The direction in which a system ring's slots cross the haul road (R419). -/
def sysDir (out : Bool) : Dir := if out then .ts else .st

/-- A slot posted into a system ring, as its flits: its header and payload, 240 bytes each (R420). -/
def sysPost (d : Dev) (out lc : Bool) (x : SysSlot) : Dev :=
  let n := ceilDiv (64 + x.payload.length) 240
  let k := d.net.sysNum
  let d := { d with net := { d.net with sysNum := k + 1 } }
  let d := setSysRing d out lc (sysRing d out lc ++ [{ x with num := k, left := n, ret := false }])
  (List.range n).foldl (fun d i => enqueue d (sysDir out) lc (.sysData out lc k i)) d

/-- The slots of a system ring that their consumer has not given back, in order. -/
def sysOpen (d : Dev) (out lc : Bool) : List SysSlot := (sysRing d out lc).filter fun s => !s.ret

/-- A slot of a system ring given back by its consumer: a SLOT_RELEASE crosses the road (R169, R420). -/
def sysGive (d : Dev) (out lc : Bool) (num : Nat) : Dev :=
  let d := setSysRing d out lc ((sysRing d out lc).map fun s => if s.num = num then { s with ret := true } else s)
  enqueue d (sysDir !out) lc (.sysRelease out lc num)

/-- A slot of a system ring is EMPTY again on its producer's die. -/
def sysDrop (d : Dev) (out lc : Bool) (num : Nat) : Dev :=
  setSysRing d out lc ((sysRing d out lc).filter fun s => s.num != num)

/-- A flit of a system-ring slot arrives (R420). -/
def sysArrive (d : Dev) (out lc : Bool) (num : Nat) : Dev :=
  setSysRing d out lc ((sysRing d out lc).map fun s => if s.num = num then { s with left := s.left - 1 } else s)

/-! ### Remote tags (R187) -/

/-- Whether a sending holds a remote tag: a put segment of a MOVE. -/
def holdsTag (u : Unacked) : Bool := u.op.isSome

/-- Remote tags a class holds. -/
def remoteTags (d : Dev) (lc : Bool) : Nat :=
  (d.net.gets.filter fun g => g.lc == lc).length
    + (d.net.eps.map fun e => ((txOf e.2 lc).unacked.filter holdsTag).length).sum
    + ((sysOpen d true lc).filter fun s => s.op.isSome).length

/-- Whether a transfer of a class may take a remote tag (R187). -/
def remoteFree (d : Dev) (lc : Bool) : Bool :=
  remoteTags d true + remoteTags d false < 256 && (lc || remoteTags d false < 192)

end Sys2Proof.Machine
end

