-- ==== Sys2Proof/Machine/Moves.lean ====
section
/-!
DEFINITION. Machine/Moves.lean: how a MOVE proceeds: which slots it fills and empties (R155, R162, R163), its bytes with
their spoil (R156, R183), its remote segments (R187, R424), and what it does by itself between two commands.
-/
namespace Sys2Proof.Machine
open Sys2Proof

/-- The blocks of a tensor that an operation other than `self` still writes or has not completed (R24). -/
def hotBlocks (d : Dev) (ctx : Nat) (t : Tensor) (self : Nat) : List Nat :=
  let lo := blockKey ctx t 0
  d.disp.ops.flatMap fun o =>
    if o.1 = self || o.2.ctx ≠ ctx then [] else o.2.blocks.filter fun b => lo ≤ b && b < lo + 1024 * t.pages

/-- A tensor of a context as an operand of operation `self` (R24). -/
def srcOf (d : Dev) (ctx id self : Nat) : Option Src := (tensorOf d ctx id).map fun t => ⟨ctx, t, hotBlocks d ctx t self⟩

/-- The local source of a MOVE: none where the source is on a peer. -/
def mvFrom (x : Desc) : Option Nat := if mvRemote x && mvGet x then none else some (mvSrc x)
/-- The local destination of a MOVE: none where the destination is on a peer. -/
def mvTo (x : Desc) : Option Nat := if mvRemote x && !mvGet x then none else some (mvDst x)
/-- The ring a side names. -/
def sideRing (s : Option Nat) : Option Nat := match s with | some i => if isRingId i then some (ringIdOf i) else none | none => none
/-- The tensor a side names. -/
def sideTensor (d : Dev) (ctx : Nat) (s : Option Nat) : Option Tensor :=
  match s with | some i => if isTensorId i then tensorOf d ctx i else none | none => none

/-- The die of the haul engine that fills a ring, or empties it. -/
def ringDie (x : Ring) (fills : Bool) : Nat := if fills then x.prodDie else x.consDie

/-- The die of the engine that carries out a MOVE: the tensor die where it has a tensor side, the signal die for a get into
a ring, and otherwise the die on which its source ring is consumed (R16, R161, R424). -/
def moveDie (d : Dev) (x : Desc) : Option Nat :=
  let f := mvFrom x
  let t := mvTo x
  if (match f with | some i => isTensorId i | none => false) || (match t with | some i => isTensorId i | none => false) then some 1
  else if f = none then some 0
  else (sideRing f).bind fun r => (ringOf d r).map fun x => x.consDie

/-- The MOVE that fills a ring, or empties it: the oldest that still runs (R155). -/
def ringMover (d : Dev) (r : Nat) (fills : Bool) : Option (Nat × Op) :=
  d.disp.ops.find? fun o =>
    hOpcode o.2.desc == 0x40 && o.2.phase == .moving
      && sideRing (if fills then mvTo o.2.desc else mvFrom o.2.desc) == some r

/-- Bits of the elements of a MOVE's box: those of its local tensor, or eight where it has none. -/
def moveBits (d : Dev) (o : Op) : Nat :=
  match sideTensor d o.ctx (mvFrom o.desc), sideTensor d o.ctx (mvTo o.desc) with
  | some t, _ => fmtBits (tFmt t)
  | none, some t => fmtBits (tFmt t)
  | none, none => 8

/-- Bytes a MOVE transfers. -/
def moveTotal (d : Dev) (o : Op) : Nat := boxBytes (moveBits d o) (mvBox o.desc false)

/-- The pages of a MOVE's local tensor sides for bytes `[lo, lo + n)`. -/
def movePages (d : Dev) (o : Op) (lo n : Nat) : List Nat :=
  (match sideTensor d o.ctx (mvFrom o.desc) with
    | some t => boxPages t (mvBox o.desc false) lo n
    | none => [])
    ++ (match sideTensor d o.ctx (mvTo o.desc) with
    | some t => boxPages t (mvBox o.desc true) lo n
    | none => [])

/-- Whether byte `p` of a MOVE lies in a SPOILED page of a local tensor. -/
def byteFailed (d : Dev) (o : Op) (p : Nat) : Bool :=
  (movePages d o p 1).any fun g => (pageOf d o.ctx g).st == .spoiled

/-- An operation after an unserved hard fault: from the first byte at or after `lo` that lies in the failed page every byte
is spoil (R183). -/
def fixCut (d : Dev) (lo n : Nat) (o : Op) : Op :=
  if o.spoilRest && o.cut.isNone then
    { o with cut := some (lo + ((List.range n).find? fun i => byteFailed d o (lo + i)).getD 0) }
  else o

/-- Bytes of a MOVE as they are delivered: zero and spoil from the cut on (R183). -/
def cutBytes (o : Op) (lo : Nat) (bs : List MByte) : List MByte :=
  match o.cut with
  | none => bs
  | some c => bs.zipIdx.map fun e => if c ≤ lo + e.2 then ((0 : BitVec 8), true) else e.1

/-- Bytes `[lo, lo + n)` of a MOVE's tensor source. -/
def readBytes (d : Dev) (id : Nat) (o : Op) (lo n : Nat) : List MByte :=
  match (mvFrom o.desc).bind fun i => srcOf d o.ctx i id with
  | some s => cutBytes o lo (boxRead d s (mvBox o.desc false) lo n)
  | none => []

/-- Blocks of 256 bytes counted on a haul engine: 0 the signal die's, 1 the tensor die's (R191). -/
def countBlocks (d : Dev) (die n : Nat) : Dev :=
  { d with haul := { d.haul with blocks := lmod d.haul.blocks die fun b => satAdd 64 b n } }

/-- The bytes of a MOVE whose blocks have been read or have come from a peer. -/
def movedTo (o : Op) : Nat := if mvRemote o.desc && mvGet o.desc then o.got else o.pos

/-- Whether a MOVE fills a ring whose data crosses the haul road. -/
def fillsCrossing (d : Dev) (o : Op) : Bool :=
  match (sideRing (mvTo o.desc)).bind (ringOf d) with
  | some x => (ringDir x).isSome
  | none => false

/-- The tags a MOVE holds: its blocks that have been read and are not yet written at its destination (R158). -/
def opTags (d : Dev) (o : Op) : Nat :=
  if hOpcode o.desc == 0x40 && o.phase == .moving && fillsCrossing d o then
    boxBegun (moveBits d o) (mvBox o.desc false) (movedTo o) - boxEnded (moveBits d o) (mvBox o.desc false) o.landed
  else 0

/-- Tags in use on the haul engine of a die, by a class (R158). -/
def tagsHeld (d : Dev) (die : Nat) (lc : Bool) : Nat :=
  d.disp.ops.foldl (fun n o => if o.2.lc == lc && moveDie d o.2.desc == some die then n + opTags d o.2 else n) 0

/-- Tags that a block of a class can take on a die: any free one, or for best effort any free one but the 32 reserved (R158). -/
def freeTags (d : Dev) (die : Nat) (lc : Bool) : Nat :=
  let l := tagsHeld d die true
  let b := tagsHeld d die false
  if lc then 1024 - (l + b) else min (992 - b) (1024 - (l + b))

/-- The highest number of tags in use since the last write: how many blocks of a transfer are in flight at once follows from
timing alone, so it is a free value, no less than before, of at most the transfer's blocks and the tags its class may hold
(R158, R191). -/
def notePeak (d : Dev) (die : Nat) (o : Op) : Dev :=
  let held := tagsHeld d die true + tagsHeld d die false
  let top := if o.lc || 0 < tagsHeld d die true then 1024 else 992
  let n := max 1 (boxBlocks (moveBits d o) (mvBox o.desc false))
  let f := min top (held + 1 + (Config.freeBits d.free).toNat % n)
  { d with haul := { d.haul with tagsPeak := lmod d.haul.tagsPeak die fun p => max p f }, free := d.free + 1 }

/-- A MOVE that has delivered everything waits for its completion (R186). -/
def moveDone (d : Dev) (id die : Nat) (o : Op) : Dev :=
  setOp (notePeak d die o) id { o with phase := .done, needs := [], blocks := o.blocks, left := [] }

/-- The blocks of a MOVE's box that end in bytes `[a, b)`, counted on a haul engine (R152, R191). -/
def countMoved (d : Dev) (die : Nat) (o : Op) (a b : Nat) : Dev :=
  let n (p : Nat) : Nat := boxEnded (moveBits d o) (mvBox o.desc false) p
  countBlocks d die (n b - n a)

/-- Whether the dispatcher has parked a best-effort context: an operation of it is parked and none of it runs on an engine of
the kinds that reservations take (R184, R245). DEDUCED: assumption log 120. -/
def ctxParked (d : Dev) (c : Nat) : Bool :=
  let mine (o : Nat × Op) : Bool :=
    o.2.ctx == c && !o.2.lc && (o.2.kind == .bench || o.2.kind == .vec || o.2.kind == .quant || o.2.kind == .core) && o.2.phase != .done
  d.disp.ops.any (fun o => mine o && o.2.parked) && d.disp.ops.all fun o => !mine o || o.2.parked

/-- Whether the haul engine issues blocks of a MOVE now: not while its best-effort context is parked (R184, R188). -/
def haulRuns (d : Dev) (o : Op) : Bool := o.phase == .moving && (o.lc || !ctxParked d o.ctx)

/-- The 64-byte blocks that bytes `[lo, lo + n)` of a MOVE's box take in its tensor destination (R24, R82). -/
def moveBlocks (d : Dev) (o : Op) (lo n : Nat) : List Nat :=
  match sideTensor d o.ctx (mvTo o.desc) with
  | some t => ((List.range n).map fun i => blockKey o.ctx t (boxOffset t (mvBox o.desc true) (lo + i))).eraseDups
  | none => []

/-- The blocks of a MOVE's destination still to be written once its first `p` bytes are. -/
def moveLeft (d : Dev) (o : Op) (p : Nat) : List Nat := moveBlocks d o p (moveTotal d o - p)

/-- Whether a segment of a put is unacknowledged or waits in a system ring. -/
def putOutstanding (d : Dev) (id : Nat) : Bool :=
  let mine (o : Option (Nat × Nat)) : Bool := match o with | some x => x.1 == id | none => false
  d.net.eps.any (fun e => e.2.tx.any fun t => t.unacked.any fun u => mine u.op)
    || (sysOpen d true true).any (fun s => mine s.op) || (sysOpen d true false).any fun s => mine s.op

/-- A put whose every segment is acknowledged and whose source slots are given back has completed (R426). -/
def checkPut (d : Dev) (id : Nat) : Dev :=
  match opOf d id with
  | none => d
  | some o =>
    let n := moveTotal d o
    if hOpcode o.desc = 0x40 && mvRemote o.desc && !mvGet o.desc && o.phase = .moving && n ≤ o.pos
        && ((sideRing (mvFrom o.desc)).isNone || n ≤ o.got) && !putOutstanding d id then
      let die := match (sideRing (mvFrom o.desc)).bind (ringOf d) with | some x => x.consDie | none => 1
      moveDone (countMoved d die o 0 n) id die o
    else d

/-- The needs of the next slot of a MOVE: pages of its tensor side that are on no bench; touched (R181, R182). -/
def primeMove (d : Dev) (id lo n : Nat) (o : Op) : Dev :=
  let ns := needList d o.ctx (movePages d o lo n)
  touchAll (setOp d id { o with needs := ns }) ns (some o)

/-! ### Slots -/

/-- Whether the pages of bytes `[lo, lo + n)` of a MOVE's tensor sides are all in a bench store (R181). -/
def bytesIn (d : Dev) (o : Op) (lo n : Nat) : Bool := (needList d o.ctx (movePages d o lo n)).isEmpty

/-- The blocks of a MOVE from byte `lo` on, up to byte `hi`, that it can move now: with a tag each, `k` of them at most, up to
the first one with a page that is not in a bench store; the byte behind them (R152, R153, R158, R181, R182). Once a page has
been found unserved, nothing is waited for (R183). -/
def moveReach (d : Dev) (o : Op) (hi : Nat) : Nat → Nat → Nat
  | 0, lo => lo
  | k + 1, lo =>
    if hi ≤ lo then lo
    else
      let bits := moveBits d o
      let b := mvBox o.desc false
      let e := min hi (boxBlockEnd bits b (boxEnded bits b lo + 1))
      if o.cut.isSome || bytesIn d o lo (e - lo) then moveReach d o hi k e else lo

/-- A MOVE stalled at the page of its next block (R181, R182). -/
def moveStall (d : Dev) (id lo hi : Nat) (o : Op) : Dev :=
  let bits := moveBits d o
  let b := mvBox o.desc false
  primeMove d id lo (min hi (boxBlockEnd bits b (boxEnded bits b lo + 1)) - lo) o

/-- A MOVE whose last byte is written, and whose source slots are given back, waits for its completion (R186). -/
def moveOver (d : Dev) (id die : Nat) (o : Op) : Dev :=
  let n := moveTotal d o
  let fromRing := (sideRing (mvFrom o.desc)).isSome
  let toRing := (sideRing (mvTo o.desc)).isSome
  if (!fromRing || n ≤ o.got) && (!toRing || n ≤ o.landed) then moveDone d id die o else setOp d id o

/-- Bytes of a slot written by a MOVE from its cursor up to byte `e`: in place where the producer is on the consumer's die, else
in the producer's staging, whose payloads cross as they are complete (R155, R161, R169). -/
def slotFill (d : Dev) (r : Nat) (x : Ring) (off : Nat) (bs : List MByte) : Dev :=
  noteStored (slotPut d r (stageSlot x x.tail) off bs) r off bs.length

/-- A MOVE's bytes up to `e` written into the slot at the tail, which is posted at its end; on its own die they are written
then, across the road as their flits arrive (R163, R169, R186). -/
def fillTo (d : Dev) (id r : Nat) (x : Ring) (bs : List MByte) (e : Nat) (o : Op) : Dev :=
  let crosses := (ringDir x).isSome
  let d := slotFill d r x (o.pos % slotBytes x) bs
  let d := if crosses then d else countMoved d x.prodDie o o.landed e
  let d := if o.pos < e && e % slotBytes x = 0 then slotPost d r else d
  setOp d id { o with pos := e, landed := if crosses then o.landed else e }

/-- The end, in bytes of the transfer, of the destination slot at the tail. -/
def fillEnd (xd : Ring) (o : Op) : Nat := (o.pos / slotBytes xd + 1) * slotBytes xd

/-- A local MOVE's slot at the tail of ring `r` written from its tensor as far as tags and pages go; a whole one is posted
(R155, R158, R163, R181). -/
def fillFromTensor (d : Dev) (id r : Nat) (x : Ring) (o : Op) : Dev :=
  let hi := fillEnd x o
  let o := fixCut d o.pos (hi - o.pos) o
  let k := if (ringDir x).isSome then freeTags d x.prodDie o.lc else x.blocks * 256
  let e := moveReach d o hi (min k (x.blocks * 256)) o.pos
  let d := fillTo d id r x (readBytes d id o o.pos (e - o.pos)) e { o with needs := [] }
  match opOf d id with
  | none => d
  | some o =>
    if moveTotal d o ≤ e then moveOver d id x.prodDie o
    else if e = hi then primeMove d id e (slotBytes x) o
    else if bytesIn d o e 1 || o.cut.isSome then d
    else moveStall d id e hi o

/-- Bytes of a ring-to-ring MOVE copied from the source's head slot to the destination's tail slot, up to byte `e`. -/
def copySlots (d : Dev) (id : Nat) (rs rd : Nat) (xs xd : Ring) (e : Nat) (o : Op) : Dev :=
  let n := e - o.pos
  let bs := slotGet d rs xs.head (o.pos - o.got) n
  fillTo d id rd xd bs e o

/-- The bytes of its destination slot that a ring-to-ring MOVE can copy now: those its head slot holds, with a tag each. -/
def copyReach (d : Dev) (xs xd : Ring) (o : Op) : Nat :=
  let hi := min (fillEnd xd o) (o.got + slotBytes xs)
  let bits := moveBits d o
  let b := mvBox o.desc false
  if (ringDir xd).isSome then max o.pos (min hi (boxBlockEnd bits b (boxEnded bits b o.pos + freeTags d xd.prodDie o.lc))) else hi

/-- A ring-to-ring MOVE completes its destination slot where the head slot of its source reaches that far. -/
def fillFromRing (d : Dev) (id rs rd : Nat) (xs xd : Ring) (o : Op) : Dev :=
  let e := copyReach d xs xd o
  if headOpen xs && o.pos < e && (e = fillEnd xd o || (ringDir xd).isSome) then copySlots d id rs rd xs xd e o else d

/-- The tail slot of ring `r` completed by its MOVE, where it is FILLING and its bytes are at hand (R163, R181). -/
def fillSlot (d : Dev) (r : Nat) : Dev :=
  match ringOf d r, ringMover d r true with
  | some x, some (id, o) =>
    if !tailOpen x || x.prod.isSome || mvRemote o.desc || !haulRuns d o then d
    else
      match sideRing (mvFrom o.desc) with
      | some rs =>
        match ringOf d rs with
        | some xs => fillFromRing d id rs r xs x o
        | none => d
      | none => if o.needs.isEmpty && o.pos < moveTotal d o then fillFromTensor d id r x o else d
  | _, _ => d

/-- The head slot of a ring written into the box of its MOVE's tensor as far as its pages go, and given back at its end (R155,
R163, R181). -/
def emptyToTensor (d : Dev) (id r : Nat) (x : Ring) (o : Op) : Dev :=
  let lo := o.got / slotBytes x * slotBytes x
  let hi := lo + slotBytes x
  let o := fixCut d o.pos (hi - o.pos) o
  match sideTensor d o.ctx (mvTo o.desc) with
  | none => d
  | some t =>
    let e := moveReach d o hi (x.blocks * 256) o.pos
    let bs := cutBytes o o.pos (slotGet d r x.head (o.pos - lo) (e - o.pos))
    let d := countMoved (boxWrite d o.ctx t none (mvBox o.desc true) o.pos bs) x.consDie o o.pos e
    let o := { o with pos := e, landed := e, needs := [], left := moveLeft d o e }
    if e < hi then moveStall d id e hi o
    else
      let d := slotGive d r
      let o := { o with got := e }
      if moveTotal d o ≤ e then moveDone d id x.consDie o else primeMove d id e (slotBytes x) o

/-- The head slot of the source of a ring-to-ring MOVE given back once all its bytes are copied, the last of them into the
destination slot that is FILLING. -/
def emptyToRing (d : Dev) (id rs rd : Nat) (xs xd : Ring) (o : Op) : Dev :=
  let e := o.got + slotBytes xs
  let d := if o.pos < e && e < fillEnd xd o && tailOpen xd && copyReach d xs xd o = e then copySlots d id rs rd xs xd e o else d
  match opOf d id with
  | none => d
  | some o => if o.pos < e then d else moveOver (slotGive d rs) id xs.consDie { o with got := e }

/-- The head slot of a ring whose bytes a put has segmented is given back (R163). -/
def emptyToPeer (d : Dev) (id r : Nat) (x : Ring) (o : Op) : Dev :=
  let e := o.got + slotBytes x
  if o.pos < e then d else checkPut (setOp (slotGive d r) id { o with got := e }) id

/-- The head slot of ring `r` taken to its end by its MOVE, where it is DRAINING (R163). -/
def emptySlot (d : Dev) (r : Nat) : Dev :=
  match ringOf d r, ringMover d r false with
  | some x, some (id, o) =>
    if !headOpen x || x.cons.isSome || !haulRuns d o then d
    else if mvRemote o.desc then emptyToPeer d id r x o
    else
      match sideRing (mvTo o.desc) with
      | some rd =>
        match ringOf d rd with
        | some xd => emptyToRing d id r rd x xd o
        | none => d
      | none => if o.needs.isEmpty then emptyToTensor d id r x o else d
  | _, _ => d

/-- A ring's waiting movers bound to its slots: the tail slot of a filling MOVE is FILLING, the head slot of an emptying
one DRAINING (R162, R163). -/
def bindRing (d : Dev) (r : Nat) : Dev :=
  match ringOf d r with
  | none => d
  | some x =>
    let d := match ringMover d r true with
      | some (_, o) =>
        if slotStOf x x.tail = .empty && haulRuns d o && movedTo o < moveTotal d o && x.prod = none then setSlot d r x.tail .filling
        else d
      | none => d
    match ringMover d r false with
    | some (_, o) =>
      let st := slotStOf x x.head
      if (st = .full || st = .spoil) && haulRuns d o && o.got < moveTotal d o && x.cons = none then setSlot d r x.head .draining
      else d
    | none => d

/-- A ring whose data crosses the road: the slot at the tail is read by the producer's engine as soon as its bytes are at
hand, and its flits wait for the road (R161). -/
def pumpRing : Nat → Dev → Nat → Dev
  | 0, d, _ => d
  | n + 1, d, r =>
    let d := bindRing d r
    match ringOf d r with
    | none => d
    | some x =>
      if (ringDir x).isNone then d
      else
        let d' := fillSlot d r
        match ringMover d r true, ringMover d' r true with
        | some a, some b => if a.1 = b.1 && a.2.pos = b.2.pos then d' else pumpRing n d' r
        | _, _ => d'

/-! ### Remote segments (R187, R424, R425) -/

/-- The box that a segment of a remote MOVE names: extents, and the origin where it applies to the remote side (R424). -/
def remoteBox (d : Dev) (o : Op) : Bytes :=
  let x := o.desc
  let remoteOrigin := mvOfsDst x != mvGet x
  let fmt := match sideTensor d o.ctx (if mvGet x then mvTo x else mvFrom x) with
    | some t => t.fmt
    | none => 1
  ((List.range 5).map fun i => beBytes 2 (mvExt x i)).flatten
    ++ ((List.range 5).map fun i => beBytes 3 (if remoteOrigin then mvOfs x i else 0)).flatten
    ++ beBytes 1 (mvDims x) ++ beBytes 1 fmt ++ zeros 5

/-- The spoil bits of a segment's bytes, one for each 64 (R412). -/
def segSpoil (bs : List MByte) : Nat :=
  (bs.zipIdx.foldl (fun m e => if e.1.2 then m ||| 2 ^ (e.2 / 64) else m) 0)

/-- A frame of a remote MOVE, its sequence fields still open. -/
def moveFrame (d : Dev) (o : Op) (type arg1 spoil : Nat) (last : Bool) (payload : Bytes) : TxFrame :=
  { ep := mvPeer o.desc, lc := o.lc, type := type, session := 0, seq := 0, ackSeq := 0, freed := 0, ackValid := false,
    last := last, ctx := epRemoteCtx (epOf d (mvPeer o.desc)), arg0 := if mvGet o.desc then mvSrc o.desc else mvDst o.desc,
    arg1 := arg1, spoil := spoil, box := remoteBox d o, payload := payload }

/-- The end of the next put segment: its limit, the end of the box, and the end of the source's head slot. -/
def putEnd (d : Dev) (o : Op) (slot : Option Nat) : Nat :=
  let e := min (o.pos + payloadLimit d (mvPeer o.desc) true) (moveTotal d o)
  match slot with
  | some n => min e (o.got + n)
  | none => e

/-- A put segment read from a tensor, or from a ring of the tensor die, goes to the outbound system ring (R419). -/
def putToSystem (d : Dev) (id e : Nat) (bs : List MByte) (o : Op) : Dev :=
  let f := moveFrame d o 0x10 o.pos (segSpoil bs) (moveTotal d o ≤ e) (bs.map fun b => b.1)
  let s : SysSlot :=
    { type := 0x10, ctx := f.ctx, ep := f.ep, last := f.last, seq := 0, arg0 := f.arg0, arg1 := f.arg1, spoil := f.spoil,
      box := f.box, payload := f.payload, op := some (id, e) }
  setOp (sysPost d true o.lc s) id { o with pos := e }

/-- A put segment read from a ring of the signal die is sent at once. -/
def putDirect (d : Dev) (id e : Nat) (bs : List MByte) (o : Op) : Dev :=
  let f := moveFrame d o 0x10 o.pos (segSpoil bs) (moveTotal d o ≤ e) (bs.map fun b => b.1)
  setOp (sendFrame d f (some (id, e))) id { o with pos := e }

/-- The next segment of a put, where a tag, its bytes and room for it are at hand. -/
def putNext (d : Dev) (id : Nat) (o : Op) : Dev :=
  if !remoteFree d o.lc || moveTotal d o ≤ o.pos then d
  else
    match sideRing (mvFrom o.desc) with
    | some r =>
      match ringOf d r with
      | none => d
      | some x =>
        let e := putEnd d o (some (slotBytes x))
        if !headOpen x || e ≤ o.pos then d
        else
          let bs := slotGet d r x.head (o.pos - o.got) (e - o.pos)
          if x.consDie = 1 then (if sysRoom d true o.lc then putToSystem d id e bs o else d)
          else if (txOf (epOf d (mvPeer o.desc)) o.lc).session.isNone then openTx d (mvPeer o.desc) o.lc
          else if canSend d (mvPeer o.desc) o.lc && hasCredit d (mvPeer o.desc) o.lc then putDirect d id e bs o
          else d
    | none =>
      let e := putEnd d o none
      if !o.needs.isEmpty || e ≤ o.pos || !sysRoom d true o.lc then d
      else
        let o := fixCut d o.pos (e - o.pos) o
        let d := putToSystem d id e (readBytes d id o o.pos (e - o.pos)) o
        match opOf d id with
        | some o => if o.pos < moveTotal d o then primeMove d id o.pos (putEnd d o none - o.pos) o else d
        | none => d

/-- The next segment of a get, where a tag and a place for the reply are at hand: into a ring, only bytes of the slot that
is FILLING; into a tensor, once the pages it is to be written to are in a bench store (R181, R187, R188). -/
def getNext (d : Dev) (id : Nat) (o : Op) : Dev :=
  let ep := mvPeer o.desc
  if !remoteFree d o.lc || !canSend d ep o.lc then d
  else
    let e0 := min (o.pos + payloadLimit d ep false) (moveTotal d o)
    let e := match (sideRing (mvTo o.desc)).bind (ringOf d) with
      | some x => if tailOpen x then min e0 (fillEnd x { o with pos := o.got }) else o.pos
      | none => e0
    if e ≤ o.pos || !o.needs.isEmpty then d
    else if !bytesIn d o o.pos (e - o.pos) then primeMove d id o.pos (e - o.pos) o
    else
      let t := txOf (epOf d ep) o.lc
      let seq := if t.session.isSome then t.next else 1
      let d := sendFrame d (moveFrame d o 0x11 ((e - o.pos) * 2 ^ 48 + o.pos) 0 false []) none
      let d := { d with net := { d.net with gets := d.net.gets ++ [⟨ep, o.lc, seq, id, o.pos, e - o.pos⟩] } }
      setOp d id { o with pos := e }

/-- Bytes of a get written into the slot at the tail of its ring, which is posted at its end (R169, R187). -/
def landRing (d : Dev) (id r : Nat) (x : Ring) (bs : List MByte) (o : Op) : Dev :=
  let e := o.got + bs.length
  let crosses := (ringDir x).isSome
  let d := slotFill d r x (o.got % slotBytes x) bs
  let d := if crosses then d else countMoved d x.prodDie o o.got e
  let d := if e % slotBytes x = 0 then slotPost d r else d
  moveOver d id x.prodDie { o with got := e, landed := if crosses then o.landed else e }

/-- Bytes of a get written into its tensor (R187, R188). -/
def landTensor (d : Dev) (id : Nat) (t : Tensor) (bs : List MByte) (o : Op) : Dev :=
  let e := o.got + bs.length
  let d := boxWrite d o.ctx t none (mvBox o.desc true) o.got bs
  let d := countMoved d 1 o o.got e
  let o := { o with got := e, landed := e, left := moveLeft d o e }
  if moveTotal d o ≤ e then moveDone d id 1 o else setOp d id o

/-- A get that the transport has given up on, or whose destination page could not be served: what has not arrived is delivered
as spoil, slot by slot into a ring (R183, R189). -/
def getSpoil (d : Dev) (id : Nat) (o : Op) : Dev :=
  match (sideRing (mvTo o.desc)) with
  | some r =>
    match ringOf d r with
    | none => moveDone d id 0 o
    | some x =>
      if !tailOpen x || moveTotal d o ≤ o.got then d
      else
        let e := fillEnd x { o with pos := o.got }
        landRing d id r x (List.replicate (e - o.got) (0, true)) { o with pos := e }
  | none =>
    match sideTensor d o.ctx (mvTo o.desc) with
    | some t => landTensor d id t (List.replicate (moveTotal d o - o.got) (0, true)) { o with pos := moveTotal d o }
    | none => moveDone d id 1 o

/-- Bytes of a MOVE's slot data have arrived on the consumer's die: they are written, and their tags are free (R158, R186). -/
def landMove (d : Dev) (r n : Nat) : Dev :=
  match ringOf d r, ringMover d r true with
  | some x, some (id, o) =>
    if x.prod.isNone && o.landed < movedTo o then
      let e := min (movedTo o) (o.landed + n)
      moveOver (countMoved d x.prodDie o o.landed e) id x.prodDie { o with landed := e }
    else d
  | _, _ => d

/-- A get whose destination page was not served ends at its cursor: the rest is spoil (R183). -/
def getCut (o : Op) : Op := if mvGet o.desc && o.spoilRest && o.cut.isNone then { o with cut := some o.pos } else o

/-- Segments of one remote MOVE as far as tags and room allow. -/
def pumpRemote : Nat → Dev → Nat → Dev
  | 0, d, _ => d
  | n + 1, d, id =>
    match opOf d id with
    | none => d
    | some o =>
      if !haulRuns d o then d
      else
        let o := getCut o
        let d' := if !mvGet o.desc then putNext d id o
          else if o.cut.isNone then getNext d id o
          else if o.pos = o.got then getSpoil d id o else setOp d id o
        match opOf d' id with
        | none => d'
        | some o' => if o'.pos = o.pos then d' else pumpRemote n d' id

/-- What MOVEs do between two commands: rings bound to their movers, slots for the road read, remote segments sent. -/
def pumpMoves (d : Dev) : Dev :=
  let d := d.haul.rings.foldl (fun d e => pumpRing 65 d e.1) d
  (d.disp.ops.filter fun o => hOpcode o.2.desc == 0x40 && mvRemote o.2.desc).foldl (fun d o => pumpRemote 257 d o.1) d

end Sys2Proof.Machine
end

