-- ==== Sys2Proof/Machine/Puts.lean ====
section
/-!
DEFINITION. Machine/Puts.lean: acknowledgements of received frames (R414), and what waits in the receive buffers: put segments
that their tensor or ring can take (R424 to R426), and gets of rings (R424, R425).
-/
namespace Sys2Proof.Machine
open Sys2Proof

/-- Whether the tensor die cannot be reached for its memory (R176, R194, R421). -/
def tensorDown (d : Dev) : Bool := roadDown d || d.mem.down

/-- Sequence numbers of a stream's accepted frames that wait for their effect, or for the return of their slot (R420). -/
def pendingSeqs (d : Dev) (ep : Nat) (lc : Bool) : List Nat :=
  let r := rxOf (epOf d ep) lc
  ((sysRing d false lc).filter fun s => s.ep == ep).map (fun s => s.seq) ++ r.held.map (fun s => s.seq) ++ r.asks.map fun s => s.seq

/-- Whether every earlier frame of a stream has taken effect (R418). -/
def streamClear (d : Dev) (ep : Nat) (lc : Bool) : Bool :=
  let r := rxOf (epOf d ep) lc
  r.held.isEmpty && r.asks.isEmpty && !(sysOpen d false lc).any fun s => s.ep == ep

/-- The frames of a stream that have taken effect or been refused acknowledged, up to the first that has not; `force` repeats
an acknowledgement (R414). -/
def ackUp (d : Dev) (ep : Nat) (lc force : Bool) : Dev :=
  let r := rxOf (epOf d ep) lc
  if r.session.isNone then d
  else
    let far (s : Nat) : Nat := (s + 2 ^ 32 - r.done) % 2 ^ 32
    let n := (pendingSeqs d ep lc).foldl (fun m s => min m (far s)) (far r.next)
    if n = 0 && !force then d
    else sendBare (modRx d ep lc fun r => { r with done := (r.done + n) % 2 ^ 32 }) ep lc 0x21 0 0

/-- A refusal found on the signal die: STATUS with the refused sequence number and the code (R413, R417). -/
def sendStatus (d : Dev) (ep : Nat) (lc : Bool) (seq code : Nat) : Dev := sendBare d ep lc 0x22 seq code

/-! ### The box of a frame (R424) -/

/-- Dimensions of a frame's box. -/
def wbDims (b : Bytes) : Nat := leAt b 25 1 % 8
/-- Extent `i` of a frame's box. -/
def wbExt (b : Bytes) (i : Nat) : Nat := beAt b (2 * i) 2
/-- Origin `i` of a frame's box. -/
def wbOfs (b : Bytes) (i : Nat) : Nat := beAt b (10 + 3 * i) 3
/-- The box a frame carries. -/
def wireBox (b : Bytes) : Box :=
  { ext := (List.range 5).map fun i => if i < wbDims b then wbExt b i else 1,
    ofs := (List.range 5).map fun i => if i < wbDims b then wbOfs b i else 0 }
/-- Bits of an element of a frame's box; none for an unknown format code. -/
def wbBits (b : Bytes) : Option Nat := (fmtOf (leAt b 26 1)).map fmtBits
/-- Bytes of a frame's box; none where its fields are out of range. -/
def wbTotal (b : Bytes) : Option Nat :=
  if wbDims b = 0 || 5 < wbDims b || (List.range 5).any (fun i => i < wbDims b && wbExt b i == 0) then none
  else (wbBits b).map fun n => boxBytes n (wireBox b)

/-- The 256-byte blocks of a frame's box that end at or before byte `p` (R152). -/
def wireBlocks (b : Bytes) (p : Nat) : Nat := boxEnded ((wbBits b).getD 8) (wireBox b) p

/-- Payload bytes with the marks of a `SPOIL` field, one for each 64 (R412). -/
def withSpoil (m : Nat) (bs : Bytes) : List MByte := bs.zipIdx.map fun e => (e.1, bitAt m (e.2 / 64))

/-! ### Put segments -/

/-- A refused put segment: its transfer gives no arrival increment (R426). -/
def markBroken (d : Dev) (ep : Nat) (lc : Bool) (dst : Nat) (box : Bytes) : Dev :=
  modRx d ep lc fun r => { r with broken := (dst, box) :: r.broken.filter fun x => x != (dst, box) }

/-- The arrival increment of a transfer whose last segment is written (R426). -/
def arrive (d : Dev) (ep : Nat) (lc : Bool) (ctx dst : Nat) (box : Bytes) : Dev :=
  let x := epOf d ep
  if (rxOf x lc).broken.contains (dst, box) then
    modRx d ep lc fun r => { r with broken := r.broken.filter fun y => y != (dst, box) }
  else if beAt x.rcd 32 2 < 32768 then d
  else
    let o := beAt x.rcd 32 2 % 8192
    let s := syncOf d o
    if s.declared && epMay x s.owner && syncClassOk s lc then syncAdd d o 1 ctx ctx noCause 0 0
    else { d with net := { d.net with arriveDropped := satAdd 32 d.net.arriveDropped 1 } }

/-- A put segment written: its credit is freed, and its transfer may be complete (R425, R426). -/
def segWritten (d : Dev) (ep : Nat) (lc : Bool) (ctx dst : Nat) (box : Bytes) (last : Bool) : Dev :=
  let d := modRx d ep lc fun r => { r with freed := r.freed + 1 }
  if last then arrive d ep lc ctx dst box else d

/-- A put segment that waited and cannot be written any more: refused. -/
def segRefused (d : Dev) (ep : Nat) (lc : Bool) (s : PutSeg) (code : Nat) : Dev :=
  let d := markBroken d ep lc s.dst s.box
  let d := modRx d ep lc fun r => { r with freed := r.freed + 1 }
  sendStatus d ep lc s.seq code

/-- The first waiting segment of a stream taken from its buffer. -/
def dropHeld (d : Dev) (ep : Nat) (lc : Bool) : Dev := modRx d ep lc fun r => { r with held := r.held.drop 1 }

/-- A put segment of a ring written as far as its FILLING slot goes (R424, R425). -/
def fillPut (d : Dev) (ep : Nat) (lc : Bool) (s : PutSeg) (r : Nat) (x : Ring) : Dev :=
  let d := if tailOpen x then d
    else modRing (setSlot d r x.tail .filling) r fun x => { x with prod := some (.put ep lc) }
  let f := tget (0, 0) (rxOf (epOf d ep) lc).fills r
  let n := min (s.payload.length - s.done) (slotBytes x - f.2)
  let d := slotFill d r x f.2 ((withSpoil s.spoil s.payload).drop s.done |>.take n)
  let whole := f.2 + n = slotBytes x
  let d := if whole then slotPost d r else d
  let d := countBlocks d 0 (wireBlocks s.box (s.off + s.done + n) - wireBlocks s.box (s.off + s.done))
  let w := if whole then 0 else f.2 + n
  let d := modRx d ep lc fun q => { q with fills := tset q.fills r (f.1, w) }
  if s.done + n < s.payload.length then
    modRx d ep lc fun q => { q with held := { s with done := s.done + n } :: q.held.drop 1 }
  else
    let d := segWritten (dropHeld d ep lc) ep lc s.ctx s.dst s.box s.last
    let d := if s.last && w = 0 then
        modRing (modRx d ep lc fun q => { q with fills := tdel q.fills r }) r fun x => { x with prod := none }
      else d
    ackUp d ep lc false

/-- The first waiting put segment of a stream goes on where it can. -/
def pumpHeld (d : Dev) (ep : Nat) (lc : Bool) : Dev :=
  match (rxOf (epOf d ep) lc).held with
  | [] => d
  | s :: _ =>
    if !(rxOf (epOf d ep) lc).asks.isEmpty then d
    else if !isRingId s.dst then
      if tensorDown d then ackUp (segRefused (dropHeld d ep lc) ep lc s 9) ep lc false
      else if sysRoom d false lc then
        sysPost (dropHeld d ep lc) false lc
          { type := 0x10, ctx := s.ctx, ep := ep, last := s.last, seq := s.seq, arg0 := s.dst, arg1 := s.off, spoil := s.spoil,
            box := s.box, payload := s.payload, op := none }
      else d
    else if (sysOpen d false lc).any fun y => y.ep == ep then d
    else
      let r := ringIdOf s.dst
      match ringOf d r with
      | none => ackUp (segRefused (dropHeld d ep lc) ep lc s 8) ep lc false
      | some x =>
        if x.ctx ≠ s.ctx || x.lc != lc || x.prodDie ≠ 0 then ackUp (segRefused (dropHeld d ep lc) ep lc s 8) ep lc false
        else
          let mine := x.prod = some (.put ep lc)
          if (tailOpen x && mine) || (slotStOf x x.tail = .empty && (mine || x.prod = none)) then
            fillPut d ep lc s r x
          else d

/-! ### Gets of rings -/

/-- PEER_DATA that answers a get (R413). -/
def peerDataFrame (d : Dev) (ep : Nat) (lc : Bool) (seq off : Nat) (bs : List MByte) : TxFrame :=
  { ep := ep, lc := lc, type := 0x12, session := 0, seq := 0, ackSeq := 0, freed := 0, ackValid := false, last := false,
    ctx := epRemoteCtx (epOf d ep), arg0 := seq, arg1 := off, spoil := segSpoil bs, box := [], payload := bs.map fun b => b.1 }

/-- Bytes for a get of a ring taken from the head slot, which is given back at its end (R163). -/
def takeAsk (d : Dev) (ep : Nat) (lc : Bool) (a : RingAsk) (x : Ring) : Dev :=
  let d := if headOpen x then d
    else modRing (setSlot d a.ring x.head .draining) a.ring fun x => { x with cons := some (.get ep lc) }
  let t := tget 0 (rxOf (epOf d ep) lc).takes a.ring
  let n := min (a.len - a.data.length) (slotBytes x - t)
  let a' := { a with data := a.data ++ slotGet d a.ring x.head t n }
  let d := modRx d ep lc fun r => { r with asks := a' :: r.asks.drop 1, takes := tset r.takes a.ring (t + n) }
  if t + n = slotBytes x then
    let d := modRing (countBlocks (slotGive d a.ring) 0 x.blocks) a.ring fun x => { x with cons := none }
    modRx d ep lc fun r => { r with takes := tdel r.takes a.ring }
  else d

/-- The first waiting get of a stream goes on where it can. -/
def pumpAsk (d : Dev) (ep : Nat) (lc : Bool) : Dev :=
  match (rxOf (epOf d ep) lc).asks with
  | [] => d
  | a :: _ =>
    if a.data.length = a.len then
      if canSend d ep lc then
        let d := sendFrame d (peerDataFrame d ep lc a.seq a.off a.data) none
        ackUp (modRx d ep lc fun r => { r with asks := r.asks.drop 1 }) ep lc false
      else d
    else
      match ringOf d a.ring with
      | none => ackUp (sendStatus (modRx d ep lc fun r => { r with asks := r.asks.drop 1 }) ep lc a.seq 8) ep lc false
      | some x =>
        let st := slotStOf x x.head
        let mine := x.cons = some (.get ep lc)
        if (headOpen x && mine) || ((st = .full || st = .spoil) && (mine || x.cons = none)) then takeAsk d ep lc a x else d

/-- A step of a stream's buffers repeated while it does something. -/
def pumpStream : Nat → Dev → Nat → Bool → Dev
  | 0, d, _, _ => d
  | n + 1, d, ep, lc =>
    let d' := pumpHeld (pumpAsk d ep lc) ep lc
    if (rxOf (epOf d' ep) lc).held = (rxOf (epOf d ep) lc).held && (rxOf (epOf d' ep) lc).asks = (rxOf (epOf d ep) lc).asks then d'
    else pumpStream n d' ep lc

/-- What the receive buffers do by themselves: LC before BE (R425). -/
def pumpPuts (d : Dev) : Dev :=
  let es := d.net.eps.map fun e => e.1
  es.foldl (fun d e => pumpStream 512 d e false) (es.foldl (fun d e => pumpStream 512 d e true) d)

end Sys2Proof.Machine
end

