-- ==== Sys2Proof/Machine/Fun.lean ====
section
/-!
DEFINITION. Machine/Fun.lean: the functions the spec calls correctly rounded (EXP, LOG, SQRT, RSQRT, RECIP, R106) and
those behind the built-in tables (R119), by fixed-point intervals: a result is accepted at a precision when both ends of
the interval round to the same code with the same flags (assumption log 2).
-/
namespace Sys2Proof.Machine

/-- `a·b` in fixed point with `w` fraction bits, rounded down. -/
def fxMul (w : Nat) (a b : Int) : Int := a * b / 2 ^ w
/-- `n / d` in fixed point with `w` fraction bits, rounded down. -/
def fxOf (w : Nat) (r : Frac) : Int := r.num * 2 ^ w / r.den
/-- The fraction of a fixed-point number. -/
def fxFrac (w : Nat) (x : Int) : Frac := ⟨x, 2 ^ w⟩

/-- `⌊√n⌋`, found bit by bit from bit `k` down. -/
def isqrtFrom (n : Nat) : Nat → Nat → Nat
  | 0, r => r
  | k + 1, r => let c := r + 2 ^ k; if c * c ≤ n then isqrtFrom n k c else isqrtFrom n k r

/-- `⌊√n⌋`. -/
def isqrt (n : Nat) : Nat := isqrtFrom n (Nat.log2 n / 2 + 1) 0

/-- Taylor terms of `e^y`, `y ≥ 0` small, in fixed point. -/
def expTerms (w : Nat) (y : Int) : Nat → Nat → Int → Int → Int
  | 0, _, _, acc => acc
  | fuel + 1, k, t, acc =>
    let t' := fxMul w t y / (k : Int)
    if t' = 0 then acc else expTerms w y fuel (k + 1) t' (acc + t')

/-- `x` squared `n` times in fixed point. -/
def fxSquare (w : Nat) : Nat → Int → Int
  | 0, x => x
  | n + 1, x => fxSquare w n (fxMul w x x)

/-- An interval that holds `e^|x|` for `|x| ≤ 512`, to `p` bits. -/
def expAbs (p : Nat) (x : Frac) : Frac × Frac :=
  let w := p + 64
  let y := fxOf w ⟨x.num.natAbs, x.den * 2 ^ 16⟩
  let e := fxSquare w 16 (expTerms w y (w + 8) 1 (2 ^ w) (2 ^ w))
  let d := e / 2 ^ p + 1
  (fxFrac w (e - d), fxFrac w (e + d))

/-- An interval that holds `e^x`; beyond ±512 the ends stand outside every format's range. -/
def expIv (p : Nat) (x : Frac) : Frac × Frac :=
  if x.num = 0 then (⟨1, 1⟩, ⟨1, 1⟩)
  else if 512 * (x.den : Int) < x.num then (⟨2 ^ 700, 1⟩, ⟨2 ^ 701, 1⟩)
  else if x.num < -512 * (x.den : Int) then (⟨1, 2 ^ 701⟩, ⟨1, 2 ^ 700⟩)
  else
    let r := expAbs p x
    if 0 < x.num then r else (fracDiv ⟨1, 1⟩ r.2, fracDiv ⟨1, 1⟩ r.1)

/-- Odd series `Σ z^(2k+1) / (2k+1)` with the sign of every other term flipped when `alt`. -/
def oddSeries (w : Nat) (alt : Bool) (z2 : Int) : Nat → Nat → Int → Int → Int
  | 0, _, _, acc => acc
  | fuel + 1, k, t, acc =>
    if t = 0 then acc
    else
      let q := t / ((2 * k + 1 : Nat) : Int)
      let acc' := if alt && k % 2 == 1 then acc - q else acc + q
      oddSeries w alt z2 fuel (k + 1) (fxMul w t z2) acc'

/-- `atanh z` (or `atan z` when `alt`) in fixed point, `0 ≤ z ≤ 1/3`. -/
def fxAtanh (w : Nat) (alt : Bool) (z : Int) : Int := oddSeries w alt (fxMul w z z) (w + 8) 0 z 0

/-- `ln 2` in fixed point. -/
def fxLn2 (w : Nat) : Int := 2 * fxAtanh w false (fxOf w ⟨1, 3⟩)

/-- `π` in fixed point (Machin's formula). -/
def fxPi (w : Nat) : Int := 16 * fxAtanh w true (fxOf w ⟨1, 5⟩) - 4 * fxAtanh w true (fxOf w ⟨1, 239⟩)

/-- `ln (n / d)` in fixed point, `n` and `d` positive. -/
def fxLn (w : Nat) (n d : Nat) : Int :=
  let e := lg2 n d
  let m : Frac := if 0 ≤ e then ⟨n, d * 2 ^ e.toNat⟩ else ⟨(n * 2 ^ (-e).toNat : Nat), d⟩
  let z := fxOf w ⟨m.num - m.den, (m.num + m.den).natAbs⟩
  e * fxLn2 w + 2 * fxAtanh w false z

/-- An interval around a fixed-point value of `w` bits with `g` guard bits. -/
def fxIv (w g : Nat) (x : Int) : Frac × Frac := (fxFrac w (x - 2 ^ g), fxFrac w (x + 2 ^ g))

/-- An interval that holds `ln (n / d)`. -/
def lnIv (p : Nat) (n d : Nat) : Frac × Frac :=
  if n = d then (⟨0, 1⟩, ⟨0, 1⟩) else let w := p + 220; fxIv w 24 (fxLn w n d)

/-- An interval that holds `√(n / d)`; a point where the root is rational. -/
def sqrtIv (p : Nat) (n d : Nat) : Frac × Frac :=
  let x := n * d * 4 ^ (p + 200)
  let s := isqrt x
  if s * s = x then (⟨s, d * 2 ^ (p + 200)⟩, ⟨s, d * 2 ^ (p + 200)⟩)
  else (⟨s, d * 2 ^ (p + 200)⟩, ⟨s + 1, d * 2 ^ (p + 200)⟩)

/-- The first precision of the list at which both ends of the interval round alike. -/
def roundIv (f : Frac → FR) (iv : Nat → Frac × Frac) : List Nat → FR
  | [] => ⟨0, fNone⟩
  | [p] => f (iv p).1
  | p :: q :: ps =>
    let r := iv p
    if f r.1 = f r.2 then f r.1 else roundIv f iv (q :: ps)

/-- The precisions tried, in bits. -/
def precisions : List Nat := [96, 320, 1200]

/-- A correctly rounded result from an interval function, a zero taking a plus sign. -/
def roundFun (f : Val → FR) (iv : Nat → Frac × Frac) : FR := roundIv (fun r => f (fracVal r false)) iv precisions

/-- EXP of a value, delivered by `f` (R106, R107). -/
def funExp (f : Val → FR) : Val → FR
  | .nan s => f (.nan s)
  | .inf true => f valZeroP
  | .inf false => f (.inf false)
  | v => roundFun f fun p => expIv p (valFrac v)

/-- LOG of a value (R106, R107). -/
def funLog (f : Val → FR) : Val → FR
  | .nan s => f (.nan s)
  | .inf true => let r := f (.nan false); ⟨r.bits, r.flags ||| fInvalid⟩
  | .inf false => f (.inf false)
  | .fin s n d =>
    if n = 0 then let r := f (.inf true); ⟨r.bits, r.flags ||| fDivByZero⟩
    else if s then let r := f (.nan false); ⟨r.bits, r.flags ||| fInvalid⟩
    else roundFun f fun p => lnIv p n d

/-- SQRT of a value (R106, R107). -/
def funSqrt (f : Val → FR) : Val → FR
  | .nan s => f (.nan s)
  | .inf true => let r := f (.nan false); ⟨r.bits, r.flags ||| fInvalid⟩
  | .inf false => f (.inf false)
  | .fin s n d =>
    if n = 0 then f (.fin s 0 1)
    else if s then let r := f (.nan false); ⟨r.bits, r.flags ||| fInvalid⟩
    else roundFun f fun p => sqrtIv p n d

/-- RSQRT of a value (R106, R107). -/
def funRsqrt (f : Val → FR) : Val → FR
  | .nan s => f (.nan s)
  | .inf true => let r := f (.nan false); ⟨r.bits, r.flags ||| fInvalid⟩
  | .inf false => f valZeroP
  | .fin s n d =>
    if n = 0 then let r := f (.inf s); ⟨r.bits, r.flags ||| fDivByZero⟩
    else if s then let r := f (.nan false); ⟨r.bits, r.flags ||| fInvalid⟩
    else roundFun f fun p => sqrtIv p d n

/-- RECIP of a value (R57, R106, R107). -/
def funRecip (f : Val → FR) : Val → FR
  | .nan s => f (.nan s)
  | .inf s => f (.fin s 0 1)
  | .fin s n d =>
    if n = 0 then let r := f (.inf s); ⟨r.bits, r.flags ||| fDivByZero⟩
    else f (.fin s d n)

/-- The terms `(−1)^n x^(2n+1) / (n! 2^n (2n+1))` of the normal distribution function, `h` 2, or of erf, `h` 1. -/
def gaussTerms (w h : Nat) (x2 : Int) : Nat → Nat → Int → Int → Int
  | 0, _, _, acc => acc
  | fuel + 1, k, t, acc =>
    if t = 0 then acc
    else
      let q := t / ((2 * k + 1 : Nat) : Int)
      let acc' := if k % 2 == 1 then acc - q else acc + q
      gaussTerms w h x2 fuel (k + 1) (fxMul w t x2 / ((h * (k + 1) : Nat) : Int)) acc'

/-- `∫₀^x e^(−t²/2) dt` (`h` 2) or `∫₀^x e^(−t²) dt` (`h` 1) in fixed point. -/
def fxGauss (w h : Nat) (x : Frac) : Int :=
  let y := fxOf w ⟨x.num.natAbs, x.den⟩
  let r := gaussTerms w h (fxMul w y y) (w + 300) 0 y 0
  if x.num < 0 then -r else r

/-- An interval that holds erf x. -/
def erfIv (p : Nat) (x : Frac) : Frac × Frac :=
  if x.num = 0 then (⟨0, 1⟩, ⟨0, 1⟩)
  else
    let w := p + 220
    let rootPi : Int := isqrt ((fxPi w).natAbs * 2 ^ w)
    fxIv w 80 (2 * fxGauss w 1 x * 2 ^ w / rootPi)

/-- An interval that holds x·Φ(x). -/
def geluIv (p : Nat) (x : Frac) : Frac × Frac :=
  if x.num = 0 then (⟨0, 1⟩, ⟨0, 1⟩)
  else
    let w := p + 220
    let root2Pi : Int := isqrt (2 * (fxPi w).natAbs * 2 ^ w)
    let phi := 2 ^ w / 2 + fxGauss w 2 x * 2 ^ w / root2Pi
    fxIv w 80 (fxMul w phi (fxOf w x))

/-- Ends of an interval in order. -/
def orderIv (a b : Frac) : Frac × Frac := if fracLt b a then (b, a) else (a, b)

/-- Endpoint function of built-in table `n` (R119): an interval that holds the exact function value at `x`. -/
def builtinIv (n p : Nat) (x : Frac) : Frac × Frac :=
  let one : Frac := ⟨1, 1⟩
  let en := expIv p (fracNeg x)
  match n with
  | 0 => (fracDiv one (fracAdd one en.2), fracDiv one (fracAdd one en.1))
  | 1 =>
    let e2 := expIv p (fracMul ⟨2, 1⟩ x)
    let th (e : Frac) : Frac := fracDiv (fracSub e one) (fracAdd e one)
    (th e2.1, th e2.2)
  | 2 => geluIv p x
  | 3 => orderIv (fracDiv x (fracAdd one en.2)) (fracDiv x (fracAdd one en.1))
  | 4 =>
    let ex := expIv p x
    let a := fracAdd one ex.1
    let b := fracAdd one ex.2
    ((lnIv p a.num.natAbs a.den).1, (lnIv p b.num.natAbs b.den).2)
  | 5 => erfIv p x
  | _ => expIv p x

/-- `LO` of built-in table `n`, as an integer (R119). -/
def builtinLo (n : Nat) : Int := match n with | 1 => -8 | 2 => -8 | 5 => -4 | _ => -16
/-- `LOG2_W` of built-in table `n` (R119). -/
def builtinLog2W (n : Nat) : Int := match n with | 0 => -3 | 1 => -4 | 2 => -4 | 3 => -3 | 4 => -3 | 5 => -5 | _ => -4
/-- Mode of built-in table `n`: 1 extrapolate (R119). -/
def builtinMode (n : Nat) : Nat := match n with | 2 => 1 | 3 => 1 | 4 => 1 | _ => 0

/-- Knot `i` of built-in table `n`, rounded RNE to FP32 (R119). -/
def builtinKnot (n i : Nat) : Nat :=
  let x : Frac := fracAdd ⟨builtinLo n, 1⟩ ⟨i, 2 ^ (-builtinLog2W n).toNat⟩
  (roundFun (fun v => toFp32 true false v) fun p => builtinIv n p x).bits

/-- The 1,044-byte image of built-in table `n` (R117, R119). -/
def builtinImage (n : Nat) : Bytes :=
  leBytes 4 (toFp32 true false (fracVal ⟨builtinLo n, 1⟩ false)).bits ++ leBytes 4 (wrapBits 32 (builtinLog2W n))
    ++ leBytes 4 (builtinMode n) ++ leBytes 4 0
    ++ (List.range 257).flatMap fun i => leBytes 4 (builtinKnot n i)

/-- Sine terms in fixed point: `Σ (−1)^k x^(2k+1)/(2k+1)!` from the term given. -/
def sinTerms (w : Nat) (x2 : Int) : Nat → Nat → Int → Int → Int
  | 0, _, _, acc => acc
  | fuel + 1, k, t, acc =>
    if t = 0 then acc
    else sinTerms w x2 fuel (k + 2) (-(fxMul w t x2 / (((k + 1) * (k + 2) : Nat) : Int))) (acc + t)

/-- `sin (2π·n/d)` in fixed point of `w` bits. -/
def fxSin2pi (w n d : Nat) : Int :=
  -- reduced to the first quadrant, so that the series argument is at most π/2
  let k := 4 * (n % d)
  let quad := k / d
  let r := k % d
  let frac := if quad % 2 = 0 then r else d - r
  let x := fxMul w (fxPi w) (fxOf w ⟨frac, 2 * d⟩)
  let s := sinTerms w (fxMul w x x) (w + 8) 1 x 0
  if quad < 2 then s else -s

/-- `cos (2π·n/d)` in fixed point of `w` bits. -/
def fxCos2pi (w n d : Nat) : Int := fxSin2pi w (4 * n + d) (4 * d)

/-- The nearest integer, ties away from zero, of a fixed-point value times `k`. -/
def fxRound (w : Nat) (k : Nat) (x : Int) : Int :=
  let m := roundQ false (x.natAbs * k) (2 ^ w)
  if x < 0 then -(m : Int) else m

end Sys2Proof.Machine
end

