-- ==== Sys2Proof/Machine/VecNum.lean ====
section
/-!
DEFINITION. Machine/VecNum.lean: the vector-engine functions on values (R104 to R113, R507), the reduction unit (R114
to R116), the interpolated lookup (R117, R118) and the row operations (R120 to R122).
-/
namespace Sys2Proof.Machine

/-- The mode of an operation: `STRICT` and the context's flush-to-zero bit (R41, R49). -/
structure NMode where
  strict : Bool
  ftz : Bool
deriving DecidableEq, Repr

/-- An exact sum of two values with the special cases of R107; an exact zero takes the sign of R40 or R46. -/
def addVal (strict : Bool) (a b : Val) : Val × Flags :=
  match a, b with
  | .nan s, b => (.nan (s || valSnan b), fNone)
  | a, .nan s => (.nan (s || valSnan a), fNone)
  | .inf s, .inf t => if s == t then (.inf s, fNone) else (.nan false, fInvalid)
  | .inf s, _ => (.inf s, fNone)
  | _, .inf t => (.inf t, fNone)
  | x, y =>
    let zneg := strict && valZero x && valZero y && valNeg x && valNeg y
    (fracVal (fracAdd (valFrac x) (valFrac y)) zneg, fNone)

/-- An exact product of two values with the special cases of R56. -/
def mulVal (a b : Val) : Val × Flags :=
  if valNan a || valNan b then (.nan (valSnan a || valSnan b), fNone)
  else
    let s := valNeg a != valNeg b
    if valInf a || valInf b then
      if valZero a || valZero b then (.nan false, fInvalid) else (.inf s, fNone)
    else (fracVal (fracMul (valFrac a) (valFrac b)) s, fNone)

/-- An exact quotient of two values with the special cases of R57. -/
def divVal (a b : Val) : Val × Flags :=
  if valNan a || valNan b then (.nan (valSnan a || valSnan b), fNone)
  else
    let s := valNeg a != valNeg b
    match a, b with
    | .inf _, .inf _ => (.nan false, fInvalid)
    | .inf _, _ => (.inf s, fNone)
    | _, .inf _ => (.fin s 0 1, fNone)
    | x, y =>
      if valZero y then if valZero x then (.nan false, fInvalid) else (.inf s, fDivByZero)
      else (fracVal (fracDiv (valFrac x) (valFrac y)) s, fNone)

/-- `A × B + C` exactly, with the special cases of R107; an invalid product sets `INVALID` also beside a NaN, as R56 has
it (assumption log 3). -/
def fmaVal (strict : Bool) (a b c : Val) : Val × Flags :=
  if (valInf a && valZero b) || (valZero a && valInf b) then (.nan false, fInvalid)
  else if valNan a || valNan b || valNan c then (.nan (valSnan a || valSnan b || valSnan c), fNone)
  else
    let p := mulVal a b
    addVal strict p.1 c

/-- `a < b` of values that are not NaNs. -/
def valLt (a b : Val) : Bool :=
  match a, b with
  | .inf true, .inf true => false
  | .inf true, _ => true
  | .inf false, _ => false
  | _, .inf false => true
  | _, .inf true => false
  | x, y => fracLt (valFrac x) (valFrac y)

/-- Equality of values that are not NaNs; −0 equals +0 (R108). -/
def valEq (a b : Val) : Bool := !valLt a b && !valLt b a

/-- MIN: any NaN gives a NaN, −0 is the smaller zero (R107). -/
def minVal (a b : Val) : Val :=
  if valNan a || valNan b then .nan (valSnan a || valSnan b)
  else if valLt b a then b
  else if valEq a b && valNeg b then b else a

/-- MAX: any NaN gives a NaN, +0 is the larger zero (R107). -/
def maxVal (a b : Val) : Val :=
  if valNan a || valNan b then .nan (valSnan a || valSnan b)
  else if valLt a b then b
  else if valEq a b && valNeg a then b else a

/-- ABS. -/
def absVal : Val → Val
  | .nan s => .nan s
  | .inf _ => .inf false
  | .fin _ n d => .fin false n d

/-- A result's flags with the flags raised on the way to it. -/
def withFlags (f : Flags) (r : FR) : FR := ⟨r.bits, f ||| r.flags⟩

/-- A value of the integer given. -/
def intV (x : Int) : Val := .fin (x < 0) x.natAbs 1

/-- The integer of an integer value. -/
def valInt (v : Val) : Int := match v with | .fin s n d => let q : Int := ((n / d : Nat) : Int); if s then -q else q | _ => 0

/-- Whether a mask or selector element counts as non-zero: any NaN does, −0 does not (R108, R112). -/
def valTrue (v : Val) : Bool := !valZero v

/-- The result of one element of an element-wise, transcendental, compare or integer function on real operands
(R104 to R109); `wa`, `wb` are the operand widths in bits for the bitwise functions. -/
def vecElem (func : Nat) (md : NMode) (fd : Fmt) (wa wb : Nat) (a b c : Val) : FR :=
  let out (v : Val) : FR := convert fd md.strict md.ftz v
  let put (p : Val × Flags) : FR := withFlags p.2 (out p.1)
  let b1 (x : Bool) (f : Flags) : FR := withFlags f (out (intV (if x then 1 else 0)))
  let nan2 := valNan a || valNan b
  let snan2 := valSnan a || valSnan b
  match func with
  | 0x00 => out a
  | 0x01 => put (addVal md.strict a b)
  | 0x02 => put (addVal md.strict a (valFlip b))
  | 0x03 => put (mulVal a b)
  | 0x04 => put (divVal a b)
  | 0x05 => out (minVal a b)
  | 0x06 => out (maxVal a b)
  | 0x07 => put (fmaVal md.strict a b c)
  | 0x08 => out (absVal a)
  | 0x09 => out (valFlip a)
  | 0x0A => out (maxVal a valZeroP)
  | 0x0B => out (minVal (maxVal a b) c)
  | 0x10 => funExp out a
  | 0x11 => funLog out a
  | 0x12 => funSqrt out a
  | 0x13 => funRsqrt out a
  | 0x14 => funRecip out a
  | 0x20 => b1 (!nan2 && valEq a b) (fWhen (md.strict && snan2) fInvalid)
  | 0x21 => b1 (nan2 || !valEq a b) (fWhen (md.strict && snan2) fInvalid)
  | 0x22 => b1 (!nan2 && valLt a b) (fWhen (md.strict && nan2) fInvalid)
  | 0x23 => b1 (!nan2 && !valLt b a) (fWhen (md.strict && nan2) fInvalid)
  | 0x24 => if valTrue c then out a else out b
  | 0x30 | 0x31 | 0x32 =>
    let w := max wa wb
    let x := wrapBits w (valInt a)
    let y := wrapBits w (valInt b)
    let z := if func = 0x30 then x &&& y else if func = 0x31 then x ||| y else x ^^^ y
    out (intV (sext w z))
  | 0x33 => out (intV (valInt a * 2 ^ (clampInt 0 31 (valInt b)).toNat))
  | 0x34 =>
    let x := valInt a
    let m := roundQ false x.natAbs (2 ^ (clampInt 0 31 (valInt b)).toNat)
    out (intV (if x < 0 then -(m : Int) else m))
  | _ => ⟨0, fNone⟩

/-- Exact `p·q + r·s` as one component of a complex product, decided on its own (R110). -/
def dot2Val (strict : Bool) (p q r s : Val) (negate : Bool) : Val × Flags :=
  let bad (x y : Val) : Bool := (valInf x && valZero y) || (valZero x && valInf y)
  if bad p q || bad r s then (.nan false, fInvalid)
  else if valNan p || valNan q || valNan r || valNan s then
    (.nan (valSnan p || valSnan q || valSnan r || valSnan s), fNone)
  else
    let x := (mulVal p q).1
    let y := (mulVal r s).1
    addVal strict x (if negate then valFlip y else y)

/-- A Q15 component: the exact value shifted right by 15, RNA, saturated to INT16 (R110). -/
def q15 (x : Int) : FR :=
  let m := roundQ false x.natAbs (2 ^ 15)
  toInt 16 false (intV (if x < 0 then -(m : Int) else m))

/-- A complex element of two 16-bit components. -/
def pairBits (re im : FR) : FR := ⟨re.bits + 2 ^ 16 * im.bits, re.flags ||| im.flags⟩

/-- CMUL (`conj` false) or CMULC (`conj` true) of two elements of one complex format (R110). -/
def vecCmul (conj : Bool) (md : NMode) (f : Fmt) (x y : Nat) : FR :=
  match f with
  | .ci16 =>
    let ar := sext 16 x; let ai := sext 16 (x / 2 ^ 16)
    let br := sext 16 y; let bi := sext 16 (y / 2 ^ 16)
    if conj then pairBits (q15 (ar * br + ai * bi)) (q15 (ai * br - ar * bi))
    else pairBits (q15 (ar * br - ai * bi)) (q15 (ar * bi + ai * br))
  | _ =>
    let i (z : Nat) := inVal .fp16 md.strict md.ftz (z % 2 ^ 16)
    let ar := i x; let ai := i (x / 2 ^ 16); let br := i y; let bi := i (y / 2 ^ 16)
    let out (p : Val × Flags) : FR := withFlags p.2 (toFloat .fp16 md.strict md.ftz p.1)
    let fl := ar.2 ||| ai.2 ||| br.2 ||| bi.2
    withFlags fl <|
      if conj then pairBits (out (dot2Val md.strict ar.1 br.1 ai.1 bi.1 false))
        (out (dot2Val md.strict ai.1 br.1 ar.1 bi.1 true))
      else pairBits (out (dot2Val md.strict ar.1 br.1 ai.1 bi.1 true))
        (out (dot2Val md.strict ar.1 bi.1 ai.1 br.1 false))

/-- CONJ: Q is negated, −32,768 saturating in CI16 (R110). -/
def vecConj (md : NMode) (f : Fmt) (x : Nat) : FR :=
  match f with
  | .ci16 => pairBits ⟨x % 2 ^ 16, fNone⟩ (toInt 16 false (intV (-(sext 16 (x / 2 ^ 16)))))
  | _ =>
    let i (z : Nat) := inVal .fp16 md.strict md.ftz (z % 2 ^ 16)
    let re := i x; let im := i (x / 2 ^ 16)
    pairBits (withFlags re.2 (toFloat .fp16 md.strict md.ftz re.1))
      (withFlags im.2 (toFloat .fp16 md.strict md.ftz (valFlip im.1)))

/-- The function class of a function code (R106): 0 element-wise, 1 transcendental or DIV, 2 compare, 3 integer,
4 complex, 5 data movement, 6 lookup, 7 row operation. -/
def vecClass (func : Nat) : Option Nat :=
  if func = 0x04 then some 1
  else if func ≤ 0x0B then some 0
  else if 0x10 ≤ func && func ≤ 0x14 then some 1
  else if 0x20 ≤ func && func ≤ 0x24 then some 2
  else if 0x30 ≤ func && func ≤ 0x34 then some 3
  else if 0x40 ≤ func && func ≤ 0x42 then some 4
  else if 0x50 ≤ func && func ≤ 0x52 then some 5
  else if func = 0x60 then some 6
  else if 0x70 ≤ func && func ≤ 0x72 then some 7
  else none

/-- Which source streams a function reads: A always; B and C as the table of R106 names them. -/
def vecUsesB (func : Nat) : Bool :=
  func ∈ [0x01, 0x02, 0x03, 0x04, 0x05, 0x06, 0x07, 0x0B, 0x20, 0x21, 0x22, 0x23, 0x24, 0x30, 0x31, 0x32, 0x33, 0x34,
    0x40, 0x42]
/-- Whether a function needs stream C. -/
def vecUsesC (func : Nat) : Bool := func ∈ [0x07, 0x0B, 0x24, 0x50, 0x51, 0x52, 0x60]

/-- One element of the element-wise, transcendental, compare, integer and complex classes on raw codes: complex
elements of MOV, ADD, SUB, NEG and SELECT are two real elements (R507). -/
def vecCode (func : Nat) (md : NMode) (fa fb fc fd : Fmt) (a b c : Nat) : FR :=
  if func = 0x40 then vecCmul false md fa a b
  else if func = 0x42 then vecCmul true md fa a b
  else if func = 0x41 then vecConj md fa a
  else
    let cin := inVal fc md.strict md.ftz c
    let cv : Val × Flags := if vecUsesC func then cin else (valZeroP, fNone)
    if fmtIsComplex fa then
      let part (k : Nat) : FR :=
        let x := inVal (fmtComp fa) md.strict md.ftz (a / 2 ^ (16 * k) % 2 ^ 16)
        let y : Val × Flags :=
          if vecUsesB func then inVal (fmtComp fb) md.strict md.ftz (b / 2 ^ (16 * k) % 2 ^ 16) else (valZeroP, fNone)
        withFlags (x.2 ||| y.2 ||| cv.2) (vecElem func md (fmtComp fd) 16 16 x.1 y.1 cv.1)
      pairBits (part 0) (part 1)
    else
      let x := inVal fa md.strict md.ftz a
      let y : Val × Flags := if vecUsesB func then inVal fb md.strict md.ftz b else (valZeroP, fNone)
      withFlags (x.2 ||| y.2 ||| cv.2) (vecElem func md fd (fmtBits fa) (fmtBits fb) x.1 y.1 cv.1)

/-- PERMUTE of a row: `idx` the raw indices, read unsigned (R111). -/
def rowPermute (vl : Nat) (a idx : List Nat) : List Nat × Flags :=
  (idx.map fun i => if i < vl then lget 0 a i else 0, fWhen (idx.any fun i => vl ≤ i) fPermOob)

/-- COMPRESS of a row, with the count of selected elements (R112). -/
def rowCompress (vl : Nat) (a : List Nat) (mask : List Bool) : List Nat × Nat :=
  let sel := ((a.zip mask).filter fun p => p.2).map fun p => p.1
  (sel ++ List.replicate (vl - sel.length) 0, sel.length)

/-- EXPAND of a row (R113). -/
def rowExpand : List Nat → List Bool → List Nat → List Nat
  | _, [], _ => []
  | a, m :: ms, b =>
    let b0 := b.headD 0
    let bt := b.drop 1
    if m then a.headD 0 :: rowExpand (a.drop 1) ms bt else b0 :: rowExpand a ms bt

/-- The FP32 value 1. -/
def oneVal : Val := .fin false 1 1

/-- SUM of floating values in element order (R116). -/
def sumFloat (md : NMode) (xs : List Val) : FR :=
  if md.strict then
    xs.foldl (fun acc x => let r := fp32Add true false (fp32Val acc.bits) x
                           ⟨r.bits, acc.flags ||| r.flags⟩) ⟨0, fNone⟩
  else
    match (chunks 128 (xs.length + 1) xs).map fun c => passPartial md.ftz (foldPass (c.map fun x => (x, oneVal))) with
    | [] => ⟨0, fNone⟩
    | r :: rs => rs.foldl (fun acc p => let q := fp32Add false md.ftz (fp32Val acc.bits) (fp32Val p.bits)
                                        ⟨q.bits, acc.flags ||| p.flags ||| q.flags⟩) r

/-- Sum of squares of FP32 values in element order (R121). -/
def sumSquares (md : NMode) (xs : List Val) : FR :=
  if md.strict then dotStrict valZeroP (xs.map fun x => (x, x))
  else
    match (chunks 128 (xs.length + 1) xs).map fun c => passPartial md.ftz (foldPass (c.map fun x => (x, x))) with
    | [] => ⟨0, fNone⟩
    | r :: rs => rs.foldl (fun acc p => let q := fp32Add false md.ftz (fp32Val acc.bits) (fp32Val p.bits)
                                        ⟨q.bits, acc.flags ||| p.flags ||| q.flags⟩) r

/-- Index of the first element that satisfies `p`, counting from `i`. -/
def firstIdx {α : Type} (p : α → Bool) : List α → Nat → Option Nat
  | [], _ => none
  | x :: xs, i => if p x then some i else firstIdx p xs (i + 1)

/-- A reduction of the values as written in `fd`, with its result code in FP32 or INT32 (R114, R115, R116). ARGMAX orders
the zeros as MAX does, +0 above −0. DEDUCED: assumption log 20. -/
def reduceVals (op : Nat) (md : NMode) (fd : Fmt) (codes : List Nat) : FR :=
  let vs := codes.map (decodeVal fd)
  let int := fmtIsInt fd
  let put (v : Val) : FR := if int then toInt 32 false v else toFp32 false false v
  match op with
  | 1 =>
    if int then toInt 32 false (intV (vs.map valInt).sum)
    else sumFloat md vs
  | 2 => match vs with
    | [] => ⟨0, fNone⟩
    | v :: r => put (r.foldl maxVal v)
  | 3 => match vs with
    | [] => ⟨0, fNone⟩
    | v :: r => put (r.foldl minVal v)
  | 4 => put ((vs.map absVal).foldl maxVal valZeroP)
  | 5 =>
    match firstIdx valNan vs 0 with
    | some i => ⟨i, fNone⟩
    | none =>
      match vs with
      | [] => ⟨0, fNone⟩
      | v :: r =>
        let m := r.foldl maxVal v
        ⟨(firstIdx (fun x => valEq m x && (valNeg m == valNeg x || !valZero m)) vs 0).getD 0, fNone⟩
  | 6 => ⟨(vs.filter valTrue).length % 2 ^ 32, fNone⟩
  | _ => ⟨0, fNone⟩

/-- A lookup table as read from its 261 words (R117). -/
structure LutTable where
  lo : Frac
  log2w : Int
  extrapolate : Bool
  knots : List Frac
deriving DecidableEq, Repr

/-- The table of 261 words, if it keeps R117. -/
def lutOf (ws : List Nat) : Option LutTable :=
  let lo := fp32Val (lget 0 ws 0)
  let l2 := sext 32 (lget 0 ws 1)
  let mode := lget 0 ws 2
  let kn := (ws.drop 4).take 257
  let fin (v : Val) : Bool := !valNan v && !valInf v
  if fin lo && (-24 ≤ l2 && l2 ≤ 24) && mode < 2 && lget 0 ws 3 == 0 && kn.length == 257
      && kn.all (fun k => fin (fp32Val k)) then
    let w : Frac := if 0 ≤ l2 then ⟨2 ^ l2.toNat, 1⟩ else ⟨1, 2 ^ (-l2).toNat⟩
    let hi := fracAdd (valFrac lo) (fracMul ⟨256, 1⟩ w)
    let big := valFrac (fp32Val 0x7F7FFFFF)
    if fracLt big ⟨hi.num.natAbs, hi.den⟩ then none
    else some ⟨valFrac lo, l2, mode == 1, kn.map fun k => valFrac (fp32Val k)⟩
  else none

/-- The exact interpolated value of a table at a value, or the result of a special input (R118). -/
def lutVal (t : LutTable) (x : Val) : Val :=
  let y (i : Nat) : Frac := lget ⟨0, 1⟩ t.knots i
  match x with
  | .nan s => .nan s
  | .inf neg =>
    if t.extrapolate then
      let a := if neg then y 1 else y 256
      let b := if neg then y 0 else y 255
      -- the value beyond the end follows the sign of the end slope, away from the table
      if fracEq a b then fracVal (if neg then y 0 else y 256) false
      else .inf (if neg then fracLt b a else fracLt a b)
    else fracVal (if neg then y 0 else y 256) false
  | v =>
    let w : Frac := if 0 ≤ t.log2w then ⟨2 ^ t.log2w.toNat, 1⟩ else ⟨1, 2 ^ (-t.log2w).toNat⟩
    let p0 := fracDiv (fracSub (valFrac v) t.lo) w
    let p : Frac :=
      if t.extrapolate then p0
      else if p0.num < 0 then ⟨0, 1⟩
      else if fracLt ⟨256, 1⟩ p0 then ⟨256, 1⟩ else p0
    let i := (clampInt 0 255 (p.num / p.den)).toNat
    let f := fracSub p ⟨i, 1⟩
    fracVal (fracAdd (y i) (fracMul f (fracSub (y (i + 1)) (y i)))) false

/-- SOFTMAX of one row (R120). -/
def rowSoftmax (md : NMode) (fd : Fmt) (xs : List Val) : List FR :=
  let masked (v : Val) : Bool := v == .inf true
  let out (v : Val) : FR := toFloat fd md.strict md.ftz v
  let zero : FR := out valZeroP
  if xs.any valNan then
    xs.map fun _ => ⟨fpNan (floatP fd), fWhen (md.strict && xs.any valSnan) fInvalid⟩
  else
    let n := (xs.filter fun v => v == .inf false).length
    if 0 < n then xs.map fun v => if v == .inf false then out (.fin false 1 n) else zero
    else if xs.all masked then xs.map fun _ => ⟨zero.bits, fRowEmpty⟩
    else
      let m := xs.foldl (fun acc v => if masked v then acc else if masked acc then v else maxVal acc v) (.inf true)
      let es := xs.map fun v =>
        if masked v then (⟨0, fNone⟩ : FR)
        else funExp (toFp32 md.strict md.ftz) (fracVal (fracSub (valFrac v) (valFrac m)) false)
      let s := sumFloat md (es.map fun e => fp32Val e.bits)
      es.map fun e =>
        let q := divVal (fp32Val e.bits) (fp32Val s.bits)
        withFlags (e.flags ||| s.flags ||| q.2) (out q.1)

/-- A division of an FP32 value by the integer `n`, rounded to FP32. -/
def div32 (md : NMode) (x : Nat) (n : Nat) : FR :=
  let q := divVal (fp32Val x) (.fin false n 1)
  withFlags q.2 (toFp32 md.strict md.ftz q.1)

/-- `ε = 2^NORM_EPS`, or 0 for 0x80 (R121). -/
def normEps (e : Nat) : Val :=
  if e = 0x80 then valZeroP
  else let k := sext 8 e; if 0 ≤ k then .fin false (2 ^ k.toNat) 1 else .fin false 1 (2 ^ (-k).toNat)

/-- `rsqrt(round32(v + ε))` (R121, R122). -/
def normRsqrt (md : NMode) (v eps : Nat) : FR :=
  let a := addVal md.strict (fp32Val v) (normEps eps)
  let b := toFp32 md.strict md.ftz a.1
  let r := funRsqrt (toFp32 md.strict md.ftz) (fp32Val b.bits)
  withFlags (a.2 ||| b.flags) r

/-- LAYERNORM of one row: outputs and the statistics pair (mu, r) (R121). -/
def rowLayernorm (md : NMode) (fd : Fmt) (eps : Nat) (xs gs bs : List Val) : List FR × FR × FR :=
  let n := xs.length
  let r32 (p : Val × Flags) : FR := withFlags p.2 (toFp32 md.strict md.ftz p.1)
  let sum := sumFloat md xs
  let mu := withFlags sum.flags (div32 md sum.bits n)
  let d := xs.map fun x => r32 (addVal md.strict x (valFlip (fp32Val mu.bits)))
  let v := sumSquares md (d.map fun e => fp32Val e.bits)
  let var := div32 md v.bits n
  let r := withFlags (v.flags ||| var.flags) (normRsqrt md var.bits eps)
  let ys := (d.zip (gs.zip bs)).map fun p =>
    let t := r32 (mulVal (fp32Val p.1.bits) (fp32Val r.bits))
    let y := fmaVal md.strict (fp32Val t.bits) p.2.1 p.2.2
    withFlags (p.1.flags ||| t.flags ||| y.2) (toFloat fd md.strict md.ftz y.1)
  (ys, mu, r)

/-- RMSNORM of one row: outputs and `r` (R122). -/
def rowRmsnorm (md : NMode) (fd : Fmt) (eps : Nat) (xs gs : List Val) : List FR × FR :=
  let v := sumSquares md xs
  let ms := div32 md v.bits xs.length
  let r := withFlags (v.flags ||| ms.flags) (normRsqrt md ms.bits eps)
  let ys := (xs.zip gs).map fun p =>
    let t0 := mulVal p.1 (fp32Val r.bits)
    let t := withFlags t0.2 (toFp32 md.strict md.ftz t0.1)
    let y := mulVal (fp32Val t.bits) p.2
    withFlags (t.flags ||| y.2) (toFloat fd md.strict md.ftz y.1)
  (ys, r)

end Sys2Proof.Machine
end

