-- ==== Sys2Proof/Machine/VecDesc.lean ====
section
/-!
DEFINITION. Machine/VecDesc.lean: a VOP's descriptor: its fields (R123), its streams (R100), and which of them its function and
its reduction use (R103, R113 to R115, R118).
-/
namespace Sys2Proof.Machine
open Sys2Proof

/-- One stream of a VOP (R100). -/
structure Stream where
  fmt : Nat
  id : Nat
  stride : Int
  mode : Nat
deriving DecidableEq, Repr

/-- A VOP as decoded (R123). -/
structure VecJob where
  func : Nat
  red : Nat
  whole : Bool
  vl : Nat
  rows : Nat
  a : Stream
  b : Stream
  c : Stream
  dst : Stream
  r : Nat
  pitch : Nat
  eps : Nat
deriving DecidableEq, Repr

/-- The fields of a VOP (R123). -/
def vecJob (x : Desc) : VecJob :=
  { func := dfield x 24 0 8, red := dfield x 25 4 4, whole := dbit x 25 3, vl := dfield x 26 0 16, rows := dfield x 28 0 16,
    a := ⟨dfield x 30 4 4, dfield x 32 0 32, sext 16 (dfield x 52 0 16), dfield x 62 6 2⟩,
    b := ⟨dfield x 30 0 4, dfield x 36 0 32, sext 16 (dfield x 54 0 16), dfield x 62 4 2⟩,
    c := ⟨dfield x 31 4 4, dfield x 40 0 32, sext 16 (dfield x 56 0 16), dfield x 62 2 2⟩,
    dst := ⟨dfield x 31 0 4, dfield x 44 0 32, sext 16 (dfield x 58 0 16), dfield x 62 0 2⟩,
    r := dfield x 48 0 32, pitch := dfield x 60 0 16, eps := dfield x 63 0 8 }

/-- The format of a stream. -/
def stFmt (s : Stream) : Fmt := (fmtOf s.fmt).getD .int8

/-- Index of element `i` of row `r` of a stream (R100). -/
def streamIdx (j : VecJob) (s : Stream) (r i : Nat) : Nat :=
  let a := s.stride.natAbs
  let start := match s.mode with
    | 0 => r * j.pitch
    | 1 => 0
    | _ => if a = 0 then r else r * j.vl * a
  start + (if 0 ≤ s.stride then i else j.vl - 1 - i) * a

/-- The class of a VOP's function. -/
def vecClassOf (j : VecJob) : Nat := (vecClass j.func).getD 8

/-- Whether B is a source stream: always, or where it names a tensor (R113, R121, R122). -/
def usesB (j : VecJob) : Bool :=
  vecUsesB j.func || (j.b.id != noTensor && (j.func == 0x52 || j.func == 0x71 || j.func == 0x72))

/-- Whether C is a source stream; the table of a LUT is none (R118). -/
def usesC (j : VecJob) : Bool :=
  (vecUsesC j.func && j.func != 0x60) || (j.c.id != noTensor && j.func == 0x71)

/-- The source streams of a VOP. -/
def vecSources (j : VecJob) : List Stream :=
  j.a :: ((if usesB j then [j.b] else []) ++ (if usesC j then [j.c] else []))

/-- Whether the VOP writes R: a reduction, the counts of COMPRESS, or the statistics of a normalisation (R112, R115,
R121, R122). -/
def usesR (j : VecJob) : Bool :=
  j.red != 0 || (j.r != noTensor && (j.func == 0x51 || j.func == 0x71 || j.func == 0x72))

end Sys2Proof.Machine
end

