-- ==== Sys2Proof/Machine/Sched.lean ====
section
/-!
DEFINITION. Machine/Sched.lean: the issue path of the dispatcher: queue heads and their checks (R221 to R228, R241, R248,
R250), the choice of engines (R235, R236, R241, R377), issue and completion (R225), covering ticks, boosts and the pumping
of rings between heads (R254, R255, R270, R160 to R163).
-/
namespace Sys2Proof.Machine
open Sys2Proof

/-! ### Queue heads -/

/-- The context whose queue range holds `q` (R226). -/
def ownerOf (d : Dev) (q : Nat) : Option Nat :=
  firstBelow 64 fun c =>
    let x := ctxOf d c
    x.reg.st != ctxFree && x.qbase ≤ q && q < x.qbase + x.qcount

/-- The descriptor at the head of a queue, with its context and class (R226, R227). -/
structure Head where
  q : Nat
  ctx : Nat
  lc : Bool
  desc : Desc
  idx : Nat
deriving DecidableEq, Repr

/-- The published head of a queue that is not halted (R227, R228). -/
def headOf (d : Dev) (q : Nat) : Option Head :=
  let x := queueOf d q
  if x.halted || x.head == x.tail then none
  else
    match ownerOf d q, tfind x.descs x.head with
    | some c, some y => some ⟨q, c, q - (ctxOf d c).qbase < (ctxOf d c).lcq, y, x.head⟩
    | _, _ => none

/-- The opcodes of the map (R222, R309, R339, chapter 12, R395). -/
def opcodes : List Nat :=
  [0x01, 0x02, 0x03, 0x08, 0x10, 0x11, 0x20, 0x30, 0x40, 0x41, 0x50, 0x51, 0x80, 0x81, 0x82, 0x90, 0xA0, 0xA1, 0xA2,
   0xB0, 0xB1, 0xC0, 0xC1]

/-- The engine kind of an opcode. -/
def kindOf (op : Nat) : EngKind :=
  match op with
  | 0x08 => .bench | 0x10 => .bench | 0x11 => .bench
  | 0x20 => .vec | 0x30 => .quant | 0x90 => .core
  | 0x40 => .haul | 0x41 => .haul | 0x50 => .mem | 0x51 => .mem
  | 0x80 => .fe | 0x81 => .fe | 0x82 => .fe
  | 0xA0 => .lr | 0xA1 => .lr | 0xA2 => .lr
  | 0xB0 => .trellis | 0xB1 => .trellis
  | 0xC0 => .time | 0xC1 => .time
  | _ => .disp

/-- The number of an engine kind that admission reserves (R237, R241). -/
def kindNo : EngKind → Option Nat
  | .bench => some 0
  | .vec => some 1
  | .quant => some 2
  | .core => some 3
  | _ => none

/-- Whether a LAYER of the context holds back the issue of queue `q` (R270). -/
def layerHolds (d : Dev) (ctx q : Nat) : Bool :=
  d.disp.queues.any fun e =>
    e.1 != q && e.2.cover.isSome && ownerOf d e.1 == some ctx &&
      match tfind e.2.descs e.2.head with
      | some y => hOpcode y == 0x08
      | none => false

/-- Whether a header wait is met (R224). -/
def waitMet (d : Dev) (x : Desc) : Bool := !hWaitEn x || hWaitValue x ≤ (syncOf d (hWaitObj x)).value

/-- The fault of a sync object that a descriptor names, if any (R248, R250). -/
def objReason (d : Dev) (obj : Nat) (lc : Bool) : Option Nat :=
  let s := syncOf d obj
  if !s.declared then some 0x0802 else if !syncClassOk s lc then some 0x0803 else none

/-- The first fault of a head's common header: reserved bits (`invalid` is the reason its engine gives them), the fields
the dispatcher checks (R223, R260), the objects it names (R248, R250), and the admission of its graph (R241). -/
def headerReason (d : Dev) (h : Head) (invalid : Nat) : Option Nat :=
  let x := h.desc
  if hReserved x then some invalid
  else if 1 < hClass x || (hClass x == 1) != h.lc || hCtx x != h.ctx || (!h.lc && hGraph x != 0)
      || (hSignalEn x && hSignalInc x == 0) then some 0x0801
  else
    match (if hWaitEn x then objReason d (hWaitObj x) h.lc else none) with
    | some r => some r
    | none =>
      match (if hSignalEn x then objReason d (hSignalObj x) h.lc else none) with
      | some r => some r
      | none => if h.lc && !lcAllowed d h.ctx (hGraph x) then some 0x0804 else none

/-- A head that is not executed: its queue halts, and the FAULT names the queue and the index (R228, R259). -/
def haltHead (d : Dev) (h : Head) (reason : Nat) : Dev :=
  postFault (modQueue d h.q fun x => { x with halted := true, cover := none }) h.ctx ⟨hTag h.desc, h.q⟩ reason
    (hOpcode h.desc) h.idx 0

/-- The head of a queue advanced past its descriptor (R227, R509). -/
def advance (d : Dev) (q : Nat) : Dev :=
  modQueue d q fun x =>
    { x with descs := tdel x.descs x.head, head := (x.head + 1) % 2 ^ 32, cover := none, boosted := false, mark := none }

/-- Whether every signal-core pair is worked out (R472). -/
def noCoreLeft (d : Dev) : Bool := d.sc.pairs.all fun g => g.st == 3

/-- The power domain, as an index of `PWR_DOMAIN_STATE` from zero, of a descriptor's engine, where a request can gate it
(R461, R463). -/
def domainOf (x : Desc) : Option Nat :=
  match hOpcode x with
  | 0x80 => some (if dbit x 24 7 then 11 else 10)
  | 0x81 => some (if dbit x 24 7 then 11 else 10)
  | 0x82 => some 12
  | 0xA0 => some 13 | 0xA1 => some 13 | 0xA2 => some 13
  | 0xB0 => some 14 | 0xB1 => some 14
  | _ => none

/-- Whether a descriptor's engine is on the signal die (R16, R220): one of chapters 10 to 14, or its haul engine. -/
def onSignalDie (d : Dev) (x : Desc) : Bool := 0x80 ≤ hOpcode x || (hOpcode x == 0x40 && moveDie d x == some 0)

/-- The fault of a descriptor whose engine is out of service (R194, R463, R472). -/
def gateReason (d : Dev) (x : Desc) : Option Nat :=
  let op := hOpcode x
  if d.mem.down && usesMemory d x then some 0x0706
  else if noBenchLeft d && (op == 0x08 || op == 0x10 || op == 0x11 || op == 0x20 || op == 0x30) then some 0x1003
  else if noCoreLeft d && op == 0x90 then some 0x1004
  else
    match domainOf x with
    | some k => if (lget ⟨0, 1⟩ d.pwr.domains k).st = 0 then some 0x1002 else none
    | none => none

/-- What a family says of a head with its opcode: the reason for reserved bits, its checks, whether it can issue now, and
its effect. -/
structure Family where
  op : Nat
  sub : Desc → Bool
  invalid : Nat
  check : Dev → Head → Option Nat
  ready : Dev → Head → Bool
  run : Dev → Head → Dev

/-- A descriptor of a signal-die engine crosses the haul road to it as a DESCRIPTOR flit (R16, R170, R220). The flit is sent
and accepted in the step that issues the descriptor, which waits until it can. DEDUCED: assumption log 118. -/
def sendDesc (d : Dev) (h : Head) : Dev :=
  if onSignalDie d h.desc then crossFlit d .ts h.lc (.descriptor h.desc) else d

/-- The head of queue `q` carried out as the family says, or halted by the first check it fails; unchanged while it must
wait or where the head is another descriptor (R224, R227, R228). -/
def withHead (d : Dev) (q : Nat) (f : Family) : Dev :=
  match headOf d q with
  | none => d
  | some h =>
    if (ctxOf d h.ctx).reg.st ≠ ctxActive || layerHolds d h.ctx q then d
    else if !opcodes.contains (hOpcode h.desc) then haltHead d h 0x0801
    else if hOpcode h.desc ≠ f.op || !f.sub h.desc then d
    else
      match headerReason d h f.invalid with
      | some r => haltHead d h r
      | none =>
        if !waitMet d h.desc || (onSignalDie d h.desc && !canCross d .ts h.lc) then d
        else
          match (gateReason d h.desc).orElse fun _ => f.check d h with
          | some r => haltHead d h r
          | none => if f.ready d h then f.run (sendDesc d h) h else d

/-! ### Engines -/

/-- Whether a reservation is open for a kind on an engine now (R241, R245). -/
def reservedNow (d : Dev) (k e : Nat) : Bool :=
  d.disp.resv.any fun r => r.kind == k && r.engines.contains e && now d < r.till

/-- The open reservation of a graph's kind. -/
def resvOf (d : Dev) (g k : Nat) : Option Resv :=
  d.disp.resv.find? fun r => r.graph == g && r.kind == k && now d < r.till

/-- Whether a unit of a kind is occupied by an operation that is not parked there. -/
def unitBusy (d : Dev) (k : EngKind) (u : Nat) : Bool :=
  d.disp.ops.any fun o => o.2.kind == k && o.2.units.contains u && !o.2.away.contains u

/-- The units of one engine of a kind: four partitions of a bench (R76), one of any other. -/
def engineUnits (k : EngKind) (e : Nat) : List Nat :=
  match k with
  | .bench => (List.range 4).map fun p => 4 * e + p
  | _ => [e]

/-- Whether an engine is wholly free. -/
def engineIdle (d : Dev) (k : EngKind) (e : Nat) : Bool := (engineUnits k e).all fun u => !unitBusy d k u

/-- The units an operation takes on an engine: a free partition, or all of it (R76, R79). -/
def unitsOn (d : Dev) (k : EngKind) (part : Bool) (e : Nat) : Option (List Nat) :=
  if part then ((engineUnits k e).find? fun u => !unitBusy d k u).map fun u => [u]
  else if engineIdle d k e then some (engineUnits k e) else none

/-- What a descriptor asks of the dispatcher: a partition or a whole engine, how many engines, whether it is split over
logical benches, and the tensors it names. -/
structure Want where
  part : Bool
  engines : Nat
  split : Bool
  tensors : List Nat
deriving DecidableEq, Repr

/-- The reduction length of a MATMUL or CONV. -/
def reduceLen (x : Desc) : Nat :=
  if hOpcode x = 0x10 then dfield x 44 0 32
  else dfield x 44 0 8 * dfield x 45 0 8 * dfield x 40 0 16 / max 1 (dfield x 50 0 16)

/-- Whether the activation format code is a floating one, real or complex (R41, R68). -/
def floatCode (c : Nat) : Bool := match fmtOf c with | some f => fmtIsFloat f || f == .cf16 | none => false

/-- Number of ranges S of a MATMUL or CONV (R68): 1 where its reduction is not split. -/
def benchRanges (d : Dev) (x : Desc) : Nat :=
  let mat := hOpcode x == 0x10
  let split := if mat then dbit x 50 2 else dbit x 54 2
  let fa := if mat then dfield x 48 4 4 else dfield x 52 4 4
  if split && !(hStrict x && floatCode fa) then splitRanges true d.boot.lbenches (ceilDiv (reduceLen x) 128) else 1

/-- The tensors a VOP reads or writes: those its function and its reduction use (R103, R123, R377). -/
def vopTensors (x : Desc) : List Nat :=
  let j := vecJob x
  ((vecSources j).map fun (s : Stream) => s.id) ++ (if j.func = 0x60 then [j.c.id] else []) ++ [j.dst.id] ++ if usesR j then [j.r] else []

/-- What a compute descriptor asks. -/
def wantOf (d : Dev) (x : Desc) : Want :=
  match hOpcode x with
  | 0x10 =>
    { part := dbit x 49 6, engines := benchRanges d x, split := 1 < benchRanges d x,
      tensors := [dfield x 24 0 32, dfield x 28 0 32, dfield x 32 0 32] ++ (if dbit x 49 7 then [dfield x 56 0 32] else []) }
  | 0x11 =>
    { part := dbit x 53 6, engines := benchRanges d x, split := 1 < benchRanges d x,
      tensors := [dfield x 24 0 32, dfield x 28 0 32, dfield x 32 0 32] ++ (if dbit x 53 7 then [dfield x 60 0 32] else []) }
  | 0x20 =>
    { part := false, engines := 1, split := false,
      tensors := vopTensors x }
  | 0x30 => { part := false, engines := 1, split := false, tensors := (List.range 3).map fun i => dfield x (24 + 4 * i) 0 32 }
  | 0x90 => { part := false, engines := dfield x 26 0 8, split := false, tensors := [] }
  | _ => { part := false, engines := 1, split := false, tensors := [] }

/-- Pages of the named tensors resident on a bench (R236). -/
def residentOn (d : Dev) (ctx : Nat) (ts : List Nat) (b : Nat) : Nat :=
  ts.foldl (fun n t =>
    match tensorOf d ctx t with
    | some x => n + ((List.range x.pages).filter fun i => bitAt (pageOf d ctx (x.base + i)).copies b).length
    | none => n) 0

/-- Whether a bench holds every named tensor as bench-pinned pages (R377). -/
def holdsPinned (d : Dev) (ctx : Nat) (ts : List Nat) (b : Nat) : Bool :=
  ts.all fun t =>
    match tensorOf d ctx t with
    | some x => pinnedOn d x b
    | none => true

/-- The first of a list with the highest score. -/
def bestOf (score : Nat → Nat) : List Nat → Option Nat
  | [] => none
  | a :: t => some (t.foldl (fun m x => if score m < score x then x else m) a)

/-- The engines of a reserved kind that can take best-effort work now. -/
def freeForBe (d : Dev) (k : EngKind) (n : Nat) (part : Bool) (e : Nat) : Bool :=
  (if n = 3 then (lget ⟨0, 4⟩ d.sc.pairs (e / 2)).st == 1 && !(d.disp.ops.any fun o =>
      o.2.kind == .core && !o.2.lc && o.2.away.contains e)
    else benchTakes d e)
    && !reservedNow d n e && (unitsOn d k part e).isSome

/-- All options present. -/
def allSome : List (Option (List Nat)) → Option (List Nat)
  | [] => some []
  | some a :: t => (allSome t).map fun r => a ++ r
  | none :: _ => none

/-- Up to `n` elements of a list in falling score, the earlier of equals first. -/
def bestSome (score : Nat → Nat) : Nat → List Nat → List Nat
  | 0, _ => []
  | n + 1, l =>
    match bestOf score l with
    | some e => e :: bestSome score n (l.filter fun x => x != e)
    | none => []

/-- The engines of a split operation: as many as it has ranges, or as benches take work where there are fewer; its ranges go
round them (R21, R68, R236). -/
def splitEngines (d : Dev) (n : Nat) : Nat := min n ((List.range 16).filter (benchTakes d)).length

/-- The units of a best-effort operation: free engines, on the benches with the most operand pages first (R235, R236,
R340). -/
def pickBe (d : Dev) (ctx : Nat) (k : EngKind) (n : Nat) (w : Want) : Option (List Nat) :=
  if n = 3 then
    let free := (List.range 32).filter (freeForBe d k n false)
    if w.engines ≤ free.length then some (free.take w.engines) else none
  else
    let s := if w.split then max 1 (splitEngines d w.engines) else 1
    let es := bestSome (residentOn d ctx w.tensors) s ((List.range 16).filter (freeForBe d k n w.part))
    if es.length = s then allSome (es.map (unitsOn d k w.part)) else none

/-- Whether a graph has a parked operation of a kind, which goes before its other descriptors (R243). -/
def hasParkedLc (d : Dev) (g : Nat) (k : EngKind) : Bool :=
  d.disp.ops.any fun o => o.2.parked && o.2.lc && o.2.graph == g && o.2.kind == k

/-- The signal cores placed for a graph, in the order of its placement, in the window of a reservation (R240, R340). -/
def placedCores (d : Dev) (r : Resv) : List Nat := lget [] (placeIn (graphOf d r.graph) r.window) 3

/-- Whether a latency-critical program can take a core: it is reserved still, its pair is READY, and it is free (R244, R348). -/
def coreOpen (d : Dev) (r : Resv) (c : Nat) : Bool :=
  r.engines.contains c && engineReady d.comp.bench d.sc.pairs 3 c && !unitBusy d .core c

/-- The units of a latency-critical operation: inside its graph's reservation, on engines placed for the graph that take work
(R96, R241, R340, R348, R377); instance i of a program runs on the i-th core of the placement. -/
def pickLc (d : Dev) (ctx : Nat) (k : EngKind) (n g : Nat) (w : Want) : Option (List Nat) :=
  match resvOf d g n with
  | none => none
  | some r =>
    let es := r.engines.filter (engineReady d.comp.bench d.sc.pairs n)
    if n = 3 then
      let on := (placedCores d r).take w.engines
      if w.engines ≤ on.length && on.all (coreOpen d r) then some on else none
    else if w.split then
      let on := es.take w.engines
      if on.isEmpty then none else allSome (on.map (unitsOn d k w.part))
    else
      match es.find? (holdsPinned d ctx w.tensors) with
      | some e => unitsOn d k w.part e
      | none =>
        match es.find? (fun e => (unitsOn d k w.part e).isSome) with
        | some e => unitsOn d k w.part e
        | none => none

/-- The units a head would take now; none while it must wait. A LAYER takes no unit but, if latency-critical, waits for
its bench reservation (R241). -/
def pickUnits (d : Dev) (h : Head) : Option (List Nat) :=
  let k := kindOf (hOpcode h.desc)
  match kindNo k with
  | none => some []
  | some n =>
    if hOpcode h.desc = 0x08 then (if h.lc then (resvOf d (hGraph h.desc) 0).map fun _ => [] else some [])
    else if h.lc then
      (if hasParkedLc d (hGraph h.desc) k then none else pickLc d h.ctx k n (hGraph h.desc) (wantOf d h.desc))
    else if n ≠ 3 && (d.pwr.powerHold || d.pwr.heatHold) then none
    else pickBe d h.ctx k n (wantOf d h.desc)

/-- Whether context `c` has a parked operation of a kind (R235). -/
def hasParked (d : Dev) (c : Nat) (k : EngKind) : Bool :=
  d.disp.ops.any fun o => o.2.ctx == c && o.2.parked && !o.2.lc && o.2.kind == k

/-- Whether a context is boosted (R254). -/
def boostedCtx (d : Dev) (c : Nat) : Bool := d.disp.boosts.any fun b => b.holder == c

/-- Whether a boosted context has a parked operation of a kind, which goes ahead of all other best-effort work (R254). -/
def boostWaits (d : Dev) (k : EngKind) : Bool := d.disp.boosts.any fun b => hasParked d b.holder k

/-- Whether a head is a best-effort head ready for an engine of a kind (R235). -/
def beReady (d : Dev) (k : EngKind) (h : Head) : Bool :=
  !h.lc && kindOf (hOpcode h.desc) == k && hOpcode h.desc != 0x08 && (ctxOf d h.ctx).reg.st == ctxActive
    && !layerHolds d h.ctx h.q && (headerReason d h 0x0801).isNone && waitMet d h.desc && !hasParked d h.ctx k
    && (boostedCtx d h.ctx || !boostWaits d k)
    && (pickUnits d h).isSome

/-- The best-effort heads ready for a kind. -/
def beHeads (d : Dev) (k : EngKind) : List Head :=
  (d.disp.queues.filterMap fun e => headOf d e.1).filter (beReady d k)

/-- Whether context `a` goes ahead of context `b` for a kind: boosted first, then the lower ratio of usage to weight, then
the lower number (R235, R254). -/
def ctxBefore (d : Dev) (n a b : Nat) : Bool :=
  let x := ctxOf d a
  let y := ctxOf d b
  if boostedCtx d a != boostedCtx d b then boostedCtx d a
  else
    let p := lget 0 x.usage n * y.weight
    let r := lget 0 y.usage n * x.weight
    p < r || (p == r && a < b)

/-- The first of a context's ready queues after the one it served last, with wrap-around (R235). -/
def queueAfter (last : Nat) (qs : List Nat) : Option Nat :=
  (qs.find? fun q => last < q).orElse fun _ => qs.head?

/-- The queue that best-effort scheduling serves next for a kind (R235). -/
def bePick (d : Dev) (k : EngKind) (n : Nat) : Option Nat :=
  let hs := beHeads d k
  match hs with
  | [] => none
  | h :: t =>
    let c := t.foldl (fun m x => if ctxBefore d n x.ctx m then x.ctx else m) h.ctx
    queueAfter (lget 0 (ctxOf d c).lastQ n) ((hs.filter fun x => x.ctx == c).map fun x => x.q)

/-- Whether a head may issue now: it has its units, and best-effort work is its turn (R227, R235). -/
def mayIssue (d : Dev) (h : Head) : Bool :=
  let k := kindOf (hOpcode h.desc)
  (pickUnits d h).isSome &&
    match kindNo k with
    | some n => h.lc || hOpcode h.desc == 0x08 || bePick d k n == some h.q
    | none => true

/-! ### Issue and completion -/

/-- The benches whose frames hold the running state of an operation on units of a kind (R66, R149, R203). -/
def scratchFor (k : EngKind) (us : List Nat) : List Nat :=
  match k with
  | .bench | .vec | .quant => (us.map (unitBench k)).eraseDups
  | _ => []

/-- An operation as it issues. -/
def freshOp (d : Dev) (h : Head) : Op :=
  { desc := h.desc, queue := h.q, idx := h.idx, ctx := h.ctx, lc := h.lc, graph := hGraph h.desc,
    kind := kindOf (hOpcode h.desc), units := (pickUnits d h).getD [], phase := .moving, parked := false, away := [],
    scratch := scratchFor (kindOf (hOpcode h.desc)) ((pickUnits d h).getD []), landed := 0,
    run := .whole, cur := [], held := [], pes := [], spoilSeen := false, blocks := [], left := [],
    issued := now d, occ := 0, needs := [], pos := 0, got := 0, spoilRest := false, cut := none, outs := [] }

/-- The queue that a context served last for a kind recorded (R235). -/
def noteServed (d : Dev) (h : Head) : Dev :=
  match kindNo (kindOf (hOpcode h.desc)) with
  | some n => if h.lc then d else modCtx d h.ctx fun c => { c with lastQ := lset c.lastQ n h.q }
  | none => d

/-- A head issued as an operation: its number, and the device (R227). -/
def issue (d : Dev) (h : Head) (o : Op) : Nat × Dev :=
  let id := d.disp.nextOp
  let d := noteServed (advance d h.q) h
  let d := setOp d id o
  (id, { d with disp := { d.disp with nextOp := id + 1 } })

/-- The end of a descriptor at the dispatcher: its SIGNAL increment and its COMPLETE event (R225, R251, R259). -/
def endDesc (d : Dev) (ctx q idx : Nat) (x : Desc) : Dev :=
  let c : Cause := ⟨hTag x, q⟩
  let d := if hSignalEn x then syncAdd d (hSignalObj x) (hSignalInc x) ctx ctx c (hOpcode x) idx else d
  if hEvent x then post d ctx 0x0001 c (leBytes 2 (hOpcode x) ++ zeros 2 ++ leBytes 4 idx) else d

/-- The end of a descriptor: that of an engine on the signal die returns across the haul road (R16, R225). -/
def finishDesc (d : Dev) (ctx q idx : Nat) (x : Desc) : Dev :=
  if onSignalDie d x then
    if canCross d .st (hClass x == 1) then endDesc (crossFlit d .st (hClass x == 1) (.complete ctx q idx x)) ctx q idx x
    else enqueue d .st (hClass x == 1) (.complete ctx q idx x)
  else endDesc d ctx q idx x

/-- A head that takes effect and completes in one step. -/
def completeHead (d : Dev) (h : Head) : Dev := finishDesc (advance d h.q) h.ctx h.q h.idx h.desc

/-- Whether the ring slots that an operation posted have arrived on their consumer's die: each ring with the slot count that
must be reached (R225, R343, R372). -/
def outsIn (d : Dev) (o : Op) : Bool :=
  o.outs.all fun e =>
    match ringOf d e.1 with
    | some x => e.2 ≤ x.count
    | none => true

/-- The ring and the slot count that its posted slots will reach. -/
def outMark (d : Dev) (r : Nat) : List (Nat × Nat) :=
  match ringOf d r with
  | some x => [(r, x.count + (x.slotSt.filter fun s => s == .filling).length)]
  | none => []

/-- Best-effort engine ticks counted for a context (R235). -/
def countUsage (d : Dev) (o : Op) : Dev :=
  match kindNo o.kind with
  | some n => if o.lc then d else modCtx d o.ctx fun c => { c with usage := lmod c.usage n fun u => u + o.occ }
  | none => d

/-- An operation that has ended leaves the device and its covers (R225, R255). -/
def retireOp (d : Dev) (id : Nat) : Dev :=
  let d := dropOp d id
  { d with disp := { d.disp with queues := d.disp.queues.map fun e =>
      (e.1, { e.2 with cover := e.2.cover.map fun l => l.filter fun i => i ≠ id }) } }

/-- An operation's completion (R225). -/
def completeOp (d : Dev) (id : Nat) : Dev :=
  match opOf d id with
  | none => d
  | some o => checkReturn (finishDesc (retireOp (countUsage d o) id) o.ctx o.queue o.idx o.desc)

/-! ### Covers, boosts and rings -/

/-- The operations a FENCE or LAYER of a head covers (R255, R270). -/
def coverOf (d : Dev) (h : Head) : List Nat :=
  let own := hOpcode h.desc == 0x02 && dfield h.desc 24 0 8 == 0x01
  (d.disp.ops.filter fun o => if own then o.2.queue == h.q else o.2.ctx == h.ctx).map fun o => o.1

/-- The covering tick of a FENCE or LAYER at the head of a queue (R255, R270). -/
def armCover (d : Dev) (q : Nat) : Dev :=
  match headOf d q with
  | none => d
  | some h =>
    let op := hOpcode h.desc
    if (op == 0x02 || (op == 0x08 && !layerHolds d h.ctx q)) && (queueOf d q).cover.isNone
        && (ctxOf d h.ctx).reg.st == ctxActive && (headerReason d h 0x0801).isNone && waitMet d h.desc then
      modQueue d q fun x => { x with cover := some (coverOf d h) }
    else d

/-- The object that an LC head waits on now, if its header wait, WAIT or HOLD is not met (R254). -/
def waitsOn (d : Dev) (h : Head) : Option Nat :=
  let x := h.desc
  if !h.lc || (ctxOf d h.ctx).reg.st ≠ ctxActive || layerHolds d h.ctx h.q || (headerReason d h 0x0801).isSome then none
  else if !waitMet d x then some (hWaitObj x)
  else if hOpcode x = 0x01 then
    let obj := dfield x 26 0 13
    let s := syncOf d obj
    match dfield x 24 0 8 with
    | 0x03 => if dfield x 28 0 64 ≤ s.value then none else some obj
    | 0x04 => if s.holder = none || s.holder = some h.ctx then none else some obj
    | _ => none
  else none

/-- The best-effort holder that an LC head waits for, with the object (R254). -/
def holderMet (d : Dev) (h : Head) : Option (Nat × Nat) :=
  match waitsOn d h with
  | none => none
  | some obj =>
    let s := syncOf d obj
    match s.holder with
    | some c => if s.cls = 2 && !s.holderLc then some (c, obj) else none
    | none => none

/-- Whether the descriptor of a queue that met a holder still waits for it at the head (R254). -/
def queueWaitsFor (d : Dev) (c : Nat) (w : Nat × Nat) : Bool :=
  match headOf d w.1 with
  | some h => h.idx == w.2 && (holderMet d h).map (fun p => p.1) == some c
  | none => false

/-- Boosts whose holder has released, or none of whose waiters still waits, end (R254). -/
def endBoosts (d : Dev) : Dev :=
  let bs := d.disp.boosts.filter fun b => b.waiters.any (queueWaitsFor d b.holder)
  { d with disp := { d.disp with boosts := bs } }

/-- A boost for the head of a queue begins, or the head shares the one of its holder; a wait whose boost has run out gets no
further one (R254). -/
def startBoost (d : Dev) (q : Nat) : Dev :=
  match headOf d q with
  | none => d
  | some h =>
    match holderMet d h with
    | none => d
    | some (c, obj) =>
      if (queueOf d q).boosted then d
      else if boostedCtx d c then
        { d with disp := { d.disp with boosts := d.disp.boosts.map fun b =>
            if b.holder = c && !b.waiters.contains (q, h.idx) then { b with waiters := b.waiters ++ [(q, h.idx)] } else b } }
      else
        { d with disp := { d.disp with boosts := d.disp.boosts ++ [⟨c, obj, now d, [(q, h.idx)]⟩],
                                       boostsBegun := satAdd 32 d.disp.boostsBegun 1 } }

/-- What follows from a change of heads, counters or rings, before the next command: covering ticks, boosts, and movers
bound to slots. -/
def settle (d : Dev) : Dev :=
  let qs := d.disp.queues.map fun e => e.1
  let d := homeWritten (qs.foldl armCover d)
  let d := endBoosts d
  pumpPuts (pumpMoves (qs.foldl startBoost d))

end Sys2Proof.Machine
end

