-- ==== Sys2Proof/Machine/Sync.lean ====
section
/-!
DEFINITION. Machine/Sync.lean: SYNC, FENCE and LAUNCH_AT (R248 to R256), the completion of a descriptor (R225), the opening
and the end of reservations (R243, R245), pre-emption, revocation (R244), and the halving of usage ratios (R235).
-/
namespace Sys2Proof.Machine
open Sys2Proof

/-- A descriptor command: the head of queue `q` carried out as a family says, and what follows from it. -/
def runHead (s : State) (q : Nat) (f : Family) : Host.Outcome State Fault Refusal :=
  onDev (q < 16384) s fun d => settle (withHead d q f)

/-- A command on the device, and what follows from it. -/
def runDev (ok : Bool) (s : State) (f : Dev → Dev) : Host.Outcome State Fault Refusal :=
  onDev ok s fun d => settle (f d)

/-! ### SYNC (R249) -/

/-- `SYNC.OP`. -/
def syOp (x : Desc) : Nat := dfield x 24 0 8
/-- `SYNC.OBJ_CLASS`. -/
def syClass (x : Desc) : Nat := dfield x 25 0 2
/-- `SYNC.OBJ`. -/
def syObj (x : Desc) : Nat := dfield x 26 0 13
/-- `SYNC.VALUE`. -/
def syValue (x : Desc) : Nat := dfield x 28 0 64
/-- `SYNC.DEADLINE`. -/
def syDeadline (x : Desc) : Nat := dfield x 36 0 64
/-- `SYNC.TO_EN`. -/
def syToEn (x : Desc) : Bool := dbit x 44 15
/-- `SYNC.TIMEOUT_OBJ`. -/
def syToObj (x : Desc) : Nat := dfield x 44 0 13
/-- `SYNC.TIMEOUT_INC`. -/
def syToInc (x : Desc) : Nat := dfield x 48 0 32

/-- Whether a reserved bit of a SYNC is set (R6, R249). -/
def syReserved (x : Desc) : Bool :=
  dfield x 25 2 6 != 0 || dfield x 26 13 3 != 0 || dfield x 44 13 2 != 0 || dfield x 46 0 16 != 0 || dfield x 52 0 96 != 0

/-- Whether `SYNC.OP` is a reserved code. -/
def syBadOp (x : Desc) : Bool := syOp x == 0 || 6 < syOp x

/-- The first reason present. -/
def firstReason (a b : Option Nat) : Option Nat := a.orElse fun _ => b

/-- A reason where a condition holds. -/
def reasonIf (b : Bool) (r : Nat) : Option Nat := if b then some r else none

/-- A family of SYNC: reserved fields and codes are checked first (R260). -/
def syFamily (op : Nat) (check : Dev → Head → Option Nat) (ready : Dev → Head → Bool) (run : Dev → Head → Dev) : Family :=
  { op := 0x01, sub := fun x => syOp x == op || syBadOp x, invalid := 0x0801,
    check := fun d h => firstReason (reasonIf (syBadOp h.desc || syReserved h.desc) 0x0801) (check d h),
    ready := ready, run := fun d h => completeHead (run d h) h }

/-- The head of queue `q` waits on an object: by its header wait, or by a WAIT or HOLD (R510). -/
def headAwaits (d : Dev) (obj q : Nat) : Bool :=
  match headOf d q with
  | none => false
  | some h =>
    let x := h.desc
    if hWaitEn x && hWaitObj x == obj && !waitMet d x then true
    else if hOpcode x == 0x01 && syObj x == obj then
      (syOp x == 3 && (syncOf d obj).value < syValue x)
        || (syOp x == 4 && (syncOf d obj).holder.isSome && (syncOf d obj).holder != some h.ctx)
    else false

/-- Whether a descriptor waits on an object, or a ring or an armed trigger names it (R510). -/
def objInUse (d : Dev) (obj self : Nat) : Bool :=
  d.disp.queues.any (fun e => e.1 != self && headAwaits d obj e.1)
    || d.haul.rings.any (fun r => (r.2.fullEn && r.2.fullObj == obj) || (r.2.emptyEn && r.2.emptyObj == obj))
    || d.time.trigs.any fun t => t.2.armed && t.2.objEn && t.2.obj == obj

/-- DECLARE (R248, R510). -/
def famDeclare : Family :=
  syFamily 1
    (fun d h => reasonIf (syClass h.desc == 3 || (syncOf d (syObj h.desc)).declared) 0x0801)
    (fun _ _ => true)
    (fun d h => setSync d (syObj h.desc)
      { declared := true, cls := syClass h.desc, owner := h.ctx, value := syValue h.desc, holder := none, holderLc := false })

/-- SET (R510). -/
def famSet : Family :=
  syFamily 2 (fun d h => objReason d (syObj h.desc) h.lc) (fun _ _ => true)
    (fun d h => setSync d (syObj h.desc) { syncOf d (syObj h.desc) with value := syValue h.desc })

/-- The faults of a WAIT: its object and its timeout object (R248, R250). -/
def waitReason (d : Dev) (h : Head) : Option Nat :=
  firstReason (objReason d (syObj h.desc) h.lc)
    (if syToEn h.desc then firstReason (objReason d (syToObj h.desc) h.lc) (reasonIf (syToInc h.desc == 0) 0x0801) else none)

/-- Whether a WAIT has run past its deadline unmet (R252). -/
def waitLate (d : Dev) (h : Head) : Bool :=
  syDeadline h.desc != 0 && ((queueOf d h.q).mark.isSome
    || (syDeadline h.desc < now d && (syncOf d (syObj h.desc)).value < syValue h.desc))

/-- WAIT, succeeding (R252). -/
def famWait : Family :=
  syFamily 3 waitReason
    (fun d h => !waitLate d h && syValue h.desc ≤ (syncOf d (syObj h.desc)).value)
    (fun d _ => d)

/-- HOLD (R253). -/
def famHold : Family :=
  syFamily 4 (fun d h => objReason d (syObj h.desc) h.lc)
    (fun d h => (syncOf d (syObj h.desc)).holder == none || (syncOf d (syObj h.desc)).holder == some h.ctx)
    (fun d h => setSync d (syObj h.desc) { syncOf d (syObj h.desc) with holder := some h.ctx, holderLc := h.lc })

/-- RELEASE (R253). -/
def famRelease : Family :=
  syFamily 5 (fun d h => objReason d (syObj h.desc) h.lc) (fun _ _ => true)
    (fun d h =>
      let o := syncOf d (syObj h.desc)
      if o.holder = some h.ctx then setSync d (syObj h.desc) { o with holder := none } else d)

/-- UNDECLARE (R510). -/
def famUndeclare : Family :=
  syFamily 6
    (fun d h =>
      let o := syncOf d (syObj h.desc)
      if !o.declared then some 0x0802 else reasonIf (o.owner != h.ctx || objInUse d (syObj h.desc) h.q) 0x0801)
    (fun _ _ => true)
    (fun d h => setSync d (syObj h.desc) syncDefault)

/-- SYNC_DECLARE. -/
def execSyncDeclare (q : Nat) (s : State) : Host.Outcome State Fault Refusal := runHead s q famDeclare
/-- SYNC_SET. -/
def execSyncSet (q : Nat) (s : State) : Host.Outcome State Fault Refusal := runHead s q famSet
/-- SYNC_WAIT. -/
def execSyncWait (q : Nat) (s : State) : Host.Outcome State Fault Refusal := runHead s q famWait
/-- SYNC_HOLD. -/
def execSyncHold (q : Nat) (s : State) : Host.Outcome State Fault Refusal := runHead s q famHold
/-- SYNC_RELEASE. -/
def execSyncRelease (q : Nat) (s : State) : Host.Outcome State Fault Refusal := runHead s q famRelease
/-- SYNC_UNDECLARE. -/
def execSyncUndeclare (q : Nat) (s : State) : Host.Outcome State Fault Refusal := runHead s q famUndeclare

/-- The timeout of a WAIT: the event, the timeout increment, no SIGNAL; the queue goes on (R252). -/
def timeOut (d : Dev) (h : Head) : Dev :=
  let x := h.desc
  let c : Cause := ⟨hTag x, h.q⟩
  let d := post (advance d h.q) h.ctx 0x000C c (leBytes 2 (syObj x) ++ zeros 6 ++ leBytes 8 (syDeadline x))
  if syToEn x then syncAdd d (syToObj x) (syToInc x) h.ctx h.ctx c (hOpcode x) h.idx else d

/-- WAIT, timing out (R252). -/
def famTimeout : Family :=
  { op := 0x01, sub := fun x => syOp x == 3, invalid := 0x0801,
    check := fun d h => firstReason (reasonIf (syReserved h.desc) 0x0801) (waitReason d h),
    ready := waitLate, run := timeOut }

/-- WAIT_TIMEOUT. -/
def execWaitTimeout (q : Nat) (s : State) : Host.Outcome State Fault Refusal := runHead s q famTimeout

/-! ### FENCE and LAUNCH_AT -/

/-- FENCE (R255). -/
def famFence : Family :=
  { op := 0x02, sub := fun _ => true, invalid := 0x0801,
    check := fun _ h => reasonIf ((dfield h.desc 24 0 8 != 1 && dfield h.desc 24 0 8 != 2) || dfield h.desc 25 0 312 != 0) 0x0801,
    ready := fun d h => (queueOf d h.q).cover == some [], run := completeHead }

/-- FENCE. -/
def execFence (q : Nat) (s : State) : Host.Outcome State Fault Refusal :=
  onDev (q < 16384) s fun d => settle (withHead (armCover d q) q famFence)

/-- Whether a context is in lock-step mode (R276). -/
def inLockstep (d : Dev) (ctx : Nat) : Bool := d.ls.enable && d.ls.ctx == ctx

/-- A LAUNCH_AT on its count, or past it (R256). -/
def launch (d : Dev) (h : Head) : Dev :=
  let n := dfield h.desc 24 0 64
  let d := if n < now d then
      let d := post d h.ctx 0x000D ⟨hTag h.desc, h.q⟩ (zeros 8 ++ leBytes 8 n)
      { d with disp := { d.disp with lateLaunches := satAdd 32 d.disp.lateLaunches 1 } }
    else d
  completeHead d h

/-- LAUNCH_AT (R256). -/
def famLaunch : Family :=
  { op := 0x03, sub := fun _ => true, invalid := 0x0801,
    check := fun d h => firstReason (reasonIf (dfield h.desc 32 0 256 != 0) 0x0801)
      (reasonIf (dfield h.desc 24 0 64 < now d && inLockstep d h.ctx) 0x0805),
    ready := fun d h => dfield h.desc 24 0 64 ≤ now d, run := launch }

/-- LAUNCH_AT. -/
def execLaunchAt (q : Nat) (s : State) : Host.Outcome State Fault Refusal := runHead s q famLaunch

/-! ### Boosts, completions, usage -/

/-- A boost whose 16,000 ticks are over ends, and the LC contexts that wait receive BOOST_EXHAUSTED (R254). -/
def boostOver (d : Dev) (obj : Nat) : Dev :=
  match d.disp.boosts.find? fun b => b.obj == obj && b.start + 16000 ≤ now d with
  | none => d
  | some b =>
    let hs := (b.waiters.filter (queueWaitsFor d b.holder)).filterMap fun w => headOf d w.1
    let cs := hs.map fun h => (h.ctx, (⟨hTag h.desc, h.q⟩ : Cause))
    let d := hs.foldl (fun d h => modQueue d h.q fun x => { x with boosted := true }) d
    let d := cs.foldl (fun d c => post d c.1 0x000B c.2 (leBytes 2 obj ++ leBytes 1 b.holder)) d
    let rest := d.disp.boosts.filter fun x => x != b
    { d with disp := { d.disp with boosts := rest, boostsExhausted := satAdd 32 d.disp.boostsExhausted cs.length } }

/-- BOOST_EXHAUSTED. -/
def execBoostExhausted (obj : Nat) (s : State) : Host.Outcome State Fault Refusal :=
  runDev (obj < 8192) s fun d => boostOver d obj

/-- The usage ratios halved, once in every 2^20 ticks (R235). -/
def halveUsage (d : Dev) : Dev :=
  if d.disp.halvedAt / 2 ^ 20 < now d / 2 ^ 20 then
    let cs := d.disp.ctxs.map fun e => (e.1, { e.2 with usage := e.2.usage.map (· / 2) })
    { d with disp := { d.disp with ctxs := cs, halvedAt := now d } }
  else d

/-- USAGE_RATIO_HALVING. -/
def execUsageRatioHalving (s : State) : Host.Outcome State Fault Refusal := runDev true s halveUsage

/-! ### Reservations -/

/-- The opening tick of the window whose reservation of kind `k` opens now, if one does (R238, R240, R244). -/
def openingNow (d : Dev) (g k : Nat) : Option Nat :=
  let x := graphOf d g
  let t := now d - gStart x.rcd k
  if gCount x.rcd k = 0 || now d < gStart x.rcd k || windowAt x.rcd t != some t then none
  else if x.st = 1 then (if x.admitAt + 8000 < t then some t else none)
  else if x.st = 3 then
    match x.revokedIn with
    | some r => if windowAt x.rcd r = some t && x.admitAt + 8000 < t then some t else none
    | none => none
  else none

/-- The pre-emption requests for signal cores on which best-effort programs run: DESCRIPTOR flits that name the opening tick.
The request is in force from that tick on, both dies holding the same count (R345). They are sent with the opening. DEDUCED:
assumption log 122. -/
def sendPreempts (d : Dev) (k : Nat) (es : List Nat) : Dev :=
  if k ≠ 3 then d
  else
    (es.filter fun c => d.disp.ops.any fun o =>
        o.2.kind == .core && !o.2.lc && o.2.units.contains c && !o.2.away.contains c).foldl (fun d c =>
      if canCross d .ts true then crossFlit d .ts true (.preempt c (now d)) else enqueue d .ts true (.preempt c (now d))) d

/-- A reservation opens (R245): best-effort issue to its engines stops. -/
def reservationOpen (d : Dev) (g k : Nat) : Dev :=
  match openingNow d g k with
  | none => d
  | some t =>
    if d.disp.resv.any fun r => r.graph == g && r.kind == k && r.window == t then d
    else
      let x := graphOf d g
      let es := (lget [] (placeIn x t) k).filter fun e => engineReady d.comp.bench d.sc.pairs k e
      sendPreempts { d with disp := { d.disp with resv := d.disp.resv ++ [⟨g, k, t, now d + gRho x.rcd k, es⟩] } } k es

/-- RESERVATION_OPEN. -/
def execReservationOpen (g k : Nat) (s : State) : Host.Outcome State Fault Refusal :=
  runDev (g < 64 && k < 4) s fun d => reservationOpen d g k

/-- An operation parked: it leaves its engines, its array state saved with its cursor; of a signal-core program the instances
on the cores `us` park, and their regions stay (R92, R245, R345, R346). -/
def parkOp (d : Dev) (id : Nat) (o : Op) (us : List Nat) : Dev :=
  let pes := if o.kind = .bench then o.units.map fun u => lget ⟨none, none, false⟩ d.comp.pe u else []
  let d := setOp d id
    (if o.kind = .core then { o with parked := true, away := o.away ++ us } else { o with parked := true, units := [], pes := pes })
  { d with disp := { d.disp with preemptions := satAdd 64 d.disp.preemptions 1 } }

/-- The units of an operation that are not parked. -/
def inPlace (o : Op) : List Nat := o.units.filter fun u => !o.away.contains u

/-- One overrunning operation parked, with one BUDGET_OVERRUN for each engine that has had none in this window (R243). -/
def overrunOp (g k : Nat) (a : Dev × List Nat) (e : Nat × Op) : Dev × List Nat :=
  let es := ((inPlace e.2).map (unitBench e.2.kind)).eraseDups.filter fun u => !a.2.contains u
  let d := es.foldl (fun d u => post d e.2.ctx 0x000A ⟨hTag e.2.desc, e.2.queue⟩ (leBytes 1 g ++ leBytes 1 k ++ leBytes 1 u)) a.1
  (parkOp d e.1 e.2 (inPlace e.2), a.2 ++ es)

/-- A reservation ends: operations that still run are parked; a graph that is leaving goes with its last one (R243,
R244). -/
def reservationEnd (d : Dev) (g k : Nat) : Dev :=
  match d.disp.resv.find? fun r => r.graph == g && r.kind == k && r.till ≤ now d with
  | none => d
  | some r =>
    let late := d.disp.ops.filter fun o =>
      o.2.lc && o.2.graph == g && kindNo o.2.kind == some k && !(inPlace o.2).isEmpty
    let d := (late.foldl (overrunOp g k) (d, [])).1
    let d := { d with disp := { d.disp with resv := d.disp.resv.filter fun x => x != r } }
    let x := graphOf d g
    if x.leaving && r.window + gSpan x.rcd ≤ now d then graphEmpty d g else d

/-- RESERVATION_END. -/
def execReservationEnd (g k : Nat) (s : State) : Host.Outcome State Fault Refusal :=
  runDev (g < 64 && k < 4) s fun d => reservationEnd d g k

/-- Whether a boosted context waits for an engine of the kind of another context's operation (R254). -/
def boostAsks (d : Dev) (o : Op) : Bool :=
  !boostedCtx d o.ctx && d.disp.boosts.any fun b =>
    hasParked d b.holder o.kind || d.disp.queues.any fun e =>
      match headOf d e.1 with
      | some h => h.ctx == b.holder && !h.lc && kindOf (hOpcode h.desc) == o.kind && waitMet d h.desc
      | none => false

/-- The units of a best-effort operation that are asked for: all of them where one of its engines is reserved now (R245) or a
boosted context waits for one (R254), but of a signal-core program only the cores that are reserved, the other instances
running on (R345). -/
def asked (d : Dev) (o : Op) : List Nat :=
  match kindNo o.kind with
  | none => []
  | some n =>
    if o.lc then []
    else if boostAsks d o then inPlace o
    else
      let rs := (inPlace o).filter fun u => reservedNow d n (unitBench o.kind u)
      if n = 3 || rs.isEmpty then rs else inPlace o

/-- Whether a best-effort operation is asked to leave an engine. -/
def mustLeave (d : Dev) (o : Op) : Bool := !(asked d o).isEmpty

/-- An engine has saved its cursor and state: the operation is parked there and the engine is free (R245). -/
def preemptComplete (d : Dev) (op : Nat) : Dev :=
  match opOf d op with
  | some o => if mustLeave d o then parkOp d op o (asked d o) else d
  | none => d

/-- PREEMPT_COMPLETE. -/
def execPreemptComplete (op : Nat) (s : State) : Host.Outcome State Fault Refusal :=
  runDev true s fun d => preemptComplete d op

/-- At the tick a revoked graph's next window would have opened, its event is posted and its parked work runs as best
effort (R244). -/
def admissionRevoked (d : Dev) (g : Nat) : Dev :=
  let x := graphOf d g
  match x.revokedIn with
  | some r =>
    if x.st = 3 && nextOpening x.rcd r ≤ now d then
      postRevoked (parkedToBe (setGraph d g { x with revokedIn := none, place := [] }) g) g
    else d
  | none => d

/-- ADMISSION_REVOKED. -/
def execAdmissionRevoked (g : Nat) (s : State) : Host.Outcome State Fault Refusal :=
  runDev (g < 64) s fun d => admissionRevoked d g

end Sys2Proof.Machine
end

