-- ==== Sys2Proof/Machine/Layer.lean ====
section
/-!
DEFINITION. Machine/Layer.lean: core samples (R265 to R268), LAYER (R269 to R271) and lock-step (R276 to R282).
-/
namespace Sys2Proof.Machine
open Sys2Proof

/-! ### Core samples -/

/-- Whether the contents of the page a byte of a tensor lies in are not held by the device. -/
def byteAbsent (d : Dev) (ctx : Nat) (t : Tensor) (off : Nat) : Bool :=
  let s := (pageOf d ctx (t.base + off / 65536)).st
  s == .hostAbsent || s == .lost

/-- A byte as a core sample takes it: zero in a spoil block (R268); open in a page whose contents the device does not hold. -/
def sampleByte (d : Dev) (ctx : Nat) (t : Tensor) (off : Nat) : BitVec 8 :=
  if byteAbsent d ctx t off then Config.freeByte d.free (vkey ctx (tAddr t off))
  else if memSpoil d ctx (tAddr t off) then 0
  else memByte d ctx (tAddr t off)

/-- The core sample of a tensor (R265). -/
def coreSample (d : Dev) (ctx : Nat) (t : Tensor) : Nat := crc64 ((List.range t.size).map (sampleByte d ctx t))

/-- The spoil blocks of a tensor (R268). -/
def spoilBlocks (d : Dev) (ctx : Nat) (t : Tensor) : Nat :=
  countBelow (ceilDiv t.size 64) fun i => memSpoil d ctx (tAddr t (64 * i))

/-- Whether a sample meets a page whose contents the device does not hold. -/
def sampleOpen (d : Dev) (ctx : Nat) (t : Tensor) : Bool :=
  (List.range t.pages).any fun i => byteAbsent d ctx t (65536 * i)

/-! ### Lock-step -/

/-- The lock-step sample record (R278). -/
def lsRecord (s : LsSample) (tensor count : Nat) : Bytes :=
  beBytes 8 s.sample ++ beBytes 4 s.lseq ++ beBytes 2 s.index ++ beBytes 1 s.slot ++ beBytes 1 s.outCount
    ++ beBytes 2 (min s.spoilN 0xFFFF) ++ beBytes 1 s.lbench ++ beBytes 1 0 ++ beBytes 4 tensor ++ beBytes 8 count

/-- The sample of a record, unless a reserved bit is set (R278). -/
def lsParse (b : Bytes) : Option LsSample :=
  if b.length ≠ 32 || 4 ≤ leAt b 14 1 || 8 ≤ leAt b 15 1 || leAt b 19 1 ≠ 0 then none
  else some { sample := beAt b 0 8, lseq := beAt b 8 4, index := beAt b 12 2, slot := leAt b 14 1, outCount := leAt b 15 1,
              spoilN := beAt b 16 2, lbench := leAt b 18 1 }

/-- The first reason for which a pair of samples does not match (R279). -/
def lsReason (a b : LsSample) : Option Nat :=
  if a.lbench ≠ b.lbench then some 3
  else if a.index ≠ b.index || a.outCount ≠ b.outCount then some 4
  else if a.spoilN ≠ 0 || b.spoilN ≠ 0 then some 2
  else if a.sample ≠ b.sample then some 1
  else none

/-- A lock-step event posted, its record kept when it is the first since arming (R276). -/
def postLs (d : Dev) (code : Nat) (payload : Bytes) : Dev :=
  let c := d.ls.ctx
  let r := eventRecord code c (ctxOf d c).evLost noCause (now d) payload
  let d := if d.ls.first = List.replicate 32 0 then { d with ls := { d.ls with first := r } } else d
  post d c code noCause payload

/-- A pair of samples compared once (R279). -/
def lsCompare (d : Dev) (a b : LsSample) : Dev :=
  if d.ls.compared.contains (a.lseq, a.slot) then d
  else
    let d := { d with ls := { d.ls with compared := d.ls.compared ++ [(a.lseq, a.slot)] } }
    match lsReason a b with
    | none => d
    | some r =>
      let d := postLs d 0x0011 (leBytes 2 a.index ++ leBytes 1 a.slot ++ leBytes 1 r ++ leBytes 4 a.lseq ++ leBytes 8 b.sample)
      { d with ls := { d.ls with mismatch := insSorted d.ls.mismatch a.lseq } }

/-- The sample of a list with a sequence number and slot. -/
def lsFind (l : List LsSample) (lseq slot : Nat) : Option LsSample := l.find? fun x => x.lseq == lseq && x.slot == slot

/-- A local sample recorded, and compared where the peer's is there. -/
def lsLocal (d : Dev) (a : LsSample) : Dev :=
  let d := { d with ls := { d.ls with mine := d.ls.mine ++ [a] } }
  match lsFind d.ls.theirs a.lseq a.slot with
  | some b => lsCompare d a b
  | none => d

/-- The output slots of layer `n` that are compared: those both sides have. -/
def lsSlots (d : Dev) (n : Nat) : Nat :=
  let own := (d.ls.mine.filter fun s => s.lseq == n).length
  match d.ls.theirs.find? fun s => s.lseq == n with
  | some b => min own b.outCount
  | none => own

/-- Whether every pair of layer `n` has been compared (R280). -/
def lsAll (d : Dev) (n : Nat) : Bool := (List.range (lsSlots d n)).all fun s => d.ls.compared.contains (n, s)

/-- The lock-step context halted at its LAYER (R280, R281). -/
def lsHalt (d : Dev) (st : Nat) : Dev :=
  let d := { d with ls := { d.ls with state := st } }
  modCtx d d.ls.ctx fun c => if c.reg.st = ctxActive then { c with reg := genTo c.reg ctxStopping } else c

/-- The LAYER of the lock-step context that waits at step 5: its queue and the tick it began to wait (R270). -/
def layerAt (d : Dev) : Option (Nat × Nat) :=
  d.disp.queues.findSome? fun e =>
    match headOf d e.1, e.2.mark with
    | some h, some t => if h.ctx == d.ls.ctx && hOpcode h.desc == 0x08 then some (e.1, t) else none
    | _, _ => none

/-- The halt of a LAYER that waits for a layer whose pairs have all been compared and did not all match (R280). -/
def lsMismatched (d : Dev) : Dev :=
  if d.ls.state = 2 && 2 ≤ d.ls.lseq && (layerAt d).isSome && lsAll d (d.ls.lseq - 2)
      && d.ls.mismatch.contains (d.ls.lseq - 2) then lsHalt d 3
  else d

/-- A peer's sample arrived: discarded while lock-step is off, after the timeout's halt, or when it came before (R278,
R281). It may bring the last pair a LAYER waits for. -/
def lsArrive (d : Dev) (payload : Bytes) : Dev :=
  match lsParse payload with
  | none => d
  | some b =>
    if d.ls.state = 0 || d.ls.state = 4 || (lsFind d.ls.theirs b.lseq b.slot).isSome then d
    else
      let d := { d with ls := { d.ls with theirs := d.ls.theirs ++ [b] } }
      match lsFind d.ls.mine b.lseq b.slot with
      | some a => lsMismatched (lsCompare d a b)
      | none => d

/-! ### LAYER -/

/-- `LAYER.OUT_COUNT`. -/
def lyCount (x : Desc) : Nat := dfield x 26 0 3
/-- `LAYER.OUT_ID` of slot `i`. -/
def lyId (x : Desc) (i : Nat) : Nat := dfield x (28 + 4 * i) 0 32
/-- The tensors a LAYER samples. -/
def lyIds (x : Desc) : List Nat := (List.range (lyCount x)).map (lyId x)

/-- The first fault of a LAYER (R271, R201). -/
def layerReason (d : Dev) (h : Head) : Option Nat :=
  let x := h.desc
  if dfield x 26 3 5 != 0 || dfield x 27 0 8 != 0 || dfield x 44 0 160 != 0 || lyCount x == 0 || 4 < lyCount x
      || !(lyIds x).all isTensorId || (lyIds x).eraseDups.length != lyCount x
      || (List.range 4).any (fun i => lyCount x ≤ i && lyId x i != noTensor) then some 0x0901
  else reasonIf ((lyIds x).any fun t => (tensorOf d h.ctx t).isNone) 0x0704

/-- Step 3 and 4 for one tensor: its core sample posted, and in lock-step kept, sent to the peer and compared (R270,
R277). -/
def layerSample (h : Head) (d : Dev) (slot id : Nat) : Dev :=
  match tensorOf d h.ctx id with
  | none => d
  | some t =>
    let s := coreSample d h.ctx t
    let n := spoilBlocks d h.ctx t
    let d := if sampleOpen d h.ctx t then { d with free := d.free + 1 } else d
    let d := post d h.ctx 0x0010 ⟨hTag h.desc, h.q⟩
      (leBytes 8 s ++ leBytes 2 (dfield h.desc 24 0 16) ++ leBytes 2 (min n 0xFFFF) ++ leBytes 4 id)
    if !(inLockstep d h.ctx && d.ls.state == 2) then d
    else
      let a : LsSample :=
        { lseq := d.ls.lseq, slot := slot, sample := s, index := dfield h.desc 24 0 16, outCount := lyCount h.desc,
          spoilN := min n 0xFFFF, lbench := d.boot.lbenches }
      let f : TxFrame :=
        { ep := d.ls.peer, lc := h.lc, type := 0x14, session := 0, seq := 0, ackSeq := 0, freed := 0, ackValid := false,
          last := false, ctx := d.ls.peerCtx, arg0 := 0, arg1 := 0, spoil := 0, box := [],
          payload := lsRecord a id (now d) }
      lsLocal (sendFrame d f none) a

/-- A LAYER at step 5: it completes, waits for the pairs of the layer before it, or halts its context (R270, R280). -/
def layerFinish (d : Dev) (h : Head) : Dev :=
  if !(inLockstep d h.ctx && d.ls.state == 2) || d.ls.lseq ≤ 1 then layerSeen (completeHead d h) h.ctx
  else
    let n := d.ls.lseq - 2
    if !lsAll d n then d
    else if d.ls.mismatch.contains n then lsHalt d 3
    else layerSeen (completeHead d h) h.ctx

/-- A LAYER whose covered descriptors have completed (R270). -/
def runLayer (d : Dev) (h : Head) : Dev :=
  if (queueOf d h.q).mark.isSome then layerFinish d h
  else
    let d := (lyIds h.desc).zipIdx.foldl (fun d e => layerSample h d e.2 e.1) d
    let d := if inLockstep d h.ctx && d.ls.state == 2 then { d with ls := { d.ls with lseq := d.ls.lseq + 1 } } else d
    layerFinish (modQueue d h.q fun x => { x with mark := some (now d) }) h

/-- LAYER. -/
def famLayer : Family :=
  { op := 0x08, sub := fun _ => true, invalid := 0x0901, check := layerReason,
    ready := fun d h => (queueOf d h.q).cover == some [] && mayIssue d h, run := runLayer }

/-- LAYER. -/
def execLayer (q : Nat) (s : State) : Host.Outcome State Fault Refusal :=
  onDev (q < 16384) s fun d => settle (withHead (armCover d q) q famLayer)

/-- A LAYER that has waited at step 5 past its time halts its context (R281). -/
def lockstepTimeout (d : Dev) : Dev :=
  if d.ls.enable && d.ls.state == 2 && 2 ≤ d.ls.lseq && !lsAll d (d.ls.lseq - 2)
      && (layerAt d).any (fun w => w.2 + 800 * d.ls.timeout < now d) then
    lsHalt (postLs d 0x0012 (zeros 4 ++ leBytes 4 (d.ls.lseq - 2))) 4
  else d

/-- LOCKSTEP_TIMEOUT. -/
def execLockstepTimeout (s : State) : Host.Outcome State Fault Refusal := runDev true s lockstepTimeout

end Sys2Proof.Machine
end

