-- ==== Sys2Proof/Machine/Tsn.lean ====
section
/-!
DEFINITION. Machine/Tsn.lean: what a port does with a frame before its contents count: addresses and discards (R405), stream
filters, gates and meters (R504), sequence recovery (R503), gate schedules (R408), and the ranges of the TSN entries.
-/
namespace Sys2Proof.Machine
open Sys2Proof

/-! ### Abort codes (R440) -/

/-- `NO_ENTRY`. -/
def abNoEntry : Nat := 0x06020000
/-- `NO_SUBINDEX`. -/
def abNoSub : Nat := 0x06020001
/-- `READ_ONLY`. -/
def abReadOnly : Nat := 0x06010002
/-- `LENGTH`. -/
def abLength : Nat := 0x06070010
/-- `STALE_GENERATION`. -/
def abStale : Nat := 0x08000024
/-- `NOT_STOPPED`. -/
def abNotStopped : Nat := 0x08000020
/-- `VALUE_RANGE`. -/
def abRange : Nat := 0x06090030
/-- `TRANSITION`. -/
def abTransition : Nat := 0x08000021
/-- `CONFLICT`. -/
def abConflict : Nat := 0x08000022
/-- `BUSY`. -/
def abBusy : Nat := 0x08000023

/-- A frame discarded and counted in `NET_RX_DISCARDS` (R405). -/
def discard (d : Dev) (p : Nat) : Dev := modPort d p fun x => { x with discards := satAdd 32 x.discards 1 }

/-- Whether a frame is addressed to its port: MAC address, IP version and address, VLAN (R405, R428). -/
def addressed (d : Dev) (m : EthMeta) : Bool :=
  let x := portOf d m.port
  m.dstMac == x.mac && m.ipVer == leAt x.cfg 33 1 && m.dstIp == beAt x.cfg 16 16 && m.vlan == leAt x.cfg 2 2 % 4096

/-! ### Gate schedules (R408, R504) -/

/-- A gate list: base, cycle, whether enabled, and its entries as gates and interval. -/
structure GateList where
  base : Nat
  cycle : Nat
  on : Bool
  entries : List (Nat × Nat)
deriving DecidableEq, Repr

/-- The list of a `TSN_GCL` value (R408). -/
def tasList (b : Bytes) : GateList :=
  { base := leAt b 0 8, cycle := leAt b 8 4, on := bitAt (leAt b 14 1) 0,
    entries := (List.range (leAt b 12 2)).map fun i => (leAt b (16 + 8 * i) 1, leAt b (20 + 8 * i) 4) }

/-- The list of a stream gate record (R504). -/
def psfpList (b : Bytes) : GateList :=
  { base := beAt b 0 8, cycle := beAt b 8 4, on := bitAt (leAt b 13 1) 0,
    entries := (List.range (leAt b 12 1)).map fun i => (leAt b (16 + 8 * i) 1 % 2, beAt b (20 + 8 * i) 4) }

/-- A list that begins a cycle at tick `st`. -/
def gateBegin (parse : Bytes → GateList) (b : Bytes) (st : Nat) : GateRun :=
  let l := parse b
  match l.on, l.entries with
  | true, (g, n) :: _ => { oper := b, admin := none, idx := 0, till := st + n, start := st, gates := g }
  | _, _ => { gateDefault with oper := b }

/-- The operational list moved on at the end of an interval or cycle: after the last entry its gates hold to the cycle's end. -/
def gateMove (parse : Bytes → GateList) (r : GateRun) (t : Nat) : GateRun :=
  let l := parse r.oper
  let e := r.start + l.cycle
  if !l.on || t < r.till then r
  else if e ≤ r.till then { gateBegin parse r.oper e with admin := r.admin }
  else
    match l.entries[r.idx + 1]? with
    | some (g, n) => { r with idx := r.idx + 1, till := min (r.till + n) e, gates := g }
    | none => { r with idx := l.entries.length, till := e }

/-- The end of an interval or cycle: a list that waits becomes operational at its start. -/
def gateNext (parse : Bytes → GateList) (r : GateRun) (t : Nat) : GateRun :=
  match r.admin with
  | some (b, st) => if st ≤ t then gateBegin parse b st else gateMove parse r t
  | none => gateMove parse r t

/-- The first cycle start of a list at least 1,600 ticks after tick `t` (R408). -/
def gateStart (l : GateList) (t : Nat) : Nat :=
  if t + 1600 ≤ l.base then l.base else l.base + ceilDiv (t + 1600 - l.base) l.cycle * l.cycle

/-- A list written at tick `t`: it waits for its first cycle start; one that is disabled and has no cycle acts at once. -/
def gateWrite (parse : Bytes → GateList) (r : GateRun) (b : Bytes) (t : Nat) : GateRun :=
  let l := parse b
  if l.cycle = 0 then gateBegin parse b t else { r with admin := some (b, gateStart l t) }

/-- Whether a gate is open. -/
def gateOpen (r : GateRun) (k : Nat) : Bool := bitAt r.gates k

/-- GATE_INTERVAL_END. -/
def execGateIntervalEnd (port : Nat) (s : State) : Host.Outcome State Fault Refusal :=
  onDev (port < 4) s fun d => modPort d port fun x => { x with run := gateNext tasList x.run d.time.ticks }

/-- STREAM_GATE_INTERVAL_END. -/
def execStreamGateIntervalEnd (gate : Nat) (s : State) : Host.Outcome State Fault Refusal :=
  onDev (gate < 64) s fun d =>
    { d with net := { d.net with psfpGates := lmod d.net.psfpGates gate fun r => gateNext psfpList r d.time.ticks } }

/-! ### Stream filters (R504) -/

/-- Filters, gates and meters of a `TSN_PSFP` value. -/
def psfpN (b : Bytes) (k : Nat) : Nat := beAt b (2 * k) 2
/-- Filter record `i`. -/
def psfpFilter (b : Bytes) (i : Nat) : Bytes := slice b (16 + 16 * i) 16
/-- Gate record `i`. -/
def psfpGate (b : Bytes) (i : Nat) : Bytes := slice b (16 + 16 * psfpN b 0 + 144 * i) 144
/-- Meter record `i`. -/
def psfpMeter (b : Bytes) (i : Nat) : Bytes := slice b (16 + 16 * psfpN b 0 + 144 * psfpN b 1 + 24 * i) 24

/-- Whether a filter record applies to a frame with a stream handle. -/
def filterMatch (r : Bytes) (m : EthMeta) (handle : Option Nat) : Bool :=
  bitAt (leAt r 3 1 % 16) m.port && m.port < 4 && (bitAt (leAt r 2 1) 3 || leAt r 2 1 % 8 == m.pcp)
    && (beAt r 0 2 == 0xFFFF || handle == some (beAt r 0 2))

/-- A meter as it starts: both buckets full. -/
def meterFresh (r : Bytes) : MeterRun := { ct := beAt r 4 4 * 6400000, et := beAt r 12 4 * 6400000, tick := 0, red := false }

/-- A meter's buckets filled up to tick `t`; with the coupling flag what overflows the first goes into the second. -/
def meterFill (r : Bytes) (q : MeterRun) (t : Nat) : MeterRun :=
  let c := q.ct + beAt r 0 4 * (t - q.tick)
  let capC := beAt r 4 4 * 6400000
  let e := q.et + beAt r 8 4 * (t - q.tick) + (if bitAt (leAt r 16 1) 0 then c - capC else 0)
  { q with ct := min c capC, et := min e (beAt r 12 4 * 6400000), tick := t }

/-- A frame's colour: 0 green, 1 yellow, 2 red, and the meter after it. -/
def meterFrame (r : Bytes) (q : MeterRun) (t : Nat) (m : EthMeta) : Nat × MeterRun :=
  let q := meterFill r q t
  let cost := m.size * 6400000
  if q.red then (2, q)
  else if cost ≤ q.ct && !(bitAt (leAt r 16 1) 1 && m.dei) then (0, { q with ct := q.ct - cost })
  else if cost ≤ q.et then (1, { q with et := q.et - cost })
  else (2, { q with red := bitAt (leAt r 16 1) 3 })

/-- A frame at its meter: whether it passes. -/
def throughMeter (d : Dev) (k : Nat) (m : EthMeta) : Bool × Dev :=
  if k = 0xFFFF then (true, d)
  else
    let r := psfpMeter d.net.psfp k
    let x := meterFrame r (lget (meterFresh r) d.net.meters k) d.time.ticks m
    (x.1 == 0 || (x.1 == 1 && !bitAt (leAt r 16 1) 2), { d with net := { d.net with meters := lset d.net.meters k x.2 } })

/-- A frame at the stream filters: whether it passes (R504). -/
def throughFilters (d : Dev) (m : EthMeta) : Bool × Dev :=
  match firstBelow (psfpN d.net.psfp 0) fun i => filterMatch (psfpFilter d.net.psfp i) m (cbFind d m) with
  | none => (true, d)
  | some i =>
    let r := psfpFilter d.net.psfp i
    let big := beAt r 8 2 ≠ 0 && beAt r 8 2 < m.size
    if d.net.blocked.contains i then (false, d)
    else if big then
      (false, if bitAt (leAt r 10 1) 0 then { d with net := { d.net with blocked := insSorted d.net.blocked i } } else d)
    else if beAt r 4 2 ≠ 0xFFFF && !gateOpen (lget gateDefault d.net.psfpGates (beAt r 4 2)) 0 then (false, d)
    else throughMeter d (beAt r 6 2) m

/-! ### Sequence recovery (R503) -/

/-- The vector algorithm on sequence number `n`: the run after an accepted frame; none where the number was accepted before or
lies outside the history. -/
def recover (h : Nat) (c : CbRun) (n t : Nat) : Option CbRun :=
  match c.newest with
  | none => some { c with newest := some n, hist := [n], tick := t }
  | some w =>
    let ahead := (n + 65536 - w) % 65536
    let behind := (w + 65536 - n) % 65536
    if c.hist.contains n then none
    else if ahead < h then
      some { c with newest := some n, hist := n :: c.hist.filter fun x => (n + 65536 - x) % 65536 < h, tick := t }
    else if behind < h then some { c with hist := n :: c.hist, tick := t }
    else none

/-- A frame at sequence recovery: whether it passes. -/
def throughRecovery (d : Dev) (m : EthMeta) : Bool × Dev :=
  match cbFind d m, m.rtag with
  | some i, some n =>
    let r := cbRecord d i
    if leAt r 0 1 ≠ 2 then (true, d)
    else
      match recover (leAt r 3 1) (cbRunOf d i) n d.time.ticks with
      | some c => (true, modCb d i fun _ => c)
      | none => (false, d)
  | _, _ => (true, d)

/-- CB_HISTORY_RESET: no frame accepted for `RESET_US` (R503). -/
def execCbHistoryReset (stream : Nat) (s : State) : Host.Outcome State Fault Refusal :=
  onDev (stream < 128) s fun d =>
    let c := cbRunOf d stream
    if c.newest.isSome && leAt (cbRecord d stream) 0 1 = 2 && c.tick + 800 * beAt (cbRecord d stream) 28 4 ≤ d.time.ticks then
      modCb d stream fun c => { c with newest := none, hist := [] }
    else d

/-- A received frame on a port in service: filters, recovery, addresses; whether its contents count. -/
def receive (d : Dev) (m : EthMeta) (mine : Bool) : Bool × Dev :=
  if !portUp d m.port then (false, d)
  else
    let a := throughFilters d m
    if !a.1 then (false, discard a.2 m.port)
    else
      let b := throughRecovery a.2 m
      if !b.1 || !mine then (false, discard b.2 m.port) else (true, b.2)

/-! ### The TSN entries: ranges, and what a write does -/

/-- The abort code of a `TSN_GCL` value, if it is refused (R408): `LENGTH`, `VALUE_RANGE` or `CONFLICT`. -/
def gclBad (b : Bytes) : Option Nat :=
  let l := tasList b
  if b.length < 16 || b.length ≠ 16 + 8 * l.entries.length then some abLength
  else if leAt b 14 1 ≥ 2 || leAt b 15 1 ≠ 0 || 1024 < l.entries.length
      || (List.range l.entries.length).any (fun i => 3 ≤ leAt b (17 + 8 * i) 1 || leAt b (18 + 8 * i) 2 ≠ 0)
      || ((l.on || !l.entries.isEmpty) && (l.entries.isEmpty || l.cycle < 64 || 800000000 < l.cycle))
      || l.entries.any (fun e => e.2 < 64 || 800000000 < e.2) then some abRange
  else if l.cycle < (l.entries.map fun e => e.2).sum then some abConflict
  else none

/-- A gate control list written for a port (R408). -/
def setGcl (d : Dev) (p : Nat) (b : Bytes) : Dev :=
  modPort d p fun x => { x with gcl := b, run := gateWrite tasList x.run b d.time.ticks }

/-- The abort code of a `TSN_CBS` value (R407, R428): at most four classes, slopes up to the line rate of 25.78125 Gbit/s (R404). -/
def cbsBad (b : Bytes) : Option Nat :=
  if b.length ≠ 64 then some abLength
  else
    let on (t : Nat) : Bool := bitAt (leAt b (8 * t) 1) 0
    if (List.range 8).any (fun t => 2 ≤ leAt b (8 * t) 1 || leAt b (8 * t + 1) 3 ≠ 0 || 25781250 < leAt b (8 * t + 4) 4)
        || 4 < countBelow 8 on then some abRange
    else none

/-- The abort code of a `TSN_PREEMPT` value (R428). -/
def preemptBad (b : Bytes) : Option Nat :=
  if b.length ≠ 4 then some abLength
  else if 4 ≤ leAt b 1 1 || 2 ≤ leAt b 2 1 || leAt b 3 1 ≠ 0 then some abRange else none

/-- Whether a stream record keeps its ranges (R503). -/
def cbRecordOk (r : Bytes) : Bool :=
  let f := leAt r 0 1
  let ip := leAt r 2 1 == 1
  f ≤ 2 && leAt r 1 1 < 16 && leAt r 2 1 < 2 && (f == 0 || leAt r 1 1 != 0)
    && (if f = 2 then 1 ≤ leAt r 3 1 && leAt r 3 1 ≤ 64 else leAt r 3 1 == 0)
    && (ip || (leAt r 10 10 == 0 && leAt r 22 2 == 0 && leAt r 24 1 == 0))
    && beAt r 20 2 < 4096 && leAt r 24 1 / 64 % 2 == 0 && leAt r 25 3 == 0
    && (if f = 2 then 1 ≤ beAt r 28 4 && beAt r 28 4 ≤ 1000000 else beAt r 28 4 == 0)

/-- The abort code of a `TSN_CB_STREAMS` value (R503). -/
def cbBad (b : Bytes) : Option Nat :=
  if b.length % 32 ≠ 0 || 4096 < b.length then some abLength
  else if (List.range (b.length / 32)).all fun i => cbRecordOk (slice b (32 * i) 32) then none
  else some abRange

/-- Every stream record replaced; sequence numbers and histories start again (R503). -/
def setCb (d : Dev) (b : Bytes) : Dev :=
  { d with net := { d.net with cb := b, cbRun := List.replicate (b.length / 32) ⟨0, none, [], 0⟩ } }

/-- Whether a filter record keeps its ranges. -/
def psfpFilterOk (r : Bytes) : Bool :=
  (beAt r 0 2 < 128 || beAt r 0 2 == 0xFFFF) && leAt r 2 1 < 16 && leAt r 3 1 < 16 && leAt r 10 1 < 2 && leAt r 11 5 == 0

/-- Whether a gate record keeps its ranges. -/
def psfpGateOk (r : Bytes) : Bool :=
  let n := leAt r 12 1
  64 ≤ beAt r 8 4 && beAt r 8 4 ≤ 800000000 && 1 ≤ n && n ≤ 16 && leAt r 13 1 < 2 && leAt r 14 2 == 0
    && (List.range 16).all fun i =>
      if i < n then leAt r (16 + 8 * i) 1 < 2 && leAt r (17 + 8 * i) 3 == 0 && 64 ≤ beAt r (20 + 8 * i) 4
        && beAt r (20 + 8 * i) 4 ≤ 800000000
      else leAt r (16 + 8 * i) 8 == 0

/-- Whether a meter record keeps its ranges. -/
def psfpMeterOk (r : Bytes) : Bool :=
  beAt r 0 4 ≤ 25000000 && beAt r 8 4 ≤ 25000000 && leAt r 16 1 < 16 && leAt r 17 7 == 0

/-- The abort code of a `TSN_PSFP` value (R504). -/
def psfpBad (b : Bytes) : Option Nat :=
  let nf := psfpN b 0
  let ng := psfpN b 1
  let ne := psfpN b 2
  if b.length < 16 || b.length ≠ 16 + 16 * nf + 144 * ng + 24 * ne then some abLength
  else if 256 < nf || 64 < ng || 128 < ne || leAt b 6 10 ≠ 0
      || !((List.range nf).all fun i => psfpFilterOk (psfpFilter b i))
      || !((List.range ng).all fun i => psfpGateOk (psfpGate b i))
      || !((List.range ne).all fun i => psfpMeterOk (psfpMeter b i)) then some abRange
  else if (List.range nf).any (fun i =>
        let r := psfpFilter b i
        (ng ≤ beAt r 4 2 && beAt r 4 2 != 0xFFFF) || (ne ≤ beAt r 6 2 && beAt r 6 2 != 0xFFFF))
      || (List.range ng).any (fun i =>
        (psfpList (psfpGate b i)).cycle < ((psfpList (psfpGate b i)).entries.map fun e => e.2).sum) then some abConflict
  else none

/-- Filters, gates and meters replaced: filters and meters at once, gate lists as R408 states (R504). -/
def setPsfp (d : Dev) (b : Bytes) : Dev :=
  let gates := (List.range (psfpN b 1)).map fun i =>
    gateWrite psfpList (lget gateDefault d.net.psfpGates i) (psfpGate b i) d.time.ticks
  let meters := (List.range (psfpN b 2)).map fun i => { meterFresh (psfpMeter b i) with tick := d.time.ticks }
  { d with net := { d.net with psfp := b, psfpGates := gates, meters := meters, blocked := [] } }

end Sys2Proof.Machine
end

