-- ==== Sys2Proof/Machine/Net.lean ====
section
/-!
DEFINITION. Machine/Net.lean: ports and their links (R404 to R406, R416), endpoints and streams (R410, R411, R414, R415, R418),
and the frames the device receives (R413, R417).
-/
namespace Sys2Proof.Machine
open Sys2Proof

/-! ### Ports and endpoints -/

/-- Port `p` moved to a state (R406). -/
def portTo (d : Dev) (p st : Nat) : Dev := modPort d p fun x => { x with reg := genTo x.reg st }

/-- A state of an endpoint (R428): 0 CLOSED, 1 OPEN, 3 UNREACHABLE. -/
def epTo (d : Dev) (n st : Nat) : Dev := setEp d n { epOf d n with st := st }

/-- The contexts of a mask. -/
def maskCtxs (m : Nat) : List Nat := (List.range 64).filter (bitAt m)

/-- A peer transfer that ends early: FAULT, and what its local side has not received is delivered as spoil (R189, R427). -/
def giveUp (d : Dev) (reason id : Nat) : Dev :=
  match opOf d id with
  | none => d
  | some o =>
    if o.phase ≠ .moving || o.cut.isSome && mvGet o.desc then d
    else
      let d := postOpFault d o reason 0
      if mvGet o.desc then
        let d := { d with net := { d.net with gets := d.net.gets.filter fun g => g.op != id } }
        setOp d id { o with pos := o.got, cut := some o.got }
      else
        let other (s : SysSlot) : Bool := match s.op with | some x => x.1 != id | none => true
        let d := { d with net := { d.net with outLc := d.net.outLc.filter other, outBe := d.net.outBe.filter other } }
        let d := match sideRing (mvFrom o.desc) with
          | some r =>
            match ringOf d r with
            | some x => if headOpen x && x.cons = none then slotGive d r else d
            | none => d
          | none => d
        moveDone d id 1 o

/-- The transfers to an endpoint that still move. -/
def transfersOf (d : Dev) (n : Nat) : List Nat :=
  (d.disp.ops.filter fun o => hOpcode o.2.desc == 0x40 && mvRemote o.2.desc && mvPeer o.2.desc == n && o.2.phase == .moving).map
    fun o => o.1

/-- What a received stream held when its session ends: a slot FILLING from its puts becomes SPOIL, a slot DRAINING for its gets
is given back, and its frames are discarded (R411). -/
def closeRx (d : Dev) (n : Nat) (lc : Bool) : Dev :=
  let r := rxOf (epOf d n) lc
  let fill (d : Dev) (e : Nat × Nat × Nat) : Dev :=
    match ringOf d e.1 with
    | some x => if x.prod = some (.put n lc) then modRing (slotAbandon d e.1 e.2.2) e.1 fun x => { x with prod := none } else d
    | none => d
  let take (d : Dev) (e : Nat × Nat) : Dev :=
    match ringOf d e.1 with
    | some x => if x.cons = some (.get n lc) then modRing (slotGive d e.1) e.1 fun x => { x with cons := none } else d
    | none => d
  let d := r.takes.foldl take (r.fills.foldl fill d)
  let lost := ((sysOpen d false lc).filter fun s => s.ep == n && s.type == 0x12).filterMap fun s => s.op
  let d := setSysRing d false lc ((sysRing d false lc).filter fun s => s.ep != n)
  let d := modRx d n lc fun _ => rxDefault
  lost.foldl (fun d x => giveUp d 0x0606 x.1) d

/-- An endpoint UNREACHABLE: its frames in flight are abandoned, its transfers end, and its contexts get ENDPOINT_DOWN (R415,
R418, R427). -/
def epDown (d : Dev) (n reason : Nat) : Dev :=
  let d := (transfersOf d n).foldl (fun d id => giveUp d 0x0606 id) d
  let d := closeRx (closeRx d n true) n false
  let keep (s : SysSlot) : Bool := s.ep != n
  let d := { d with net := { d.net with outLc := d.net.outLc.filter keep, outBe := d.net.outBe.filter keep,
                                        gets := d.net.gets.filter fun g => g.ep != n } }
  let d := setEp d n { epOf d n with st := 3, tx := [txDefault, txDefault] }
  (maskCtxs (epMask (epOf d n))).foldl (fun d c => post d c 0x0038 noCause (leBytes 1 n ++ leBytes 1 reason)) d

/-- The endpoints of a port that leaves service move to their lowest READY port; an OPEN one with none becomes UNREACHABLE
(R415, R418; that a CLOSED one stays CLOSED is DEDUCED: assumption log 74). -/
def movePorts (d : Dev) (p : Nat) : Dev :=
  d.net.eps.foldl (fun d e =>
    let x := epOf d e.1
    if epKind x = 0 || x.port ≠ p || x.st = 3 then d
    else
      match readyPort d x with
      | some q => setEp d e.1 { x with port := q }
      | none => if x.st = 1 then epDown d e.1 2 else d) d

/-- A data port worked out (R416, R427, R471). -/
def portWorkedOut (d : Dev) (p : Nat) : Dev :=
  let mask := d.net.eps.foldl (fun m e => if epKind e.2 != 0 && bitAt (epPorts e.2) p then m ||| epMask e.2 else m) 0
  let d := postWorkedOut (portTo d p 3) 0x1100 (p + 1)
  let d := (maskCtxs mask).foldl (fun d c => post d c 0x0039 noCause (leBytes 1 p)) d
  movePorts d p

/-- PCS_LOCK_LOSS (R406). -/
def execPcsLockLoss (port : Nat) (s : State) : Host.Outcome State Fault Refusal :=
  runDev (port < 5) s fun d =>
    if !portPowered d port then d
    else
      let d := modPort d port fun x => { x with lock := false }
      if (portOf d port).reg.st = 1 then movePorts (portTo d port 2) port else d

/-- PCS_LOCK_REGAIN (R406). -/
def execPcsLockRegain (port : Nat) (s : State) : Host.Outcome State Fault Refusal :=
  runDev (port < 5) s fun d =>
    if !portPowered d port then d
    else
      let d := modPort d port fun x => { x with lock := true }
      if (portOf d port).reg.st = 2 then portTo d port 1 else d

/-- An answer sent back to the sender of a frame (R405). -/
def answer (d : Dev) (m : EthMeta) (kind : Nat) (bytes : Bytes) : Dev :=
  let x := portOf d m.port
  emitFrame d { m with srcMac := x.mac, dstMac := m.srcMac, srcIp := beAt x.cfg 16 16, dstIp := m.srcIp, srcUdp := m.dstUdp,
                       dstUdp := m.srcUdp, rtag := none } (.answer kind bytes)

/-- The port's addresses as an answer gives them. -/
def ownAddresses (d : Dev) (p : Nat) : Bytes := beBytes 6 (portOf d p).mac ++ slice (portOf d p).cfg 16 16

/-- A request for the address of a port: answered when it asks for the port's own (R405). -/
def askAddress (d : Dev) (m : EthMeta) (ver kind : Nat) : Dev :=
  let x := portOf d m.port
  let mine := m.ipVer == ver && leAt x.cfg 33 1 == ver && m.dstIp == beAt x.cfg 16 16 && m.vlan == leAt x.cfg 2 2 % 4096
  let r := receive d m mine
  if r.1 then answer r.2 m kind (ownAddresses r.2 m.port) else r.2

/-- ARP_REQUEST (R405). -/
def execArpRequest (m : EthMeta) (s : State) : Host.Outcome State Fault Refusal :=
  runDev (ethOk m) s fun d => askAddress d m 4 1

/-- NEIGHBOR_DISCOVERY (R405). -/
def execNeighborDiscovery (m : EthMeta) (s : State) : Host.Outcome State Fault Refusal :=
  runDev (ethOk m) s fun d => askAddress d m 6 2

/-- ICMP_ECHO (R405). -/
def execIcmpEcho (m : EthMeta) (payload : Bytes) (s : State) : Host.Outcome State Fault Refusal :=
  runDev (ethOk m) s fun d =>
    let r := receive d m (addressed d m)
    if r.1 then answer r.2 m 3 payload else r.2

/-- UNADDRESSED_FRAME (R405). -/
def execUnaddressedFrame (m : EthMeta) (s : State) : Host.Outcome State Fault Refusal :=
  runDev (ethOk m) s fun d => (receive d m false).2

/-- FCS_ERROR (R416). -/
def execFcsError (port : Nat) (s : State) : Host.Outcome State Fault Refusal :=
  runDev (port < 5) s fun d =>
    if portUp d port then modPort d port fun x => { x with fcs := satAdd 32 x.fcs 1 } else d

/-- A CRC failure that no retry corrected: a data port is worked out; port 4 only counts it (R416). -/
def crcPermanent (d : Dev) (p : Nat) : Dev :=
  if p = 4 then modPort d p fun x => { x with wtTransients := satAdd 32 x.wtTransients 1 }
  else portWorkedOut (modPort d p fun x => { x with crcFailed := false, dictFailed := false }) p

/-- A work-transport frame that fails its CRC: it is the retry of any failure that waits on its port (R416, R441). -/
def wtCrcError (d : Dev) (p : Nat) : Dev :=
  if !portUp d p then d
  else if (portOf d p).crcFailed || (portOf d p).dictFailed then crcPermanent d p
  else modPort d p fun x => { x with crcFailed := true }

/-- WT_CRC_ERROR. -/
def execWtCrcError (port : Nat) (s : State) : Host.Outcome State Fault Refusal :=
  runDev (port < 5) s fun d => wtCrcError d port

/-! ### Reception of work-transport frames -/

/-- The endpoint a frame comes from: its addresses, VLAN and port (R410). -/
def epFrom (d : Dev) (m : EthMeta) : Option Nat :=
  firstBelow 64 fun n =>
    let x := epOf d n
    epKind x != 0 && bitAt (epPorts x) m.port && leAt x.rcd 3 1 == m.ipVer && beAt x.rcd 4 16 == m.srcIp
      && beAt x.rcd 20 2 == m.srcUdp && beAt x.rcd 22 2 % 4096 == m.vlan

/-- Frame types the device knows (R413). -/
def typeKnown (t : Nat) : Bool := (1 ≤ t && t ≤ 8) || (0x10 ≤ t && t ≤ 0x12) || t == 0x14 || (0x20 ≤ t && t ≤ 0x22)

/-- Whether an endpoint of a kind may send a type (R413, R427). -/
def typeAllowed (kind t : Nat) : Bool :=
  t == 0x20 || t == 0x21 || (if kind = 1 then 1 ≤ t && t ≤ 8 else (0x10 ≤ t && t ≤ 0x14) || t == 0x22)

/-- Frames acknowledged: they leave the sender's buffer; credits freed are counted; an acknowledged OPEN opens the endpoint; a
put may be complete (R412, R414, R415, R425). -/
def takeAck (d : Dev) (n : Nat) (lc : Bool) (ackSeq freed : Nat) : Dev :=
  let t := txOf (epOf d n) lc
  if t.session.isNone then d
  else
    let first := match t.unacked with | u :: _ => u.f.seq | [] => t.next
    let k := (ackSeq + 2 ^ 32 - first) % 2 ^ 32
    let k := if k ≤ t.unacked.length then k else 0
    let gone := t.unacked.take k
    let more := (freed + 65536 - t.freed % 65536) % 65536
    let d := modTx d n lc fun t =>
      { t with unacked := t.unacked.drop k, freed := if t.freed + more ≤ t.puts then t.freed + more else t.freed }
    let d := if gone.any fun u => u.f.type == 0x20 then epTo d n 1 else d
    (gone.filterMap fun u => u.op).foldl (fun d x => checkPut d x.1) d

/-- What a frame does once it is next in its stream: wait (none), be refused with a status code, or take effect. -/
abbrev Taken := Option (Option Nat × Dev)

/-- The number of credits of a refused or accepted put counted (R425). -/
def countPut (d : Dev) (n : Nat) (f : WtFrame) (code : Option Nat) : Dev :=
  if f.type ≠ 0x10 then d
  else
    match code with
    | some _ =>
      markBroken (modRx d n f.lc fun r => { r with puts := r.puts + 1, freed := r.freed + 1 }) n f.lc f.arg0 f.box
    | none => modRx d n f.lc fun r => { r with puts := r.puts + 1 }

/-- A frame that is next in its stream, taken as `act` says: refused or in effect, and acknowledged (R414, R417). -/
def takeNext (d : Dev) (n : Nat) (f : WtFrame) (act : Dev → Nat → WtFrame → Taken) : Option Dev :=
  let d := modRx d n f.lc fun r => { r with next := (r.next + 1) % 2 ^ 32 }
  let early := if f.version ≠ 1 || !typeKnown f.type then some 6
    else if !typeAllowed (epKind (epOf d n)) f.type then some 2
    else if 4096 < f.payload.length then some 5 else none
  let r := match early with
    | some c => some (some c, d)
    | none => act d n f
  r.map fun x =>
    let d := countPut x.2 n f x.1
    match x.1 with
    | some c => ackUp (sendStatus d n f.lc f.seq c) n f.lc false
    | none => ackUp d n f.lc false

/-- A sequenced frame of an endpoint in its order (R411, R414). -/
def takeOrdered (d : Dev) (n : Nat) (f : WtFrame) (act : Dev → Nat → WtFrame → Taken) : Option Dev :=
  let r := rxOf (epOf d n) f.lc
  if r.session ≠ some f.session then some (sendStatus d n f.lc f.seq 1)
  else
    let k := (f.seq + 2 ^ 32 - r.next) % 2 ^ 32
    if k = 0 then takeNext d n f act
    else if 2 ^ 31 ≤ k then some (ackUp d n f.lc true)
    else
      match r.ackTick with
      | some t =>
        if t + 800 * d.net.resendUs ≤ d.time.ticks then
          some (ackUp (modRx d n f.lc fun r => { r with ackTick := some d.time.ticks }) n f.lc true)
        else some d
      | none => some (ackUp (modRx d n f.lc fun r => { r with ackTick := some d.time.ticks }) n f.lc true)

/-- OPEN: a new session ends the old one and starts at sequence number 0; credits are granted to the device; the device opens its
own stream to a peer (R411, R413, R415). -/
def takeOpen (d : Dev) (n : Nat) (f : WtFrame) : Dev :=
  if f.version ≠ 1 then sendStatus d n f.lc f.seq 6
  else if (rxOf (epOf d n) f.lc).session = some f.arg0 then ackUp d n f.lc true
  else if f.seq ≠ 0 then sendStatus d n f.lc f.seq 1
  else
    let d := closeRx d n f.lc
    let d := modRx d n f.lc fun _ => { rxDefault with session := some f.arg0, next := 1 }
    let x := epOf d n
    let d := setEp d n { x with st := 1, port := if x.st = 1 && portUp d x.port then x.port else (readyPort d x).getD f.eth.port }
    let d := if epKind x = 2 then openTx (modTx d n f.lc fun t => { t with credit := f.arg1 }) n f.lc else d
    ackUp d n f.lc false

/-- The operation a refused frame served: a put segment by its sequence number, or a get (R427). -/
def refusedOp (d : Dev) (n : Nat) (lc : Bool) (seq : Nat) : Option Nat :=
  match (txOf (epOf d n) lc).unacked.find? fun u => u.f.seq == seq && u.f.type == 0x10 with
  | some u => u.op.map fun x => x.1
  | none => (d.net.gets.find? fun g => g.ep == n && g.lc == lc && g.seq == seq).map fun g => g.op

/-- STATUS: a peer's refusal faults the MOVE it names (R417, R427). -/
def takeStatus (d : Dev) (n : Nat) (f : WtFrame) : Dev :=
  if epKind (epOf d n) ≠ 2 then sendStatus d n f.lc f.seq 2
  else
    match refusedOp d n f.lc f.arg0 with
    | some id => giveUp d 0x0F01 id
    | none => d

/-- A dictionary failure of a port ended as transient by the next frame of either protocol (R441). -/
def dictCrcPassed (d : Dev) (p : Nat) : Dev :=
  if (portOf d p).dictFailed then modPort d p fun x => { x with dictFailed := false, wtTransients := satAdd 32 x.wtTransients 1 }
  else d

/-- A work-transport frame that passed its CRC ends every failure of its port as transient (R416). -/
def crcPassed (d : Dev) (p : Nat) : Dev :=
  let d := dictCrcPassed d p
  if (portOf d p).crcFailed then modPort d p fun x => { x with crcFailed := false, wtTransients := satAdd 32 x.wtTransients 1 }
  else d

/-- A received work-transport frame (R405, R411 to R417): none where it cannot be taken yet. -/
def wtTake (d : Dev) (f : WtFrame) (act : Dev → Nat → WtFrame → Taken) : Option Dev :=
  let r := receive d f.eth (f.eth.port < 4 && f.eth.dstUdp == 50211 && addressed d f.eth)
  if !r.1 then some r.2
  else
    let d := crcPassed r.2 f.eth.port
    match epFrom d f.eth with
    | none => some d
    | some n =>
      let ok := f.version == 1
      let d := if ok && f.type == 0x22 then takeStatus d n f else d
      let d := if ok && f.ackValid then takeAck d n f.lc f.ackSeq f.freed else d
      if f.type = 0x20 then some (takeOpen d n f)
      else if ok && (f.type = 0x21 || f.type = 0x22) then some d
      else takeOrdered d n f act

/-- A row's frame: one of its type, or of a type that no row has. -/
def wtReceive (s : State) (f : WtFrame) (ty : Nat) (act : Dev → Nat → WtFrame → Taken) : Host.Outcome State Fault Refusal :=
  runDev (wtFrameOk f) s fun d => if f.type = ty || !typeKnown f.type then (wtTake d f act).getD d else d

/-- The context a frame addresses. -/
def frameCtx (f : WtFrame) : Nat := f.ctx % 64

/-- A frame that acts on tensor-die memory posted into the inbound ring of its class, behind the earlier frames of its stream
(R419 to R421). -/
def toInbound (d : Dev) (n : Nat) (f : WtFrame) (op : Option (Nat × Nat)) : Taken :=
  let r := rxOf (epOf d n) f.lc
  if tensorDown d then some (some 9, d)
  else if !r.held.isEmpty || !r.asks.isEmpty || !sysRoom d false f.lc then none
  else
    some (none, sysPost d false f.lc
      { type := f.type, ctx := frameCtx f, ep := n, last := f.last, seq := f.seq, arg0 := f.arg0, arg1 := f.arg1, spoil := f.spoil,
        box := f.box, payload := f.payload, op := op })

/-- Whether a queue is the context's and of the frame's class (R417, R226). -/
def queueAllowed (d : Dev) (q ctx : Nat) (lc : Bool) : Bool :=
  ownerOf d q == some ctx && decide (q - (ctxOf d ctx).qbase < (ctxOf d ctx).lcq) == lc

/-- A frame for a queue. -/
def actQueue (d : Dev) (n : Nat) (f : WtFrame) : Taken :=
  if !epMay (epOf d n) (frameCtx f) || !queueAllowed d f.arg0 (frameCtx f) f.lc then some (some 2, d) else toInbound d n f none

/-- A frame for a context's memory, events or sync objects. -/
def actCtx (d : Dev) (n : Nat) (f : WtFrame) : Taken :=
  if !epMay (epOf d n) (frameCtx f) then some (some 2, d) else toInbound d n f none

/-- QUEUE_WRITE (R422). -/
def execQueueWrite (f : WtFrame) (s : State) : Host.Outcome State Fault Refusal := wtReceive s f 0x01 actQueue
/-- DOORBELL (R422). -/
def execDoorbell (f : WtFrame) (s : State) : Host.Outcome State Fault Refusal := wtReceive s f 0x02 actQueue
/-- TENSOR_WRITE (R422, R423). -/
def execTensorWrite (f : WtFrame) (s : State) : Host.Outcome State Fault Refusal := wtReceive s f 0x03 actCtx
/-- TENSOR_READ (R422). -/
def execTensorRead (f : WtFrame) (s : State) : Host.Outcome State Fault Refusal := wtReceive s f 0x04 actCtx
/-- SIGNAL (R418). -/
def execSignal (f : WtFrame) (s : State) : Host.Outcome State Fault Refusal := wtReceive s f 0x06 actCtx
/-- EVENT_READ (R423). -/
def execEventRead (f : WtFrame) (s : State) : Host.Outcome State Fault Refusal := wtReceive s f 0x07 actCtx
/-- EVENT_ACK (R423). -/
def execEventAck (f : WtFrame) (s : State) : Host.Outcome State Fault Refusal := wtReceive s f 0x08 actCtx

/-- The byte index of a peer frame. -/
def frameIndex (f : WtFrame) : Nat := f.arg1 % 2 ^ 48

/-- The first refusal of a put into ring `r` (R417, R424). -/
def ringPutReason (d : Dev) (n : Nat) (f : WtFrame) (r : Nat) : Option Nat :=
  match ringOf d r with
  | none => some 8
  | some x =>
    let mine := x.prod = some (.put n f.lc)
    let acc := tfind (rxOf (epOf d n) f.lc).fills r
    if x.ctx ≠ frameCtx f || x.lc != f.lc then some 2
    else if x.prodDie ≠ 0 || !(mine || x.prod = none) || (ringMover d r true).isSome then some 8
    else if frameIndex f = 0 then
      (match acc with
        | some a => reasonIf (a.1 % slotBytes x != 0) 8
        | none => none)
    else
      match acc with
      | some a => reasonIf (a.1 != frameIndex f) 8
      | none => some 8

/-- A put segment: into a receive buffer, from which it is written when its tensor or ring can take it (R424, R425). -/
def actPut (d : Dev) (n : Nat) (f : WtFrame) : Taken :=
  let r := rxOf (epOf d n) f.lc
  if !epMay (epOf d n) (frameCtx f) then some (some 2, d)
  else if epCredits (epOf d n) f.lc ≤ r.puts - r.freed then some (some 7, d)
  else
    match wbTotal f.box with
    | none => some (some 5, d)
    | some total =>
      if total < frameIndex f + f.payload.length then some (some 5, d)
      else
        let seg : PutSeg :=
          { dst := f.arg0, ctx := frameCtx f, seq := f.seq, off := frameIndex f, last := f.last, spoil := f.spoil, box := f.box,
            payload := f.payload, done := 0 }
        let start (d : Dev) : Dev := modRx d n f.lc fun r =>
          { r with held := r.held ++ [seg],
                   broken := if frameIndex f = 0 then r.broken.filter fun y => y != (f.arg0, f.box) else r.broken }
        if isRingId f.arg0 then
          let k := ringIdOf f.arg0
          match ringPutReason d n f k with
          | some c => some (some c, d)
          | none =>
            let w := (tget (0, 0) r.fills k).2
            let d := modRx d n f.lc fun r => { r with fills := tset r.fills k (frameIndex f + f.payload.length, w) }
            some (none, start d)
        else if tensorDown d then some (some 9, d)
        else some (none, start d)

/-- PEER_PUT. -/
def execPeerPut (f : WtFrame) (s : State) : Host.Outcome State Fault Refusal := wtReceive s f 0x10 actPut

/-- The length a get asks for. -/
def getLen (a : Nat) : Nat := a / 2 ^ 48 % 65536

/-- A get: of a tensor through the inbound ring, of a ring on the signal die (R413, R424, R425). -/
def actGet (d : Dev) (n : Nat) (f : WtFrame) : Taken :=
  let len := getLen f.arg1
  if !epMay (epOf d n) (frameCtx f) then some (some 2, d)
  else
    match wbTotal f.box with
    | none => some (some 5, d)
    | some total =>
      if len = 0 || total < frameIndex f + len || payloadLimit d n false < len then some (some 5, d)
      else if !isRingId f.arg0 then toInbound d n f none
      else
        match ringOf d (ringIdOf f.arg0) with
        | none => some (some 8, d)
        | some x =>
          if x.ctx ≠ frameCtx f || x.lc != f.lc then some (some 2, d)
          else if x.prodDie ≠ 0 || x.consDie ≠ 0 || !(x.cons = none || x.cons = some (.get n f.lc))
              || (ringMover d (ringIdOf f.arg0) false).isSome then some (some 8, d)
          else if !(rxOf (epOf d n) f.lc).held.isEmpty || (sysOpen d false f.lc).any (fun y => y.ep == n) then none
          else
            let a : RingAsk := { ring := ringIdOf f.arg0, ctx := frameCtx f, seq := f.seq, off := frameIndex f, len := len, data := [] }
            some (none, modRx d n f.lc fun r => { r with asks := r.asks ++ [a] })

/-- PEER_GET. -/
def execPeerGet (f : WtFrame) (s : State) : Host.Outcome State Fault Refusal := wtReceive s f 0x11 actGet

/-- The get in flight that a PEER_DATA answers. -/
def getOf (d : Dev) (n : Nat) (lc : Bool) (seq : Nat) : Option GetSeg :=
  d.net.gets.find? fun g => g.ep == n && g.lc == lc && g.seq == seq
/-- The device without a get in flight: its tag is free (R188). -/
def dropGet (d : Dev) (g : GetSeg) : Dev := { d with net := { d.net with gets := d.net.gets.filter fun x => x != g } }

/-- PEER_DATA: it lands where its get says, and frees the remote tag (R187, R188, R419). -/
def actData (d : Dev) (n : Nat) (f : WtFrame) : Taken :=
  match getOf d n f.lc f.arg0 with
  | none => some (none, d)
  | some g =>
    match opOf d g.op with
    | none => some (none, dropGet d g)
    | some o =>
      if f.payload.length ≠ g.len || f.arg1 ≠ g.lo then some (some 5, d)
      else
        match sideRing (mvTo o.desc) with
        | none => toInbound d n f (some (g.op, g.lo + g.len))
        | some r =>
          if !streamClear d n f.lc then none
          else
            match ringOf d r with
            | some x => some (none, landRing (dropGet d g) g.op r x (withSpoil f.spoil f.payload) o)
            | none => some (none, dropGet d g)

/-- PEER_DATA. -/
def execPeerData (f : WtFrame) (s : State) : Host.Outcome State Fault Refusal := wtReceive s f 0x12 actData

/-- LOCKSTEP_SAMPLE: a sample of the lock-step peer (R278, R279). -/
def actSample (d : Dev) (n : Nat) (f : WtFrame) : Taken :=
  if !epMay (epOf d n) (frameCtx f) then some (some 2, d)
  else if !streamClear d n f.lc then none
  else some (none, if d.ls.enable && d.ls.peer == n && frameCtx f == d.ls.ctx then lsArrive d f.payload else d)

/-- LOCKSTEP_SAMPLE. -/
def execLockstepSample (f : WtFrame) (s : State) : Host.Outcome State Fault Refusal := wtReceive s f 0x14 actSample

/-- OPEN, ACK and STATUS have no further effect. -/
def actNone (d : Dev) (_ : Nat) (_ : WtFrame) : Taken := some (none, d)

/-- WT_OPEN (R411). -/
def execWtOpen (f : WtFrame) (s : State) : Host.Outcome State Fault Refusal := wtReceive s f 0x20 actNone
/-- WT_ACK (R414). -/
def execWtAck (f : WtFrame) (s : State) : Host.Outcome State Fault Refusal := wtReceive s f 0x21 actNone
/-- WT_STATUS (R417, R427). -/
def execWtStatus (f : WtFrame) (s : State) : Host.Outcome State Fault Refusal := wtReceive s f 0x22 actNone

/-! ### Re-send (R415) -/

/-- The frames of a stream sent again, in order. -/
def resend (d : Dev) (n : Nat) (lc : Bool) : Dev :=
  let us := (txOf (epOf d n) lc).unacked
  let d := modTx d n lc fun t =>
    { t with unacked := t.unacked.map fun u => { u with resends := u.resends + 1, tick := d.time.ticks } }
  let d := { d with net := { d.net with resends := satAdd 32 d.net.resends us.length } }
  us.foldl (fun d u => emitWt d (withAck d u.f)) d

/-- The oldest frame of a stream has had no acknowledgement within the re-send period. -/
def resendTimeout (d : Dev) (n : Nat) (lc : Bool) : Dev :=
  match (txOf (epOf d n) lc).unacked with
  | [] => d
  | u :: _ =>
    if d.time.ticks < u.tick + 800 * d.net.resendUs then d
    else if d.net.resendLimit ≤ u.resends then epDown d n 1
    else resend d n lc

/-- RESEND_TIMEOUT. -/
def execResendTimeout (ep : Nat) (lc : Bool) (s : State) : Host.Outcome State Fault Refusal :=
  runDev (ep < 64) s fun d => resendTimeout d ep lc

end Sys2Proof.Machine
end

