-- ==== Sys2Proof/Machine/Haul.lean ====
section
/-!
DEFINITION. Machine/Haul.lean: MOVE and RING: descriptors and checks (R155, R157, R165, R166, R190, R427), slots filled and
taken (R162, R163), and the conveyor (R178 to R180).
-/
namespace Sys2Proof.Machine
open Sys2Proof

/-! ### MOVE -/

/-- Whether the fields of a MOVE keep their ranges (R157, R190). -/
def moveFieldsOk (x : Desc) : Bool :=
  dfield x 57 0 1 == 0 && dfield x 61 0 24 == 0 && 1 ≤ mvDims x && mvDims x ≤ 5
    && (List.range 5).all (fun i => if i < mvDims x then mvExt x i != 0 else mvExt x i == 0 && mvOfs x i == 0)
    && !(mvConvey x && (mvRemote x || mvMask x == 0))

/-- Whether an identifier can be a side of a MOVE (R190). -/
def sideIdOk (i : Nat) : Bool := i != noTensor && !isBuiltinId i

/-- Whether a local ring side suits the MOVE: in use, of its context and class, and on the die of the engine that serves it
(R155, R160, R161, R190). -/
def ringSideOk (d : Dev) (h : Head) (r : Nat) (fills : Bool) (die : Option Nat) : Bool :=
  match ringOf d r with
  | none => false
  | some x => x.ctx == h.ctx && x.lc == h.lc && (match die with | some k => ringDie x fills == k | none => true)

/-- Whether the rings a MOVE names suit it. -/
def moveRingsOk (d : Dev) (h : Head) : Bool :=
  let die := moveDie d h.desc
  (match sideRing (mvFrom h.desc) with
    | some r => ringSideOk d h r false (if mvRemote h.desc then none else die)
    | none => true)
    && (match sideRing (mvTo h.desc) with | some r => ringSideOk d h r true die | none => true)

/-- Whether a box's bytes fill whole slots of a ring (R155). -/
def wholeSlots (d : Dev) (bits : Nat) (x : Desc) (s : Option Nat) : Bool :=
  match (sideRing s).bind (ringOf d) with
  | some r => boxBytes bits (mvBox x false) % slotBytes r == 0
  | none => true

/-- Whether a side names a tensor. -/
def sideIsTensor (s : Option Nat) : Bool := match s with | some i => isTensorId i | none => false

/-- Whether the box lies inside the tensor of a side (R190). -/
def sideInside (d : Dev) (ctx : Nat) (x : Desc) (s : Option Nat) (dst : Bool) : Bool :=
  match sideTensor d ctx s with
  | some t => boxInside t (mvBox x dst)
  | none => true

/-- Bits of an element of a MOVE as its descriptor and tensors give them. -/
def descBits (d : Dev) (ctx : Nat) (x : Desc) : Nat :=
  match sideTensor d ctx (mvFrom x), sideTensor d ctx (mvTo x) with
  | some t, _ => fmtBits (tFmt t)
  | none, some t => fmtBits (tFmt t)
  | none, none => 8

/-- Whether a ring side of a MOVE crosses the haul road (R161). -/
def sideCrosses (d : Dev) (s : Option Nat) : Bool :=
  match (sideRing s).bind (ringOf d) with
  | some r => (ringDir r).isSome
  | none => false

/-- The first fault of a MOVE (R190, R201, R427). -/
def moveReason (d : Dev) (h : Head) : Option Nat :=
  let x := h.desc
  let f := mvFrom x
  let t := mvTo x
  let fmtsDiffer := match sideTensor d h.ctx f, sideTensor d h.ctx t with
    | some a, some b => a.fmt != b.fmt
    | _, _ => false
  if !moveFieldsOk x || !sideIdOk (mvSrc x) || !sideIdOk (mvDst x) || (!mvRemote x && isTensorId (mvSrc x) && mvSrc x == mvDst x)
      || (mvConvey x && !(sideIsTensor f && sideIsTensor t)) || !moveRingsOk d h then some 0x0601
  else if mvRemote x && (64 ≤ mvPeer x || epKind (epOf d (mvPeer x)) != 2) then some 0x0F01
  else if (sideIsTensor f && (sideTensor d h.ctx f).isNone) || (sideIsTensor t && (sideTensor d h.ctx t).isNone) then
    some 0x0704
  else if fmtsDiffer || !wholeSlots d (descBits d h.ctx x) x f || !wholeSlots d (descBits d h.ctx x) x t then some 0x0601
  else if !sideInside d h.ctx x f false || !sideInside d h.ctx x t true
      || (mvConvey x && 2 ^ d.boot.lbenches ≤ mvMask x) then some 0x0602
  else if roadDown d && (sideCrosses d f || sideCrosses d t || mvRemote x) then some 0x0605
  else none

/-- A MOVE between two tensors copied from its cursor as far as its pages are in; it stalls at the next (R152, R156, R181,
R182). -/
def copyTensor (d : Dev) (id : Nat) (o : Op) : Dev :=
  let n := moveTotal d o
  let o := fixCut d o.pos (n - o.pos) o
  match sideTensor d o.ctx (mvTo o.desc), (mvFrom o.desc).bind fun i => srcOf d o.ctx i id with
  | some t, some s =>
    let e := moveReach d o n (boxBlocks (moveBits d o) (mvBox o.desc false)) o.pos
    let bs := readBytes d id o o.pos (e - o.pos)
    let d := countMoved (boxWrite d o.ctx t none (mvBox o.desc true) o.pos bs) 1 o o.pos e
    let d := if s.hot.isEmpty then d else { d with free := d.free + 1 }
    let o := { o with pos := e, got := e, landed := e, needs := [], left := moveLeft d o e }
    if n ≤ e then moveDone d id 1 o else moveStall d id e n o
  | _, _ => moveDone d id 1 o

/-- A MOVE goes on once the pages it waited for are in: between tensors it copies; on a ring or a peer side it goes on at its
next slot or segment (R181, R182). -/
def moveOn (d : Dev) (id : Nat) (o : Op) : Dev :=
  if mvRemote o.desc || mvConvey o.desc || (sideRing (mvFrom o.desc)).isSome || (sideRing (mvTo o.desc)).isSome then
    setOp d id { o with needs := [] }
  else copyTensor d id { o with needs := [] }

/-- The bytes a MOVE needs first: those of its first slot or segment (R181). A conveyor reads LPDDR6 and brings its own pages in
(R178). -/
def firstBytes (d : Dev) (o : Op) : Nat :=
  if mvConvey o.desc then 0
  else if mvRemote o.desc then min (moveTotal d o) (payloadLimit d (mvPeer o.desc) (!mvGet o.desc))
  else
    match (sideRing (mvFrom o.desc)).bind (ringOf d), (sideRing (mvTo o.desc)).bind (ringOf d) with
    | some x, none => slotBytes x
    | none, some x => slotBytes x
    | _, _ => 0

/-- Bytes of a conveyor slot (R178). -/
def convSlot : Nat := 65536

/-- A conveyor transfer as it starts (R178). -/
def convStart (d : Dev) (id : Nat) (o : Op) : Conv :=
  { op := id, total := ceilDiv (moveTotal d o) convSlot, fetched := 0, staged := [],
    accepted := ((List.range 16).filter (bitAt (mvMask o.desc))).map fun l => (l, 0), detached := [] }

/-- A MOVE as it issues, with the blocks of its destination (R24, R82). -/
def freshMove (d : Dev) (h : Head) : Op :=
  let o := freshOp d h
  let bs := moveBlocks d o 0 (moveTotal d o)
  { o with blocks := bs, left := bs }

/-- A MOVE issued (R157, R227). -/
def startMove (d : Dev) (h : Head) : Dev :=
  let r := issue d h (freshMove d h)
  let id := r.1
  let d := r.2
  match opOf d id with
  | none => d
  | some o =>
    let d := if mvConvey h.desc then { d with haul := { d.haul with convs := d.haul.convs ++ [convStart d id o] } } else d
    let d := primeMove d id 0 (firstBytes d o) o
    match opOf d id with
    | none => d
    | some o => if o.needs.isEmpty then moveOn d id o else d

/-- Whether the host of a logical bench is READY: until it is, a descriptor for that bench waits at its head (R21). -/
def hostReady (d : Dev) (l : Nat) : Bool := (benchReg d (hostOf d l)).st == 1

/-- Whether a MOVE can issue: a conveyor waits for the hosts of its receivers (R21). -/
def moveReady (d : Dev) (h : Head) : Bool :=
  !mvConvey h.desc || ((List.range 16).filter (bitAt (mvMask h.desc))).all (hostReady d)

/-- MOVE (R157). -/
def famMove : Family :=
  { op := 0x40, sub := fun _ => true, invalid := 0x0601, check := moveReason, ready := moveReady, run := startMove }

/-- MOVE. -/
def execMove (q : Nat) (s : State) : Host.Outcome State Fault Refusal := runHead s q famMove

/-! ### RING (R165, R166) -/

/-- `RING.OP`. -/
def rgOp (x : Desc) : Nat := dfield x 24 0 8
/-- `RING.ID`. -/
def rgId (x : Desc) : Nat := dfield x 26 0 12
/-- `RING.BENCH`. -/
def rgBench (x : Desc) : Nat := dfield x 25 0 4
/-- `RING.SLOTS`. -/
def rgSlots (x : Desc) : Nat := dfield x 28 0 8
/-- `RING.SLOT_BLOCKS`. -/
def rgBlocks (x : Desc) : Nat := dfield x 30 0 16

/-- Whether a reserved bit or operation of a RING is set (R6, R165). -/
def rgReserved (x : Desc) : Bool :=
  dfield x 25 4 4 != 0 || dfield x 26 12 4 != 0 || dfield x 29 0 5 != 0 || dfield x 32 13 2 != 0 || dfield x 34 13 2 != 0
    || dfield x 48 0 128 != 0 || rgOp x == 0 || 3 < rgOp x

/-- The ring a CREATE describes. -/
def rgNew (h : Head) : Ring :=
  let x := h.desc
  ringFresh
    { ctx := h.ctx, lc := h.lc, bench := rgBench x, slots := rgSlots x, blocks := rgBlocks x,
      prodDie := if dbit x 29 7 then 1 else 0, consDie := if dbit x 29 6 then 1 else 0, rt := dbit x 29 5,
      fullEn := dbit x 32 15, fullObj := dfield x 32 0 13, emptyEn := dbit x 34 15, emptyObj := dfield x 34 0 13,
      dlPeriod := dfield x 36 0 32, dlBase := dfield x 40 0 64, head := 0, tail := 0, count := 0, taken := 0, slotSt := [], fullAt := [],
      prod := none, cons := none, faulted := false, posted := false, given := false, staged := [], sent := [] }

/-- Bytes of the signal store that rings occupy (R15, R161). -/
def signalUsed (d : Dev) : Nat := (d.haul.rings.map fun e => if e.2.consDie = 0 then e.2.slots * slotBytes e.2 else 0).sum

/-- The frames of a ring's slot storage on its bench, pages giving way to them; whether they are free (R161, R203). -/
def ringRoom (d : Dev) (x : Ring) : Dev × Bool :=
  if x.consDie = 1 then makeFrames 96 d (hostOf d x.bench) x.lc (ringFrames x) 0 0 else (d, true)

/-- Whether slot storage can be allocated: inside the 16 MiB signal store, or within a bench's pin limit and its frames (R161,
R166, R204). While the host of the bench is not READY the descriptor waits (R21). -/
def ringFits (d : Dev) (x : Ring) : Bool :=
  if x.consDie = 1 then !hostReady d x.bench || (pinnedFrames d (hostOf d x.bench) + ringFrames x ≤ 88 && (ringRoom d x).2)
  else signalUsed d + x.slots * slotBytes x ≤ 16777216

/-- The first fault of a RING CREATE (R165, R166, R190, R248, R250). -/
def createReason (d : Dev) (h : Head) : Option Nat :=
  let x := rgNew h
  if rgReserved h.desc || (ringOf d (rgId h.desc)).isSome || x.slots < 3 || 64 < x.slots || x.blocks < 1 || 256 < x.blocks
      || (x.consDie == 0 && x.bench != 0) || (x.rt && x.dlPeriod == 0) then some 0x0601
  else if x.consDie == 1 && d.boot.lbenches ≤ x.bench then some 0x0602
  else
    match firstReason (if x.fullEn then objReason d x.fullObj h.lc else none)
        (if x.emptyEn then objReason d x.emptyObj h.lc else none) with
    | some r => some r
    | none =>
      if roadDown d && (ringDir x).isSome then some 0x0605
      else reasonIf (!ringFits d x) 0x0604

/-- Whether a MOVE still fills the slot at the tail of a ring that crosses the road: its last byte is not yet written on the
consumer's die (R162, R166). -/
def ringHeld (d : Dev) (r : Nat) (x : Ring) : Bool :=
  x.posted && x.prod.isNone && match ringMover d r true with | some (_, o) => o.landed < movedTo o | none => false

/-- The first fault of a RING DESTROY or RESET (R160, R166, R190). -/
def ringReason (d : Dev) (h : Head) : Option Nat :=
  if rgReserved h.desc then some 0x0601
  else
    match ringOf d (rgId h.desc) with
    | some x => reasonIf (x.ctx != h.ctx || ringBusy x || ringHeld d (rgId h.desc) x) 0x0601
    | none => some 0x0601

/-- Whether a reserved operation code stands in a RING. -/
def rgBadOp (x : Desc) : Bool := rgOp x == 0 || 3 < rgOp x

/-- A ring created: its storage taken, every slot EMPTY (R161, R166). -/
def createRing (d : Dev) (h : Head) : Dev :=
  let d := (ringRoom d (rgNew h)).1
  completeHead (pinLimits (setRing (ringClear d (rgId h.desc) 64) (rgId h.desc) (rgNew h))) h

/-- CREATE. -/
def famRingCreate : Family :=
  { op := 0x41, sub := fun x => rgOp x == 1 || rgBadOp x, invalid := 0x0601, check := createReason,
    ready := fun d h => (rgNew h).consDie != 1 || hostReady d (rgBench h.desc), run := createRing }

/-- A ring destroyed: the MOVEs that still wait for it end as invalid (R166). -/
def destroyRing (d : Dev) (r : Nat) : Dev :=
  let waits := d.disp.ops.filter fun o => o.2.phase == .moving && hOpcode o.2.desc == 0x40
    && (sideRing (mvFrom o.2.desc) == some r || sideRing (mvTo o.2.desc) == some r)
  waits.foldl (fun d o => abortOp d o.1 0x0601) (pinLimits (ringDrop d r))

/-- DESTROY. -/
def famRingDestroy : Family :=
  { op := 0x41, sub := fun x => rgOp x == 2 || rgBadOp x, invalid := 0x0601, check := ringReason,
    ready := fun _ _ => true, run := fun d h => completeHead (destroyRing d (rgId h.desc)) h }

/-- A ring returned to the state just after CREATE (R166). -/
def resetRing (d : Dev) (r : Nat) : Dev :=
  match ringOf d r with
  | some x => setRing (ringUnsend (ringClear d r x.slots) r) r { ringFresh x with prod := x.prod, cons := x.cons }
  | none => d

/-- RESET. -/
def famRingReset : Family :=
  { op := 0x41, sub := fun x => rgOp x == 3 || rgBadOp x, invalid := 0x0601, check := ringReason,
    ready := fun _ _ => true, run := fun d h => completeHead (resetRing d (rgId h.desc)) h }

/-- RING_CREATE. -/
def execRingCreate (q : Nat) (s : State) : Host.Outcome State Fault Refusal := runHead s q famRingCreate
/-- RING_DESTROY. -/
def execRingDestroy (q : Nat) (s : State) : Host.Outcome State Fault Refusal := runHead s q famRingDestroy
/-- RING_RESET. -/
def execRingReset (q : Nat) (s : State) : Host.Outcome State Fault Refusal := runHead s q famRingReset

/-- Whether a flit is the last of a slot of ring `r`. -/
def lastOf (r : Nat) (f : Flit) : Bool :=
  match f.pay with
  | .slotData k _ _ last _ _ => k == r && last
  | _ => false

/-- Slot data delivered: written into the slot, and counted for the MOVE that sent it (R169, R186). -/
def slotLand (d : Dev) (p : Payload) : Dev :=
  match p with
  | .slotData r _ _ _ _ bs => landMove (slotArrive d p) r bs.length
  | _ => d

/-- The last flit of a slot of ring `r`, next on the road, arrives: the slot is FULL or SPOIL (R162, R163, R169). -/
def arriveLast (d : Dev) (r : Nat) (dir : Dir) : Dev :=
  match nextFlit (roadOf d dir) with
  | some f => if roadRuns d && lastOf r f then slotLand (acceptFlit d dir f) f.pay else d
  | none => d

/-- RING_SLOT_FULL: the MOVE that fills the tail slot writes its last byte, or the slot's last flit arrives (R163). -/
def execRingSlotFull (ring : Nat) (s : State) : Host.Outcome State Fault Refusal :=
  runDev (ring < 4096) s fun d =>
    match ringOf d ring with
    | none => d
    | some x =>
      match ringDir x with
      | some dir => arriveLast d ring dir
      | none => fillSlot d ring

/-- RING_SLOT_EMPTY: the MOVE that takes the head slot has read its last byte (R163). -/
def execRingSlotEmpty (ring : Nat) (s : State) : Host.Outcome State Fault Refusal :=
  runDev (ring < 4096) s fun d => emptySlot d ring

/-! ### The conveyor (R178 to R180) -/

/-- The conveyor transfer of an operation. -/
def convOf (d : Dev) (id : Nat) : Option Conv := d.haul.convs.find? fun c => c.op == id

/-- The device with a conveyor transfer replaced. -/
def setConv (d : Dev) (c : Conv) : Dev :=
  { d with haul := { d.haul with convs := d.haul.convs.map fun x => if x.op = c.op then c else x } }

/-- Slots a receiver has accepted. -/
def convAccepted (c : Conv) (l : Nat) : Nat := tget 0 c.accepted l
/-- Whether a receiver is attached. -/
def convAttached (c : Conv) (l : Nat) : Bool := thas c.accepted l && !thas c.detached l
/-- The skew of a receiver (R178). -/
def convSkew (c : Conv) (l : Nat) : Nat := c.fetched - convAccepted c l

/-- Bytes of slot `k` of a transfer. -/
def convLen (d : Dev) (o : Op) (k : Nat) : Nat := min convSlot (moveTotal d o - k * convSlot)

/-- The destination pages of slot `k`. -/
def convPages (d : Dev) (o : Op) (k : Nat) : List Nat :=
  match sideTensor d o.ctx (mvTo o.desc) with
  | none => []
  | some t => boxPages t (mvBox o.desc true) (k * convSlot) (convLen d o k)

/-- Room made on the host of logical bench `l` for the destination pages of slot `k` that hold nothing yet, which are zero-filled
there (R178, R206); whether there was room for all. -/
def convRoom (d : Dev) (o : Op) (l k : Nat) : Dev × Bool :=
  let b := hostOf d l
  ((convPages d o k).filter fun p => !bitAt (pageOf d o.ctx p).copies b).foldl
    (fun (a : Dev × Bool) p =>
      let r := makeRoom a.1 o.ctx b o.lc
      if a.2 && r.2 then (pageIn r.1 o.ctx p b o.lc, true) else (r.1, false)) (d, true)

/-- The destination pages of slot `k` that hold contents and are not on the host of logical bench `l`: they are served as faults
first (R181, R182, R206). -/
def convTargets (d : Dev) (o : Op) (l k : Nat) : List (Nat × Nat) :=
  let b := hostOf d l
  ((convPages d o k).filter fun p => !bitAt (pageOf d o.ctx p).copies b && (pageOf d o.ctx p).st != .untouched).map fun p =>
    (ckey o.ctx p, b)

/-- A destination page after a receiver's copy of a slot: dirty there, and on no bench that is no receiver (R178, R205). -/
def convPage (mask b : Nat) (p : Page) : Page :=
  match p.st with
  | .dirty => { p with copies := (p.copies &&& mask) ||| 2 ^ b, dirty := (p.dirty &&& mask) ||| 2 ^ b, written := true }
  | .hostAbsent | .lost => p
  | _ => { p with st := .dirty, copies := (p.copies &&& mask) ||| 2 ^ b, dirty := (p.copies &&& mask) ||| 2 ^ b, written := true }

/-- The host benches of a transfer's receivers, as a mask. -/
def convHosts (d : Dev) (o : Op) : Nat :=
  (List.range 16).foldl (fun m l => if bitAt (mvMask o.desc) l then m ||| 2 ^ hostOf d l else m) 0

/-- The bytes of slot `k` as they are read from the source. -/
def convBytes (d : Dev) (id : Nat) (o : Op) (k : Nat) : List MByte := readBytes d id o (k * convSlot) (convLen d o k)

/-- A slot's bytes written for a receiver. -/
def convWrite (d : Dev) (o : Op) (l k : Nat) (bs : List MByte) : Dev :=
  match sideTensor d o.ctx (mvTo o.desc) with
  | none => d
  | some t =>
    let bx := mvBox o.desc true
    let l1 := bs.zipIdx (k * convSlot)
    let d := l1.foldl (fun d e => boxPut d o.ctx t bx e.2 e.1.1 false) d
    let d := (l1.filter fun e => e.1.2).foldl (fun d e => boxPut d o.ctx t bx e.2 e.1.1 true) d
    (convPages d o k).foldl (fun d p => modPage d o.ctx p (convPage (convHosts d o) (hostOf d l))) d

/-- Whether every receiver has every slot. -/
def convComplete (c : Conv) : Bool := c.accepted.all fun a => c.total ≤ a.2

/-- A transfer stalled at pages: those it does not wait for yet are touched (R181, R182). -/
def convStall (d : Dev) (id : Nat) (o : Op) (ns : List (Nat × Nat)) : Dev :=
  let new := ns.filter fun n => !o.needs.contains n
  touchAll (setOp d id { o with needs := o.needs ++ new }) new (some o)

/-- Source pages of slot `k` whose contents the device does not hold. -/
def convLack (d : Dev) (o : Op) (k : Nat) : List (Nat × Nat) :=
  match sideTensor d o.ctx (mvFrom o.desc) with
  | none => []
  | some t =>
    ((boxPages t (mvBox o.desc false) (k * convSlot) (convLen d o k)).map fun p => (ckey o.ctx p, 16)).filter fun n =>
      !servable d n

/-- The source pages of slot `k`, which its reading takes from LPDDR6 (R178, R180). -/
def convSource (d : Dev) (o : Op) (k : Nat) : List Nat :=
  match sideTensor d o.ctx (mvFrom o.desc) with
  | none => []
  | some t => boxPages t (mvBox o.desc false) (k * convSlot) (convLen d o k)

/-- A transfer with its cursor at the next slot to fetch, and its cut where a page was not served (R153, R182, R183). -/
def convCursor (d : Dev) (o : Op) (k : Nat) : Op :=
  let o := fixCut d (k * convSlot) (convLen d o k) o
  { o with pos := max o.pos (k * convSlot) }

/-- A receiver has its next slot: a staged slot that every attached receiver has is released, and a transfer that every receiver
has whole waits for its completion (R178, R180). -/
def convTaken (d : Dev) (id l : Nat) (c : Conv) (o : Op) : Dev :=
  let c := { c with accepted := tset c.accepted l (convAccepted c l + 1) }
  let on := (c.accepted.map fun a => a.1).filter (convAttached c)
  let c := { c with staged := c.staged.filter fun s => on.any fun l => convAccepted c l ≤ s.1 }
  let d := setConv d c
  let least := c.accepted.foldl (fun m a => min m (a.2 * convSlot)) (moveTotal d o)
  let o := { o with landed := least, left := moveLeft d o least }
  if convComplete c then
    let d := countBlocks d 1 (boxBlocks (moveBits d o) (mvBox o.desc false) * c.accepted.length)
    moveDone { d with haul := { d.haul with convs := d.haul.convs.filter fun x => x.op ≠ id } } id 1 o
  else setOp d id o

/-- A receiver accepts its next slot: a staged one while it is attached; once it is detached, any that its own reading of LPDDR6
gives (R178, R180). -/
def convAccept (d : Dev) (id l : Nat) (crc : List BlockFail) : Dev :=
  match convOf d id, opOf d id with
  | some c, some o =>
    let k := convAccepted c l
    let staged := (tfind c.staged k).filter fun _ => convAttached c l
    if !haulRuns d o || !thas c.accepted l || (convAttached c l && staged.isNone) || c.total ≤ k then d
    else
      match convTargets d o l k ++ (if staged.isSome then [] else convLack d o k) with
      | n :: ns => convStall d id o (n :: ns)
      | [] =>
        let r := convRoom d o l k
        if !r.2 then r.1
        else
          match staged with
          | some bs => convTaken (convWrite r.1 o l k bs) id l c o
          | none =>
            let o := convCursor r.1 o k
            readPages r.1 o.ctx (convSource r.1 o k) crc fun d => convTaken (convWrite d o l k (convBytes d id o k)) id l c o
  | _, _ => d

/-- CONVEYOR_SLOT_ACCEPT. -/
def execConveyorSlotAccept (op : Nat) (bench : Reading Nat) (s : State) : Host.Outcome State Fault Refusal :=
  runDev (bench.of < 16 && failsOk bench.fails) s fun d => convAccept d op bench.of bench.fails

/-- The next slot fetched into the staging buffer, its pages read from LPDDR6 (R178, R196). -/
def convStage (d : Dev) (id : Nat) (c : Conv) (o : Op) (crc : List BlockFail) : Dev :=
  let o := convCursor d o c.fetched
  readPages d o.ctx (convSource d o c.fetched) crc fun d =>
    setConv (setOp d id { o with pos := (c.fetched + 1) * convSlot })
      { c with fetched := c.fetched + 1, staged := c.staged ++ [(c.fetched, convBytes d id o c.fetched)] }

/-- The receivers at skew 2 detached, with one CONVEYOR_MISS each (R179, R180). -/
def convDetach (d : Dev) (o : Op) (c : Conv) (ls : List Nat) : Dev :=
  let one (d : Dev) (l : Nat) : Dev :=
    post d o.ctx 0x0005 ⟨hTag o.desc, o.queue⟩ (leBytes 1 l ++ zeros 3 ++ leBytes 4 (convAccepted c l))
  let d := ls.foldl one d
  { d with haul := { d.haul with misses := satAdd 32 d.haul.misses ls.length } }

/-- A transfer with receivers detached at the first slot each missed; what only they had not accepted leaves the staging
buffer. -/
def convWithout (c : Conv) (ls : List Nat) : Conv :=
  let c := { c with detached := ls.foldl (fun t l => tset t l (convAccepted c l)) c.detached }
  let on := (c.accepted.map fun a => a.1).filter (convAttached c)
  { c with staged := c.staged.filter fun s => on.any fun l => convAccepted c l ≤ s.1 }

/-- The conveyor fetches its next slot: at once while every attached receiver has a skew below 2, and past receivers at skew
2 where another attached one has accepted everything and has room (R179). -/
def convFetch (d : Dev) (id : Nat) (crc : List BlockFail) : Dev :=
  match convOf d id, opOf d id with
  | some c, some o =>
    if c.total ≤ c.fetched || !haulRuns d o then d
    else
      match convLack d o c.fetched with
      | n :: ns => convStall d id o (n :: ns)
      | [] =>
        let on := (c.accepted.map fun a => a.1).filter (convAttached c)
        let late := on.filter fun l => 2 ≤ convSkew c l
        if late.isEmpty then convStage d id c o crc
        else if on.any fun l => convSkew c l == 0 && (convRoom d o l c.fetched).2 then
          convStage (convDetach d o c late) id (convWithout c late) o crc
        else d
  | _, _ => d

/-- CONVEYOR_FETCH. -/
def execConveyorFetch (op : Reading Nat) (s : State) : Host.Outcome State Fault Refusal :=
  runDev (failsOk op.fails) s fun d => convFetch d op.of op.fails

end Sys2Proof.Machine
end

