-- ==== Sys2Proof/Machine/Road.lean ====
section
/-!
DEFINITION. Machine/Road.lean: the flits of the haul road as they arrive (R169 to R172), retrains (R173), the worked-out
road (R176), and the tensor die's replica of the global counter (R19).
-/
namespace Sys2Proof.Machine
open Sys2Proof

/-- The next flit of a direction accepted where its payload is of the kind asked, and what it then does. -/
def acceptIf (d : Dev) (dir : Dir) (p : Payload → Bool) (f : Dev → Payload → Dev) : Dev :=
  match nextFlit (roadOf d dir) with
  | some x => if roadRuns d && p x.pay then f (acceptFlit d dir x) x.pay else d
  | none => d

/-- Whether a flit carries slot data. -/
def isSlotData (p : Payload) : Bool := match p with | .slotData _ _ _ _ _ _ => true | .sysData _ _ _ _ => true | _ => false
/-- Whether a flit releases a slot. -/
def isSlotRelease (p : Payload) : Bool := match p with | .slotRelease _ _ => true | .sysRelease _ _ _ => true | _ => false
/-- Whether a flit is a descriptor other than a timebase. -/
def isDescriptor (p : Payload) : Bool :=
  match p with
  | .syncInc _ _ _ _ _ _ _ | .trigInc _ | .ringInc _ _ | .descriptor _ | .preempt _ _ | .complete _ _ _ _ | .request _ _ | .answer _ _ => true
  | _ => false
/-- Whether a flit is a timebase descriptor. -/
def isTimebase (p : Payload) : Bool := match p with | .timebase _ => true | _ => false

/-- A SLOT_DATA delivered, of a ring or of a system ring (R169, R419). -/
def dataArrive (d : Dev) (p : Payload) : Dev :=
  match p with
  | .sysData out lc n _ => sysArrive d out lc n
  | _ => slotLand d p

/-- SLOT_DATA: the payload is written into the slot, with its spoil mark (R169). -/
def execSlotData (dir : Dir) (s : State) : Host.Outcome State Fault Refusal :=
  runDev true s fun d => acceptIf d dir isSlotData dataArrive

/-- A system-ring slot returned to EMPTY; its frame is acknowledged (R420). -/
def sysReleased (d : Dev) (out lc : Bool) (n : Nat) : Dev :=
  match (sysRing d out lc).find? fun s => s.num == n with
  | none => d
  | some s =>
    let d := sysDrop d out lc n
    if out then d else ackUp d s.ep lc false

/-- A SLOT_RELEASE delivered (R164, R169, R420). -/
def releaseArrive (d : Dev) (p : Payload) : Dev :=
  match p with
  | .slotRelease r s => slotRelease d r s
  | .sysRelease out lc n => sysReleased d out lc n
  | _ => d

/-- SLOT_RELEASE: a slot is EMPTY on the producer's die. -/
def execSlotRelease (dir : Dir) (s : State) : Host.Outcome State Fault Refusal :=
  runDev true s fun d => acceptIf d dir isSlotRelease releaseArrive

/-! ### Increments of time triggers (R397) -/

/-- Trigger `n`. -/
def trigOf (d : Dev) (n : Nat) : Trigger := tget trigDefault d.time.trigs n
/-- The device with a trigger replaced. -/
def setTrig (d : Dev) (n : Nat) (x : Trigger) : Dev := { d with time := { d.time with trigs := tset d.time.trigs n x } }

/-- A trigger's increment applied; one to an undeclared object is discarded, with one FAULT for the trigger (R251, R510). -/
def trigApply (d : Dev) (i : TrigInc) : Dev :=
  if (syncOf d i.obj).declared then syncAdd d i.obj i.inc i.ctx i.ctx noCause 0 0
  else
    let t := trigOf d i.trig
    if t.faulted then d else postFault (setTrig d i.trig { t with faulted := true }) i.ctx noCause 0x0802 0 0 0

/-- A trigger's increment at the dispatcher: held for its firing tick, or applied as it arrives, and counted where that
tick has passed (R397); one withdrawn on its way does nothing (R399). -/
def trigArrive (d : Dev) (i : TrigInc) : Dev :=
  if i.inc = 0 then d
  else if now d < i.tick then { d with time := { d.time with heldIncs := d.time.heldIncs ++ [i] } }
  else
    let d := trigApply d i
    if i.tick < now d then { d with time := { d.time with lateIncs := satAdd 32 d.time.lateIncs 1 } } else d

/-- A descriptor delivered to the other die (R170). -/
def descriptorArrive (d : Dev) (p : Payload) : Dev :=
  match p with
  | .syncInc obj inc ctx tag queue op idx => syncAdd d obj inc ctx ctx ⟨tag, queue⟩ op idx
  | .ringInc r obj => ringAdd d r obj
  | .preempt _ _ => d
  | .complete ctx q idx x => endDesc d ctx q idx x
  | .trigInc i => trigArrive d i
  | _ => d

/-- DESCRIPTOR_FLIT. -/
def execDescriptorFlit (dir : Dir) (s : State) : Host.Outcome State Fault Refusal :=
  runDev true s fun d => acceptIf d dir isDescriptor descriptorArrive

/-! ### The timebase (R19) -/

/-- The timebase descriptor of a count: loaded when the fixed latency has passed since it was sent (R19, R174). -/
def timebaseArrive (d : Dev) (p : Payload) : Dev :=
  match p with
  | .timebase n => { d with time := { d.time with replica := n + d.haul.roadLatency + (d.time.ticks - (n + d.haul.roadLatency)) } }
  | _ => d

/-- Whether the latency of a timebase descriptor has passed. -/
def timebaseDue (d : Dev) (p : Payload) : Bool :=
  match p with
  | .timebase n => n + d.haul.roadLatency ≤ d.time.ticks
  | _ => false

/-- The time unit's count sent in a timebase descriptor (R19). -/
def sendTimebase (d : Dev) : Dev := enqueue d .st true (.timebase d.time.ticks)

/-- TIMEBASE_DESCRIPTOR. -/
def execTimebaseDescriptor (s : State) : Host.Outcome State Fault Refusal :=
  runDev true s fun d => acceptIf d .st (timebaseDue d) timebaseArrive

/-! ### Acknowledgement, replay and retrain -/

/-- LINK_FLIT: it carries the sequence number expected next, which frees the replay buffer of the other direction up to a
refused flit (R169, R171). -/
def linkFlit (d : Dev) (dir : Dir) : Dev :=
  if !roadRuns d then d
  else
    let y := roadOf d (otherDir dir)
    setRoad d (otherDir dir) { y with replay := match y.refused with
      | some n => y.replay.filter fun e => e.1 == n
      | none => [] }

/-- LINK_FLIT. -/
def execLinkFlit (dir : Dir) (s : State) : Host.Outcome State Fault Refusal := runDev true s fun d => linkFlit d dir

/-- The next flit of a direction fails its CRC: it is discarded and refused; a second failure starts a retrain (R172). -/
def flitError (d : Dev) (dir : Dir) : Dev :=
  let x := roadOf d dir
  match nextFlit x with
  | none => d
  | some f =>
    if !roadRuns d then d
    else
      match x.refused with
      | none => setRoad d dir { sendFlit d dir f with refused := some x.seq, failed := true }
      | some _ => setRoad d dir { x with failed := false, retrain := true }

/-- FLIT_CRC_ERROR. -/
def execFlitCrcError (dir : Dir) (s : State) : Host.Outcome State Fault Refusal := runDev true s fun d => flitError d dir

/-- Lanes of half `h` of direction `k` (0 signal to tensor, 1 back) in the lane registers (R173, R177). -/
def halfLanes (k h : Nat) : List Nat := (List.range 16).map fun i => 32 * k + 16 * h + i

/-- Whether a half has a worked-out lane. -/
def halfGone (d : Dev) (k h : Nat) : Bool := (halfLanes k h).any fun l => (lget ⟨0, 1⟩ d.haul.lanes l).st == 3

/-- A lane worked out. -/
def laneOut (d : Dev) (l : Nat) : Dev :=
  if (lget ⟨0, 1⟩ d.haul.lanes l).st = 3 then d
  else postWorkedOut { d with haul := { d.haul with lanes := lmod d.haul.lanes l fun g => genTo g 3 } } 0x5411 (l + 1)

/-- A lane that fails the pattern is worked out with the rest of its half (R173). -/
def halfOut (d : Dev) (l : Nat) : Dev := (halfLanes (l / 32) (l % 32 / 16)).foldl laneOut d

/-- The lane count that remains: 32, 16, or none where a direction has lost both halves (R173). -/
def lanesLeft (d : Dev) : Nat :=
  if (halfGone d 0 0 && halfGone d 0 1) || (halfGone d 1 0 && halfGone d 1 1) then 0
  else if halfGone d 0 0 || halfGone d 0 1 || halfGone d 1 0 || halfGone d 1 1 then 16
  else 32

/-- Whether an operation's data crosses the haul road. -/
def opCrosses (d : Dev) (o : Op) : Bool :=
  o.kind == .haul && hOpcode o.desc == 0x40 &&
    (sideCrosses d (mvFrom o.desc) || sideCrosses d (mvTo o.desc) || mvRemote o.desc)

/-- A transfer that crossed a worked-out road ends: what it had not delivered to a tensor is spoil (R59, R176). -/
def endCrossing (d : Dev) (e : Nat × Op) : Dev :=
  let n := moveTotal d e.2
  let lo := e.2.landed
  let d := match sideTensor d e.2.ctx (mvTo e.2.desc) with
    | some t => boxWrite d e.2.ctx t none (mvBox e.2.desc true) lo (List.replicate (n - lo) (0, true))
    | none => d
  setOp d e.1 { e.2 with phase := .done, needs := [], left := [], parked := false }

/-- System-ring slots that their consumer has given back are EMPTY; the rest wait to be refused or lost (R176, R421). -/
def sysCut (d : Dev) : Dev :=
  let cut (d : Dev) (r : Bool × Bool) : Dev := setSysRing d r.1 r.2 (sysOpen d r.1 r.2)
  [(false, true), (false, false), (true, true), (true, false)].foldl cut d

/-- The haul road worked out (R176). -/
def roadWorkedOut (d : Dev) : Dev :=
  let d := (d.disp.ops.filter fun e => opCrosses d e.2).foldl endCrossing d
  let d := (d.haul.rings.filter fun e => (ringDir e.2).isSome).foldl (fun d e => ringDrop d e.1) d
  let d := (ctxsWhere d fun c => c.reg.st != ctxFree).foldl (fun d c => postFault d c noCause 0x0605 0 0 0) d
  let d := setRoad (setRoad d .st roadDefault) .ts roadDefault
  revokeAll (sysCut { d with haul := { d.haul with roadLanes := 0 } })

/-- A retrain in progress ends (R173): halves with a failing lane are worked out; the link resumes and replays. -/
def retrainDone (d : Dev) (failing : List Nat) : Dev :=
  if !retraining d then d
  else
    let was := d.haul.roadLanes
    let d := failing.foldl halfOut d
    let n := lanesLeft d
    let d := { d with haul := { d.haul with retrains := satAdd 32 d.haul.retrains 1 } }
    if n = 0 then roadWorkedOut d
    else
      let d := setRoad d .st { roadOf d .st with retrain := false }
      let d := setRoad d .ts { roadOf d .ts with retrain := false }
      let d := { d with haul := { d.haul with roadLanes := n, roadLatency := if n = 32 then 48 else 50 } }
      if n = was then d else readmit (sendTimebase d) d.sc.pairs

/-- ROAD_RETRAIN_COMPLETE: lanes 0 to 31 carry signal die to tensor die, 32 to 63 back. -/
def execRoadRetrainComplete (failing : List Nat) (s : State) : Host.Outcome State Fault Refusal :=
  runDev (failing.all fun l => l < 64) s fun d => retrainDone d failing

end Sys2Proof.Machine
end

