-- ==== Sys2Proof/Machine/Time.lean ====
section
/-!
DEFINITION. Machine/Time.lean: the time unit (chapter 14): the time of day and the tick (R382 to R390), PTP (R391 to R394),
time triggers (R395 to R400), pulses and captures (R401).
-/
namespace Sys2Proof.Machine
open Sys2Proof

/-! ### Time of day -/

/-- One second in 2^−32 ns. -/
def secondUnits : Nat := 10 ^ 9 * 2 ^ 32

/-- The time record of the present tick (R387). -/
def timeRecord (d : Dev) : Bytes :=
  leBytes 8 d.time.ticks ++ leBytes 6 d.time.sec ++ leBytes 4 (d.time.nano / 2 ^ 32)
    ++ leBytes 2 (d.time.nano / 2 ^ 16 % 2 ^ 16) ++ zeros 4

/-- The slew share of tick `i` of a slew of `o` over `n` ticks (R385). -/
def slewShare (o : Int) (n i : Nat) : Int := Int.fdiv (o * (i + 1)) n - Int.fdiv (o * i) n

/-- The share due on the next tick. -/
def slewDue (t : TimeSt) : Int :=
  match t.slew with
  | some (o, n, i) => slewShare o n i
  | none => 0

/-- The slew one tick later: over after its last tick. -/
def slewNext (t : TimeSt) : Option (Int × Nat × Nat) :=
  match t.slew with
  | some (o, n, i) => if i + 1 < n then some (o, n, i + 1) else none
  | none => none

/-- The time of day of the next tick in 2^−32 ns: the setting that waits, or the increment and the slew share added; then
the step that waits (R383, R385, R386). -/
def todNext (t : TimeSt) : Int :=
  let run := match t.set with
    | some (sec, nano) => (sec * secondUnits + nano : Nat)
    | none => ((t.sec * secondUnits + t.nano + t.inc : Nat) : Int) + slewDue t
  run + t.step.getD 0 * 2 ^ 32

/-- Whether the seconds advance on the next tick. -/
def rollsOver (t : TimeSt) : Bool := t.set.isNone && ((t.sec + 1) * secondUnits : Nat) ≤ todNext t

/-- Whether a pulse of `TU_PPS` is enabled (R401). -/
def ppsOn (t : TimeSt) : Bool := leAt t.pps 0 1 == 1

/-- Ticks from a firing to its output edge (R403). -/
def outLatency : Nat := 6

/-- The formula of R389. -/
def alignedCount (sec nano : Nat) : Nat := sec * 800000000 + nano / 2 ^ 16 * 4 / (5 * 2 ^ 16)

/-- A tick of the old count in the count that an alignment loads: as far from now as it was (R389, R397, R401). -/
def moved (delta : Int) (t : Nat) : Nat := ((t : Int) + delta).toNat

/-- Pulses under way and the last edges of captures carried over to the count that an alignment loads. -/
def carryOver (t : TimeSt) (count : Nat) : TimeSt :=
  let delta := (count : Int) - (t.ticks + 1 : Nat)
  { t with pulses := t.pulses.map fun p => { p with start := moved delta p.start, till := moved delta p.till },
           caps := t.caps.map fun c => { c with last := c.last.map (moved delta) },
           sysrefSeen := t.sysrefSeen.map (moved delta) }

/-- The time unit one tick later (R383, R385, R386, R388, R389, R401). -/
def timeTick (t : TimeSt) : TimeSt :=
  let tod := todNext t
  let sec := (Int.fdiv tod secondUnits).toNat % 2 ^ 48
  let nano := (Int.fmod tod secondUnits).toNat
  let count := match t.align with
    | some 1 => alignedCount sec nano
    | _ => t.ticks + 1
  let wait := match t.align with
    | some (n + 2) => some (n + 1)
    | _ => none
  let u := if t.align = some 1 then carryOver t count else t
  let pulse := if rollsOver t && ppsOn t then [⟨2, count + outLatency, count + outLatency + leAt t.pps 4 4⟩] else []
  { u with ticks := count % 2 ^ 64, replica := (t.replica + 1) % 2 ^ 64, sec := sec, nano := nano, slew := slewNext t, set := none,
           step := none, align := wait, pulses := u.pulses ++ pulse }

/-- A WAIT at the head of a queue still short at the end of its deadline tick is marked: it will time out (R252). -/
def markWait (d : Dev) (q : Nat) : Dev :=
  match headOf d q with
  | none => d
  | some h =>
    let x := h.desc
    if hOpcode x == 0x01 && syOp x == 3 && syDeadline x != 0 && syDeadline x ≤ now d
        && (syncOf d (syObj x)).value < syValue x && (ctxOf d h.ctx).reg.st == ctxActive && !layerHolds d h.ctx q
        && waitMet d x && (firstReason (headerReason d h 0x0801) (famWait.check d h)).isNone then
      modQueue d q fun y => { y with mark := some (now d) }
    else d

/-- The device one tick later: waits past their deadline are marked, the time unit moves on, and after an alignment the
timebase descriptor is sent (R19, R389). -/
def tickDev (d : Dev) : Dev :=
  let d := (d.disp.queues.map fun e => e.1).foldl markWait d
  let aligns := d.time.align == some 1
  let d := { d with time := timeTick d.time }
  if aligns then sendTimebase d else d

/-! ### Time triggers -/

/-- `TU.TRIG`. -/
def tuTrig (x : Desc) : Nat := dfield x 24 0 6
/-- `TU.EVENT`. -/
def tuEvent (x : Desc) : Bool := dbit x 24 7
/-- `TU.OUT`. -/
def tuOut (x : Desc) : Nat := dfield x 25 0 2
/-- `TU.OBJ_EN`. -/
def tuObjEn (x : Desc) : Bool := dbit x 26 15
/-- `TU.OBJ`. -/
def tuObj (x : Desc) : Nat := dfield x 26 0 13
/-- `TU.INC`. -/
def tuInc (x : Desc) : Nat := dfield x 28 0 32
/-- `TU.FIRST`. -/
def tuFirst (x : Desc) : Nat := dfield x 32 0 64
/-- `TU.PERIOD`. -/
def tuPeriod (x : Desc) : Nat := dfield x 40 0 32
/-- `TU.REPEAT`. -/
def tuRepeat (x : Desc) : Nat := dfield x 44 0 32
/-- `TU.PULSE`. -/
def tuPulse (x : Desc) : Nat := dfield x 48 0 16

/-- F_k of a trigger (R396). -/
def firingTick (t : Trigger) : Nat := t.first + t.k * t.period

/-- Whether no firing follows the first `n` grid points. -/
def trigOver (t : Trigger) (n : Nat) : Bool := t.period == 0 || (t.repeats != 0 && t.repeats ≤ n)

/-- What a firing does on its tick besides its increment: the event, the pulse, the count (R396, R397, R402). -/
def fireMarks (d : Dev) (n k at_ : Nat) : Dev :=
  let t := trigOf d n
  let d := setTrig d n { t with firings := satAdd 32 t.firings 1 }
  let d := if t.event then
      postAt d d.time.ticks t.ctx 0x0030 ⟨t.tag, t.queue⟩ (leBytes 1 n ++ zeros 3 ++ leBytes 4 k ++ leBytes 8 at_)
    else d
  let s := d.time.ticks + outLatency
  if t.out = 0 then d
  else { d with time := { d.time with pulses := d.time.pulses ++ [⟨t.out - 1, s, s + t.pulse⟩] } }

/-- The increment of a firing sent to the dispatcher (R397). -/
def sendTrigInc (d : Dev) (n tick : Nat) : Dev :=
  let t := trigOf d n
  if t.objEn then enqueue d .st true (.trigInc ⟨n, t.obj, t.inc, t.ctx, tick⟩) else d

/-- Increments held for a tick that has come apply (R397). -/
def applyHeld (d : Dev) : Dev :=
  let due := d.time.heldIncs.filter fun i => i.tick ≤ now d
  let d := { d with time := { d.time with heldIncs := d.time.heldIncs.filter fun i => now d < i.tick } }
  due.foldl trigApply d

/-- The trigger after grid points up to the `n`-th: armed for the next one, or disarmed (R396). -/
def trigNext (t : Trigger) (n : Nat) : Trigger := { t with k := n, sent := false, armed := !trigOver t n }

/-- The firing of trigger `n` on its tick (R396, R397). -/
def fire (d : Dev) (n : Nat) : Dev :=
  let t := trigOf d n
  let d := fireMarks d n t.k (firingTick t)
  let d := if t.sent then d else sendTrigInc d n (firingTick t)
  applyHeld (setTrig d n (trigNext (trigOf d n) (t.k + 1)))

/-- Whether trigger `n` fires now. -/
def fires (d : Dev) (n : Nat) : Bool :=
  let t := trigOf d n
  t.armed && d.time.ticks == firingTick t

/-- TRIGGER_FIRING. -/
def execTriggerFiring (trig : Nat) (s : State) : Host.Outcome State Fault Refusal :=
  runDev (trig < 64) s fun d => if fires d trig then fire d trig else d

/-- TRIGGER_INCREMENT_SEND: 64 ticks before the firing, of a trigger armed by then (R397). -/
def execTriggerIncrementSend (trig : Nat) (s : State) : Host.Outcome State Fault Refusal :=
  runDev (trig < 64) s fun d =>
    let t := trigOf d trig
    if t.armed && t.objEn && !t.sent && d.time.ticks + 64 == firingTick t then
      setTrig (sendTrigInc d trig (firingTick t)) trig { t with sent := true }
    else d

/-- The first fault of a TU_ARM (R395, R398, R399, R402). -/
def tuArmReason (d : Dev) (h : Head) : Option Nat :=
  let x := h.desc
  let p := tuPeriod x
  if hStrict x || dbit x 24 6 || dfield x 25 2 6 != 0 || tuOut x == 3 || dfield x 26 13 2 != 0 || dfield x 50 0 112 != 0
      || (0 < p && p < 64) || (tuOut x != 0 && tuPulse x == 0) || (tuObjEn x && tuInc x == 0)
      || (tuObjEn x && !(syncOf d (tuObj x)).declared) then some 0x0E01
  else if (trigOf d (tuTrig x)).armed then some 0x0E02
  else reasonIf (tuFirst x < d.time.ticks && inLockstep d h.ctx) 0x0E03

/-- The trigger a TU_ARM arms. -/
def trigOfDesc (d : Dev) (h : Head) : Trigger :=
  let x := h.desc
  { armed := true, ctx := h.ctx, tag := hTag x, queue := h.q, event := tuEvent x, out := tuOut x, objEn := tuObjEn x,
    obj := tuObj x, inc := tuInc x, first := tuFirst x, period := tuPeriod x, repeats := tuRepeat x, pulse := tuPulse x,
    k := 0, firings := 0, armedAt := d.time.ticks, sent := false, faulted := false }

/-- A trigger whose first firing has passed fires once on the arming tick, then on the grid after it (R398). -/
def fireLate (d : Dev) (h : Head) : Dev :=
  let n := tuTrig h.desc
  let t := trigOf d n
  let d := postAt d d.time.ticks h.ctx 0x000D ⟨hTag h.desc, h.q⟩ (zeros 8 ++ leBytes 8 t.first)
  let d := { d with disp := { d.disp with lateLaunches := satAdd 32 d.disp.lateLaunches 1 } }
  let d := sendTrigInc (fireMarks d n 0 t.first) n d.time.ticks
  let past := if t.period = 0 then 1 else (d.time.ticks - t.first) / t.period + 1
  setTrig d n (trigNext (trigOf d n) past)

/-- TU_ARM carried out on its arming tick (R396). -/
def arm (d : Dev) (h : Head) : Dev :=
  let t := trigOfDesc d h
  let d := setTrig d (tuTrig h.desc) t
  completeHead (if t.first < d.time.ticks then fireLate d h else d) h

/-- TU_ARM. -/
def famTuArm : Family :=
  { op := 0xC0, sub := fun _ => true, invalid := 0x0E01, check := tuArmReason, ready := fun _ _ => true, run := arm }

/-- TU_ARM. -/
def execTuArm (q : Nat) (s : State) : Host.Outcome State Fault Refusal := runHead s q famTuArm

/-- Whether a flit is a trigger's increment for a firing after a tick. -/
def laterInc (n tick : Nat) (f : Flit) : Bool :=
  match f.pay with
  | .trigInc i => i.trig == n && tick < i.tick
  | _ => false

/-- A flit as it is replayed: a withdrawn increment is sent again without effect. -/
def withdrawn (n tick : Nat) (f : Flit) : Flit :=
  match f.pay with
  | .trigInc i => if laterInc n tick f then { f with pay := .trigInc { i with inc := 0 } } else f
  | _ => f

/-- Increments of trigger `n` sent ahead for firings after this tick withdrawn: those that wait, those refused at their receiver
and those held at the dispatcher (R399). -/
def withdrawIncs (d : Dev) (n : Nat) : Dev :=
  let t := d.time.ticks
  let x := roadOf d .st
  let d := setRoad d .st { x with wait := x.wait.filter fun f => !laterInc n t f,
                                  replay := x.replay.map fun e => (e.1, withdrawn n t e.2) }
  { d with time := { d.time with heldIncs := d.time.heldIncs.filter fun i => !(i.trig == n && t < i.tick) } }

/-- A trigger disarmed (R399). -/
def disarm (d : Dev) (n : Nat) : Dev :=
  let d := if fires d n then fire d n else d
  withdrawIncs (setTrig d n { trigOf d n with armed := false }) n

/-- The first fault of a TU_DISARM (R395, R399). -/
def tuDisarmReason (d : Dev) (h : Head) : Option Nat :=
  let x := h.desc
  let t := trigOf d (tuTrig x)
  if hStrict x || dfield x 24 6 2 != 0 || dfield x 25 0 312 != 0 then some 0x0E01
  else reasonIf (t.armed && t.ctx != h.ctx) 0x0E02

/-- TU_DISARM. -/
def famTuDisarm : Family :=
  { op := 0xC1, sub := fun _ => true, invalid := 0x0E01, check := tuDisarmReason, ready := fun _ _ => true,
    run := fun d h => completeHead (disarm d (tuTrig h.desc)) h }

/-- TU_DISARM. -/
def execTuDisarm (q : Nat) (s : State) : Host.Outcome State Fault Refusal := runHead s q famTuDisarm

/-! ### Pulses and captures -/

/-- The level of an output: pulses on one ball combine by OR (R397). -/
def outLevel (d : Dev) (out : Nat) : Bool :=
  d.time.pulses.any fun p => p.out == out && p.start ≤ d.time.ticks && d.time.ticks < p.till

/-- PULSE_END: the pulses of an output whose width has passed end (R397, R401). -/
def execPulseEnd (out : Nat) (s : State) : Host.Outcome State Fault Refusal :=
  onDev (out < 3) s fun d =>
    { d with time := { d.time with pulses := d.time.pulses.filter fun p => !(p.out == out && p.till ≤ d.time.ticks) } }

/-- An edge on a capture ball: counted, and recorded unless it follows the last recorded one by fewer than four ticks
(R401). -/
def captureEdge (d : Dev) (c : Capture) : Capture :=
  let close : Bool := match c.last with
    | some t => d.time.ticks < t + 4
    | none => false
  { c with edges := satAdd 32 c.edges 1, rcd := if close then c.rcd else timeRecord d,
           last := if close then c.last else some d.time.ticks }

/-- CAPTURE_EDGE. -/
def execCaptureEdge (cap : Nat) (s : State) : Host.Outcome State Fault Refusal :=
  onDev (cap < 2) s fun d =>
    if d.boot.phase ≠ .up then d
    else { d with time := { d.time with caps := lmod d.time.caps cap (captureEdge d) } }

/-! ### PTP (R391 to R394) -/

/-- The raw timestamp of this tick in 2^−16 ns (R393). -/
def rawStamp (d : Dev) : Int := ((d.time.sec * (10 ^ 9 * 2 ^ 16) + d.time.nano / 2 ^ 16 : Nat) : Int)

/-- The time that a message carries, in 2^−16 ns. -/
def msgTime (m : PtpMsg) : Int := ((m.tsSec * 10 ^ 9 + m.tsNs : Nat) : Int) * 2 ^ 16

/-- The clock domain of the instance: 0 under 802.1AS (R391). -/
def ptpDomain (p : PtpSt) : Nat := if p.profile = 3 then 0 else p.domain

/-- A value in 2^−16 ns brought to 2^−8 ns; which way a remainder rounds is a free value. -/
def toUnits8 (free : BitVec 64) (x : Int) : Int :=
  Int.fdiv x 256 + (if Int.fmod x 256 = 0 then 0 else (free.toNat % 2 : Nat))

/-- What a received Sync or Follow_Up measures is written: the offset from master and the mean path delay, and counted; a
negative mean path delay, for which the spec states no result, is free (R392). -/
def ptpUpdate (d : Dev) (off mean : Int) : Dev :=
  let (f, d) := takeFree d
  let (g, d) := takeFree d
  let p := d.time.ptp
  let v := if mean < 0 then g.toNat % 2 ^ 32 else min (toUnits8 g mean).toNat (2 ^ 32 - 1)
  { d with time := { d.time with ptp := { p with
      mean := mean, offset := satInt 32 (toUnits8 f off), meanDelay := v, updates := satAdd 32 p.updates 1 } } }

/-- The measurement from a Sync's times, t1, t2 and its correction: end to end the mean path delay is half of the way down and
the last way up, between peers it is that of the last peer-delay exchange (R392). -/
def ptpMeasure (d : Dev) (t1 t2 corr : Int) : Dev :=
  let p := d.time.ptp
  let down := t2 - t1 - corr
  let mean := match p.uplink with
    | some up => if p.profile = 1 then Int.fdiv (down + up) 2 else p.mean
    | none => p.mean
  ptpUpdate { d with time := { d.time with ptp := { p with syncT2 := none } } } (down - mean) mean

/-- The mean path delay of a peer-delay exchange, from twice its value. -/
def ptpPeerMean (d : Dev) (mean2 : Int) : Dev :=
  { d with time := { d.time with ptp := { d.time.ptp with mean := Int.fdiv mean2 2 } } }

/-! #### The best master clock algorithm (R391; IEEE 1588-2019). PRESUMED: assumption log 126 -/

/-- The data set of the device's own clock: its priorities from `PTP_PRIORITY`, and the default class, accuracy, variance and
identity of IEEE 1588. -/
def ownClock (d : Dev) : PtpAnn :=
  let mac := (portOf d d.time.ptp.port).mac
  let id := mac / 2 ^ 24 * 2 ^ 40 + 0xFFFE * 2 ^ 24 + mac % 2 ^ 24
  { prio1 := d.time.ptp.priority / 256 % 256, cls := 248, accuracy := 0xFE, variance := 0xFFFF, prio2 := d.time.ptp.priority % 256,
    identity := id, steps := 0, sender := id }

/-- Whether the first list comes before the second one, place by place. -/
def lexLess : List Nat → List Nat → Bool
  | a :: s, b :: t => a < b || (a == b && lexLess s t)
  | _, _ => false

/-- Whether data set `a` is better than `b`: the grandmasters compared, or, of one grandmaster, the way to it. -/
def betterClock (a b : PtpAnn) : Bool :=
  if a.identity = b.identity then lexLess [a.steps, a.sender] [b.steps, b.sender]
  else lexLess [a.prio1, a.cls, a.accuracy, a.variance, a.prio2, a.identity] [b.prio1, b.cls, b.accuracy, b.variance, b.prio2, b.identity]

/-- Ticks after which a master that has not announced itself is forgotten: three Announce intervals of two seconds. -/
def announceTimeout : Nat := 3 * 2 * 800000000

/-- The best master heard of that still announces itself. -/
def liveMaster (d : Dev) : Option PtpAnn :=
  if d.time.ticks < d.time.ptp.heard + announceTimeout then d.time.ptp.best else none

/-- Whether the instance acts as master: master-capable, with no better clock heard of. -/
def ptpMaster (d : Dev) : Bool :=
  d.time.ptp.role == 1 &&
    match liveMaster d with
    | some a => betterClock (ownClock d) a
    | none => true

/-- An Announce heard: it renews the master it names, or replaces a worse one. -/
def ptpAnnounce (d : Dev) (a : PtpAnn) : Dev :=
  let p := d.time.ptp
  let keep := match liveMaster d with
    | some b => b.sender != a.sender && !betterClock a b
    | none => false
  if keep then d else { d with time := { d.time with ptp := { p with best := some a, heard := d.time.ticks } } }

/-! #### Messages -/

/-- A received message (IEEE 1588-2019 names): Sync and Follow_Up are measured; an answer to a request gives the path delay; a
request is kept to be answered; an Announce takes part in the choice of the master (R391 to R393). -/
def ptpReceive (d : Dev) (m : PtpMsg) : Dev :=
  let p := d.time.ptp
  let t := rawStamp d - (lget 0 d.time.rxLat m.eth.port : Nat)
  let asym := lget 0 d.time.asym m.eth.port
  let put (p : PtpSt) : Dev := { d with time := { d.time with ptp := p } }
  match m.kind with
  | .sync =>
    if m.twoStep then put { p with syncSeq := m.seqId, syncT2 := some t, syncCorr := m.corr + asym }
    else ptpMeasure d (msgTime m) t (m.corr + asym)
  | .followUp =>
    match p.syncT2 with
    | some t2 => if m.seqId = p.syncSeq then ptpMeasure d (msgTime m) t2 (p.syncCorr + m.corr) else d
    | none => d
  | .delayResp =>
    match p.reqT with
    | some t3 => if p.profile = 1 && m.seqId = p.reqSeq then put { p with uplink := some (msgTime m - m.corr - t3) } else d
    | none => d
  | .pdelayResp =>
    match p.reqT with
    | some t1 =>
      if p.profile = 1 || m.seqId ≠ p.reqSeq then d
      else if m.twoStep then put { p with peerGap := some (t - t1 + msgTime m - m.corr - asym) }
      else ptpPeerMean d (t - t1 - m.corr - asym)
    | none => d
  | .pdelayRespFollowUp =>
    match p.peerGap with
    | some g => if p.profile = 1 || m.seqId ≠ p.reqSeq then d else ptpPeerMean d (g - msgTime m - m.corr)
    | none => d
  | .delayReq =>
    if p.profile = 1 && ptpMaster d then put { p with answer := p.answer ++ [(.delayResp, m.seqId, t, m.corr)] } else d
  | .pdelayReq => if p.profile = 1 then d else put { p with answer := p.answer ++ [(.pdelayResp, m.seqId, t, m.corr)] }
  | .announce => ptpAnnounce d m.ann

/-- Whether the protocol engine runs on a port that is READY. -/
def ptpRuns (d : Dev) : Bool :=
  d.boot.phase == .up && d.time.ptp.profile != 0 && (lget portDefault d.net.ports d.time.ptp.port).reg.st == 1

/-- Whether a message is for the instance: on its port, in its domain. -/
def ptpMine (d : Dev) (m : PtpMsg) : Bool :=
  ptpRuns d && m.eth.port == d.time.ptp.port && m.domain == ptpDomain d.time.ptp

/-- PTP_MESSAGE_RECEIVED: a frame of its port like any other (R503, R504), and a message for the engine. -/
def execPtpMessageReceived (m : PtpMsg) (s : State) : Host.Outcome State Fault Refusal :=
  onDev (ethOk m.eth) s fun d =>
    let r := receive d m.eth true
    if r.1 && ptpMine r.2 m then ptpReceive r.2 m else r.2

/-- The frame of a message: to the group address of its kind and transport, from the port's addresses. The addresses and UDP
ports are those of IEEE 1588-2019 (PRESUMED: assumption log 126); PCP and DSCP, which the spec does not give, are free. -/
def ptpFrame (d : Dev) (k : PtpKind) : EthMeta :=
  let p := d.time.ptp
  let x := portOf d p.port
  let peer := p.profile = 3 || k = .pdelayReq || k = .pdelayResp || k = .pdelayRespFollowUp
  let r := (Config.freeBits d.free).toNat
  let ip := match p.transport with
    | 1 => if peer then 0xE000006B else 0xE0000181
    | 2 => if peer then 0xFF02 * 2 ^ 112 + 0x6B else 0xFF0E * 2 ^ 112 + 0x181
    | _ => 0
  let mac := match p.transport with
    | 1 => 0x01005E000000 + ip % 2 ^ 23
    | 2 => 0x333300000000 + ip % 2 ^ 32
    | _ => if peer then 0x0180C200000E else 0x011B19000000
  let udp := if p.transport = 0 then 0
    else if k = .sync || k = .delayReq || k = .pdelayReq || k = .pdelayResp then 319 else 320
  { port := p.port, srcMac := x.mac, dstMac := mac, vlan := leAt x.cfg 2 2 % 4096, pcp := r % 8, dei := false,
    ipVer := match p.transport with | 1 => 4 | 2 => 6 | _ => 0,
    srcIp := if p.transport = 0 then 0 else beAt x.cfg 16 16, dstIp := ip, dscp := r / 8 % 64, srcUdp := udp, dstUdp := udp, size := 0,
    rtag := none }

/-- A message sent with a time and a correction in 2^−16 ns: the time's whole nanoseconds go into its timestamp, the sub-nanosecond
remainder is added to correctionField, or, of a time received, taken from it (R394). -/
def ptpSend (d : Dev) (k : PtpKind) (seqId : Nat) (two : Bool) (time corr : Int) : Dev :=
  let ns := (Int.fdiv time 65536).toNat
  let rest := Int.fmod time 65536
  let received := k = .delayResp || k = .pdelayResp
  let m : PtpSent :=
    { kind := k, seqId := seqId, transport := d.time.ptp.transport, twoStep := two, sec := ns / 10 ^ 9, ns := ns % 10 ^ 9,
      corr := if received then corr - rest else corr + rest,
      zeroSum := d.time.ptp.transport == 1 && k == .sync && !two,
      ann := if k = .announce then some (ownClock d) else none }
  let f := ptpFrame d k
  emitFrame { d with free := d.free + 1 } f (.ptp m)

/-- A waiting answer sent: a peer's request gets its response and then a Follow_Up with the time the response left. -/
def ptpAnswer (d : Dev) (k : PtpKind) : Dev :=
  match d.time.ptp.answer.find? fun a => a.1 == k with
  | none => d
  | some (_, n, t, c) =>
    let rest := d.time.ptp.answer.erase (k, n, t, c)
    let peer := k = .pdelayResp
    let follow := if peer then
        [(PtpKind.pdelayRespFollowUp, n, rawStamp d + (lget 0 d.time.txLat d.time.ptp.port : Nat), c)] else []
    let d := ptpSend d k n peer t (if peer then 0 else c)
    { d with time := { d.time with ptp := { d.time.ptp with answer := rest ++ follow } } }

/-- The protocol engine sends a message of a kind its instance sends: as master a Sync with its compensated time inserted in one
step (R394) or followed up, and an Announce; a request of its delay mechanism, its correction less the port's asymmetry as
IEEE 1588 corrects it on the way out (R393); an answer that waits (R391). -/
def ptpTransmit (d : Dev) (k : PtpKind) : Dev :=
  let p := d.time.ptp
  let t := rawStamp d + (lget 0 d.time.txLat p.port : Nat)
  let asym := lget 0 d.time.asym p.port
  let n := p.txSeq
  let next (d : Dev) : Dev := { d with time := { d.time with ptp := { d.time.ptp with txSeq := (n + 1) % 65536 } } }
  let request (d : Dev) : Dev := next { d with time := { d.time with ptp := { d.time.ptp with reqSeq := n, reqT := some t } } }
  match k with
  | .sync =>
    if !ptpMaster d then d
    else if p.oneStep then next (ptpSend d .sync n false t 0)
    else
      let d := ptpSend d .sync n true 0 0
      let wait := d.time.ptp.answer ++ [(.followUp, n, t, 0)]
      { d with time := { d.time with ptp := { d.time.ptp with syncAt := some n, answer := wait } } }
  | .followUp =>
    if p.syncAt.isNone then d
    else
      let d := next (ptpAnswer d .followUp)
      { d with time := { d.time with ptp := { d.time.ptp with syncAt := none } } }
  | .delayReq => if p.profile = 1 then request (ptpSend d .delayReq n false 0 (-asym)) else d
  | .pdelayReq => if p.profile = 1 then d else request (ptpSend d .pdelayReq n false 0 (-asym))
  | .announce => if ptpMaster d then next (ptpSend d .announce n false 0 0) else d
  | k => ptpAnswer d k

/-- PTP_MESSAGE_TRANSMIT. -/
def execPtpMessageTransmit (k : PtpKind) (s : State) : Host.Outcome State Fault Refusal :=
  onDev true s fun d => if ptpRuns d then ptpTransmit d k else d

end Sys2Proof.Machine
end

