-- ==== Sys2Proof/Machine/Boot.lean ====
section
/-!
DEFINITION. Machine/Boot.lean: full reset and start-up (R497, R498), boot verification and the configuration record (R447 to
R455), the identity keys and attestation (R456, R457), secrets and the test port (R459, R496).
-/
namespace Sys2Proof.Machine
open Sys2Proof

/-! ### The configuration record (R454, R455) -/

/-- Whether a port's configuration keeps its ranges (R428, R405). -/
def netCfgOk (p : Nat) (b : Bytes) : Bool :=
  b.length == 40 && leAt b 0 1 ≤ (if p = 4 then 0 else 2) && leAt b 1 1 == 0 && leAt b 2 2 < 4096 && leAt b 4 1 < 8
    && leAt b 5 1 < 8 && 1500 ≤ leAt b 6 2 && leAt b 6 2 ≤ 9000 && leAt b 8 1 < 2 && leAt b 9 7 == 0
    && (leAt b 33 1 == 4 || leAt b 33 1 == 6) && leAt b 32 1 ≤ 128 && leAt b 34 6 == 0

/-- The part numbers with their bench counts and maximum powers in W (R1). -/
def grades : List (Bytes × Nat × Nat) :=
  [(ascii "KV-8816-B16", 16, 225), (ascii "KV-8816-B12", 12, 170), (ascii "KV-8816-B08", 8, 130), (ascii "KV-8816-B04", 4, 90)]

/-- The part number of a record, without its padding. -/
def recPart (r : Bytes) : Bytes := (slice r 96 16).takeWhile fun b => b != 0
/-- The grade of a record. -/
def recGrade (r : Bytes) : Option (Bytes × Nat × Nat) :=
  grades.find? fun g => slice r 96 16 == g.1 ++ zeros (16 - g.1.length)

/-- Whether a logical map is one-to-one onto the enabled benches, and 0xFF beyond the logical bench count (R455). -/
def mapOk (r : Bytes) : Bool :=
  let n := leAt r 112 1
  let hosts := (List.range n).map fun i => leAt r (120 + i) 1
  hosts.all (fun h => h < 16 && bitAt (leAt r 114 2) h) && hosts.eraseDups.length == n
    && (List.range 16).all fun i => i < n || leAt r (120 + i) 1 == 0xFF

/-- The consistency of a record (R455). -/
def recordOk (r : Bytes) : Bool :=
  match recGrade r with
  | none => false
  | some g =>
    leAt r 112 1 == g.2.1 && countBelow 16 (bitAt (leAt r 114 2)) == g.2.1 && mapOk r
      && 1 ≤ leAt r 113 1 && leAt r 113 1 ≤ 3 && [10667, 9600, 8533].contains (leAt r 116 2) && leAt r 118 1 < 2
      && leAt r 119 1 == 0 && leAt r 142 2 == 0 && (List.range 5).all (fun p => netCfgOk p (slice r (192 + 40 * p) 40))
      && leAt r 392 120 == 0

/-- The grade's maximum package power (R1, R465). -/
def maxPower (d : Dev) : Nat := ((recGrade d.boot.body).map fun g => g.2.2).getD 0

/-- `SCAN_ALLOW` (R454). -/
def scanAllow (d : Dev) : Bool := d.boot.phase != .held && d.boot.phase != .halted && bitAt (leAt d.boot.body 118 1) 0

/-! ### Boot verification (R448 to R452) -/

/-- Whether an image header is good for a kind and a body length (R448). -/
def headerOk (h : Bytes) (kind : Nat) (len : Nat → Bool) : Bool :=
  h.length == 256 && leAt h 0 4 == 0x4B56494D && leAt h 4 2 == 1 && leAt h 6 1 == kind && len (leAt h 8 4) && leAt h 16 240 == 0

/-- The checks of one slot (R452, steps 2 to 4): the first failure's code. -/
def slotCheck (deviceId : Bytes) (s : SlotImage) : Option Nat :=
  if !headerOk s.fwHeader 1 (fun n => 4 ≤ n && n ≤ 2097152 && n % 4 == 0) then some 2
  else if 1 < leAt s.fwHeader 7 1 || !s.fwKeys then some 3
  else if !s.fwRsa then some 4
  else if !s.fwSlh then some 5
  else if !headerOk s.recHeader 2 (fun n => n == 512) then some 2
  else if 1 < leAt s.recHeader 7 1 || !s.recKeys then some 3
  else if !s.recRsa then some 4
  else if !s.recSlh then some 5
  else if slice s.recBody 0 48 != deviceId then some 6
  else if s.recBody.length ≠ 512 || !recordOk s.recBody then some 7
  else none

/-- The boot halted with a failure code (R452). -/
def haltBoot (d : Dev) (code step : Nat) : Dev :=
  { d with boot := { d.boot with phase := .halted, failCode := code, step := step } }

/-- A channel worked out in training (R194); a PHY pair with both channels worked out is worked out (R461). -/
def trainFail (d : Dev) (c : Nat) : Dev :=
  if (chanReg d c).st = 3 then d
  else
    let d := { d with mem := { d.mem with chans := lset d.mem.chans c ⟨0, 3⟩ } }
    let q := c / 2
    if (chanReg d (2 * q)).st = 3 && (chanReg d (2 * q + 1)).st = 3 then
      { d with pwr := { d.pwr with domains := lmod d.pwr.domains (2 + q) fun g => genTo g 3 } }
    else d

/-- LPDDR6 training: channels that failed twice are worked out; one to seven of them set `TRAINED_PARTIAL`, all eight put the
memory system out (R194, R453). It does not run while the haul road is worked out (R498). -/
def train (d : Dev) (fails : List Nat) : Dev :=
  if roadDown d then d
  else
    let d := fails.foldl trainFail d
    let n := countBelow 8 fun c => (chanReg d c).st == 3
    let d := { d with boot := { d.boot with step := 6, trainedPartial := 0 < n && n < 8 } }
    if n = 8 then memDown d else d

/-- The haul road trained at start-up, and the count sent in a timebase descriptor (R19, R173, R498). -/
def trainRoad (d : Dev) (fails : List Nat) : Dev :=
  let d := fails.foldl halfOut d
  let n := lanesLeft d
  sendTimebase { d with haul := { d.haul with roadLanes := n, roadLatency := if n = 32 then 48 else 50 } }

/-- The record's values in their entries (R454, R428, R465). -/
def loadRecord (d : Dev) (s : SlotImage) (locks : List Nat) : Dev :=
  let r := s.recBody
  let port (p : Nat) : PortSt :=
    { portDefault with cfg := slice r (192 + 40 * p) 40, mac := leAt r 136 6 + p, lock := locks.contains p,
                       reg := if locks.contains p then ⟨0, 1⟩ else ⟨1, 2⟩ }
  let bench (n : Nat) : GenSt := if bitAt (leAt r 114 2) n then ⟨0, 1⟩ else ⟨0, 4⟩
  let power := ((recGrade r).map fun g => g.2.2).getD 0
  { d with
    boot := { d.boot with lbenches := leAt r 112 1, part := recPart r, body := r, rcd := s.recHeader ++ r ++ s.recSig,
                          fwMeasure := s.fwDigest, sigs := 15 },
    comp := { d.comp with bench := (List.range 16).map bench, map := (List.range 16).map fun i => leAt r (120 + i) 1 },
    mem := { d.mem with chanPages := 65536 * 2 ^ (leAt r 113 1 - 1), rate := leAt r 116 2 },
    pwr := { d.pwr with envelope := overlay d.pwr.envelope 12 (leBytes 2 power) },
    net := { d.net with ports := (List.range 5).map port } }

/-- Start-up from PLL lock: the haul road and boot step 1 in parallel, boot steps 2 to 4 in slot A and, where it fails, slot B,
the dictionary served, LPDDR6 trained (R452, R498). -/
def startUp (d : Dev) (b : Boot) : Dev :=
  let d := trainRoad { d with boot := { d.boot with pllLocked := true } } b.laneFail
  if !b.puf then haltBoot d 1 0
  else
    let go (d : Dev) (s : SlotImage) : Dev :=
      let d := loadRecord d s b.portLock
      train { d with boot := { d.boot with phase := .up, step := 5 } } b.chanFail
    match slotCheck b.deviceId b.slotA with
    | none => go d b.slotA
    | some c =>
      let d := { d with boot := { d.boot with fallback := true, failCode := c } }
      match slotCheck b.deviceId b.slotB with
      | none => go { d with boot := { d.boot with slotB := true } } b.slotB
      | some c => haltBoot d c 1

/-! ### Reset (R497, R490) -/

/-- A full reset: every entry at its default, reset held; only the model's count of free values goes on. -/
def fullReset (s : State) (keepPll : Bool) : State :=
  let boot := { BootSt.reset with
    pllLocked := keepPll && s.dev.boot.pllLocked, testHeld := keepPll && s.dev.boot.testHeld }
  { s with trust := Trust.reset, dev := { Dev.reset with free := s.dev.free, boot } }

/-- PORST_ASSERT. -/
def execPorstAssert (s : State) : Host.Outcome State Fault Refusal := .next (fullReset s false)
/-- RESET_ASSERT: the PLL stays locked. -/
def execResetAssert (s : State) : Host.Outcome State Fault Refusal := .next (fullReset s true)
/-- PWR_GOOD_LOW acts as PORST_N low (R490). -/
def execPwrGoodLow (s : State) : Host.Outcome State Fault Refusal := .next (fullReset s false)
/-- PLL_LOCK_LOSS while the device runs: a full reset as by PORST_N. -/
def execPllLockLoss (s : State) : Host.Outcome State Fault Refusal :=
  .next (if s.dev.boot.pllLocked then fullReset s false else s)

/-- The rise of PORST_N: start-up from PLL lock, but with TEST_MODE high the device does not leave reset until PORST_N falls
and rises again (R493, R498). -/
def porstRise (d : Dev) (b : Boot) : Dev :=
  if d.boot.phase ≠ .held || d.boot.pllLocked || d.boot.testHeld then d
  else if b.testMode then { d with boot := { d.boot with testHeld := true } }
  else startUp d b

/-- PORST_RELEASE. -/
def execPorstRelease (b : Boot) (s : State) : Host.Outcome State Fault Refusal :=
  onDev (bootOk b) s fun d => porstRise d b

/-- RESET_RELEASE: start-up resumes at boot step 1 with the PLL locked (R497). -/
def execResetRelease (b : Boot) (s : State) : Host.Outcome State Fault Refusal :=
  onDev (bootOk b) s fun d => if d.boot.phase = .held && d.boot.pllLocked then startUp d b else d

/-! ### Identity and attestation (R456, R457) -/

/-- `BOOT_STATUS` (R453). -/
def bootStatus (s : State) : Nat :=
  let b := s.dev.boot
  let bit (k : Nat) (x : Bool) : Nat := if x then 2 ^ k else 0
  b.failCode * 65536 + b.step * 4096 + bit 9 s.trust.idMismatch + bit 8 b.slotB + bit 7 b.fallback + bit 6 b.trainedPartial
    + bit 5 s.trust.attestReady + bit 4 b.tripped + b.sigs

/-- The boot-status balls: `BOOT_STAT` and `BOOT_DONE` (R495). -/
def bootBalls (d : Dev) : Nat × Bool :=
  match d.boot.phase with
  | .held => (0, false)
  | .halted => (0x80 + d.boot.failCode, false)
  | .tripped => (0xFF, false)
  | .up => if d.boot.step = 6 then (0, true) else (d.boot.step, false)

/-- RSA_IDENTITY_DERIVED: attestation is available when the key matches the record; with the seed overwritten no key is derived
(R456, R459). -/
def rsaDerived (s : State) (ok : Bool) : State :=
  let served := s.dev.boot.phase = .up || s.dev.boot.phase = .tripped
  if !served || s.trust.attestReady || s.trust.idMismatch || s.trust.secretsZeroed then s
  else { s with trust := if ok then { s.trust with attestReady := true } else { s.trust with idMismatch := true } }

/-- RSA_IDENTITY_DERIVED. -/
def execRsaIdentityDerived (matchesRecord : Bool) (s : State) : Host.Outcome State Fault Refusal :=
  .next (rsaDerived s matchesRecord)

/-- `BENCH_MASK` (R22): enabled and not worked out. -/
def benchMask (d : Dev) : Nat :=
  (List.range 16).foldl (fun m n => if (benchReg d n).st ≠ 3 && (benchReg d n).st ≠ 4 then m ||| 2 ^ n else m) 0

/-- Bytes 0 to 255 of an attestation report (R457). -/
def reportHead (s : State) (nonce : Bytes) : Bytes :=
  leBytes 4 1 ++ leBytes 4 (bootStatus s) ++ slice s.dev.boot.body 0 48 ++ nonce ++ slice s.dev.boot.fwMeasure 0 48
    ++ sha384 (s.dev.boot.rcd.take 768) ++ timeRecord s.dev ++ leBytes 2 Config.siliconStep ++ leBytes 2 (benchMask s.dev)
    ++ zeros 44

/-- A report signed: its 8,660-byte signature block holds the identity keys and both signatures, which nothing outside the part
can know. -/
def reportReady (s : State) : State :=
  match s.trust.signing with
  | none => s
  | some h =>
    let sig := (List.range 8660).map fun i => Config.freeByte s.dev.free i
    { s with trust := { s.trust with signing := none, report := h ++ sig }, dev := { s.dev with free := s.dev.free + 1 } }

/-- ATTEST_REPORT_READY. -/
def execAttestReportReady (s : State) : Host.Outcome State Fault Refusal := .next (reportReady s)

/-! ### Secrets and the test port (R459, R496) -/

/-- Every secret overwritten: attestation stays unavailable until the next full reset, and a report in progress is lost. -/
def zeroise (t : Trust) : Trust := { t with secretsZeroed := true, attestReady := false, signing := none }

/-- Instructions of the test port: 0 BYPASS, 1 IDCODE, 2 boundary scan. -/
def selectInstr (s : State) (i data : Nat) : State := { s with trust := { s.trust with scanInstr := i, scanData := data } }

/-- IDCODE: 0x0881_64F3 plus the major silicon step in bits [31:28] (R496). -/
def idcode : Nat := 0x088164F3 + Config.siliconStep / 256 * 2 ^ 28

/-- IDCODE. -/
def execIdcode (s : State) : Host.Outcome State Fault Refusal := .next (selectInstr s 1 idcode)
/-- BYPASS. -/
def execBypass (s : State) : Host.Outcome State Fault Refusal := .next (selectInstr s 0 0)

/-- BOUNDARY_SCAN: with `SCAN_ALLOW` the secrets are zeroed first; otherwise BYPASS. -/
def execBoundaryScan (s : State) : Host.Outcome State Fault Refusal :=
  .next (if scanAllow s.dev then selectInstr { s with trust := { zeroise s.trust with scanEnabled := true } } 2 0
    else selectInstr s 0 0)

end Sys2Proof.Machine
end

