-- ==== Sys2Proof/Machine/Codes.lean ====
section
/-!
DEFINITION. Machine/Codes.lean: convolutional codes (R364 to R368) and the long-range frame (R352 to R357): functions of bits
and numbers alone.
-/
namespace Sys2Proof.Machine
open Sys2Proof

/-! ### Code entries -/

/-- `K`. -/
def cdK (c : Bytes) : Nat := leAt c 0 1
/-- `NOUT`. -/
def cdN (c : Bytes) : Nat := leAt c 1 1
/-- `PERIOD`. -/
def cdP (c : Bytes) : Nat := leAt c 2 1
/-- Generator `g`. -/
def cdG (c : Bytes) (g : Nat) : Nat := leAt c (4 + 2 * g) 2
/-- Puncturing mask `g`. -/
def cdMask (c : Bytes) (g : Nat) : Nat := leAt c (12 + 2 * g) 2

/-- Whether an image is a code entry that may be written (R364). -/
def codeOk (c : Bytes) : Bool :=
  c.length == 20 && 3 ≤ cdK c && cdK c ≤ 9 && 2 ≤ cdN c && cdN c ≤ 4 && 1 ≤ cdP c && cdP c ≤ 16 && leAt c 3 1 == 0
    && (List.range 4).all (fun g =>
      if g < cdN c then bitAt (cdG c g) (cdK c - 1) && cdG c g < 2 ^ cdK c else cdG c g == 0 && cdMask c g == 0)
    && (List.range (cdP c)).all fun p => (List.range (cdN c)).any fun g => bitAt (cdMask c g) p

/-- The parity of the low 16 bits of a number. -/
def parity (x : Nat) : Bool := (List.range 16).foldl (fun a k => a != bitAt x k) false

/-- The outputs of a step whose register reads `w` (R365). -/
def stepOutputs (c : Bytes) (w : Nat) : List Bool := (List.range (cdN c)).map fun g => parity (cdG c g &&& w)

/-- Which outputs step `i` sends (R364). -/
def keptAt (c : Bytes) (i : Nat) : List Bool := (List.range (cdN c)).map fun g => bitAt (cdMask c g) (i % cdP c)

/-- The entries of a list where a mask is set. -/
def pickKept {α : Type} : List Bool → List α → List α
  | true :: ks, a :: as => a :: pickKept ks as
  | false :: ks, _ :: as => pickKept ks as
  | _, _ => []

/-- The coded bits sent for info bits from step `i` and a state on (R365). -/
def encodeFrom (c : Bytes) : Nat → Nat → List Bool → List Bool
  | _, _, [] => []
  | i, s, u :: us =>
    let w := (if u then 2 ^ (cdK c - 1) else 0) + s
    pickKept (keptAt c i) (stepOutputs c w) ++ encodeFrom c (i + 1) (w / 2) us

/-- The state in which a tail-biting code begins: the last K − 1 bits, the last one most significant (R365). -/
def tailState (c : Bytes) (us : List Bool) : Nat :=
  (us.drop (us.length - (cdK c - 1))).foldl (fun s u => (s + (if u then 2 ^ (cdK c - 1) else 0)) / 2) 0

/-- The coded bits of a codeword (R365). -/
def encodeBits (c : Bytes) (tail : Bool) (us : List Bool) : List Bool :=
  if tail then encodeFrom c 0 (tailState c us) us else encodeFrom c 0 0 (us ++ List.replicate (cdK c - 1) false)

/-- Trellis steps of a codeword of `len` info bits (R365). -/
def codeSteps (c : Bytes) (tail : Bool) (len : Nat) : Nat := if tail then len else len + cdK c - 1

/-- Coded bits sent for a codeword. -/
def codedCount (c : Bytes) (tail : Bool) (len : Nat) : Nat :=
  ((List.range (codeSteps c tail len)).map fun i => ((keptAt c i).filter id).length).sum

/-- Bits packed most significant first (R368). -/
def packBits : Nat → List Bool → Bytes
  | 0, _ => []
  | n + 1, bs =>
    let b := (List.range 8).foldl (fun a k => 2 * a + (if bs.getD k false then 1 else 0)) 0
    BitVec.ofNat 8 b :: packBits n (bs.drop 8)

/-- `n` bits of packed bytes. -/
def unpackBits (bs : Bytes) (n : Nat) : List Bool :=
  (List.range n).map fun i => bitAt (bs.getD (i / 8) 0).toNat (7 - i % 8)

/-- A number from bits, the first one most significant. -/
def bitsNat (bs : List Bool) : Nat := bs.foldl (fun a b => 2 * a + (if b then 1 else 0)) 0

/-- A number as `n` bits, most significant first. -/
def natBits (n x : Nat) : List Bool := (List.range n).map fun i => bitAt x (n - 1 - i)

/-! ### Decoding (R366, R367) -/

/-- A path metric; none is −∞. -/
abbrev Metric := Option Int

/-- Sum of a metric and a number. -/
def mAdd (m : Metric) (x : Int) : Metric := m.map fun y => y + x
/-- The larger of two metrics. -/
def mMax (a b : Metric) : Metric :=
  match a, b with
  | some x, some y => some (max x y)
  | none, y => y
  | x, none => x
/-- Whether `b` is larger than `a`. -/
def mLt (a b : Metric) : Bool :=
  match a, b with
  | some x, some y => x < y
  | none, some _ => true
  | _, none => false

/-- The soft inputs of each step, 0 at punctured positions (R366). -/
def depuncture (c : Bytes) : Nat → Nat → List Int → List (List Int)
  | 0, _, _ => []
  | n + 1, i, qs =>
    let kept := keptAt c i
    let fill := kept.foldl (fun (a : List Int × List Int) k =>
      if k then (a.1 ++ [a.2.headD 0], a.2.tail) else (a.1 ++ [0], a.2)) ([], qs)
    fill.1 :: depuncture c n (i + 1) fill.2

/-- The branch metric of a register value (R366). -/
def branch (c : Bytes) (q : List Int) (w : Nat) : Int :=
  ((stepOutputs c w).zip q).foldl (fun a e => if e.1 then a + e.2 else a - e.2) 0

/-- Number of states. -/
def cdStates (c : Bytes) : Nat := 2 ^ (cdK c - 1)

/-- A list taken two by two. -/
def pairUp {α : Type} : List α → List (α × α)
  | a :: b :: t => (a, b) :: pairUp t
  | _ => []

/-- One add-compare-select step: for every state, its metric and whether the higher-numbered predecessor won; a tie goes to
the lower one (R367). -/
def acsStep (c : Bytes) (q : List Int) (ms : List Metric) : List (Metric × Bool) :=
  let ps := (pairUp ms).zipIdx
  let half (u : Nat) : List (Metric × Bool) := ps.map fun e =>
    let a := mAdd e.1.1 (branch c q (u + 2 * e.2))
    let b := mAdd e.1.2 (branch c q (u + 2 * e.2 + 1))
    if mLt a b then (b, true) else (a, false)
  half 0 ++ half (cdStates c)

/-- The forward pass: the decisions of each step, newest first, and the last metrics. -/
def acsPass (c : Bytes) (qs : List (List Int)) (ms : List Metric) : List (List Bool) × List Metric :=
  qs.foldl (fun a q =>
    let r := acsStep c q a.2
    ((r.map fun e => e.2) :: a.1, r.map fun e => e.1)) ([], ms)

/-- Traceback from a state through decisions, newest first: the bits, in order. -/
def traceback (c : Bytes) : List (List Bool) → Nat → List Bool → List Bool
  | [], _, acc => acc
  | ds :: t, s, acc =>
    let half := cdStates c / 2
    let prev := s % half * 2 + (if ds.getD s false then 1 else 0)
    traceback c t prev ((half ≤ s) :: acc)

/-- The best state, the lowest on a tie. -/
def bestState (ms : List Metric) : Nat :=
  (ms.zipIdx.foldl (fun (a : Metric × Nat) e => if mLt a.1 e.1 then e else a) (none, 0)).2

/-- Start metrics: state 0 alone, or every state at 0. -/
def startMetrics (c : Bytes) (all : Bool) : List Metric :=
  (List.range (cdStates c)).map fun s => if all || s = 0 then some 0 else none

/-- Hard decoding (R367). -/
def viterbi (c : Bytes) (tail : Bool) (len : Nat) (soft : List Int) : List Bool :=
  let qs := depuncture c (codeSteps c tail len) 0 soft
  if tail then
    let r := acsPass c (qs ++ qs ++ qs) (startMetrics c true)
    ((traceback c r.1 (bestState r.2) []).drop len).take len
  else
    let r := acsPass c qs (startMetrics c false)
    (traceback c r.1 0 []).take len

/-- One forward step of max-log metrics. -/
def alphaStep (c : Bytes) (ms : List Metric) (q : List Int) : List Metric := (acsStep c q ms).map fun e => e.1

/-- One backward step of max-log metrics. -/
def betaStep (c : Bytes) (q : List Int) (ms : List Metric) : List Metric :=
  let half := cdStates c / 2
  (List.range (cdStates c)).map fun s =>
    let into (u : Nat) : Metric := mAdd (ms.getD (u * half + s / 2) none) (branch c q (u * cdStates c + s))
    mMax (into 0) (into 1)

/-- The soft value of a step from the metrics before and after it (R367). -/
def softOut (c : Bytes) (q : List Int) (al be : List Metric) : Metric :=
  let half := cdStates c / 2
  let best (u : Nat) : Metric := (List.range (cdStates c)).foldl (fun m s =>
    match al.getD s none, be.getD (u * half + s / 2) none with
    | some a, some b => mMax m (some (a + branch c q (u * cdStates c + s) + b))
    | _, _ => m) none
  match best 1, best 0 with
  | some x, some y => some (x - y)
  | some _, none => some 32767
  | none, some _ => some (-32767)
  | none, none => none

/-- The metrics before each step and after the last, forward. -/
def alphas (c : Bytes) : List (List Int) → List Metric → List (List Metric)
  | [], ms => [ms]
  | q :: t, ms => ms :: alphas c t (alphaStep c ms q)

/-- The metrics before each step and after the last, backward. -/
def betas (c : Bytes) : List (List Int) → List Metric → List (List Metric)
  | [], ms => [ms]
  | q :: t, ms =>
    let r := betas c t ms
    betaStep c q (r.headD []) :: r

/-- Soft decoding: max-log BCJR (R367), before saturation. -/
def bcjr (c : Bytes) (tail : Bool) (len : Nat) (soft : List Int) : List Int :=
  let qs := depuncture c (codeSteps c tail len) 0 soft
  let a0 := if tail then (alphas c qs (startMetrics c true)).getLastD [] else startMetrics c false
  let b0 := if tail then (betas c qs (startMetrics c true)).headD [] else startMetrics c false
  let al := alphas c qs a0
  let be := betas c qs b0
  ((List.range len).map fun i => (softOut c (qs.getD i []) (al.getD i []) (be.getD (i + 1) [])).getD 0)

/-- Signal cycles that a codeword occupies a decoder (R370). -/
def decodeCycles (c : Bytes) (tail soft : Bool) (len : Nat) : Nat :=
  let t := match soft, tail with
    | false, false => codeSteps c tail len
    | false, true => 3 * len
    | true, false => 2 * codeSteps c tail len
    | true, true => 4 * len
  let f := if cdK c ≤ 7 then 1 else if cdK c = 8 then 2 else 4
  64 + ceilDiv (6 * t * f) 5

/-! ### The long-range frame -/

/-- Symbol value from an interleaved value: Gray-mapped and centred (R357). -/
def chirpValue (sf b v : Nat) : Nat :=
  let u := (List.range b).foldl (fun a k => a ^^^ (v / 2 ^ k)) 0
  let r := sf - b
  if r = 0 then u else u * 2 ^ r + 2 ^ (r - 1)

/-- Where bit `j` of symbol `i` stands in its block (R356). -/
def staggerAt (b i j : Nat) : Nat := i + b * ((j + 2 * (b - 1) * i) % b)

/-- Interleaved values of coded bits, block by block (R356). -/
def interleave (b : Nat) : Nat → List Bool → List Nat
  | 0, _ => []
  | n + 1, cs =>
    ((List.range b).map fun i =>
      ((List.range b).map fun j => if cs.getD (staggerAt b i j) false then 2 ^ j else 0).sum)
      ++ interleave b n (cs.drop (b * b))

/-- Soft values of symbols back in coding order: `qs` holds b values a symbol (R356, R362). -/
def deinterleave (b : Nat) : Nat → List Int → List Int
  | 0, _ => []
  | n + 1, qs =>
    ((List.range (b * b)).map fun k =>
      let i := k % b
      qs.getD (i * b + (k / b + 2 * i) % b) 0) ++ deinterleave b n (qs.drop (b * b))

/-- CRC-8 of the header's first 16 bits (R353). -/
def headerCrc (x : Nat) : Nat := crcMsb 8 0x07 0 [BitVec.ofNat 8 (x / 256), BitVec.ofNat 8 x]

/-- CRC-16 of a payload (R355). -/
def payloadCrc (bs : Bytes) : Nat := crcMsb 16 0x1021 0xFFFF bs

/-- The 24 header bits (R353). -/
def headerBits (length rate : Nat) (reduced : Bool) : List Bool :=
  let x := length * 256 + rate * 64 + (if reduced then 32 else 0)
  natBits 16 x ++ natBits 8 (headerCrc x)

/-- Header symbols (R354). -/
def headerSymbols (sf : Nat) : Nat := (sf - 3) * ceilDiv 60 ((sf - 3) * (sf - 3))

/-- Bits a payload symbol carries (R355). -/
def payloadBits (sf : Nat) (reduced : Bool) : Nat := if reduced then sf - 3 else sf

/-- Info bits of a payload. -/
def payloadInfo (length : Nat) : Nat := 8 * (length + 2)

/-- Payload symbols (R355). -/
def payloadSymbols (sf length rate : Nat) (reduced : Bool) : Nat :=
  let b := payloadBits sf reduced
  b * ceilDiv (codedCount (codesDefault.getD rate []) false (payloadInfo length)) (b * b)

/-- Symbol values of coded bits at `b` bits a symbol. -/
def codedSymbols (sf b n : Nat) (cs : List Bool) : List Nat := (interleave b (n / b) cs).map (chirpValue sf b)

/-- The header and payload symbols of a frame (R353 to R357). -/
def frameValues (sf length rate : Nat) (reduced : Bool) (bytes : Bytes) : List Nat :=
  let h := encodeBits (codesDefault.getD 0 []) false (headerBits length rate reduced)
  let all := bytes ++ beBytes 2 (payloadCrc bytes)
  let p := encodeBits (codesDefault.getD rate []) false (unpackBits all (payloadInfo length))
  codedSymbols sf (sf - 3) (headerSymbols sf) h
    ++ codedSymbols sf (payloadBits sf reduced) (payloadSymbols sf length rate reduced) p

/-- Soft values of a symbol from its metrics (R362). -/
def symbolSoft (sf b : Nat) (m : List Nat) : List Int :=
  let top := m.foldl max 0
  let grouped : List Nat := if b = sf then m else (List.range (2 ^ b)).map fun u => ((m.drop (8 * u)).take 8).foldl max 0
  (List.range b).map fun j =>
    let best (v : Bool) : Nat := grouped.zipIdx.foldl (fun a e => if bitAt (e.2 ^^^ (e.2 / 2)) j == v then max a e.1 else a) 0
    if top = 0 then 0
    else
      let n : Int := 31 * ((best true : Int) - best false)
      let r := roundQ false n.natAbs top
      clampInt (-31) 31 (if n < 0 then -(r : Int) else r)

/-- The strongest bin, the first of equals. -/
def strongestBin (m : List Nat) : Nat :=
  (m.zipIdx.foldl (fun (a : Nat × Nat) e => if a.1 < e.1 then e else a) (0, 0)).2

/-- The strongest bin of an identity symbol as six bits: the nearest multiple of 2^(SF − 6), ties to the lower (R361). -/
def identityValue (sf : Nat) (m : List Nat) : Nat :=
  let k := strongestBin m
  let step := 2 ^ (sf - 6)
  (k / step + if step < 2 * (k % step) then 1 else 0) % 64

end Sys2Proof.Machine
end

