-- ==== Sys2Proof/Machine/Dsp.lean ====
section
/-!
DEFINITION. Machine/Dsp.lean: the integer arithmetic of the receive and transmit chains (R295, R297, R505), the memory
polynomial of DPD (R300), the powers of packet detection (R305, R306) and of the chirp modulator (R351): functions of
numbers alone.
-/
namespace Sys2Proof.Machine
open Sys2Proof

/-- `n / d` rounded RNA (R38). -/
def rna (n : Int) (d : Nat) : Int :=
  let m := roundQ false n.natAbs d
  if n < 0 then -(m : Int) else m

/-- A component saturated to INT16, with 1 where it saturated. -/
def sat16 (x : Int) : Int × Nat := (satInt 16 x, if outsideInt 16 x then 1 else 0)

/-- A sample saturated to INT16, with the components that saturated. -/
def satC (z : Cplx) : Cplx × Nat :=
  let i := sat16 z.1
  let q := sat16 z.2
  ((i.1, q.1), i.2 + q.2)

/-- An exact sum of components times coefficients, the newest sample first. -/
def firC (g : List Int) (h : List Cplx) : Cplx :=
  (g.zip h).foldl (fun a e => (a.1 + e.1 * e.2.1, a.2 + e.1 * e.2.2)) (0, 0)

/-- A sum shifted down by a power of two, rounded RNA and saturated. -/
def scaleC (d : Nat) (z : Cplx) : Cplx × Nat := satC (rna z.1 d, rna z.2 d)

/-- The lower half of the halfband coefficients (R505). -/
def halfbandLow : List Int :=
  [-1, 0, 7, 0, -24, 0, 58, 0, -120, 0, 223, 0, -387, 0, 643, 0, -1049, 0, 1747, 0, -3263, 0, 10358]

/-- The 47 halfband coefficients (R505). -/
def halfband : List Int := halfbandLow ++ [16384] ++ halfbandLow.reverse

/-- `FE_HALFBAND` (R505). -/
def halfbandImage : Bytes := halfband.flatMap fun g => leBytes 2 (wrapBits 16 g)

/-- Cosine and sine of an NCO phase, from its top 16 bits, in Q15 (R295). -/
def ncoPair (phase : Nat) : Int × Int :=
  let p := phase / 2 ^ 16
  (fxRound 64 32767 (fxCos2pi 64 p 65536), fxRound 64 32767 (fxSin2pi 64 p 65536))

/-- The NCO phase of sample `n` (R295). -/
def ncoPhase (ftw : Int) (n : Nat) : Nat := wrapBits 32 (ftw * n)

/-- A sample mixed by an NCO: down (`x·(c − js)`), or up with the sign of s reversed (R295, R297). -/
def ncoMix (up : Bool) (x : Cplx) (phase : Nat) : Cplx × Nat :=
  let c := (ncoPair phase).1
  let s := if up then -(ncoPair phase).2 else (ncoPair phase).2
  scaleC (2 ^ 15) (x.1 * c + x.2 * s, x.2 * c - x.1 * s)

/-- A cascade's progress: its delay lines, the sample that comes out, if one does, and saturations. -/
structure HalfChain where
  lines : List (List Cplx)
  out : Option Cplx
  sats : Nat
deriving DecidableEq, Repr

/-- Decimating halfband stages (R505): `n` counts the input of the first stage; a stage gives a sample for every even
one. -/
def decStages : Nat → Nat → Cplx → List (List Cplx) → HalfChain
  | 0, _, x, ls => ⟨ls, some x, 0⟩
  | s + 1, n, x, ls =>
    let h := (x :: ls.headD []).take 47
    if n % 2 = 1 then ⟨h :: ls.tail, none, 0⟩
    else
      let y := scaleC (2 ^ 15) (firC halfband h)
      let r := decStages s (n / 2) y.1 ls.tail
      ⟨h :: r.lines, r.out, y.2 + r.sats⟩

/-- Interpolating halfband stages (R505): `n` counts the output of the last one; stage input is a sample or, between
samples, a zero. The sample is the newest output of the stage before. -/
def intStages : Nat → Nat → Option Cplx → List (List Cplx) → HalfChain
  | 0, _, x, ls => ⟨ls, x, 0⟩
  | s + 1, n, x, ls =>
    if n % 2 ^ s ≠ 0 then
      let r := intStages s n none ls.tail
      ⟨ls.headD [] :: r.lines, r.out, r.sats⟩
    else
      let z := if n % 2 ^ (s + 1) = 0 then x.getD (0, 0) else (0, 0)
      let h := (z :: ls.headD []).take 47
      let y := scaleC (2 ^ 14) (firC halfband h)
      let r := intStages s n (some y.1) ls.tail
      ⟨h :: r.lines, r.out, y.2 + r.sats⟩

/-- The exponent of a `DEC` or `INTERP` of 1, 2, 4 or 8. -/
def stagesOf (n : Nat) : Nat := Nat.log2 n

/-- The I16 coefficients of an image from an offset on. -/
def coefs (cfg : Bytes) (off n : Nat) : List Int := (List.range n).map fun k => sext 16 (leAt cfg (off + 2 * k) 2)

/-! ### DPD (R300) -/

/-- The FP32 value of an integer over 2^15. -/
def q15Val (x : Int) : Val := fracVal ⟨x, 2 ^ 15⟩ false

/-- FP32 product, rounded RNA. -/
def mul32 (a b : Val) : Val := fp32Val (passPartial false (foldPass [(a, b)])).bits

/-- The basis terms `x·|x|^k`, k from 0, each by one more FP32 multiplication. -/
def basisTerms (mag : Val) : Nat → Val × Val → List (Val × Val)
  | 0, _ => []
  | k + 1, b => b :: basisTerms mag k (mul32 b.1 mag, mul32 b.2 mag)

/-- The basis terms of a sample. -/
def dpdBasis (k : Nat) (x : Cplx) : List (Val × Val) :=
  let e : Int := x.1 * x.1 + x.2 * x.2
  let mag := fp32Val (funSqrt (toFp32 false false) (fracVal ⟨e, 2 ^ 30⟩ false)).bits
  basisTerms mag k (q15Val x.1, q15Val x.2)

/-- Coefficient a_{k,m} of a bank with K rows: k runs fastest (R300). -/
def dpdCoef (bank : Bytes) (kk k m : Nat) : Val × Val :=
  let off := 8 * (m * kk + k)
  (fp32Val (leAt bank off 4), fp32Val (leAt bank (off + 4) 4))

/-- The products of one component: `aI·bI − aQ·bQ`, or `aI·bQ + aQ·bI`. -/
def dpdProducts (im : Bool) (a b : Val × Val) : List (Val × Val) :=
  if im then [(a.1, b.2), (a.2, b.1)] else [(a.1, b.1), (valFlip a.2, b.2)]

/-- The predistorted sample (R300): the newest input first. -/
def dpdApply (bank : Bytes) (kk mm : Nat) (hist : List Cplx) : Cplx × Nat :=
  let terms : List ((Val × Val) × (Val × Val)) := (List.range mm).flatMap fun m =>
    (dpdBasis kk (hist.getD m (0, 0))).zipIdx.map fun e => (dpdCoef bank kk e.2 m, e.1)
  let comp (im : Bool) : FR :=
    let r := passPartial false (foldPass (terms.flatMap fun t => dpdProducts im t.1 t.2))
    toInt 16 false (match fp32Val r.bits with
      | .fin s n d => .fin s (n * 2 ^ 15) d
      | v => v)
  let i := comp false
  let q := comp true
  let bad (r : FR) : Nat := if r.flags &&& fSaturated = 0#32 then 0 else 1
  ((sext 16 i.bits, sext 16 q.bits), bad i + bad q)

/-! ### Packet detection (R305, R306) -/

/-- I² + Q². -/
def energy (x : Cplx) : Nat := (x.1 * x.1 + x.2 * x.2).toNat

/-- `DET_NOISE_DBFS` of a noise floor (R306). -/
def noiseDbfs (n : Nat) : Int :=
  if n = 0 then -32768
  else
    let w := 128
    let l := fxLn w n 1 - fxLn w 1073676289 1
    let t := fxLn w 10 1
    satInt 16 (rna (1000 * l) t.natAbs)

/-! ### The chirp modulator (R351) -/

/-- A term of the frequency sum: round_rna((f / fo)·2^32) for a position `x + s` of `y / den` chips in a symbol of `n` chips,
up or down, with `bw / fo` = `bn / bd`. -/
def chirpStep (down : Bool) (y den n bn bd : Nat) : Int :=
  let r := y % (n * den)
  let up : Int := 2 * (r : Int) - (n * den : Nat)
  rna ((if down then -up else up) * bn * 2 ^ 32) (2 * n * den * bd)

/-- An amplitude times the cosine and sine of the top 16 phase bits, rounded RNA (R351). -/
def chirpOut (amp phase : Nat) : Cplx :=
  let p := phase / 2 ^ 16
  (fxRound 64 amp (fxCos2pi 64 p 65536), fxRound 64 amp (fxSin2pi 64 p 65536))

/-! ### The transform of the demodulator (R361) -/

/-- Fraction bits of an exact product of a sample and a root of unity. -/
def turnBits : Nat := 128

/-- `e^(2πi·n/d)` in fixed point; exact on the axes. -/
def rootOf (n d : Nat) : Int × Int :=
  let one : Int := 2 ^ turnBits
  if 4 * n % d ≠ 0 then (fxCos2pi turnBits n d, fxSin2pi turnBits n d)
  else
    match 4 * n / d % 4 with
    | 0 => (one, 0)
    | 1 => (0, one)
    | 2 => (-one, 0)
    | _ => (0, -one)

/-- A sample times a root, both in fixed point. -/
def rootMul (x w : Int × Int) : Int × Int :=
  ((x.1 * w.1 - x.2 * w.2) / 2 ^ turnBits, (x.1 * w.2 + x.2 * w.1) / 2 ^ turnBits)

/-- A stage's output: halved, rounded RNA to CI16, and back in fixed point. -/
def halveC (x : Int × Int) : Int × Int :=
  let h (v : Int) : Int := (sat16 (rna v (2 ^ (turnBits + 1)))).1 * 2 ^ turnBits
  (h x.1, h x.2)

/-- The sum of two samples. -/
def addC (a b : Int × Int) : Int × Int := (a.1 + b.1, a.2 + b.2)
/-- The difference of two samples. -/
def subC (a b : Int × Int) : Int × Int := (a.1 - b.1, a.2 - b.2)

/-- The elements of a list at even places, and those at odd places. -/
def unzipC : List Cplx → List Cplx × List Cplx
  | [] => ([], [])
  | [a] => ([a], [])
  | a :: b :: t => let r := unzipC t; (a :: r.1, b :: r.2)

/-- The transform of `2^s` samples, decimated in time. -/
def fftTime : Nat → List Cplx → List Cplx
  | 0, xs => xs
  | s + 1, xs =>
    let h := unzipC xs
    let n := 2 ^ (s + 1)
    let ps := ((fftTime s h.1).zip (fftTime s h.2)).zipIdx.map fun e => (e.1.1, rootMul e.1.2 (rootOf (n - e.2) n))
    (ps.map fun p => halveC (addC p.1 p.2)) ++ ps.map fun p => halveC (subC p.1 p.2)

/-- The transform of `2^s` samples, decimated in frequency. -/
def fftFreq : Nat → List Cplx → List Cplx
  | 0, xs => xs
  | s + 1, xs =>
    let n := 2 ^ (s + 1)
    let ps := ((xs.take (2 ^ s)).zip (xs.drop (2 ^ s))).zipIdx
    let u := ps.map fun e => halveC (addC e.1.1 e.1.2)
    let v := ps.map fun e => halveC (rootMul (subC e.1.1 e.1.2) (rootOf (n - e.2) n))
    ((fftFreq s u).zip (fftFreq s v)).flatMap fun e => [e.1, e.2]

/-- Twice `2^sf` times the phase, in turns, of the value-0 up-chirp at chip `x` (R351 at one sample a chip). -/
def chirpPhase (sf x : Nat) : Nat := (x * (x - 1) + x * 2 ^ sf) % 2 ^ (sf + 1)

/-- Samples of a symbol times the conjugate of the value-0 up-chirp, or of the value-0 down-chirp, in fixed point (R361). -/
def dechirp (sf : Nat) (down : Bool) (xs : List Cplx) : List Cplx :=
  xs.zipIdx.map fun e =>
    let p := chirpPhase sf e.2
    let n := 2 ^ (sf + 1)
    rootMul (e.1.1 * 2 ^ turnBits, e.1.2 * 2 ^ turnBits) (rootOf (if down then p else n - p) n)

/-- The bin metrics of a symbol's chip-rate samples: dechirped, transformed, squared (R361). A down-chirp of value s turns
backwards and peaks s bins below bin 0, so its bins are counted downwards (DEDUCED, log 128). -/
def binMetrics (sf : Nat) (down : Bool) (xs : List Cplx) : List Nat :=
  let ys := dechirp sf down xs
  let m := (if Config.fftInTime then fftTime sf ys else fftFreq sf ys).map fun y =>
    energy (y.1 / 2 ^ turnBits, y.2 / 2 ^ turnBits)
  if down then m.headD 0 :: (m.drop 1).reverse else m

end Sys2Proof.Machine
end

