-- ==== Sys2Proof/Machine/Stream.lean ====
section
/-!
DEFINITION. Machine/Stream.lean: JESD204C links and their sample ticks (R284 to R290), receive and transmit streams and what
binds them to rings (R309 to R312), and clamps and events of the front end (R314).
-/
namespace Sys2Proof.Machine
open Sys2Proof

/-! ### Units -/

/-- Link `l`: 0 to 3 receive, 4 to 7 transmit. -/
def linkOf (d : Dev) (l : Nat) : LinkSt := lget linkDefault d.fe.links l
/-- The device with a link changed. -/
def modLink (d : Dev) (l : Nat) (f : LinkSt → LinkSt) : Dev := { d with fe := { d.fe with links := lmod d.fe.links l f } }
/-- Physical lane `l`: 0 to 15 receive, 16 to 31 transmit. -/
def laneOf (d : Dev) (l : Nat) : LaneSt := lget laneDefault d.fe.lanes l
/-- The device with a lane changed. -/
def modLane (d : Dev) (l : Nat) (f : LaneSt → LaneSt) : Dev := { d with fe := { d.fe with lanes := lmod d.fe.lanes l f } }
/-- Receive stream `n`. -/
def feRxOf (d : Dev) (n : Nat) : FeRx := tget feRxDefault d.fe.rx n
/-- The device with a receive stream replaced. -/
def setFeRx (d : Dev) (n : Nat) (x : FeRx) : Dev := { d with fe := { d.fe with rx := tset d.fe.rx n x } }
/-- Transmit stream `n`. -/
def feTxOf (d : Dev) (n : Nat) : FeTx := tget feTxDefault d.fe.tx n
/-- The device with a transmit stream replaced. -/
def setFeTx (d : Dev) (n : Nat) (x : FeTx) : Dev := { d with fe := { d.fe with tx := tset d.fe.tx n x } }
/-- DPD engine `n`. -/
def dpdOf (d : Dev) (n : Nat) : DpdSt := tget dpdDefault d.fe.dpd n
/-- The device with a DPD engine replaced. -/
def setDpd (d : Dev) (n : Nat) (x : DpdSt) : Dev := { d with fe := { d.fe with dpd := tset d.fe.dpd n x } }
/-- Detector `n`. -/
def detOf (d : Dev) (n : Nat) : DetSt := tget detDefault d.fe.det n
/-- The device with a detector replaced. -/
def setDet (d : Dev) (n : Nat) (x : DetSt) : Dev := { d with fe := { d.fe with det := tset d.fe.det n x } }
/-- Correlator `n`. -/
def corrOf (d : Dev) (n : Nat) : CorrSt := tget corrDefault d.fe.corr n
/-- The device with a correlator replaced. -/
def setCorr (d : Dev) (n : Nat) (x : CorrSt) : Dev := { d with fe := { d.fe with corr := tset d.fe.corr n x } }

/-! ### Link records (R285 to R287) -/

/-- `L`. -/
def lkL (r : Bytes) : Nat := leAt r 0 1
/-- `M`. -/
def lkM (r : Bytes) : Nat := leAt r 1 1
/-- `E`. -/
def lkE (r : Bytes) : Nat := leAt r 3 1
/-- `OBS`. -/
def lkObs (r : Bytes) : Bool := bitAt (leAt r 4 1) 1
/-- `FIRST_STREAM`. -/
def lkFirst (r : Bytes) : Nat := leAt r 5 1
/-- `RELEASE`. -/
def lkRelease (r : Bytes) : Nat := leAt r 6 2
/-- Physical lane of logical lane `i`, 0 to 15. -/
def lkLane (r : Bytes) (i : Nat) : Nat := leAt r (8 + i) 1
/-- The lanes of a link in its direction. -/
def lkLanes (r : Bytes) : List Nat := (List.range (lkL r)).map (lkLane r)

/-- The lane rate as a multiple of 122.88 MHz (R284). -/
def rateMul (code : Nat) : Nat := match code with | 1 => 132 | 2 => 198 | _ => 264

/-- The sample rate of a link's streams in units of 122.88 MS/s: 1 or 2, where the link is valid (R285). -/
def lkRate (code : Nat) (r : Bytes) : Option Nat :=
  [1, 2].find? fun u => u * lkM r * 16 * 66 == lkL r * rateMul code * 64

/-- The samples of an LEMC period (R286). -/
def lemcSamples (u : Nat) : Nat := 96 * u

/-- Whether a record meets R283, R285 and R286 for a direction, or is disabled. -/
def linkValid (code : Nat) (tx : Bool) (r : Bytes) : Bool :=
  if lkL r = 0 then true
  else
    match lkRate code r with
    | none => false
    | some u =>
      [1, 2, 4, 8, 16].contains (lkL r) && lkM r % 2 == 0 && 2 ≤ lkM r && lkM r ≤ 128 && (leAt r 2 1 == 1 || leAt r 2 1 == 2)
        && lkE r * 128 * lkL r == lemcSamples u * lkM r && 1 ≤ lkE r && lkE r ≤ 32 && !(tx && lkObs r)
        && lkFirst r + lkM r / 2 ≤ (if lkObs r then 16 else if u = 2 then 32 else 64) && lkRelease r ≤ 624
        && (List.range 16).all (fun i => if i < lkL r then lkLane r i < 16 else lkLane r i == 0xFF)
        && (lkLanes r).eraseDups.length == lkL r

/-- Streams a link carries. -/
def lkCarries (r : Bytes) (obs : Bool) (s : Nat) : Bool :=
  lkL r != 0 && lkObs r == obs && lkFirst r ≤ s && s < lkFirst r + lkM r / 2

/-- The link of a stream: kind 0 receive, 1 transmit, 2 observation. -/
def linkFor (d : Dev) (kind s : Nat) : Option Nat :=
  (if kind = 1 then [4, 5, 6, 7] else [0, 1, 2, 3]).find? fun l => lkCarries (linkOf d l).rcd (kind == 2) s

/-- Link states (R291): STOPPED, ALIGNING, RUNNING, ERROR. -/
def linkKeepsTime (d : Dev) (l : Nat) : Bool := (linkOf d l).reg.st == 2 || (linkOf d l).reg.st == 3

/-- Samples of an LEMC period on a link. -/
def linkPeriod (d : Dev) (l : Nat) : Nat := lemcSamples ((lkRate d.fe.laneRate (linkOf d l).rcd).getD 1)

/-- The sample tick of converter sample `c` of a link, counted from its first period (R289). -/
def sampleTick (d : Dev) (l c : Nat) : Nat :=
  let p := linkPeriod d l
  (linkOf d l).base + 625 * (c / p) + 625 * (c % p) / p

/-- The first converter sample of a link whose tick is at or after `t`. -/
def firstSample (d : Dev) (l t : Nat) : Nat :=
  let p := linkPeriod d l
  let r := t - (linkOf d l).base
  r / 625 * p + ceilDiv (r % 625 * p) 625

/-- The multiblock that carries converter sample `c` of a link (R286, R293). -/
def multiblockOf (d : Dev) (l c : Nat) : Nat := c * lkE (linkOf d l).rcd / linkPeriod d l

/-- The first LEMC boundary of a link at or after `t`. -/
def boundaryFrom (d : Dev) (l t : Nat) : Nat :=
  let b := (linkOf d l).base
  if t ≤ b then b else b + ceilDiv (t - b) 625 * 625

/-- The read-ahead of transmit streams and the latencies of links, fixed by records, which the spec leaves open (R289,
R290); a disabled link reads zero. -/
def jesdLatency (d : Dev) (l : Nat) : Nat :=
  let r := (linkOf d l).rcd
  if lkL r = 0 then 0 else (Config.linkLatency (r.map fun b => b.toNat)) % 65536

/-- Whether a tick lies at least a link's receive latency, a U16, back (R289). -/
def latencyOver (d : Dev) (l t : Nat) : Bool := decide (t + 65536 ≤ d.time.ticks) || decide (t + jesdLatency d l ≤ d.time.ticks)

/-- Whether a link has released the LEMC period of converter sample `c` (R289). -/
def released (d : Dev) (l c : Nat) : Bool :=
  (linkOf d l).base + 625 * (c / linkPeriod d l) + lkRelease (linkOf d l).rcd ≤ d.time.ticks

/-- `JESD_TX_LEAD` (R290): zero while no transmit link is configured. -/
def txLead (d : Dev) : Nat :=
  if [4, 5, 6, 7].all fun l => lkL (linkOf d l).rcd == 0 then 0
  else Config.linkLatency ([4, 5, 6, 7].flatMap fun l => (linkOf d l).rcd.map fun b => b.toNat) % 65536

/-! ### Bindings -/

/-- Configuration fields of a receive stream: `FTW`, `DEC`, `GAIN_SHIFT`, `TAPS` (R296). -/
def rxDec (c : Bytes) : Nat := leAt c 4 1
/-- `INTERP` of a transmit configuration (R297). -/
def txInterp (c : Bytes) : Nat := leAt c 4 1

/-- The tick of the next converter sample of a bound stream. -/
def nextTick (d : Dev) (l : Nat) (b : Binding) : Nat := sampleTick d l (b.start + b.n)

/-- An operation of a unit ended: its descriptor completes (R225). -/
def endUnitOp (d : Dev) (op : Option Nat) : Dev :=
  match op with
  | some id => completeOp (modOp d id fun o => { o with phase := .done }) id
  | none => d

/-- A binding made by an FE_START: from the first sample at or after its count, or after its arming tick (R310), on the grid
of `g` converter samples. -/
def bindFor (d : Dev) (h : Head) (l g : Nat) (op : Nat) : Binding :=
  let count := dfield h.desc 28 0 64
  let c := firstSample d l (max count d.time.ticks)
  { ring := dfield h.desc 26 0 12, ctx := h.ctx, lc := h.lc, op := some op, tag := hTag h.desc, queue := h.q,
    count := count, late := count < d.time.ticks, start := ceilDiv c g * g, n := 0, stops := [], halt := false,
    slot := false, pos := 0 }

/-- LATE_LAUNCH with the count asked and the tick of the launch (R259, R310). -/
def postLate (d : Dev) (ctx : Nat) (c : Cause) (count tick : Nat) : Dev :=
  let d := postAt d tick ctx 0x000D c (zeros 8 ++ leBytes 8 count)
  { d with disp := { d.disp with lateLaunches := satAdd 32 d.disp.lateLaunches 1 } }

/-- A front-end policy clamp of a context, for an entry (R212). -/
def feClamp (d : Dev) (on : Bool) (ctx idx sub : Nat) : Dev :=
  if on then clampCtx d ctx idx sub else unclampCtx d ctx idx sub

/-- Whether a ring belongs to a context and class with a given die on one side (R310, R334). -/
def ringFor (d : Dev) (r ctx : Nat) (lc : Bool) (p : Ring → Bool) : Bool :=
  match ringOf d r with
  | some x => x.ctx == ctx && x.lc == lc && p x
  | none => false

/-- The producer's side of a ring bound to an agent. -/
def bindProd (d : Dev) (r : Nat) (a : Agent) : Dev := modRing d r fun x => { x with prod := some a }
/-- The consumer's side of a ring bound to an agent. -/
def bindCons (d : Dev) (r : Nat) (a : Agent) : Dev := modRing d r fun x => { x with cons := some a }
/-- The producer's side freed of an agent. -/
def freeProd (d : Dev) (r : Nat) (a : Agent) : Dev :=
  modRing d r fun x => { x with prod := if x.prod = some a then none else x.prod }
/-- The consumer's side freed of an agent. -/
def freeCons (d : Dev) (r : Nat) (a : Agent) : Dev :=
  modRing d r fun x => { x with cons := if x.cons = some a then none else x.cons }

/-- The tail slot of a ring taken for filling, if it is EMPTY (R163): the device, and the slot. -/
def claimSlot (d : Dev) (r : Nat) : Option (Dev × Nat) :=
  match ringOf d r with
  | some x =>
    if slotStOf x x.tail = .empty then some (setSlot (slotClear (slotClear d r x.tail) r (stageSlot x x.tail)) r x.tail .filling, x.tail) else none
  | none => none

/-- The head slot of a ring taken for reading, if it is FULL or SPOIL (R163): the device, and the slot. -/
def takeSlot (d : Dev) (r : Nat) : Option (Dev × Nat) :=
  match ringOf d r with
  | some x =>
    if slotStOf x x.head = .full || slotStOf x x.head = .spoil then some (setSlot d r x.head .draining, x.head) else none
  | none => none

/-- Bytes stored in a slot; a block keeps a spoil mark it has (R197, R336). -/
def slotStore (d : Dev) (r s off : Nat) (bs : Bytes) (spoil : Bool) : Dev :=
  slotWrite d r s off bs (spoil || slotSpoilAt d r s off)

/-- Where the producer of a ring collects slot `s`: its staging buffer where the consumer is on the other die (R335). -/
def stageOf (d : Dev) (r s : Nat) : Nat := match ringOf d r with | some x => stageSlot x s | none => s

/-- Bytes stored in a slot by its producer, each payload that is complete sent at once where the ring crosses (R335). -/
def ringStore (d : Dev) (r s off : Nat) (bs : Bytes) (spoil : Bool) : Dev :=
  noteStored (slotStore d r (stageOf d r s) off bs spoil) r off bs.length

/-- The bytes of a CI16 sample (R34). -/
def smpBytes (x : Cplx) : Bytes := leBytes 2 (wrapBits 16 x.1) ++ leBytes 2 (wrapBits 16 x.2)

/-- A CI16 sample of a slot; one in a spoil block is zero (R312). -/
def slotSmp (d : Dev) (r s off : Nat) : Cplx :=
  if slotSpoilAt d r s off then (0, 0)
  else
    let bs := slotRead d r s off 4
    (sext 16 (leAt bs 0 2), sext 16 (leAt bs 2 2))

/-- Bytes of a ring's slot, zero where the ring is gone. -/
def ringSlotBytes (d : Dev) (r : Nat) : Nat := match ringOf d r with | some x => slotBytes x | none => 0

end Sys2Proof.Machine
end

