-- ==== Sys2Proof/Machine/Chirp.lean ====
section
/-!
DEFINITION. Machine/Chirp.lean: the chirp modem: modulators and mixes (R350 to R359), listeners and demodulation (R360 to
R363), and the internal decoding jobs it gives to the trellis unit (R362).
-/
namespace Sys2Proof.Machine
open Sys2Proof

/-! ### Units and fields -/

/-- Mix `n`. -/
def mixOf (d : Dev) (n : Nat) : MixSt := tget mixDefault d.lr.mixes n
/-- The device with a mix replaced. -/
def setMix (d : Dev) (n : Nat) (x : MixSt) : Dev := { d with lr := { d.lr with mixes := tset d.lr.mixes n x } }
/-- Modulator `n`, if in use. -/
def modulatorOf (d : Dev) (n : Nat) : Option ModSt := tfind d.lr.mods n
/-- The device with a modulator replaced. -/
def setModulator (d : Dev) (n : Nat) (x : ModSt) : Dev := { d with lr := { d.lr with mods := tset d.lr.mods n x } }
/-- A modulator freed. -/
def dropModulator (d : Dev) (n : Nat) : Dev := { d with lr := { d.lr with mods := tdel d.lr.mods n } }
/-- Listener `n`. -/
def lsnOf (d : Dev) (n : Nat) : LsnSt := tget lsnDefault d.lr.lsns n
/-- The device with a listener replaced. -/
def setLsn (d : Dev) (n : Nat) (x : LsnSt) : Dev := { d with lr := { d.lr with lsns := tset d.lr.lsns n x } }
/-- The device with a demodulation replaced. -/
def setDem (d : Dev) (n : Nat) (x : DemSt) : Dev := { d with lr := { d.lr with dems := tset d.lr.dems n x } }

/-- `LR.ENABLE`. -/
def lrEnable (x : Desc) : Bool := dbit x 24 7
/-- `LR.UNIT` of a listener. -/
def lrUnit (x : Desc) : Nat := dfield x 24 0 6
/-- `LR.UNIT` of a mix. -/
def lrMix (x : Desc) : Nat := dfield x 24 0 4
/-- `LR.STREAM`. -/
def lrStream (x : Desc) : Nat := dfield x 25 0 6
/-- `LR.RING`. -/
def lrRing (x : Desc) : Nat := dfield x 26 0 12
/-- `LR.SF`. -/
def lrSf (x : Desc) : Nat := dfield x 28 0 8
/-- `LR.BW`. -/
def lrBw (x : Desc) : Nat := dfield x 29 5 3
/-- `LR.RATE`. -/
def lrRate (x : Desc) : Nat := dfield x 29 3 2
/-- `LR.REDUCED`. -/
def lrReduced (x : Desc) : Bool := dbit x 29 2
/-- `LR.LENGTH`. -/
def lrLength (x : Desc) : Nat := dfield x 30 0 8
/-- `LR.PRE_LEN`. -/
def lrPre (x : Desc) : Nat := dfield x 32 0 16
/-- `LR.NET_ID`. -/
def lrNet (x : Desc) : Nat := dfield x 34 0 12
/-- `LR.AMP`. -/
def lrAmp (x : Desc) : Nat := dfield x 36 0 16
/-- `LR.FTW`. -/
def lrFtw (x : Desc) : Int := sext 32 (dfield x 40 0 32)
/-- `LR.COUNT`. -/
def lrCount (x : Desc) : Nat := dfield x 48 0 64

/-- Whether a reserved bit of an LR descriptor is set (R371). -/
def lrReserved (x : Desc) : Bool :=
  hStrict x || dbit x 24 6 || dfield x 25 6 2 != 0 || dfield x 26 12 4 != 0 || dfield x 29 0 2 != 0 || dfield x 31 0 8 != 0
    || dfield x 34 12 4 != 0 || dfield x 38 0 16 != 0 || dfield x 44 0 32 != 0 || dfield x 56 0 64 != 0

/-- Ticks of a chip (R350). -/
def chipTicks (bw : Nat) : Nat := 12800 / 2 ^ bw

/-- A SPOIL_READ of a unit's operation. -/
def opSpoilRead (d : Dev) (id : Nat) : Dev :=
  match opOf d id with
  | some o => postSpoilRead d o
  | none => d

/-- The ratio of bandwidth to a mix's sample rate, as two numbers (R351). -/
def chirpRatio (d : Dev) (stream bw : Nat) : Nat × Nat :=
  let u := match linkFor d 1 stream with
    | some l => (lkRate d.fe.laneRate (linkOf d l).rcd).getD 1
    | none => 1
  (62500 * 2 ^ bw * txInterp (feTxOf d stream).cfg, 122880000 * u)

/-- Chips of a frame (R352). -/
def frameChips (x : Desc) (values : Nat) : Nat := 2 ^ lrSf x * (lrPre x + 5 + values)

/-- The chirp of symbol `k` of a frame: whether it is a down-chirp, and its value (R352). -/
def frameSymbol (x : Desc) (values : List Nat) (k : Nat) : Bool × Nat :=
  let p := lrPre x
  let step := 2 ^ (lrSf x - 6)
  if k < p then (false, 0)
  else if k < p + 3 then (true, 0)
  else if k = p + 3 then (true, lrNet x / 64 * step)
  else if k = p + 4 then (true, lrNet x % 64 * step)
  else (false, values.getD (k - p - 5) 0)

/-- The next sample of a modulator, and the modulator after it (R351). -/
def modStep (x : Desc) (bn bd : Nat) (s : ModSt) : Cplx × ModSt :=
  let n := 2 ^ lrSf x
  let k := s.m * bn / (bd * n)
  let e := frameSymbol x s.values k
  let y := s.m * bn - k * n * bd + e.2 * bd
  let f := chirpStep e.1 y bd n bn bd
  (chirpOut (lrAmp x) s.phase, { s with m := s.m + 1, phase := wrapBits 32 (s.phase + f + lrFtw x) })

/-- Whether a modulator's frame is over. -/
def modOver (x : Desc) (bn bd : Nat) (s : ModSt) : Bool := frameChips x s.values.length * bd ≤ s.m * bn

/-! ### Transmitting -/

/-- A modulator's payload slot taken where it is ready: a SPOIL one is reported, and its LR_TX ends with nothing sent
(R359). -/
def modTake (d : Dev) (n : Nat) : Dev :=
  match modulatorOf d n with
  | none => d
  | some s =>
    match opOf d s.op with
    | none => d
    | some o =>
      let r := lrRing o.desc
      let free := match ringOf d r with
        | some x => x.cons.isNone
        | none => false
      if s.taken || !free then d
      else
        match takeSlot d r with
        | none => d
        | some (d, k) =>
          let bad := slotSpoil d r k
          let bytes := slotRead d r k 0 (lrLength o.desc)
          let d := slotGive d r
          if bad then endUnitOp (dropModulator (opSpoilRead d s.op) n) (some s.op)
          else
            let v := frameValues (lrSf o.desc) (lrLength o.desc) (lrRate o.desc) (lrReduced o.desc) bytes
            setModulator d n { s with taken := true, values := v }

/-- Samples of a slot of a mix's ring. -/
def mixSlotSamples (d : Dev) (x : MixSt) : Nat := ringSlotBytes d x.ring / 4

/-- The tick of sample `i` of a mix (R358). -/
def mixTick (d : Dev) (x : MixSt) (i : Nat) : Nat :=
  let t := feTxOf d x.stream
  match linkFor d 1 x.stream with
  | some l => sampleTick d l (t.bind.start + i * txInterp t.cfg)
  | none => 0

/-- The first sample of a mix whose tick is at or after `c`. -/
def mixFirst (d : Dev) (x : MixSt) (c : Nat) : Nat :=
  let t := feTxOf d x.stream
  match linkFor d 1 x.stream with
  | some l => ceilDiv (firstSample d l c - t.bind.start) (max 1 (txInterp t.cfg))
  | none => 0

/-- A modulator's frame begins, where its first sample lies before the end of the next slot of its mix: at that sample, or
with LATE_LAUNCH at the first one not yet written (R359). -/
def frameStart (d : Dev) (n : Nat) : Dev :=
  let d := modTake d n
  match modulatorOf d n with
  | none => d
  | some s =>
    let x := mixOf d s.mix
    match opOf d s.op with
    | none => d
    | some o =>
      let c := mixFirst d x (lrCount o.desc)
      if !s.taken || s.begun.isSome || x.reg.st ≠ 2 || x.written + mixSlotSamples d x ≤ c then d
      else
        let at_ := max c x.written
        let d := setModulator d n { s with begun := some at_ }
        if c < x.written then postLate d o.ctx ⟨hTag o.desc, o.queue⟩ (lrCount o.desc) (mixTick d x at_) else d

/-- A failed read of a modulator's memory, twice: the frame ends (R373). -/
def modFail (d : Dev) (n : Nat) : Dev :=
  match modulatorOf d n with
  | none => d
  | some s =>
    match opOf d s.op with
    | some o => endUnitOp (dropModulator (postOpFault d o 0x0C04 0) n) (some s.op)
    | none => d

/-- What a memory check of the chirp modem or trellis unit found, where it corrected itself (R373, R375). -/
def trTransient (d : Dev) (hw : HwOutcome) : Dev :=
  if hw = .transient then { d with tr := { d.tr with transients := satAdd 32 d.tr.transients 1 } } else d

/-- LR_FRAME_START. -/
def execLrFrameStart (m : Nat) (hw : HwOutcome) (s : State) : Host.Outcome State Fault Refusal :=
  runDev (m < 64) s fun d =>
    if (modulatorOf d m).isNone then d
    else if hw = .permanent then modFail d m
    else frameStart (trTransient d hw) m

/-- Modulators of a mix, in rising number. -/
def modsOf (d : Dev) (mix : Nat) : List Nat := (d.lr.mods.filter fun e => e.2.mix == mix).map fun e => e.1

/-- One modulator's part of mix sample `i`: nothing before its frame; after its last sample the frame has been sent, and its
LR_TX completes (R359). -/
def modSample (ratio : Nat → Nat × Nat) (i : Nat) (a : Dev × Cplx) (n : Nat) : Dev × Cplx :=
  match modulatorOf a.1 n with
  | none => a
  | some s =>
    match opOf a.1 s.op, s.begun with
    | some o, some b =>
      if i < b then a
      else
        let r := ratio (lrBw o.desc)
        let y := modStep o.desc r.1 r.2 s
        let z := (a.2.1 + y.1.1, a.2.2 + y.1.2)
        if modOver o.desc r.1 r.2 y.2 then
          let d := { a.1 with lr := { a.1.lr with framesSent := satAdd 32 a.1.lr.framesSent 1 } }
          (endUnitOp (dropModulator d n) (some s.op), z)
        else (setModulator a.1 n y.2, z)
    | _, _ => a

/-- One sample of a mix into its slot: the exact sum, saturated (R358). -/
def mixSample (mix slot : Nat) (d : Dev) (k : Nat) : Dev :=
  let x := mixOf d mix
  let i := x.written + k
  let r := (modsOf d mix).foldl (modSample (chirpRatio d x.stream) i) (d, (0, 0))
  let z := satC r.2
  let d := setMix r.1 mix { mixOf r.1 mix with sats := satAdd 32 (mixOf r.1 mix).sats z.2 }
  ringStore d x.ring slot (4 * k) (smpBytes z.1) false

/-- A mix fills an EMPTY slot of its stream's ring (R358). -/
def mixFill (d : Dev) (mix : Nat) : Dev :=
  let x := mixOf d mix
  if x.reg.st ≠ 2 then d
  else
    match claimSlot d x.ring with
    | none => d
    | some (d, s) =>
      let n := mixSlotSamples d x
      let d := (modsOf d mix).foldl frameStart d
      let d := (List.range n).foldl (mixSample mix s) d
      slotPost (setMix d mix { mixOf d mix with written := x.written + n }) x.ring

/-- MIX_SLOT_FILL. -/
def execMixSlotFill (mix : Nat) (s : State) : Host.Outcome State Fault Refusal :=
  runDev (mix < 16) s fun d => mixFill d mix

/-- A frame in progress cut off: LR_TX_ABORTED with the tick of its last sample, and its LR_TX completes (R358, R374). -/
def cutFrame (mix : Nat) (d : Dev) (n : Nat) : Dev :=
  match modulatorOf d n with
  | none => d
  | some s =>
    match opOf d s.op, s.begun with
    | some o, some _ =>
      let x := mixOf d mix
      let d := post d o.ctx 0x0029 ⟨hTag o.desc, o.queue⟩
        (leBytes 1 mix ++ leBytes 1 n ++ zeros 6 ++ leBytes 8 (mixTick d x (x.written - 1)))
      endUnitOp (dropModulator d n) (some s.op)
    | _, _ => d

/-- Every frame of a mix in progress cut off. -/
def cutFrames (d : Dev) (mix : Nat) : Dev := (modsOf d mix).foldl (cutFrame mix) d

/-- A mix moved to a state. -/
def mixTo (d : Dev) (mix st : Nat) : Dev :=
  let x := mixOf d mix
  setMix d mix { x with reg := genTo x.reg st, written := 0 }

/-- The mixes bound to a transmit stream. -/
def mixesOn (d : Dev) (stream : Nat) : List Nat :=
  (List.range 16).filter fun m => (mixOf d m).reg.st != 0 && (mixOf d m).stream == stream

/-- An FE_START arms a transmit stream: its mix runs if the ring is the same (R358). -/
def mixArm (d : Dev) (stream ring : Nat) : Dev :=
  (mixesOn d stream).foldl (fun d m =>
    let d := cutFrames d m
    if (mixOf d m).ring = ring then mixTo d m 2 else d) d

/-- A transmit stream stops: its mix waits for the next FE_START, and frames in progress are cut off. -/
def mixHalt (d : Dev) (stream : Nat) : Dev :=
  (mixesOn d stream).foldl (fun d m =>
    let d := cutFrames d m
    if (mixOf d m).reg.st = 2 then mixTo d m 1 else d) d

/-! ### LR_TX and LR_MIX -/

/-- The first fault of an LR_TX (R373). -/
def lrTxReason (d : Dev) (h : Head) : Option Nat :=
  let x := h.desc
  reasonIf (lrReserved x || dfield x 24 4 2 != 0 || lrSf x < 6 || 12 < lrSf x || 5 < lrBw x || lrRate x == 3 || lrLength x == 0
    || lrPre x < 6 || !ringFor d (lrRing x) h.ctx h.lc (fun r => r.consDie == 0)) 0x0C01

/-- The lowest-numbered modulator that is free (R359). -/
def freeModulator (d : Dev) : Option Nat := firstBelow 64 fun n => !thas d.lr.mods n

/-- An LR_TX takes its modulator and, if it is ready, its payload slot (R359). -/
def startLrTx (d : Dev) (h : Head) : Dev :=
  let (id, d) := issue d h (freshOp d h)
  match freeModulator d with
  | none => d
  | some n =>
    modTake (setModulator d n { op := id, mix := lrMix h.desc, taken := false, values := [], begun := none, m := 0, phase := 0 }) n

/-- LR_TX. -/
def famLrTx : Family :=
  { op := 0xA0, sub := fun _ => true, invalid := 0x0C01, check := lrTxReason, ready := fun d _ => (freeModulator d).isSome,
    run := startLrTx }

/-- LR_TX. -/
def execLrTx (q : Nat) (s : State) : Host.Outcome State Fault Refusal := runHead s q famLrTx

/-- The first fault of an LR_MIX that starts (R358, R373). -/
def lrMixReason (d : Dev) (h : Head) : Option Nat :=
  let x := h.desc
  if lrReserved x || dfield x 24 4 2 != 0
      || !ringFor d (lrRing x) h.ctx h.lc (fun r => r.prodDie == 0 && r.consDie == 0) then some 0x0C01
  else reasonIf ((mixOf d (lrMix x)).reg.st != 0 || !(mixesOn d (lrStream x)).isEmpty
    || (feTxOf d (lrStream x)).reg.st != 0) 0x0C02

/-- A mix bound to its stream and ring, WAITING (R358). -/
def startMix (d : Dev) (h : Head) : Dev :=
  let x := h.desc
  let m := mixOf d (lrMix x)
  let d := setMix d (lrMix x)
    { m with reg := genTo m.reg 1, stream := lrStream x, ring := lrRing x, ctx := h.ctx, lc := h.lc, written := 0 }
  completeHead (bindProd d (lrRing x) (.mix (lrMix x))) h

/-- LR_MIX with `ENABLE` = 1. -/
def famMixOn : Family :=
  { op := 0xA2, sub := lrEnable, invalid := 0x0C01, check := lrMixReason, ready := fun _ _ => true, run := startMix }

/-- LR_MIX_ENABLE. -/
def execLrMixEnable (q : Nat) (s : State) : Host.Outcome State Fault Refusal := runHead s q famMixOn

/-- A mix stopped, its frames in progress cut off (R358). -/
def stopMix (d : Dev) (mix : Nat) : Dev :=
  if (mixOf d mix).reg.st = 0 then d
  else
    let d := cutFrames d mix
    mixTo (freeProd d (mixOf d mix).ring (.mix mix)) mix 0

/-- LR_MIX with `ENABLE` = 0. -/
def famMixOff : Family :=
  { op := 0xA2, sub := fun x => !lrEnable x, invalid := 0x0C01,
    check := fun _ h => reasonIf (lrReserved h.desc || dfield h.desc 24 4 2 != 0) 0x0C01, ready := fun _ _ => true,
    run := fun d h => completeHead (stopMix d (lrMix h.desc)) h }

/-- LR_MIX_DISABLE. -/
def execLrMixDisable (q : Nat) (s : State) : Host.Outcome State Fault Refusal := runHead s q famMixOff

/-! ### Listeners -/

/-- `SF_MASK` of a listener. -/
def lnMask (c : Bytes) : Nat := leAt c 1 1
/-- The searches of a listener (R360). -/
def lnSearches (c : Bytes) : Nat := countBelow 7 (bitAt (lnMask c))
/-- Bandwidth code of a listener. -/
def lnBw (c : Bytes) : Nat := leAt c 2 1

/-- Searches that run (R360). -/
def searches (d : Dev) : Nat := (d.lr.lsns.map fun e => if e.2.reg.st = 1 then lnSearches e.2.cfg else 0).sum

/-- Whether a listener configuration may be written (R375). -/
def lsnCfgOk (c : Bytes) : Bool :=
  c.length == 16 && leAt c 0 1 < 64 && leAt c 1 1 < 128 && leAt c 2 1 ≤ 5 && leAt c 3 1 < 2 && leAt c 8 2 < 4096
    && 4 ≤ leAt c 10 2 && leAt c 14 2 == 0

/-- The first fault of an LR_LISTEN that starts (R363, R373). -/
def lrListenReason (d : Dev) (h : Head) : Option Nat :=
  let x := h.desc
  let l := lsnOf d (lrUnit x)
  if lrReserved x || !ringFor d (lrRing x) h.ctx h.lc (fun r => r.prodDie == 0 && 512 ≤ slotBytes r) then some 0x0C01
  else if l.reg.st != 0 || 128 < searches d + lnSearches l.cfg then some 0x0C02
  else reasonIf ((feRxOf d (leAt l.cfg 0 1)).reg.st != 2) 0x0C03

/-- A listener started (R363). -/
def startListen (d : Dev) (h : Head) : Dev :=
  let n := lrUnit h.desc
  let l := lsnOf d n
  let d := setLsn d n { l with reg := genTo l.reg 1, ctx := h.ctx, lc := h.lc, ring := lrRing h.desc, heard := [] }
  completeHead (bindProd d (lrRing h.desc) (.listener n)) h

/-- LR_LISTEN with `ENABLE` = 1. -/
def famListenOn : Family :=
  { op := 0xA1, sub := lrEnable, invalid := 0x0C01, check := lrListenReason, ready := fun _ _ => true, run := startListen }

/-- LR_LISTEN_START. -/
def execLrListenStart (q : Nat) (s : State) : Host.Outcome State Fault Refusal := runHead s q famListenOn

/-- Demodulations of a listener. -/
def demsOf (d : Dev) (lsn : Nat) : List Nat := (d.lr.dems.filter fun e => e.2.lsn == lsn).map fun e => e.1

/-- A demodulation ended: its context is free, and a decode that waits for it is forgotten (R360, R363). -/
def dropDem (d : Dev) (n : Nat) : Dev :=
  let keep (e : Nat × TrJob) : Bool := e.2.dem != some n || d.tr.engines.contains (some e.1)
  { d with lr := { d.lr with dems := tdel d.lr.dems n },
           tr := { d.tr with jobs := (d.tr.jobs.filter keep).map fun e =>
             (e.1, if e.2.dem = some n then { e.2 with dem := none } else e.2) } }

/-- A listener stopped for a reason: its demodulations are abandoned (R363, R374). -/
def stopListener (d : Dev) (n reason : Nat) : Dev :=
  let l := lsnOf d n
  if l.reg.st ≠ 1 then d
  else
    let dems := demsOf d n
    let d := dems.foldl dropDem d
    let d := setLsn d n { l with reg := genTo l.reg 0, heard := [] }
    let d := freeProd d l.ring (.listener n)
    post d l.ctx 0x0028 noCause (leBytes 1 n ++ leBytes 1 reason ++ zeros 2 ++ leBytes 4 dems.length)

/-- LR_LISTEN with `ENABLE` = 0. -/
def famListenOff : Family :=
  { op := 0xA1, sub := fun x => !lrEnable x, invalid := 0x0C01, check := fun _ h => reasonIf (lrReserved h.desc) 0x0C01,
    ready := fun _ _ => true, run := fun d h => completeHead (stopListener d (lrUnit h.desc) 1) h }

/-- LR_LISTEN_STOP. -/
def execLrListenStop (q : Nat) (s : State) : Host.Outcome State Fault Refusal := runHead s q famListenOff

/-- Running listeners of a receive stream. -/
def lsnsOn (d : Dev) (stream : Nat) : List Nat :=
  (d.lr.lsns.filter fun e => e.2.reg.st == 1 && leAt e.2.cfg 0 1 == stream).map fun e => e.1

/-- The listeners of a stream that stops, stopped (R363). -/
def stopListeners (d : Dev) (stream : Nat) : Dev := (lsnsOn d stream).foldl (fun d n => stopListener d n 2) d

/-- A spoil sample of a stream, noted by the demodulations that listen to it (R362). -/
def noteSpoil (d : Dev) (stream tick : Nat) : Dev :=
  let ls := lsnsOn d stream
  { d with lr := { d.lr with dems := d.lr.dems.map fun e =>
      (e.1, if ls.contains e.2.lsn then { e.2 with badTicks := tick :: e.2.badTicks } else e.2) } }

/-- Ticks of a symbol (R350). -/
def symbolTicks (sf bw : Nat) : Nat := 2 ^ sf * chipTicks bw

/-- A sample of a stream heard by the listeners that watch it (R360). -/
def hear (d : Dev) (stream tick : Nat) (z : Cplx) : Dev :=
  (lsnsOn d stream).foldl (fun d n => setLsn d n { lsnOf d n with heard := (tick, z) :: (lsnOf d n).heard }) d

/-- What a listener heard before a tick, oldest first, mixed down by its `FTW` from phase 0 at its first sample (R360). -/
def mixedDown (l : LsnSt) (till : Nat) : List (Nat × Cplx) :=
  (l.heard.reverse.filter fun e => e.1 < till).zipIdx.map fun e =>
    (e.1.1, (ncoMix false e.1.2 (ncoPhase (sext 32 (leAt l.cfg 4 4)) e.2)).1)

/-- The tick of a listener's first sample. -/
def heardFrom (l : LsnSt) : Option Nat := l.heard.getLast?.map fun e => e.1

/-- The chip-rate samples of a symbol window that ends on a tick, from a place in 1/32 chip after the first sample (R360). -/
def chipsAt (l : LsnSt) (sf : Nat) (cfo : Int) (place till : Nat) : List Cplx :=
  let ms := mixedDown l till
  (List.range (2 ^ sf)).map fun k => Config.chipSample ms (chipTicks (lnBw l.cfg)) cfo (place + 32 * k)

/-- Whether two frame ticks differ in symbol timing by at least a quarter symbol (R360). -/
def timingApart (a b t : Nat) : Bool :=
  let x := (a + t - b % t) % t
  t ≤ 4 * x && 4 * x ≤ 3 * t

/-- Window `w` of a search, counted from the listener's first sample at `t0`: its bin metrics (R360). -/
def searchMetrics (l : LsnSt) (sf t0 w : Nat) : List Nat :=
  binMetrics sf false (chipsAt l sf 0 (32 * 2 ^ sf * w) (t0 + (w + 1) * symbolTicks sf (lnBw l.cfg)))

/-- `PRE_MIN`. -/
def lnPreMin (c : Bytes) : Nat := leAt c 10 2
/-- `PEAK_TH`, Q8.8. -/
def lnPeakTh (c : Bytes) : Nat := leAt c 12 2

/-- Whether the peak-to-mean power ratio of a window is at least a threshold in Q8.8 (R360). -/
def peakEnough (th : Nat) (m : List Nat) : Bool := m.sum != 0 && th * m.sum ≤ 256 * m.length * m.foldl max 0

/-- Whether bins of `n` are the same within ±1 (R360). -/
def binsAgree (n : Nat) (bs : List Nat) : Bool :=
  match bs with
  | [] => false
  | b :: _ => [b + n - 1, b, b + 1].any fun k => bs.all fun c => (c + n + 1 - k % n) % n ≤ 2

/-- The symbol timing of the preamble that a search sees in its last `PRE_MIN` windows, as the tick on which a symbol begins
(R360). -/
def preambleSeen (d : Dev) (l : LsnSt) (sf : Nat) : Option Nat :=
  match heardFrom l with
  | none => none
  | some t0 =>
    let t := symbolTicks sf (lnBw l.cfg)
    let w := (d.time.ticks - t0) / t
    let n := lnPreMin l.cfg
    if w < n then none
    else
      let ms := (List.range n).map fun k => searchMetrics l sf t0 (w - n + k)
      let bs := ms.map strongestBin
      if binsAgree (2 ^ sf) bs && ms.all (peakEnough (lnPeakTh l.cfg)) then
        some (t0 + w * t - bs.getLastD 0 * chipTicks (lnBw l.cfg))
      else none

/-- A preamble that a search of a listener sees is declared (R360): a demodulation context is taken, or the refusal counted. -/
def preamble (d : Dev) (lst sf : Nat) : Dev :=
  let l := lsnOf d lst
  if l.reg.st ≠ 1 || sf < 6 || !bitAt (lnMask l.cfg) (sf - 6) then d
  else
    match preambleSeen d l sf with
    | none => d
    | some start =>
      let t := symbolTicks sf (lnBw l.cfg)
      if d.lr.dems.any fun e => e.2.lsn == lst && e.2.sf == sf && !timingApart start e.2.frameTick t then d
      else
        match firstBelow 256 fun n => !thas d.lr.dems n with
        | none => { d with lr := { d.lr with refused := satAdd 32 d.lr.refused 1 } }
        | some n =>
          setDem d n { lsn := lst, sf := sf, found := false, frameTick := start, place := 0, cfo := 0, snr := 0, peak := 0,
                       symbols := 0, netId := 0, header := none, soft := [], waiting := false, badTicks := [], spoil := false }

/-- PREAMBLE_DECLARED. -/
def execPreambleDeclared (lst sf : Nat) (s : State) : Host.Outcome State Fault Refusal :=
  runDev (lst < 64 && sf ≤ 12) s fun d => preamble d lst sf

/-- A demodulation's estimates, made once the frame mark has been heard (R360, R363). -/
def located (d : Dev) (x : DemSt) : DemSt :=
  let l := lsnOf d x.lsn
  if x.found then x
  else
    match heardFrom l, Config.frameEstimate (mixedDown l d.time.ticks) (chipTicks (lnBw l.cfg)) x.sf x.frameTick with
    | some t0, some e =>
      { x with found := true, frameTick := t0 + (rna (e.1 * chipTicks (lnBw l.cfg)) 32).toNat, place := e.1, cfo := e.2.1,
               snr := e.2.2.1, peak := e.2.2.2 }
    | _, _ => x

/-- The bin metrics of the next symbol window of a demodulation, which ends on a tick: an identity symbol against the
down-chirp, others against the up-chirp (R361). -/
def demodMetrics (d : Dev) (x : DemSt) (till : Nat) : List Nat :=
  binMetrics x.sf (x.symbols < 2)
    (chipsAt (lsnOf d x.lsn) x.sf x.cfo (x.place + 32 * 2 ^ x.sf * x.symbols - 64 * 2 ^ x.sf) till)

/-- A decode given to the trellis unit for a demodulation (R362). -/
def internalJob (d : Dev) (n : Nat) (x : DemSt) (code len : Nat) (input : List Int) : Dev :=
  let j : TrJob :=
    { op := none, dem := some n, lc := (lsnOf d x.lsn).lc, enc := false, code := codesDefault.getD code [], soft := false,
      tail := false, len := len, left := 1, input := input, avail := d.time.ticks,
      running := false }
  let d := setDem d n { x with waiting := true, soft := [] }
  { d with tr := { d.tr with jobs := tset d.tr.jobs d.tr.nextJob j, nextJob := d.tr.nextJob + 1 } }

/-- A header or payload symbol decided: after the last one its decode is asked for (R354, R355, R362). -/
def softSymbol (d : Dev) (n : Nat) (x : DemSt) (bad : Bool) (m : List Nat) : Dev :=
  let b := match x.header with
    | none => x.sf - 3
    | some h => payloadBits x.sf h.2.2
  let qs := if bad then List.replicate b 0 else symbolSoft x.sf b m
  let x := { x with symbols := x.symbols + 1, soft := x.soft ++ qs }
  match x.header with
  | none =>
    let hs := headerSymbols x.sf
    if x.symbols = 2 + hs then internalJob d n x 0 24 ((deinterleave b (hs / b) x.soft).take 60) else setDem d n x
  | some h =>
    let ds := payloadSymbols x.sf h.1 h.2.1 h.2.2
    if x.symbols = 2 + headerSymbols x.sf + ds then
      internalJob d n x h.2.1 (payloadInfo h.1) (deinterleave b (ds / b) x.soft)
    else setDem d n x

/-- The next symbol window of a demodulation is over: an identity value, or soft values (R361, R362). -/
def demod (d : Dev) (n : Nat) : Dev :=
  match tfind d.lr.dems n with
  | none => d
  | some x =>
    let l := lsnOf d x.lsn
    let t := symbolTicks x.sf (lnBw l.cfg)
    let x := located d x
    let till := x.frameTick + x.symbols * t - t
    if !x.found then d
    else if x.waiting || d.time.ticks < till then setDem d n x
    else
      let bad := x.badTicks.any fun k => till ≤ k + t && k < till
      let m := demodMetrics d x till
      let x := { x with spoil := x.spoil || bad }
      if x.symbols = 0 then setDem d n { x with symbols := 1, netId := 64 * identityValue x.sf m }
      else if x.symbols = 1 then
        let id := x.netId + identityValue x.sf m
        if id ≠ leAt l.cfg 8 2 && leAt l.cfg 3 1 = 0 then
          setLsn (dropDem d n) x.lsn { l with netRejects := satAdd 32 l.netRejects 1 }
        else setDem d n { x with symbols := 2, netId := id }
      else softSymbol d n x bad m

/-- DEMOD_SYMBOL; a memory check that fails twice ends the demodulation (R373). -/
def execDemodSymbol (dem : Nat) (hw : HwOutcome) (s : State) : Host.Outcome State Fault Refusal :=
  runDev (dem < 256) s fun d =>
    match tfind d.lr.dems dem with
    | none => d
    | some x =>
      if hw = .permanent then postFault (dropDem d dem) (lsnOf d x.lsn).ctx noCause 0x0C04 0 0 0
      else demod (trTransient d hw) dem

/-- The record of a frame, and its payload, written into a slot of the listener's ring, or dropped (R363). -/
def writeRecord (d : Dev) (x : DemSt) (status rate length : Nat) (reduced : Bool) (payload : Bytes) : Dev :=
  let l := lsnOf d x.lsn
  match claimSlot d l.ring with
  | none => setLsn d x.lsn { l with recordsDropped := satAdd 32 l.recordsDropped 1 }
  | some (d, s) =>
    let r := leBytes 1 x.lsn ++ leBytes 1 status ++ leBytes 1 x.sf
      ++ leBytes 1 (lnBw l.cfg * 32 + rate * 8 + (if reduced then 4 else 0)) ++ leBytes 1 length ++ leBytes 1 0
      ++ leBytes 2 x.netId ++ leBytes 8 x.frameTick ++ leBytes 4 (wrapBits 32 x.cfo) ++ leBytes 2 (wrapBits 16 x.snr)
      ++ zeros 2 ++ leBytes 4 x.peak ++ zeros 4
    let d := slotPost (slotWrite d l.ring (stageOf d l.ring s) 0 (r ++ payload) x.spoil) l.ring
    setLsn d x.lsn { l with framesOk := if status = 1 then satAdd 32 l.framesOk 1 else l.framesOk,
                            headerErrors := if status = 2 then satAdd 32 l.headerErrors 1 else l.headerErrors,
                            payloadErrors := if status = 3 then satAdd 32 l.payloadErrors 1 else l.payloadErrors }

/-- A decoded header: the payload follows, or HEADER_ERROR ends the demodulation (R353, R363). -/
def headerDecoded (d : Dev) (n : Nat) (x : DemSt) (bits : List Bool) : Dev :=
  let h := bitsNat (bits.take 16)
  let length := h / 256
  let rate := h / 64 % 4
  if headerCrc h ≠ bitsNat ((bits.drop 16).take 8) || length = 0 || rate = 3 then
    dropDem (writeRecord d x 2 0 0 false []) n
  else setDem d n { x with header := some (length, rate, bitAt h 5), waiting := false }

/-- A decoded payload: its CRC is checked, and the frame's record written (R355, R363). -/
def payloadDecoded (d : Dev) (n : Nat) (x : DemSt) (h : Nat × Nat × Bool) (bits : List Bool) : Dev :=
  let bytes := packBits h.1 bits
  let crc := bitsNat ((bits.drop (8 * h.1)).take 16)
  dropDem (writeRecord d x (if payloadCrc bytes = crc then 1 else 3) h.2.1 h.1 h.2.2 bytes) n

/-- The bits of a demodulation's decode delivered. -/
def demDecoded (d : Dev) (n : Nat) (bits : List Bool) : Dev :=
  match tfind d.lr.dems n with
  | none => d
  | some x =>
    match x.header with
    | none => headerDecoded d n x bits
    | some h => payloadDecoded d n x h bits

end Sys2Proof.Machine
end

