-- ==== Sys2Proof/Machine/Trellis.lean ====
section
/-!
DEFINITION. Machine/Trellis.lean: the trellis unit: TR_ENC and TR_DEC (R368, R371 to R373), the order in which its engines take
jobs (R369), and the work of a codeword (R365 to R368, R370).
-/
namespace Sys2Proof.Machine
open Sys2Proof

/-- `TR.CODE`. -/
def tCode (x : Desc) : Nat := dfield x 24 0 4
/-- `TR.SOFT_OUT`. -/
def tSoft (x : Desc) : Bool := dbit x 25 1
/-- `TR.TAILBITE`. -/
def tTail (x : Desc) : Bool := dbit x 25 0
/-- `TR.IN_RING`. -/
def tIn (x : Desc) : Nat := dfield x 26 0 12
/-- `TR.OUT_RING`. -/
def tOut (x : Desc) : Nat := dfield x 28 0 12
/-- `TR.LEN`. -/
def tLen (x : Desc) : Nat := dfield x 30 0 16
/-- `TR.COUNT`. -/
def tCount (x : Desc) : Nat := dfield x 32 0 16
/-- Whether a descriptor is a TR_ENC. -/
def tEnc (x : Desc) : Bool := hOpcode x == 0xB0

/-- Code entry `n` (R364). -/
def codeOf (d : Dev) (n : Nat) : Bytes := lget [] d.tr.codes n

/-- Whether a reserved bit of a TR descriptor is set (R371). -/
def trReserved (x : Desc) : Bool :=
  hStrict x || dfield x 24 4 4 != 0 || dfield x 25 2 6 != 0 || dfield x 26 12 4 != 0 || dfield x 28 12 4 != 0
    || dfield x 34 0 240 != 0

/-- Bytes of a codeword's input and output slot (R368). -/
def codewordBytes (c : Bytes) (x : Desc) : Nat × Nat :=
  let coded := codedCount c (tTail x) (tLen x)
  if tEnc x then (ceilDiv (tLen x) 8, ceilDiv coded 8)
  else (coded, if tSoft x then 2 * tLen x else ceilDiv (tLen x) 8)

/-- The first fault of a TR_ENC or TR_DEC (R371 to R373). -/
def trReason (d : Dev) (h : Head) : Option Nat :=
  let x := h.desc
  let c := codeOf d (tCode x)
  if trReserved x || tLen x == 0 || 32768 < tLen x || (tTail x && tLen x < cdK c) || tCount x == 0
      || !ringFor d (tIn x) h.ctx h.lc (fun r => r.consDie == 0)
      || !ringFor d (tOut x) h.ctx h.lc (fun r => r.prodDie == 0) then some 0x0D01
  else
    let n := codewordBytes c x
    reasonIf (ringSlotBytes d (tIn x) < n.1 || ringSlotBytes d (tOut x) < n.2) 0x0D02

/-- A descriptor becomes a job with the code entry it named (R369). -/
def startTr (d : Dev) (h : Head) : Dev :=
  let x := h.desc
  let j : TrJob :=
    { op := none, dem := none, lc := h.lc, enc := tEnc x, code := codeOf d (tCode x), soft := tSoft x && !tEnc x,
      tail := tTail x, len := tLen x, left := tCount x, input := [], avail := d.time.ticks, running := false }
  let (id, d) := issue d h (freshOp d h)
  { d with tr := { d.tr with jobs := tset d.tr.jobs d.tr.nextJob { j with op := some id },
                             nextJob := d.tr.nextJob + 1 } }

/-- TR_ENC. -/
def famTrEnc : Family :=
  { op := 0xB0, sub := fun _ => true, invalid := 0x0D01, check := trReason, ready := fun _ _ => true, run := startTr }
/-- TR_DEC. -/
def famTrDec : Family :=
  { op := 0xB1, sub := fun _ => true, invalid := 0x0D01, check := trReason, ready := fun _ _ => true, run := startTr }

/-- TR_ENC. -/
def execTrEnc (q : Nat) (s : State) : Host.Outcome State Fault Refusal := runHead s q famTrEnc
/-- TR_DEC. -/
def execTrDec (q : Nat) (s : State) : Host.Outcome State Fault Refusal := runHead s q famTrDec

/-! ### Engines (R369) -/

/-- The descriptor of a job's operation. -/
def jobDesc (d : Dev) (j : TrJob) : Option Desc := (j.op.bind (opOf d)).map fun o => o.desc

/-- A ring of a job whose side no other agent serves. -/
def sideFree (a : Option Agent) (id : Nat) : Bool := a.isNone || a == some (.job id)

/-- The tick on which the input of a job's next codeword became available, where it and an output slot are ready (R368,
R369). -/
def jobReady (d : Dev) (id : Nat) (j : TrJob) : Option Nat :=
  match j.op with
  | none => some j.avail
  | some _ =>
    match jobDesc d j with
    | none => none
    | some x =>
      match ringOf d (tIn x), ringOf d (tOut x) with
      | some r, some w =>
        if sideFree r.cons id && sideFree w.prod id && slotStOf w w.tail == .empty
            && (slotStOf r r.head == .full || slotStOf r r.head == .spoil)
        then some (lget 0 r.fullAt r.head) else none
      | _, _ => none

/-- The group of a decoding job, first to last: LC descriptors, internal jobs of LC listeners, of BE listeners, BE
descriptors (R369). -/
def jobGroup (j : TrJob) : Nat :=
  match j.op.isSome, j.lc with
  | true, true => 0
  | false, true => 1
  | false, false => 2
  | true, false => 3

/-- Whether engine `e` takes a job: the encoder encodes, decoder 0 runs only LC jobs (R369). -/
def engineTakes (e : Nat) (j : TrJob) : Bool := if e = 4 then j.enc else !j.enc && (e != 0 || j.lc)

/-- The first of two candidates: by group, then by input tick, then by number. -/
def candBefore (a b : Nat × Nat × Nat) : Bool :=
  a.1 < b.1 || (a.1 == b.1 && (a.2.1 < b.2.1 || (a.2.1 == b.2.1 && a.2.2 < b.2.2)))

/-- The job that engine `e` starts a codeword of now: the one it has begun, or the next that waits (R369). -/
def nextJob (d : Dev) (e : Nat) : Option Nat :=
  match lget none d.tr.engines e with
  | some id =>
    match tfind d.tr.jobs id with
    | some j => if !j.running && (jobReady d id j).isSome then some id else none
    | none => none
  | none =>
    let cs := d.tr.jobs.filterMap fun c =>
      if d.tr.engines.contains (some c.1) || !engineTakes e c.2 then none
      else (jobReady d c.1 c.2).map fun t => ((if e = 4 then 0 else jobGroup c.2), t, c.1)
    match cs with
    | [] => none
    | a :: t => some (t.foldl (fun m c => if candBefore c m then c else m) a).2.2

/-- The device with a job replaced. -/
def setJob (d : Dev) (id : Nat) (j : TrJob) : Dev := { d with tr := { d.tr with jobs := tset d.tr.jobs id j } }

/-- An engine starts a codeword: the input slot is DRAINING and the output slot FILLING from now on (R368, R369). -/
def codewordStart (d : Dev) (e : Nat) : Dev :=
  match nextJob d e with
  | none => d
  | some id =>
    match tfind d.tr.jobs id with
    | none => d
    | some j =>
      let d := { d with tr := { d.tr with engines := lset d.tr.engines e (some id) } }
      let d := setJob d id { j with running := true }
      match jobDesc d j with
      | none => d
      | some x =>
        let d := bindProd (bindCons d (tIn x) (.job id)) (tOut x) (.job id)
        match takeSlot d (tIn x) with
        | none => d
        | some (d, _) =>
          match claimSlot d (tOut x) with
          | none => d
          | some (d, _) => d

/-- TRELLIS_CODEWORD_START: engines 0 to 3 decode, engine 4 encodes. -/
def execTrellisCodewordStart (eng : Nat) (s : State) : Host.Outcome State Fault Refusal :=
  runDev (eng < 5) s fun d => codewordStart d eng

/-! ### A codeword (R365 to R368, R370) -/

/-- Soft inputs of a slot: INT8, held to ±31 (R366). -/
def softInputs (bs : Bytes) : List Int := bs.map fun b => clampInt (-31) 31 b.toInt

/-- The output bytes of a codeword, and its saturations (R365, R367, R368). -/
def codewordOut (j : TrJob) (input : Bytes) : Bytes × Nat :=
  if j.enc then
    let c := encodeBits j.code j.tail (unpackBits input j.len)
    (packBits (ceilDiv (codedCount j.code j.tail j.len) 8) c, 0)
  else
    let soft := softInputs input
    if j.soft then
      let ls := bcjr j.code j.tail j.len soft
      (ls.flatMap fun l => leBytes 2 (wrapBits 16 (clampInt (-32767) 32767 l)),
        (ls.filter fun l => l < -32767 || 32767 < l).length)
    else (packBits (ceilDiv j.len 8) (viterbi j.code j.tail j.len soft), 0)

/-- The engine is free, and the job is forgotten. -/
def jobEnd (d : Dev) (e id : Nat) : Dev :=
  { d with tr := { d.tr with engines := lset d.tr.engines e none, jobs := tdel d.tr.jobs id } }

/-- The counters of a codeword that a decoder has finished (R370, R375). -/
def countCodeword (d : Dev) (e : Nat) (j : TrJob) (sats : Nat) : Dev :=
  if e = 4 then d
  else
    let n := decodeCycles j.code j.tail j.soft j.len
    { d with tr := { d.tr with cycles := lmod d.tr.cycles e fun c => satAdd 64 c n,
                               codewords := satAdd 64 d.tr.codewords 1,
                               softSats := satAdd 32 d.tr.softSats sats } }

/-- The codeword of an internal job is over: its bits go to the demodulation, or end it on a memory failure (R362, R373). -/
def internalDone (d : Dev) (e id : Nat) (j : TrJob) (hw : HwOutcome) : Dev :=
  let d := countCodeword (jobEnd d e id) e j 0
  match j.dem with
  | none => d
  | some n =>
    match tfind d.lr.dems n with
    | none => d
    | some x =>
      if hw = .permanent then postFault (dropDem d n) (lsnOf d x.lsn).ctx noCause 0x0C04 0 0 0
      else demDecoded d n (viterbi j.code j.tail j.len j.input)

/-- One SPOIL_READ a descriptor (R368). -/
def jobSpoilRead (d : Dev) (id : Nat) : Dev :=
  match opOf d id with
  | some o => if o.spoilRest then d else postSpoilRead (setOp d id { o with spoilRest := true }) o
  | none => d

/-- The last codeword of a descriptor is written: it completes when its output slots have arrived (R225, R372). -/
def jobDone (d : Dev) (e id op : Nat) (x : Desc) : Dev :=
  let outs := outMark d (tOut x)
  let d := freeProd (freeCons (jobEnd d e id) (tIn x) (.job id)) (tOut x) (.job id)
  modOp d op fun o => { o with phase := .done, outs := outs }

/-- The codeword of a descriptor is over: its output slot is written, or SPOIL where its input held spoil or a memory word
failed twice (R368, R373). -/
def descriptorDone (d : Dev) (e id op : Nat) (j : TrJob) (x : Desc) (hw : HwOutcome) : Dev :=
  match ringOf d (tIn x), ringOf d (tOut x), opOf d op with
  | some r, some w, some o =>
    let bad := slotSpoil d (tIn x) r.head
    let out := codewordOut j (slotRead d (tIn x) r.head 0 (codewordBytes j.code x).1)
    let fail := bad || hw == .permanent
    let d := if fail then slotSpoilRest d (tOut x) (stageSlot w w.tail) 0 (slotBytes w) else slotWrite d (tOut x) (stageSlot w w.tail) 0 out.1 false
    let d := countCodeword d e j (if fail then 0 else out.2)
    let d := if bad then jobSpoilRead d op else d
    let d := if hw = .permanent then postOpFault d o 0x0D03 0 else d
    let d := slotPost (slotGive d (tIn x)) (tOut x)
    if j.left ≤ 1 then jobDone d e id op x else setJob d id { j with left := j.left - 1, running := false }
  | _, _, _ => modOp (jobEnd d e id) op fun o => { o with phase := .done }

/-- A codeword finishes on an engine (R370). -/
def codewordDone (d : Dev) (e : Nat) (hw : HwOutcome) : Dev :=
  match lget none d.tr.engines e with
  | none => d
  | some id =>
    match tfind d.tr.jobs id with
    | none => d
    | some j =>
      if !j.running then d
      else
        let d := trTransient d hw
        match j.op with
        | none => internalDone d e id j hw
        | some op =>
          match jobDesc d j with
          | some x => descriptorDone d e id op j x hw
          | none => jobEnd d e id

/-- TRELLIS_CODEWORD_COMPLETE. -/
def execTrellisCodewordComplete (eng : Nat) (hw : HwOutcome) (s : State) : Host.Outcome State Fault Refusal :=
  runDev (eng < 5) s fun d => codewordDone d eng hw

end Sys2Proof.Machine
end

