-- ==== Sys2Proof/Machine/Links.lean ====
section
/-!
DEFINITION. Machine/Links.lean: JESD204C links and converter lanes: SYSREF and the LEMC grid (R288), start-up (R291), lane lock
(R292), multiblock checks (R293) and lanes worked out (R294).
-/
namespace Sys2Proof.Machine
open Sys2Proof

/-- Contexts with a running stream on a link (R314). -/
def linkCtxs (d : Dev) (l : Nat) : List Nat :=
  let r := (linkOf d l).rcd
  let on (e : Nat × GenSt × Nat) : Bool := e.2.1.st == 2 && lkCarries r false e.1
  if l < 4 then (((d.fe.rx.map fun e => (e.1, e.2.reg, e.2.bind.ctx)).filter on).map fun e => e.2.2).eraseDups
  else (((d.fe.tx.map fun e => (e.1, e.2.reg, e.2.bind.ctx)).filter on).map fun e => e.2.2).eraseDups

/-- The link state moved (R291). -/
def linkTo (d : Dev) (l st : Nat) : Dev := modLink d l fun k => { k with reg := genTo k.reg st }

/-- A link enters ERROR and posts LINK_DOWN (R292, R294, R314). -/
def linkFail (d : Dev) (l lane reason : Nat) : Dev :=
  (linkCtxs d l).foldl (fun d c => post d c 0x0020 noCause (leBytes 1 l ++ leBytes 1 lane ++ leBytes 1 reason)) (linkTo d l 3)

/-- The receive link that uses a physical receive lane and is not STOPPED. -/
def linkOfLane (d : Dev) (p : Nat) : Option Nat :=
  (List.range 4).find? fun l => (linkOf d l).reg.st != 0 && (lkLanes (linkOf d l).rcd).contains p

/-- The link of either direction that uses lane `p` (16 and up transmit) and is ALIGNING or RUNNING. -/
def activeLinkOf (d : Dev) (p : Nat) : Option Nat :=
  (if p < 16 then [0, 1, 2, 3] else [4, 5, 6, 7]).find? fun l =>
    ((linkOf d l).reg.st == 1 || (linkOf d l).reg.st == 2) && (lkLanes (linkOf d l).rcd).contains (p % 16)

/-- A converter lane worked out: its link, if active, loses it (R292, R293, R294, R471). -/
def jesdLaneOut (d : Dev) (p : Nat) : Dev :=
  if (laneOf d p).reg.st = 3 then d
  else
    let l := activeLinkOf d p
    let d := modLane d p fun x => { x with reg := genTo x.reg 3 }
    let d := postWorkedOut d 0x4013 (p + 1)
    match l with
    | some l => linkFail d l (p % 16) 1
    | none => d

/-! ### SYSREF (R288) -/

/-- Whether an edge at this tick is more than one tick off a link's grid. -/
def offGrid (d : Dev) (k : LinkSt) : Bool :=
  match k.lemc with
  | some g =>
    let x := (d.time.ticks + d.fe.sysrefOffset + 625 - g % 625) % 625
    k.reg.st != 0 && 1 < x && x < 624
  | none => false

/-- A rising SYSREF edge: timestamped (R401); the first one after a link leaves STOPPED fixes its LEMC grid; one off the grid
of a link is counted and posted (R288). -/
def sysrefEdge (d : Dev) : Dev :=
  let t := d.time.ticks
  let near : Bool := match d.time.sysrefSeen with
    | some p => t < p + 4
    | none => false
  let d := if near then d else { d with time := { d.time with sysrefLast := t, sysrefSeen := some t } }
  let off := (List.range 8).filter fun l => offGrid d (linkOf d l)
  let d := if off.isEmpty then d
    else
      let cs := (off.flatMap (linkCtxs d)).eraseDups
      cs.foldl (fun d c => post d c 0x0025 noCause (zeros 8 ++ leBytes 8 t))
        { d with fe := { d.fe with drifts := satAdd 32 d.fe.drifts 1 } }
  { d with fe := { d.fe with links := d.fe.links.map fun k =>
      if k.reg.st = 1 && k.lemc.isNone then { k with lemc := some (t + d.fe.sysrefOffset) } else k } }

/-- SYSREF_EDGE. -/
def execSysrefEdge (s : State) : Host.Outcome State Fault Refusal := runDev true s sysrefEdge

/-! ### Lane lock (R291, R292) -/

/-- Whether a lane has lock on its link. -/
def laneLocked (d : Dev) (l p : Nat) : Bool := (linkOf d l).locked.contains p

/-- The first multiblock of a link that begins at or after this tick. -/
def nextMultiblock (d : Dev) (l : Nat) : Nat := ceilDiv ((d.time.ticks - (linkOf d l).base) * lkE (linkOf d l).rcd) 625

/-- A lane gains lock, and the failure before it, if any, was transient (R292, R470). On a running link it had lost it: the multiblocks in between never came. -/
def laneLock (d : Dev) (p : Nat) : Dev :=
  match linkOfLane d p with
  | none => d
  | some l =>
    let k := linkOf d l
    if (laneOf d p).reg.st = 3 || k.locked.contains p then d
    else
      let d := modLink d l fun k => { k with locked := insSorted k.locked p, since := max k.since d.time.ticks }
      let d := modLane d p fun x => { x with second := false }
      if k.reg.st = 2 then
        let m := (laneOf d p).mb
        let n := max m (nextMultiblock d l)
        let d := modLink d l fun k => { k with badMb := ((List.range (n - m)).map fun i => m + i).foldl insSorted k.badMb }
        modLane d p fun x => { x with mb := n, bad := false }
      else d

/-- LANE_LOCK: physical lanes 0 to 15 receive; a transmit lane has no lock to gain. -/
def execLaneLock (lane : Nat) (s : State) : Host.Outcome State Fault Refusal :=
  runDev (lane < 32) s fun d => if lane < 16 then laneLock d lane else d

/-- A failed attempt of a lane at lock, or a loss of lock: one further attempt follows, and the second failure works the lane
out (R292). -/
def laneFails (d : Dev) (p : Nat) : Dev :=
  if (laneOf d p).second then jesdLaneOut d p
  else modLane d p fun x => { x with second := true, since := d.time.ticks }

/-- Whether a lane's attempt at lock has run past its 80,000 ticks (R292, R400). -/
def lockOver (d : Dev) (p : Nat) : Bool :=
  match linkOfLane d p with
  | some l => (laneOf d p).reg.st != 3 && !laneLocked d l p && (laneOf d p).since + 80000 < d.time.ticks
  | none => false

/-- LANE_LOCK_TIMEOUT. -/
def execLaneLockTimeout (lane : Nat) (s : State) : Host.Outcome State Fault Refusal :=
  runDev (lane < 32) s fun d => if lane < 16 && lockOver d lane then laneFails d lane else d

/-- A locked lane loses its lock (R292). -/
def lockLoss (d : Dev) (p : Nat) : Dev :=
  match linkOfLane d p with
  | none => d
  | some l =>
    if laneLocked d l p then laneFails (modLink d l fun k => { k with locked := delSorted k.locked p }) p else d

/-- LANE_LOCK_LOSS. -/
def execLaneLockLoss (lane : Nat) (s : State) : Host.Outcome State Fault Refusal :=
  runDev (lane < 32) s fun d => if lane < 16 then lockLoss d lane else d

/-! ### Release (R289, R291) -/

/-- The boundary at which an ALIGNING link releases: the first one after its lanes have locked, once its grid is fixed. -/
def releaseBoundary (k : LinkSt) : Option Nat :=
  match k.lemc with
  | none => none
  | some g => some (if k.since < g then g else g + ((k.since - g) / 625 + 1) * 625)

/-- Whether every lane of a link that must lock has lock. -/
def allLocked (d : Dev) (l : Nat) : Bool := 4 ≤ l || (lkLanes (linkOf d l).rcd).all (laneLocked d l)

/-- A stream bound to a link whose sample count begins anew. -/
def rebase (d : Dev) (l g : Nat) (b : Binding) : Binding :=
  { b with start := ceilDiv (firstSample d l (max b.count d.time.ticks)) g * g, n := 0 }

/-- The streams and lanes of a link that begins to run. -/
def linkBegins (d : Dev) (l : Nat) : Dev :=
  let r := (linkOf d l).rcd
  let d := { d with fe := { d.fe with
    rx := d.fe.rx.map fun e => (e.1, if l < 4 && lkCarries r false e.1 && e.2.reg.st != 0 then
      { e.2 with bind := rebase d l (max 1 (rxDec e.2.cfg)) e.2.bind } else e.2),
    tx := d.fe.tx.map fun e => (e.1, if 4 ≤ l && lkCarries r false e.1 && e.2.reg.st != 0 then
      { e.2 with bind := rebase d l 1 e.2.bind } else e.2),
    obs := d.fe.obs.map fun e => (e.1, if l < 4 && lkCarries r true e.1 then 0 else e.2) } }
  if l < 4 then (lkLanes r).foldl (fun d p => modLane d p fun x => { x with mb := 0, bad := false }) d else d

/-- The release of an ALIGNING link: RUNNING, or ERROR where a lane's data is late (R291, R292). -/
def lemcRelease (d : Dev) (l : Nat) (late : Option Nat) : Dev :=
  let k := linkOf d l
  match releaseBoundary k with
  | none => d
  | some b =>
    if k.reg.st ≠ 1 || !allLocked d l || d.time.ticks < b + (if l < 4 then lkRelease k.rcd else 0) then d
    else
      match late.filter fun p => l < 4 && (lkLanes k.rcd).contains p with
      | some p => linkFail d l p 2
      | none => linkBegins (modLink (linkTo d l 2) l fun k => { k with base := b, badMb := [] }) l

/-- LEMC_RELEASE: the release of link `link`, with a physical lane whose data is not yet in its buffer, if one is late. -/
def execLemcRelease (link : Nat) (late : Option Nat) (s : State) : Host.Outcome State Fault Refusal :=
  runDev (link < 8) s fun d => lemcRelease d link late

/-! ### Multiblocks (R293) -/

/-- The tick by which multiblock `n` of a link has arrived whole. -/
def multiblockEnd (k : LinkSt) (n : Nat) : Nat := k.base + ceilDiv (625 * (n + 1)) (max 1 (lkE k.rcd))

/-- The next multiblock of a lane checked (R293). -/
def multiblock (d : Dev) (p : Nat) (ok : Bool) : Dev :=
  match linkOfLane d p with
  | none => d
  | some l =>
    let k := linkOf d l
    let x := laneOf d p
    if k.reg.st ≠ 2 || !laneLocked d l p || d.time.ticks < multiblockEnd k x.mb then d
    else if ok then
      modLane d p fun x => { x with mb := x.mb + 1, bad := false,
                                    transients := if x.bad then satAdd 32 x.transients 1 else x.transients }
    else
      let d := modLink d l fun k => { k with badMb := insSorted k.badMb x.mb }
      let d := modLane d p fun x => { x with mb := x.mb + 1, bad := true }
      if x.bad then jesdLaneOut d p else d

/-- JESD_MULTIBLOCK. -/
def execJesdMultiblock (lane : Nat) (crcOk : Bool) (s : State) : Host.Outcome State Fault Refusal :=
  runDev (lane < 32) s fun d => if lane < 16 then multiblock d lane crcOk else d

/-- Whether converter sample `c` of a link has come: its multiblock is checked on every lane that has lock (R293). -/
def sampleHere (d : Dev) (l c : Nat) : Bool :=
  let k := linkOf d l
  k.reg.st == 3 || (lkLanes k.rcd).all fun p => !k.locked.contains p || multiblockOf d l c < (laneOf d p).mb

/-- Whether converter sample `c` of a link is spoil: its multiblock failed, a lane has no lock, or the link is in ERROR
(R293, R294). -/
def sampleBad (d : Dev) (l c : Nat) : Bool :=
  let k := linkOf d l
  k.reg.st == 3 || k.badMb.contains (multiblockOf d l c) || !(lkLanes k.rcd).all k.locked.contains

/-! ### Requests (R291) -/

/-- A request for RUNNING on a STOPPED link accepted: its lanes search for lock. -/
def linkStart (d : Dev) (l : Nat) : Dev :=
  let t := d.time.ticks
  let d := modLink (linkTo d l 1) l fun k => { k with since := t, locked := [], lemc := none, badMb := [] }
  if l < 4 then
    (lkLanes (linkOf d l).rcd).foldl (fun d p => modLane d p fun x => { x with since := t, second := false, mb := 0, bad := false }) d
  else d

/-- A request for STOPPED accepted. -/
def linkStop (d : Dev) (l : Nat) : Dev := modLink (linkTo d l 0) l fun k => { k with locked := [], lemc := none, badMb := [] }

end Sys2Proof.Machine
end

