-- ==== Sys2Proof/Machine/QuantNum.lean ====
section
/-!
DEFINITION. Machine/QuantNum.lean: the quantisation unit's arithmetic on values: group statistics, scale formation,
the quantising conversion and dequantisation (R134 to R143).
-/
namespace Sys2Proof.Machine

/-- Quantisation range of an integer target, or ±480 for F8 (R135). -/
def quantHi : Fmt → Int
  | .f8 => 480
  | f => intMax (fmtBits f)

/-- absmax of a group: a NaN wins, −0 measures as +0 (R134). -/
def groupAbsmax (vs : List Val) : Val := (vs.map absVal).foldl maxVal valZeroP

/-- Smallest `e` with `2^e ≥ n / d`. -/
def ceilLog2 (n d : Nat) : Int :=
  let e := lg2 n d
  if exactAt 1 e n d then e else e + 1

/-- The scale of a group from its absmax, as an FP32 code; it sets no flag (R136). -/
def scaleOf (pow2 : Bool) (qmax : Nat) (absmax : Val) : Nat :=
  match absmax with
  | .nan _ => 0x7FC00000
  | .inf _ => 0x7F800000
  | .fin _ n d =>
    if n = 0 then 0x3F800000
    else
      let d' := d * qmax
      if n * 2 ^ 126 < d' then 0x00800000
      else if pow2 then
        let e := min (ceilLog2 n d') 127
        (e + 127).toNat * 2 ^ 23
      else (toFp32 false false (.fin false n d')).bits

/-- A quantising conversion of `x` with scale `s` and zero point `z` (R53, R137, R143). In strict mode it sets `INEXACT` for
an integer source too. DEDUCED (R139 says every conversion; R41 excepts operations all of whose operands are integer, but a
scale is FP32): assumption log 116. -/
def quantElem (fd : Fmt) (strict ftz : Bool) (z : Int) (x s : Val) : FR :=
  let q := divVal x s
  withFlags q.2 <|
    if fd = .f8 then convert .f8 strict ftz q.1
    else
      match q.1 with
      | .fin neg n d =>
        let m := roundQ false n d
        let r : Int := (if neg then -(m : Int) else m) + z
        let w := fmtBits fd
        if outsideInt w r then ⟨wrapBits w (satInt w r), fSaturated ||| fWhen strict fInexact⟩
        else ⟨wrapBits w r, fWhen (strict && m * d != n) fInexact⟩
      | v => toInt (fmtBits fd) strict v

/-- Dequantisation `(q − z) × s`, rounded once by mode (R140). A zero difference is +0, as R40 has it for terms that cancel,
and the product keeps its sign, so a negative scale gives −0. DEDUCED: assumption log 116. -/
def dequantElem (fd : Fmt) (md : NMode) (z : Int) (q s : Val) : FR :=
  let a : Val := match q with
    | .fin neg n d => if z = 0 then .fin neg n d else fracVal (fracSub (valFrac (.fin neg n d)) ⟨z, 1⟩) false
    | v => v
  let p := mulVal a s
  withFlags p.2 (toFloat fd md.strict md.ftz p.1)

/-- Whether an FP32 code is a finite power of two (R144). -/
def isPow2Fp32 (x : Nat) : Bool :=
  match fp32Val x with
  | .fin s n d => !s && n != 0 && (let e := lg2 n d; exactAt 1 e n d)
  | _ => false

end Sys2Proof.Machine
end

