-- ==== Sys2Proof/Machine/Bench.lean ====
section
/-!
DEFINITION. Machine/Bench.lean: MATMUL and CONV: descriptors and their checks (R85 to R90), the element each output reads
(R85, R87 to R89), the arithmetic (R41 to R48, R65 to R70, R86), spoil (R83) and execution time (R91, R506).
-/
namespace Sys2Proof.Machine
open Sys2Proof

/-- What a compute operation gives between two cursors: its output elements per tensor, the flags it raises (R59), whether
it read spoil, the running state it saves, the output blocks that it has still to write whole, and the cursor it reaches. -/
structure Work where
  outs : List (Tensor × List OutElem)
  flags : Flags
  spoil : Bool
  held : List Held
  left : List Nat
  cur : List Nat
deriving DecidableEq, Repr

/-- No work. -/
def Work.none : Work := ⟨[], fNone, false, [], [], []⟩

/-- A saved value of an operation's running state. -/
def heldAt (hs : List Held) (key : Nat) : Option Held := hs.find? fun h => h.key == key

/-- Where a range's cursor goes: the place a command names, never back and never past the end; the end where it names none. -/
def cursorTo (cur till : List Nat) (r total : Nat) : Nat :=
  match till[r]? with
  | some t => min total (max (lget 0 cur r) t)
  | .none => total

/-- Classes of operand pairs (R63, R86). -/
inductive BClass where
  | int | real | ci | cf
deriving DecidableEq, Repr

/-- A MATMUL or CONV as decoded: for a MATMUL `geo` is M, N, K; for a CONV the batch is read from the tensor. -/
structure BenchJob where
  mat : Bool
  a : Nat
  w : Nat
  dst : Nat
  c : Nat
  fa : Nat
  fw : Nat
  fd : Nat
  accum : Bool
  part : Bool
  flow : Nat
  zpEn : Bool
  ksplit : Bool
  zp : Int
  x : Desc
deriving DecidableEq, Repr

/-- The fields of a MATMUL (R85) or CONV (R87). -/
def benchJob (x : Desc) : BenchJob :=
  let mat := hOpcode x == 0x10
  let o := if mat then 48 else 52
  { mat := mat, a := dfield x 24 0 32, w := dfield x 28 0 32, dst := dfield x 32 0 32,
    c := dfield x (if mat then 56 else 60) 0 32, fa := dfield x o 4 4, fw := dfield x o 0 4, fd := dfield x (o + 1) 0 4,
    accum := dbit x (o + 1) 7, part := dbit x (o + 1) 6, flow := dfield x (o + 1) 4 2, zpEn := dbit x (o + 2) 3,
    ksplit := dbit x (o + 2) 2, zp := sext 32 (dfield x (if mat then 52 else 56) 0 32), x := x }

/-- The operand pairs (R63): class and logical columns. -/
def pairOf (fa fw : Nat) : Option (BClass × Nat) :=
  match fmtOf fa, fmtOf fw with
  | some .int4, some .int4 => some (.int, 256)
  | some .int8, some .int8 => some (.int, 128)
  | some .int8, some .int4 => some (.int, 128)
  | some .f8, some .f8 => some (.real, 128)
  | some .fp16, some .fp16 => some (.real, 32)
  | some .bf16, some .bf16 => some (.real, 32)
  | some .fp32, some .fp32 => some (.real, 8)
  | some .ci16, some .ci16 => some (.ci, 32)
  | some .cf16, some .cf16 => some (.cf, 8)
  | _, _ => none

/-- Whether a destination format is allowed for a class (R86). -/
def dstAllowed (c : BClass) (fd : Nat) : Bool :=
  match c with
  | .int => fd == 3
  | .real => fd == 7 || fd == 6 || fd == 5 || fd == 4
  | .ci => fd == 3
  | .cf => fd == 9 || fd == 7

/-- Elements of the destination tensor per output element: two for a pair format (R86). -/
def dstWidth (c : BClass) (fd : Nat) : Nat :=
  match c with
  | .ci => 2
  | .cf => if fd = 7 then 2 else 1
  | _ => 1

/-- Elements of the accumulator source per output element (R85, R86). -/
def accWidth (c : BClass) : Nat := match c with | .ci | .cf => 2 | _ => 1

/-- Format code of the accumulator source. -/
def accFmt (c : BClass) : Nat := match c with | .int | .ci => 3 | _ => 7

/-- CONV.IN_H. -/
def cvInH (x : Desc) : Nat := dfield x 36 0 16
/-- CONV.IN_W. -/
def cvInW (x : Desc) : Nat := dfield x 38 0 16
/-- CONV.CIN. -/
def cvCin (x : Desc) : Nat := dfield x 40 0 16
/-- CONV.COUT. -/
def cvCout (x : Desc) : Nat := dfield x 42 0 16
/-- CONV.KH. -/
def cvKh (x : Desc) : Nat := dfield x 44 0 8
/-- CONV.KW. -/
def cvKw (x : Desc) : Nat := dfield x 45 0 8
/-- CONV.STRIDE_H. -/
def cvSh (x : Desc) : Nat := dfield x 46 4 4
/-- CONV.STRIDE_W. -/
def cvSw (x : Desc) : Nat := dfield x 46 0 4
/-- CONV.DIL_H. -/
def cvDh (x : Desc) : Nat := dfield x 47 4 4
/-- CONV.DIL_W. -/
def cvDw (x : Desc) : Nat := dfield x 47 0 4
/-- CONV.PAD_T. -/
def cvPt (x : Desc) : Nat := dfield x 48 4 4
/-- CONV.PAD_B. -/
def cvPb (x : Desc) : Nat := dfield x 48 0 4
/-- CONV.PAD_L. -/
def cvPl (x : Desc) : Nat := dfield x 49 4 4
/-- CONV.PAD_R. -/
def cvPr (x : Desc) : Nat := dfield x 49 0 4
/-- CONV.GROUPS. -/
def cvGroups (x : Desc) : Nat := dfield x 50 0 16

/-- An output extent; zero or less where the kernel does not fit (R88). -/
def convOut (size p0 p1 dil k stride : Nat) : Int := ((size + p0 + p1 : Nat) - (dil * (k - 1) : Nat) - 1 : Int) / (stride : Int) + 1

/-- OUT_H. -/
def cvOutH (x : Desc) : Int := convOut (cvInH x) (cvPt x) (cvPb x) (cvDh x) (cvKh x) (cvSh x)
/-- OUT_W. -/
def cvOutW (x : Desc) : Int := convOut (cvInW x) (cvPl x) (cvPr x) (cvDw x) (cvKw x) (cvSw x)

/-- Whether a reserved bit is set (R6, R85, R87). -/
def benchReserved (x : Desc) : Bool :=
  if hOpcode x = 0x10 then dfield x 50 4 4 != 0 || dfield x 51 0 8 != 0 || dfield x 60 0 32 != 0
  else dfield x 54 4 4 != 0 || dfield x 54 0 2 != 0 || dfield x 55 0 8 != 0

/-- Whether the geometry fields keep their ranges (R85, R87, R90). -/
def benchRangesOk (x : Desc) : Bool :=
  if hOpcode x = 0x10 then
    [36, 40, 44].all fun o => 1 ≤ dfield x o 0 32 && dfield x o 0 32 ≤ 16777216
  else
    [36, 38, 40, 42].all (fun o => 1 ≤ dfield x o 0 16) && 1 ≤ cvKh x && 1 ≤ cvKw x && 1 ≤ cvSh x && 1 ≤ cvSw x
      && 1 ≤ cvDh x && 1 ≤ cvDw x && 1 ≤ cvGroups x && cvCin x % cvGroups x == 0 && cvCout x % cvGroups x == 0
      && 1 ≤ cvOutH x && 1 ≤ cvOutW x

/-- Whether an activation zero point is allowed (R70). -/
def zpOk (j : BenchJob) : Bool :=
  !j.zpEn || (j.fa == 0 && -8 ≤ j.zp && j.zp ≤ 7) || (j.fa == 1 && -128 ≤ j.zp && j.zp ≤ 127)

/-- Outputs per row and the number of rows of the output view: N and M, or COUT and batch × OUT_H × OUT_W. -/
def outCols (j : BenchJob) : Nat := if j.mat then dfield j.x 40 0 32 else cvCout j.x

/-- The batch of a CONV: the outermost dimension of its activation tensor, an extent beyond the recorded rank being 1 (R87). -/
def convBatch (_j : BenchJob) (ta : Tensor) : Nat := tDim ta 3

/-- Rows of the output view. -/
def outRows (j : BenchJob) (ta : Tensor) : Nat :=
  if j.mat then dfield j.x 36 0 32 else convBatch j ta * (cvOutH j.x).toNat * (cvOutW j.x).toNat

/-- Whether a tensor has the extents given, innermost first; an extent beyond its rank is 1. -/
def dimsAre (t : Tensor) (ds : List Nat) : Bool := (List.range 5).all fun i => tDim t i == lget 1 ds i

/-- Whether a tensor is a matrix of the rows and columns given: it has the innermost extent, and its other dimensions hold
the rows. DEDUCED: assumption log 110. -/
def matIs (t : Tensor) (rows cols : Nat) : Bool := tInner t == cols && tElems t == rows * cols

/-- Whether the operands' shapes agree with the descriptor (R85 to R88, R90). -/
def benchShapeOk (j : BenchJob) (cls : BClass) (ta tw td : Tensor) (tc : Option Tensor) : Bool :=
  let x := j.x
  let m := dfield x 36 0 32
  let n := dfield x 40 0 32
  let k := dfield x 44 0 32
  let view (t : Tensor) (w : Nat) : Bool :=
    if j.mat then matIs t m (n * w) else dimsAre t [cvCout x * w, (cvOutW x).toNat, (cvOutH x).toNat, convBatch j ta]
  let ab := if j.mat then
      (if dbit x 50 0 then matIs ta k m else matIs ta m k) && (if dbit x 50 1 then matIs tw n k else matIs tw k n)
    else
      dimsAre ta [cvCin x, cvInW x, cvInH x, convBatch j ta]
        && dimsAre tw [cvCout x, cvCin x / cvGroups x, cvKw x, cvKh x]
  let cf := accWidth cls
  let cOk := match tc with
    | none => true
    | some t => t.fmt == accFmt cls && (view t cf || (tInner t == outCols j * cf && tElems t == outCols j * cf))
  ab && ta.fmt == j.fa && tw.fmt == j.fw && td.fmt == j.fd && view td (dstWidth cls j.fd) && cOk

/-- The first fault of a MATMUL or CONV (R90, R201). -/
def benchReason (d : Dev) (h : Head) : Option Nat :=
  let j := benchJob h.desc
  match pairOf j.fa j.fw with
  | none => some 0x0301
  | some (cls, _) =>
    if benchReserved h.desc || !dstAllowed cls j.fd || !benchRangesOk h.desc || !zpOk j || !isTensorId j.a
        || !isTensorId j.w || !isTensorId j.dst || (j.accum && !isTensorId j.c) then some 0x0301
    else
      match tensorOf d h.ctx j.a, tensorOf d h.ctx j.w, tensorOf d h.ctx j.dst with
      | some ta, some tw, some td =>
        if j.accum then
          match tensorOf d h.ctx j.c with
          | some tc => if benchShapeOk j cls ta tw td (some tc) then none else some 0x0302
          | none => some 0x0704
        else if benchShapeOk j cls ta tw td none then none else some 0x0302
      | _, _, _ => some 0x0704

/-! ### Operands of an output element -/

/-- One k-step's operands: the activation's index or padding, and the weight's index. -/
structure KStep where
  a : Option Nat
  w : Nat
deriving DecidableEq, Repr

/-- The k-steps of output (row `m`, column `n`) of a MATMUL (R85). -/
def matSteps (x : Desc) (m n : Nat) : List KStep :=
  let M := dfield x 36 0 32
  let N := dfield x 40 0 32
  let K := dfield x 44 0 32
  (List.range K).map fun k =>
    ⟨some (if dbit x 50 0 then k * M + m else m * K + k), if dbit x 50 1 then n * K + k else k * N + n⟩

/-- The k-steps of an output of a CONV: row index over (batch, oh, ow), column the output channel (R87 to R89). -/
def convSteps (x : Desc) (r co : Nat) : List KStep :=
  let ow := r % (cvOutW x).toNat
  let oh := r / (cvOutW x).toNat % (cvOutH x).toNat
  let b := r / (cvOutW x).toNat / (cvOutH x).toNat
  let cg := cvCin x / cvGroups x
  let g := co / (cvCout x / cvGroups x)
  (List.range (cvKh x * cvKw x * cg)).map fun k =>
    let c := k % cg
    let kw := k / cg % cvKw x
    let kh := k / cg / cvKw x
    let ih : Int := ((oh * cvSh x + kh * cvDh x : Nat) : Int) - (cvPt x : Int)
    let iw : Int := ((ow * cvSw x + kw * cvDw x : Nat) : Int) - (cvPl x : Int)
    let inside := 0 ≤ ih && ih < (cvInH x : Int) && 0 ≤ iw && iw < (cvInW x : Int)
    ⟨if inside then some (((b * cvInH x + ih.toNat) * cvInW x + iw.toNat) * cvCin x + g * cg + c) else none,
      k * cvCout x + co⟩

/-- The k-steps of output (row, column). -/
def benchSteps (j : BenchJob) (m n : Nat) : List KStep := if j.mat then matSteps j.x m n else convSteps j.x m n

/-- The raw code of a k-step's activation: a padded position is the zero point or +0 (R89). -/
def stepA (d : Dev) (sa : Src) (j : BenchJob) (k : KStep) : Nat :=
  match k.a with
  | some i => srcElem d sa i
  | none => if j.zpEn then wrapBits (if j.fa = 0 then 4 else 8) j.zp else 0

/-! ### Arithmetic of an output element -/

/-- What the arithmetic of an output element depends on: mode, flush-to-zero, split and logical bench count. -/
structure BMode where
  strict : Bool
  ftz : Bool
  ksplit : Bool
  benches : Nat
deriving DecidableEq, Repr

/-- The start of an FP32 accumulation: +0, or an element of the accumulator source, flushed in fast mode; a signalling NaN
is `INVALID` in strict mode (R49, R54, R66). -/
def startReal (md : BMode) (start : Option Nat) : FR :=
  match start with
  | some c =>
    let v := inVal .fp32 md.strict md.ftz c
    ⟨(toFp32 false false v.1).bits, if md.strict then fWhen (valSnan v.1) fInvalid else v.2⟩
  | none => ⟨0, fNone⟩

/-- The start of an INT32 accumulation (R66). -/
def startInt (start : Option Nat) : FR := ⟨start.getD 0, fNone⟩

/-- One component of an output: the start of its accumulation, whether that is spoil, and its steps in order. -/
structure Chain where
  start : FR
  spoil : Bool
  steps : List AccStep

/-- A floating component: fast-mode passes or a strict chain over its products, with each k-step's flags and spoil (R42,
R45, R47). -/
def floatChain (md : BMode) (perK : Nat) (start : Option Nat) (cspoil : Bool) (ps : List (Val × Val)) (fl : List Flags)
    (sp : List Bool) : Chain :=
  ⟨startReal md start, cspoil, if md.strict then strictSteps perK ps fl sp else fastSteps md.ftz perK ps fl sp⟩

/-- The final FP32 value in the destination format (R51, R52). -/
def finishReal (fd : Nat) (md : BMode) (r : FR) : FR :=
  if fd = 7 then r
  else
    let q := toFloat ((fmtOf fd).getD .fp32) md.strict md.ftz (fp32Val r.bits)
    ⟨q.bits, r.flags ||| q.flags⟩

/-- A real floating output. -/
def realChain (md : BMode) (fa fw : Fmt) (start : Option Nat) (cs : Bool) (ks : List (Nat × Nat)) (sp : List Bool) : Chain :=
  let ps := ks.map fun k => (inVal fa md.strict md.ftz k.1, inVal fw md.strict md.ftz k.2)
  floatChain md 1 start cs (ps.map fun p => (p.1.1, p.2.1)) (ps.map fun p => p.1.2 ||| p.2.2) sp

/-- An integer output (R48, R70). -/
def intChain (fa fw : Fmt) (z : Int) (start : Option Nat) (cs : Bool) (ks : List (Nat × Nat)) (sp : List Bool) : Chain :=
  ⟨startInt start, cs, intSteps 1 (ks.map fun k => (sext (fmtBits fa) k.1 - z) * sext (fmtBits fw) k.2) sp⟩

/-- The two halves of a complex code. -/
def cRe (x : Nat) : Nat := x % 65536
/-- The Q component. -/
def cIm (x : Nat) : Nat := x / 65536 % 65536

/-- One component of a CI16 output (R47, R48): `im` selects the imaginary part. -/
def ciChain (im : Bool) (start : Option Nat) (cs : Bool) (ks : List (Nat × Nat)) (sp : List Bool) : Chain :=
  let s (x : Nat) : Int := sext 16 x
  let ts := (ks.map fun k =>
    if im then [s (cRe k.1) * s (cIm k.2), s (cIm k.1) * s (cRe k.2)]
    else [s (cRe k.1) * s (cRe k.2), -(s (cIm k.1) * s (cIm k.2))]).flatten
  ⟨startInt start, cs, intSteps 2 ts sp⟩

/-- One component of a CF16 output in FP32 (R47). -/
def cfChain (md : BMode) (im : Bool) (start : Option Nat) (cs : Bool) (ks : List (Nat × Nat)) (sp : List Bool) : Chain :=
  let v (x : Nat) : Val × Flags := inVal .fp16 md.strict md.ftz x
  let fl := ks.map fun k => (v (cRe k.1)).2 ||| (v (cIm k.1)).2 ||| (v (cRe k.2)).2 ||| (v (cIm k.2)).2
  let ps := (ks.map fun k =>
    if im then [((v (cRe k.1)).1, (v (cIm k.2)).1), ((v (cIm k.1)).1, (v (cRe k.2)).1)]
    else [((v (cRe k.1)).1, (v (cRe k.2)).1), (valFlip (v (cIm k.1)).1, (v (cIm k.2)).1)]).flatten
  floatChain md 2 start cs ps fl sp

/-- Both components of a CF16 output in the destination format (R86). -/
def cfPair (md : BMode) (fd : Nat) (re im : FR) : List Nat × Flags :=
  if fd = 7 then ([re.bits, im.bits], re.flags ||| im.flags)
  else
    let a := toFloat .fp16 md.strict md.ftz (fp32Val re.bits)
    let b := toFloat .fp16 md.strict md.ftz (fp32Val im.bits)
    ([a.bits + 65536 * b.bits], re.flags ||| im.flags ||| a.flags ||| b.flags)

/-- The components of an output: two for a complex class (R47, R86). -/
def benchChains (md : BMode) (cls : BClass) (j : BenchJob) (start : List Nat) (cs : Bool) (ks : List (Nat × Nat))
    (sp : List Bool) : List Chain :=
  let fa := (fmtOf j.fa).getD .int8
  let fw := (fmtOf j.fw).getD .int8
  match cls with
  | .int => [intChain fa fw (if j.zpEn then j.zp else 0) start[0]? cs ks sp]
  | .real => [realChain md fa fw start[0]? cs ks sp]
  | .ci => [ciChain false start[0]? cs ks sp, ciChain true start[1]? cs ks sp]
  | .cf => [cfChain md false start[0]? cs ks sp, cfChain md true start[1]? cs ks sp]

/-- How a class adds to its accumulators and adds the results of ranges (R66, R68). -/
def benchAdd (md : BMode) (cls : BClass) (a b : FR) : FR :=
  match cls with
  | .int | .ci => addInt32 a b
  | .real | .cf => addFp32 md.ftz a b

/-- The codes of one output in its destination's elements, from its components, with their flags (R51, R52, R86). -/
def benchFinish (md : BMode) (cls : BClass) (j : BenchJob) (cs : List FR) : List Nat × Flags :=
  let re := lget ⟨0, fNone⟩ cs 0
  let im := lget ⟨0, fNone⟩ cs 1
  match cls with
  | .int => ([re.bits], re.flags)
  | .real => let r := finishReal j.fd md re; ([r.bits], r.flags)
  | .ci => ([re.bits, im.bits], re.flags ||| im.flags)
  | .cf => cfPair md j.fd re im

/-! ### The order of the work (R71, R91 to R93, R506) -/

/-- The mode of an operation (R41, R68): `STRICT` does nothing to integer and CI16 operations. -/
def benchMode (d : Dev) (o : Op) (cls : BClass) (j : BenchJob) : BMode :=
  let strict := hStrict o.desc && (cls == .real || cls == .cf)
  { strict := strict, ftz := ftzOf d o.ctx, ksplit := j.ksplit, benches := d.boot.lbenches }

/-- Rows and columns per group and the number of groups, as the array sees them: a CONV streams its output positions as rows
and gives each group of channels its own tiles. DEDUCED (R91 speaks of a MATMUL's rows and columns only): assumption
log 110. -/
def benchDims (d : Dev) (ctx : Nat) (j : BenchJob) : Nat × Nat × Nat :=
  let rows := match tensorOf d ctx j.a with | some t => outRows j t | none => 0
  if j.mat then (rows, outCols j, 1) else (rows, outCols j / max 1 (cvGroups j.x), cvGroups j.x)

/-- The passes of each range of an operation (R68). -/
def benchSpans (d : Dev) (x : Desc) : List (Nat × Nat) :=
  let p := ceilDiv (reduceLen x) 128
  let s := benchRanges d x
  (List.range s).map fun j => (p * j / s, p * (j + 1) / s)

/-- How the work of an operation is laid out: rows, columns per group, groups, logical columns of a tile, partition, chains
in lanes (strict mode), the dataflow (1 OS, 2 IS, else WS), and the spans of accumulation steps of each range. -/
structure Grid where
  rows : Nat
  cols : Nat
  groups : Nat
  lc : Nat
  part : Bool
  strict : Bool
  flow : Nat
  comps : Nat
  spans : List (Nat × Nat)
deriving DecidableEq, Repr

/-- The layout of an operation (R63, R71, R76, R91, R506). -/
def benchGrid (d : Dev) (o : Op) (cls : BClass) (lc : Nat) (j : BenchJob) : Grid :=
  let dims := benchDims d o.ctx j
  let strict := (benchMode d o cls j).strict
  let perK := if cls = .cf then 2 else 1
  { rows := dims.1, cols := dims.2.1, groups := dims.2.2, lc := if j.part then lc / 2 else lc, part := j.part,
    strict := strict, flow := if j.flow = 3 then (if dims.1 < dims.2.1 then 2 else 0) else j.flow, comps := accWidth cls,
    spans := if strict then [(0, perK * reduceLen o.desc)] else benchSpans d o.desc }

/-- Vectors that a pass-step streams; a pass of an OS tile and an FMA of the lanes count as one. -/
def gridVecs (g : Grid) : Nat := if g.strict || g.flow = 1 then 1 else if g.flow = 2 then g.cols else g.rows

/-- Tiles of an operation, or turns of the 16 lanes (4 in a partition). -/
def gridTiles (g : Grid) : Nat :=
  if g.strict then ceilDiv (g.groups * g.rows * g.cols * g.comps) (if g.part then 4 else 16)
  else g.groups * match g.flow with
    | 1 => ceilDiv g.rows (if g.part then 64 else 128) * ceilDiv g.cols g.lc
    | 2 => ceilDiv g.rows g.lc
    | _ => ceilDiv g.cols g.lc

/-- The tile and the vector that bear component `p` of output `i` (row-major over all groups). -/
def gridPlace (g : Grid) (i p : Nat) : Nat × Nat :=
  let m := i / (g.groups * g.cols)
  let c := i % (g.groups * g.cols)
  let gr := c / g.cols
  let n := c % g.cols
  if g.strict then ((i * g.comps + p) / (if g.part then 4 else 16), 0)
  else match g.flow with
    | 1 =>
      let side := if g.part then 64 else 128
      (gr * (ceilDiv g.rows side * ceilDiv g.cols g.lc) + m / side * ceilDiv g.cols g.lc + n / g.lc, 0)
    | 2 => (gr * ceilDiv g.rows g.lc + m / g.lc, n)
    | _ => (gr * ceilDiv g.cols g.lc + n / g.lc, m)

/-- Units of work of a range: tile by tile, within a tile pass by pass, within a pass vector by vector (R91, R92). -/
def gridTotal (g : Grid) (span : Nat × Nat) : Nat := gridTiles g * (span.2 - span.1) * gridVecs g

/-- Steps that an accumulator at a place has had when its range's cursor stands at `cur` (R92, R93). -/
def stepsDone (g : Grid) (span : Nat × Nat) (cur : Nat) (at_ : Nat × Nat) : Nat :=
  let first := at_.1 * (span.2 - span.1) * gridVecs g + at_.2
  if cur ≤ first then 0 else min (span.2 - span.1) (ceilDiv (cur - first) (gridVecs g))

/-! ### The whole operation -/

/-- The accumulator of one component in one range between two cursors: steps had before and after, its value, the flags of
the steps taken, whether they read spoil, and whether it depends on spoil. -/
structure AccPart where
  before : Nat
  after : Nat
  last : Nat
  bits : Nat
  flags : Flags
  read : Bool
  spoil : Bool
deriving DecidableEq, Repr

/-- One accumulator carried from one cursor to the next: it starts from its saved value (R93). -/
def accPart (g : Grid) (hs : List Held) (key cur till r : Nat) (span at_ : Nat × Nat) (c : Chain) : AccPart :=
  let n := stepsDone g span cur at_
  let m := stepsDone g span till at_
  let h := heldAt hs key
  let fresh := n == 0 && n < m && r == 0
  let start : FR := match h with
    | some v => ⟨v.code, fNone⟩
    | none => if r = 0 then c.start else ⟨0, fNone⟩
  let ss := (c.steps.drop (span.1 + n)).take (m - n)
  let res := runSteps start ss
  let read := ss.any (fun s => s.spoil) || (fresh && c.spoil)
  { before := n, after := m, last := span.2 - span.1, bits := res.bits, flags := if n < m then res.flags else fNone,
    read := read, spoil := read || match h with | some v => v.spoil | none => false }

/-- One output between two cursors: its elements when its last range is complete, the flags raised, whether spoil was read,
the accumulators to save, and whether it is still unwritten. -/
structure OutRow where
  outs : List OutElem
  flags : Flags
  spoil : Bool
  held : List Held
  left : Bool
deriving DecidableEq, Repr

/-- Output element number `i` (row-major) of an operation. -/
def benchOut (d : Dev) (md : BMode) (cls : BClass) (j : BenchJob) (g : Grid) (sa sw : Src) (sc : Option Src) (hs : List Held)
    (cur till : List Nat) (i : Nat) : OutRow :=
  let cols := outCols j
  let steps := benchSteps j (i / cols) (i % cols)
  let ks := steps.map fun k => (stepA d sa j k, srcElem d sw k.w)
  let sp := steps.map fun k => srcSpoil d sw k.w || match k.a with | some a => srcSpoil d sa a | none => false
  let cw := accWidth cls
  let cIdx := match sc with
    | some c => (List.range cw).map fun p => (if tElems c.t = cols * cw then i % cols else i) * cw + p
    | none => []
  let start := match sc with
    | some c => cIdx.map (srcElem d c)
    | none => []
  let cspoil := match sc with | some c => cIdx.any (srcSpoil d c) | none => false
  let ranges := g.spans.length
  let parts := (benchChains md cls j start cspoil ks sp).zipIdx.map fun c => g.spans.zipIdx.map fun s =>
    accPart g hs ((i * cw + c.2) * ranges + s.2) (lget 0 cur s.2) (lget 0 till s.2) s.2 s.1 (gridPlace g i c.2) c.1
  let flat := parts.flatten
  let whole := flat.all fun a => a.after == a.last
  let was := flat.all fun a => a.before == a.last
  let fl := fAll (flat.map fun a => a.flags)
  let read := flat.any fun a => a.read
  if !whole then
    { outs := [], flags := fl, spoil := read, left := true,
      held := flat.zipIdx.filterMap fun a => if a.1.after = 0 then none else some ⟨i * cw * ranges + a.2, a.1.bits, a.1.spoil⟩ }
  else if was then { outs := [], flags := fNone, spoil := false, held := [], left := false }
  else
    let r := benchFinish md cls j (parts.map fun p => addRanges (benchAdd md cls) (p.map fun a => ⟨a.bits, fNone⟩))
    let spoil := flat.any fun a => a.spoil
    { outs := r.1.zipIdx.map fun e => ⟨i * dstWidth cls j.fd + e.2, e.1, spoil⟩, flags := fl ||| r.2, spoil := read,
      held := [], left := false }

/-- The blocks of a list of elements of a tensor, each once. -/
def elemBlocks (ctx : Nat) (t : Tensor) (is : List Nat) : List Nat := ((is.map (elemBlock ctx t)).eraseDups)

/-- The work of a MATMUL or CONV from its cursor to the place that a command names (R59, R92, R93). -/
def benchWork (d : Dev) (id : Nat) (o : Op) (till : List Nat) : Work :=
  let j := benchJob o.desc
  match pairOf j.fa j.fw, srcOf d o.ctx j.a id, srcOf d o.ctx j.w id, tensorOf d o.ctx j.dst with
  | some (cls, lc), some sa, some sw, some td =>
    let sc := if j.accum then srcOf d o.ctx j.c id else none
    let g := benchGrid d o cls lc j
    let ends := g.spans.zipIdx.map fun s => cursorTo o.cur till s.2 (gridTotal g s.1)
    let rows := (List.range (outRows j sa.t * outCols j)).map
      (benchOut d (benchMode d o cls j) cls j g sa sw sc o.held o.cur ends)
    let w := dstWidth cls j.fd
    let open_ := (rows.zipIdx.filter fun r => r.1.left).flatMap fun r => (List.range w).map fun e => r.2 * w + e
    { outs := [(td, (rows.map fun r => r.outs).flatten)], flags := fAll (rows.map fun r => r.flags),
      spoil := rows.any (fun r => r.spoil), held := (rows.map fun r => r.held).flatten, left := elemBlocks o.ctx td open_,
      cur := ends }
  | _, _, _, _ => Work.none

/-- Whether a MATMUL or CONV has come to the end of its work. -/
def workEnds (w : Work) : Bool := w.held.isEmpty && w.left.isEmpty

/-! ### The array's registers (R62, R73) -/

/-- The pass-step at which a range's cursor stands: the stationary tile in use. -/
def passStep (g : Grid) (span : Nat × Nat) (cur : Nat) : Nat := min (cur - 1) (gridTotal g span - 1) / gridVecs g

/-- A partition's registers after a range's work from one cursor to the next: the tile of the last pass-step is active and
the next one, if any, is loaded in the shadow registers; each stationary tile after the first flips the selector. In OS the
active registers hold the tile's accumulators. -/
def peAfter (g : Grid) (id : Nat) (span : Nat × Nat) (cur till : Nat) (p : PeSt) : PeSt :=
  if g.strict || till ≤ cur then p
  else
    let a := cur / gridVecs g
    let b := passStep g span till
    { active := some (id, b), shadow := if (b + 1) * gridVecs g < gridTotal g span then some (id, b + 1) else none,
      selector := (p.selector != ((b - a) % 2 == 1)) != (p.active.isSome && p.active != some (id, a)) }

/-- The array state after an operation's work: range `r` runs on its engine's partitions, ranges being dealt over the
engines in turn. -/
def peWork (d : Dev) (id : Nat) (o : Op) (ends : List Nat) : Dev :=
  let j := benchJob o.desc
  match pairOf j.fa j.fw with
  | some (cls, lc) =>
    let g := benchGrid d o cls lc j
    let bs := (o.units.map fun u => u / 4).eraseDups
    let one (pe : List PeSt) (s : (Nat × Nat) × Nat) : List PeSt :=
      let b := lget 0 bs (s.2 % max 1 bs.length)
      (o.units.filter fun u => u / 4 == b).foldl (fun pe u => lmod pe u
        (peAfter g id s.1 (lget 0 o.cur s.2) (lget 0 ends s.2))) pe
    { d with comp := { d.comp with pe := g.spans.zipIdx.foldl one d.comp.pe } }
  | none => d

/-! ### Execution time -/

/-- Sum over passes of a function of a pass's k-steps, for passes `[lo, hi)` of a reduction of length `k`. -/
def overPasses (k lo hi : Nat) (f : Nat → Nat) : Nat :=
  ((List.range (hi - lo)).map fun i => f (min 128 (k - 128 * (lo + i)))).sum

/-- Occupancy and active cycles of passes `[lo, hi)` on one engine (R91, R97, R506). -/
def benchCycles (d : Dev) (o : Op) (lo hi : Nat) : Nat × Nat :=
  let j := benchJob o.desc
  let dims := benchDims d o.ctx j
  let m := dims.1
  let n := dims.2.1
  let g := dims.2.2
  let k := reduceLen o.desc
  match pairOf j.fa j.fw with
  | none => (0, 0)
  | some (cls, lc) =>
    if hStrict o.desc && (cls == .real || cls == .cf) then
      let u := g * m * n * (if cls == .cf then 2 else 1)
      let l := k * (if cls == .cf then 2 else 1)
      let c := ceilDiv u (if j.part then 4 else 16) * l
      (c + 24, c)
    else
      let is := j.flow == 2 || (j.flow == 3 && m < n)
      let v := if is then n else m
      let ksteps := overPasses k lo hi fun s => s
      if j.flow = 1 then
        let t := g * (if j.part then ceilDiv m 64 * ceilDiv n (lc / 2) else ceilDiv m 128 * ceilDiv n lc)
        (if j.part then 64 + t * ksteps + 76 else 128 + t * ksteps + 140, t * ksteps)
      else if j.part then
        let tiles := g * ceilDiv (if is then m else n) (lc / 2)
        let load := overPasses k lo hi fun s => if 64 < s then 2 * (64 * ceilDiv v 256 + v) else 64 + v
        let act := overPasses k lo hi fun s => if 64 < s then 2 * v else v
        (tiles * load + 76, tiles * act)
      else
        let tiles := g * ceilDiv (if is then m else n) lc
        let q := tiles * (hi - lo)
        (128 + (q - 1) * max v 128 + v + 140, q * v)

/-- Engine ticks an operation takes over all its ranges. -/
def benchOcc (d : Dev) (o : Op) : Nat := ((benchSpans d o.desc).map fun r => (benchCycles d o r.1 r.2).1).sum

/-- Whether another operation runs on a partition of bench `b`. -/
def benchShared (d : Dev) (o : Op) (b : Nat) : Bool :=
  d.disp.ops.any fun e => e.2.kind == .bench && !e.2.parked && e.2.units.any fun u => u / 4 == b && !o.units.contains u

/-- Cycles of a pass-step in which one vector of it enters: one, or one for each half-pass of a partition; the k-steps of an
OS pass; an FMA (R76, R97, R506). -/
def vecCost (g : Grid) (k p : Nat) : Nat :=
  let steps := min 128 (k - 128 * p)
  if g.strict then 1 else if g.flow = 1 then steps else if g.part && 64 < steps then 2 else 1

/-- Cycles counted for a range from its start to a cursor (R97). -/
def activeTo (g : Grid) (k : Nat) (span : Nat × Nat) (cur : Nat) : Nat :=
  let n := span.2 - span.1
  let v := gridVecs g
  let cost (p : Nat) : Nat := if g.strict then 1 else vecCost g k (span.1 + p)
  let upTo (m : Nat) : Nat := if g.strict then m else ((List.range m).map cost).sum
  let q := cur / v % n
  cur / (v * n) * (v * upTo n) + v * upTo q + cur % v * cost q

/-- Active cycles counted on the benches of an operation for its work up to new cursors, its ranges dealt over them in turn
(R97). A cycle in which two partitions of a bench take a vector counts once, so beside another operation the cycles it adds
are a free value up to its own. -/
def benchCount (d : Dev) (o : Op) (ends : List Nat) : Dev :=
  let j := benchJob o.desc
  match pairOf j.fa j.fw with
  | none => d
  | some (cls, lc) =>
    let g := benchGrid d o cls lc j
    let k0 := reduceLen o.desc
    let bs := (o.units.map fun u => u / 4).eraseDups
    g.spans.zipIdx.foldl (fun d r =>
      let b := lget 0 bs (r.2 % max 1 bs.length)
      let n := activeTo g k0 r.1 (lget 0 ends r.2) - activeTo g k0 r.1 (lget 0 o.cur r.2)
      let k := if benchShared d o b then (Config.freeBits d.free).toNat % (n + 1) else n
      { d with comp := { d.comp with benchCycles := lmod d.comp.benchCycles b fun c => satAdd 64 c k },
               free := if benchShared d o b then d.free + 1 else d.free }) d

end Sys2Proof.Machine
end

