-- ==== Sys2Proof/Machine/Vector.lean ====
section
/-!
DEFINITION. Machine/Vector.lean: VOP: descriptor, streams and checks (R100 to R103, R106, R109 to R124, R507), the rows of
each class with their spoil (R104 to R122, R127), and execution time (R99, R125, R511).
-/
namespace Sys2Proof.Machine
open Sys2Proof

/-- Whether the class runs with the reduction unit (R114). -/
def reducible (j : VecJob) : Bool := vecClassOf j ≤ 3 || vecClassOf j == 6

/-- Whether a format code is one of a list of formats. -/
def codeIn (c : Nat) (fs : List Fmt) : Bool := match fmtOf c with | some f => fs.contains f | none => false

/-- Integer formats. -/
def intFmts : List Fmt := [.int4, .int8, .int16, .int32]
/-- Floating formats. -/
def floatFmts : List Fmt := [.fp32, .bf16, .fp16, .f8]
/-- Real formats. -/
def realFmts : List Fmt := intFmts ++ floatFmts
/-- Complex formats. -/
def complexFmts : List Fmt := [.ci16, .cf16]

/-- Whether the formats suit a real or split-complex element function (R109, R507). -/
def elemFmtsOk (j : VecJob) : Bool :=
  let data := if j.func = 0x24 then [j.a, j.b] else vecSources j
  if (vecSources j ++ [j.dst]).any fun s => codeIn s.fmt complexFmts then
    (j.func == 0x00 || j.func == 0x01 || j.func == 0x02 || j.func == 0x09 || j.func == 0x24)
      && (data ++ [j.dst]).all (fun s => codeIn s.fmt complexFmts)
      && ((j.func != 0x01 && j.func != 0x02) || j.a.fmt == j.b.fmt)
      && (j.func != 0x24 || codeIn j.c.fmt realFmts)
  else vecClassOf j != 3 || (vecSources j ++ [j.dst]).all fun s => codeIn s.fmt intFmts

/-- Whether the formats suit the function (R109 to R113, R118, R120 to R122, R507). -/
def vecFmtsOk (j : VecJob) : Bool :=
  match vecClassOf j with
  | 4 => codeIn j.a.fmt complexFmts && (vecSources j ++ [j.dst]).all fun s => s.fmt == j.a.fmt
  | 5 =>
    j.dst.fmt == j.a.fmt && (!usesB j || j.b.fmt == j.a.fmt)
      && (if j.func = 0x50 then codeIn j.c.fmt [.int16, .int32] else codeIn j.c.fmt realFmts)
  | 6 => j.c.fmt == 7 && codeIn j.a.fmt realFmts && codeIn j.dst.fmt realFmts
  | 7 =>
    codeIn j.dst.fmt floatFmts
      && (if j.func = 0x70 then codeIn j.a.fmt realFmts else (vecSources j).all fun s => codeIn s.fmt floatFmts)
  | _ => elemFmtsOk j

/-- Whether the fields keep their ranges and codes (R100, R102, R106, R115, R123). -/
def vecFieldsOk (x : Desc) (j : VecJob) : Bool :=
  (vecClass j.func).isSome && j.red ≤ 6 && j.vl != 0 && j.rows != 0 && dfield x 25 0 3 == 0
    && (j.eps == 0 || j.func == 0x71 || j.func == 0x72)
    && [j.a, j.b, j.c, j.dst].all (fun s => s.fmt < 10)
    && [j.a, j.b, j.c].all (fun s => s.mode != 3)
    && (usesB j || j.b.fmt == 0) && (usesC j || j.func == 0x60 || j.c.fmt == 0)
    && (j.dst.id == noTensor || (j.dst.mode != 3 && j.dst.mode != 1 && j.dst.stride != 0))

/-- Whether the VOP names what it needs, and names tensors (R114, R118, R120, R122, R124, R154). D is a required tensor
unless a reduction runs, and a ring or built-in identifier in the place of a tensor, but for a LUT's table, gives 0x0401.
DEDUCED, both: assumption log 114. -/
def vecNamesOk (j : VecJob) : Bool :=
  (vecSources j).all (fun s => isTensorId s.id)
    && (isTensorId j.dst.id || (j.dst.id == noTensor && j.red != 0 && reducible j))
    && (!usesR j || isTensorId j.r)
    && (j.red == 0 || (reducible j && !codeIn j.a.fmt complexFmts && !codeIn j.dst.fmt complexFmts))
    && (j.func != 0x70 || (j.b.id == noTensor && j.c.id == noTensor && j.r == noTensor))
    && (j.func != 0x72 || j.c.id == noTensor)
    && (j.func != 0x60 || isTensorId j.c.id || isBuiltinId j.c.id)

/-- Whether the tensors a VOP names may coincide as they do (R103). A LUT's table, whose stride is ignored (R118), may
never be its destination. DEDUCED: assumption log 114. -/
def vecAliasOk (j : VecJob) : Bool :=
  let srcs := if j.func = 0x60 then vecSources j ++ [j.c] else vecSources j
  let plain := vecClassOf j ≤ 4 || vecClassOf j == 6
  srcs.all (fun s =>
      (!usesR j || s.id != j.r)
        && (s.id != j.dst.id || j.dst.id == noTensor
            || (plain && s.stride == j.dst.stride && s.mode == j.dst.mode && !(j.func == 0x60 && s.id == j.c.id))))
    && (!usesR j || j.r != j.dst.id)

/-- Whether a stream's elements lie in its tensor, in its format (R102). -/
def streamOk (d : Dev) (ctx : Nat) (j : VecJob) (s : Stream) : Bool :=
  match tensorOf d ctx s.id with
  | none => false
  | some t =>
    t.fmt == s.fmt && streamIdx j s (j.rows - 1) (if 0 ≤ s.stride then j.vl - 1 else 0) < tElems t

/-- Elements written to R (R112, R114, R121). -/
def redCount (j : VecJob) : Nat :=
  if j.func = 0x71 || j.func = 0x72 then 2 * j.rows else if j.red != 0 && j.whole then 1 else j.rows

/-- Whether R's values are integers: counts, indices, or an integer reduction (R102, R114). -/
def redInt (j : VecJob) : Bool :=
  j.func == 0x51 || j.red == 5 || j.red == 6 || (j.red != 0 && codeIn j.dst.fmt intFmts)

/-- Whether R can take the results (R102). -/
def redOk (d : Dev) (ctx : Nat) (j : VecJob) : Bool :=
  !usesR j ||
    match tensorOf d ctx j.r with
    | some t => t.fmt == (if redInt j then 3 else 7) && redCount j ≤ tElems t
    | none => false

/-- The table a LUT names in memory has at least 261 FP32 elements (R102, R117). -/
def tableShapeOk (d : Dev) (ctx : Nat) (j : VecJob) : Bool :=
  j.func != 0x60 || isBuiltinId j.c.id ||
    match tensorOf d ctx j.c.id with
    | some t => t.fmt == 7 && 261 ≤ tElems t
    | none => false

/-- The words of a lookup table: a tensor's, or a built-in image's (R117, R119). -/
def tableWords (d : Dev) (ctx id self : Nat) : List Nat :=
  if isBuiltinId id then
    let n := id - 0xFFFFFE00
    if n < 7 then (List.range 261).map fun i => leAt (builtinImage n) (4 * i) 4 else []
  else
    match srcOf d ctx id self with
    | some s => (List.range (tElems s.t)).map (srcElem d s)
    | none => []

/-- The lookup table a LUT names, if its image keeps R117 (R117, R119). -/
def vecTable (d : Dev) (ctx : Nat) (j : VecJob) (self : Nat) : Option LutTable :=
  let ws := tableWords d ctx j.c.id self
  if ws.length = 261 then lutOf ws else none

/-- Whether the table is not refused (R117, R119). -/
def tableValid (d : Dev) (ctx : Nat) (j : VecJob) (self : Nat) : Bool := j.func != 0x60 || (vecTable d ctx j self).isSome

/-- The tensors a VOP names. -/
def vecTensors (j : VecJob) : List Nat :=
  (vecSources j).map (fun s => s.id) ++ (if j.func = 0x60 && !isBuiltinId j.c.id then [j.c.id] else [])
    ++ (if j.dst.id = noTensor then [] else [j.dst.id]) ++ (if usesR j then [j.r] else [])

/-- The first fault of a VOP (R124, R201). -/
def vecReason (d : Dev) (h : Head) : Option Nat :=
  let j := vecJob h.desc
  if !vecFieldsOk h.desc j || !vecNamesOk j || !vecFmtsOk j || !vecAliasOk j then some 0x0401
  else if (vecTensors j).any fun t => (tensorOf d h.ctx t).isNone then some 0x0704
  else if !(vecSources j).all (streamOk d h.ctx j) || !(j.dst.id == noTensor || streamOk d h.ctx j j.dst)
      || !redOk d h.ctx j || !tableShapeOk d h.ctx j then some 0x0402
  else if !tableValid d h.ctx j d.disp.nextOp then some 0x0405
  else none

/-! ### Rows -/

/-- One destination element with its spoil, and the flags that computing it raises. -/
structure VElem where
  code : Nat
  spoil : Bool
  flags : Flags
deriving DecidableEq, Repr

/-- What the first read of a row's element `i` raises, and whether it meets spoil. -/
structure VRead where
  flags : Flags
  spoil : Bool
deriving DecidableEq, Repr

/-- A row's results: its elements, its values for R, the flags of those, and what its first sweep meets. -/
structure VRow where
  elems : List VElem
  stats : List Nat
  flags : Flags
  reads : List VRead
deriving DecidableEq, Repr

/-- Whether a row's source elements hold spoil. -/
def vrowSpoil (w : VRow) : Bool := w.reads.any fun e => e.spoil

/-- A stream as it is read: its operand. -/
abbrev Feed := Stream × Option Src

/-- The raw code and spoil mark of an element of a stream. -/
def feedElem (d : Dev) (j : VecJob) (f : Feed) (r i : Nat) : Nat × Bool :=
  match f.2 with
  | some s => (srcElem d s (streamIdx j f.1 r i), srcSpoil d s (streamIdx j f.1 r i))
  | none => (0, false)

/-- A row of a stream; an element that the running state holds is not read again (R128). -/
def feedRow (d : Dev) (j : VecJob) (hs : List Held) (f : Feed) (r n : Nat) : List (Nat × Bool) :=
  (List.range n).map fun i =>
    match heldAt hs (r * j.vl + i) with
    | some h => (h.code, h.spoil)
    | none => feedElem d j f r i

/-- A LUT element: the input, flushed under R49, interpolated and rounded once (R118). -/
def lutElem (md : NMode) (t : LutTable) (fa fd : Fmt) (a : Nat) : FR :=
  let x := inVal fa md.strict md.ftz a
  withFlags x.2 (convert fd md.strict md.ftz (lutVal t x.1))

/-- A row of the element-wise, compare, integer, complex and LUT classes (R104 to R110, R118, R127). -/
def plainRow (d : Dev) (md : NMode) (j : VecJob) (table : Option LutTable) (tspoil : Bool) (fa fb fc : Feed) (r : Nat) : VRow :=
  let one (i : Nat) : FR × Bool :=
    let a := feedElem d j fa r i
    let b := feedElem d j fb r i
    let c := feedElem d j fc r i
    let x := match table with
      | some t => lutElem md t (stFmt j.a) (stFmt j.dst) a.1
      | none => vecCode j.func md (stFmt j.a) (stFmt j.b) (stFmt j.c) (stFmt j.dst) a.1 b.1 c.1
    (x, tspoil || a.2 || b.2 || c.2)
  let es := (List.range j.vl).map one
  { elems := es.map fun e => ⟨e.1.bits, e.2, e.1.flags⟩, stats := [], flags := fNone,
    reads := es.map fun e => ⟨fNone, e.2⟩ }

/-- Whether any of a row's elements is spoil. -/
def anySpoil (l : List (Nat × Bool)) : Bool := l.any fun e => e.2

/-- What the first sweep of a row meets, element by element, of up to three streams. -/
def rowReads (n : Nat) (fl : List (List Flags)) (sp : List (List (Nat × Bool))) : List VRead :=
  (List.range n).map fun i =>
    ⟨fAll (fl.map fun l => lget fNone l i), sp.any fun l => (lget (0, false) l i).2⟩

/-- A row of PERMUTE, COMPRESS or EXPAND (R111 to R113, R127); `hs` holds the mask elements already read. A subnormal mask
element is no conversion's input: it is not flushed and counts as non-zero. DESIGN CHOICE (R49 flushes every subnormal
input, R111 moves elements without conversion): assumption log 111. -/
def moveRow (d : Dev) (j : VecJob) (hs : List Held) (fa fb fc : Feed) (r : Nat) : VRow :=
  let c := feedRow d j hs fc r j.vl
  let mask := c.map fun e => valTrue (decodeVal (stFmt j.c) e.1)
  let a := feedRow d j [] fa r (if j.func = 0x52 then (mask.filter fun m => m).length else j.vl)
  let b := feedRow d j [] fb r j.vl
  let spoil := anySpoil a || anySpoil b || anySpoil c
  let codes (l : List (Nat × Bool)) : List Nat := l.map fun e => e.1
  let put (l : List Nat) (st : List Nat) (f : Flags) : VRow :=
    { elems := l.map fun x => ⟨x, spoil, fNone⟩, stats := st, flags := f, reads := rowReads j.vl [] [a, b, c] }
  match j.func with
  | 0x50 => let p := rowPermute j.vl (codes a) (codes c); put p.1 [] p.2
  | 0x51 => let p := rowCompress j.vl (codes a) mask; put p.1 [p.2] fNone
  | _ => put (rowExpand (codes a) mask (codes b)) [] fNone

/-- The values of a row of a stream with the flags of their flushes (R49); `dflt` where the stream names no tensor. -/
def rowVals (md : NMode) (s : Stream) (named : Bool) (dflt : Val) (l : List (Nat × Bool)) : List Val × List Flags :=
  if named then
    let vs := l.map fun e => inVal (stFmt s) md.strict md.ftz e.1
    (vs.map fun v => v.1, vs.map fun v => v.2)
  else (l.map fun _ => dflt, [])

/-- A row of SOFTMAX, LAYERNORM or RMSNORM (R120 to R122, R127); `hs` holds the elements already read. -/
def normRow (d : Dev) (md : NMode) (j : VecJob) (hs : List Held) (fa fb fc : Feed) (r : Nat) : VRow :=
  let a := feedRow d j hs fa r j.vl
  let b := feedRow d j [] fb r j.vl
  let c := feedRow d j [] fc r j.vl
  let xa := rowVals md j.a true valZeroP a
  let xb := rowVals md j.b (usesB j) oneVal b
  let xc := rowVals md j.c (usesC j) valZeroP c
  let spoil := anySpoil a || anySpoil b || anySpoil c
  let put (ys : List FR) (st : List Nat) (f : Flags) : VRow :=
    { elems := ys.zipIdx.map fun y => ⟨y.1.bits, spoil, y.1.flags ||| lget fNone xb.2 y.2 ||| lget fNone xc.2 y.2⟩,
      stats := st, flags := f, reads := rowReads j.vl [xa.2] [a, b, c] }
  match j.func with
  | 0x70 => put (rowSoftmax md (stFmt j.dst) xa.1) [] fNone
  | 0x71 =>
    let p := rowLayernorm md (stFmt j.dst) j.eps xa.1 xb.1 xc.1
    put p.1 [p.2.1.bits, p.2.2.bits] (p.2.1.flags ||| p.2.2.flags)
  | _ =>
    let p := rowRmsnorm md (stFmt j.dst) j.eps xa.1 xb.1
    put p.1 [0, p.2.bits] p.2.flags

/-- One row of a VOP. -/
def vecRow (d : Dev) (md : NMode) (j : VecJob) (table : Option LutTable) (tspoil : Bool) (hs : List Held)
    (fa fb fc : Feed) (r : Nat) : VRow :=
  match vecClassOf j with
  | 5 => moveRow d j hs fa fb fc r
  | 7 => normRow d md j hs fa fb fc r
  | _ => plainRow d md j table tspoil fa fb fc r

/-! ### The order of the work (R128)

A VOP works row by row. Element-wise work and data movement count elements; a reduction or a row operation counts blocks of
128 elements, sweep by sweep, and stores its row in the last sweep. -/

/-- Whether the cursor counts blocks of sweeps. -/
def vecBlocked (j : VecJob) : Bool := vecClassOf j == 7 || j.red != 0

/-- Sweeps of a row: reads of it from end to end (R120 to R122, R125). -/
def vecSweeps (j : VecJob) : Nat := match j.func with | 0x70 => 3 | 0x71 => 3 | 0x72 => 2 | _ => 1

/-- Units of work of a row. -/
def rowUnits (j : VecJob) : Nat := if vecBlocked j then vecSweeps j * ceilDiv j.vl 128 else j.vl

/-- The unit of a row that first reads its element `e`. -/
def readUnit (j : VecJob) (e : Nat) : Nat := if vecBlocked j then e / 128 else e

/-- The unit of a row that stores its element `e`. -/
def storeUnit (j : VecJob) (e : Nat) : Nat := if vecBlocked j then (vecSweeps j - 1) * ceilDiv j.vl 128 + e / 128 else e

/-- The unit of a row in which its statistics are formed: the first of the last sweep, or the last of a single one. -/
def statUnit (j : VecJob) : Nat := if vecSweeps j = 1 then rowUnits j - 1 else (vecSweeps j - 1) * ceilDiv j.vl 128

/-- Units of work of a VOP. -/
def vecTotal (j : VecJob) : Nat := j.rows * rowUnits j

/-- Whether unit `u` of row `r` lies between two cursors. -/
def unitIn (j : VecJob) (cur till r u : Nat) : Bool := cur ≤ r * rowUnits j + u && r * rowUnits j + u < till

/-- A result for R: its place, its code, spoil and flags. -/
structure RElem where
  i : Nat
  code : Nat
  spoil : Bool
  flags : Flags
deriving DecidableEq, Repr

/-- The results of a row as a reduction takes them: those already stored come from the running state (R128). -/
def redRow (j : VecJob) (hs : List Held) (cur r : Nat) (w : VRow) : List Held :=
  w.elems.zipIdx.map fun e =>
    let key := r * j.vl + e.2
    if r * rowUnits j + storeUnit j e.2 < cur then (heldAt hs key).getD ⟨key, e.1.code, e.1.spoil⟩ else ⟨key, e.1.code, e.1.spoil⟩

/-- Whether row `r` gives its value for R in its last unit. -/
def redHere (j : VecJob) (r : Nat) : Bool := j.red != 0 && (!j.whole || r + 1 == j.rows)

/-- The values that a row gives R between two cursors: statistics or counts, or a reduction of the results of the row, or
of all rows (R112, R114, R121, R127). -/
def redOuts (md : NMode) (j : VecJob) (cur till r : Nat) (w : VRow) (codes : List Held) : List RElem :=
  if !usesR j then []
  else if j.red = 0 then
    if unitIn j cur till r (statUnit j) then
      w.stats.zipIdx.map fun x => ⟨r * w.stats.length + x.2, x.1, vrowSpoil w, fNone⟩
    else []
  else if redHere j r && unitIn j cur till r (rowUnits j - 1) then
    let v := reduceVals j.red md (stFmt j.dst) (codes.map fun h => h.code)
    [⟨if j.whole then 0 else r, v.bits, codes.any (fun h => h.spoil), v.flags⟩]
  else []

/-- Whether a block of the table a LUT reads is spoil: every output then depends on spoil. DEDUCED (R127 does not say how a
table's spoil spreads): assumption log 112. -/
def tableSpoil (d : Dev) (ctx : Nat) (j : VecJob) (self : Nat) : Bool :=
  j.func == 0x60 && !isBuiltinId j.c.id &&
    match srcOf d ctx j.c.id self with
    | some s => (List.range (tElems s.t)).any (srcSpoil d s)
    | none => false

/-- The mode of a VOP: `STRICT` changes no flag of an operation whose operands and result are all integer or CI16 (R41).
The table of a LUT is a floating operand. -/
def vecMode (d : Dev) (o : Op) (j : VecJob) : NMode :=
  ⟨hStrict o.desc && (j.func == 0x60 || (vecSources j ++ [j.dst]).any fun s => floatCode s.fmt), ftzOf d o.ctx⟩

/-- The work of a VOP from its cursor to the place that a command names (R59, R128). -/
def vecWork (d : Dev) (id : Nat) (o : Op) (till : List Nat) : Work :=
  let j := vecJob o.desc
  let md := vecMode d o j
  let feed (s : Stream) (u : Bool) : Feed := (s, if u then srcOf d o.ctx s.id id else none)
  let table := if j.func = 0x60 then vecTable d o.ctx j id else none
  let cur := lget 0 o.cur 0
  let ends := cursorTo o.cur till 0 (vecTotal j)
  let row := vecRow d md j table (tableSpoil d o.ctx j id) (if vecClassOf j = 5 || vecClassOf j = 7 then o.held else [])
    (feed j.a true) (feed j.b (usesB j)) (feed j.c (usesC j))
  let now_ := (List.range j.rows).filter fun r => cur < (r + 1) * rowUnits j && r * rowUnits j < ends
  let rows := now_.map fun r => (r, row r)
  let reds := rows.map fun w => (w.1, redRow j o.held cur w.1 w.2)
  let before (r : Nat) : List Held :=
    if j.whole then
      o.held.filter (fun h => h.key / j.vl < lget 0 now_ 0) ++ (reds.filter fun w => w.1 ≤ r).flatMap fun w => w.2
    else (reds.filter fun w => w.1 == r).flatMap fun w => w.2
  let routs := rows.flatMap fun w => redOuts md j cur ends w.1 w.2 (before w.1)
  let outs := rows.flatMap fun w => (w.2.elems.zipIdx.filter fun e => unitIn j cur ends w.1 (storeUnit j e.2)).map fun e =>
    (⟨streamIdx j j.dst w.1 e.2, e.1.code, e.1.spoil⟩ : OutElem)
  let fl := rows.flatMap fun w =>
    ((w.2.elems.zipIdx.filter fun e => unitIn j cur ends w.1 (storeUnit j e.2)).map fun e => e.1.flags)
      ++ ((w.2.reads.zipIdx.filter fun e => unitIn j cur ends w.1 (readUnit j e.2)).map fun e => e.1.flags)
      ++ (if unitIn j cur ends w.1 (statUnit j) then [w.2.flags] else [])
  let read := rows.any fun w => (w.2.reads.zipIdx.filter fun e => unitIn j cur ends w.1 (readUnit j e.2)).any fun e => e.1.spoil
  let r := ends / rowUnits j
  let kept := if ends = vecTotal j then [] else match vecClassOf j with
    | 5 | 7 => (List.range j.vl).filterMap fun e =>
        if readUnit j e < ends - r * rowUnits j then
          let f := if vecClassOf j = 5 then feed j.c (usesC j) else feed j.a true
          let x := lget (0, false) (feedRow d j o.held f r j.vl) e
          some ⟨r * j.vl + e, x.1, x.2⟩
        else none
    | _ => if j.red = 0 then [] else (before r).filter fun h =>
        (h.key / j.vl) * rowUnits j + storeUnit j (h.key % j.vl) < ends && (j.whole || h.key / j.vl == r)
  let leftD := (List.range (j.rows * j.vl)).filter fun k => ends ≤ k / j.vl * rowUnits j + storeUnit j (k % j.vl)
  let perR := redCount j / (if j.red != 0 && j.whole then 1 else max 1 j.rows)
  let leftR := (List.range (redCount j)).filter fun k =>
    let r := if j.red != 0 && j.whole then j.rows - 1 else k / max 1 perR
    ends ≤ r * rowUnits j + (if j.red = 0 then statUnit j else rowUnits j - 1)
  let outD := match (if j.dst.id = noTensor then none else tensorOf d o.ctx j.dst.id) with
    | some t => ([(t, outs)], elemBlocks o.ctx t (leftD.map fun k => streamIdx j j.dst (k / j.vl) (k % j.vl)))
    | none => ([], [])
  let outR := match (if usesR j then tensorOf d o.ctx j.r else none) with
    | some t => ([(t, routs.map fun (e : RElem) => (⟨e.i, e.code, e.spoil⟩ : OutElem))], elemBlocks o.ctx t leftR)
    | none => ([], [])
  { outs := outD.1 ++ outR.1, flags := fAll fl ||| fAll (routs.map fun (e : RElem) => e.flags), spoil := read, held := kept,
    left := outD.2 ++ outR.2, cur := [ends] }

/-! ### Execution time -/

/-- Element-wise rate for a width in bits (R99). -/
def laneRate (w : Nat) : Nat := if 16 < w then 64 else if 8 < w then 128 else 256

/-- Occupancy and active cycles of a VOP (R99, R125, R130, R511). -/
def vecCycles (x : Desc) : Nat × Nat :=
  let j := vecJob x
  let streams := vecSources j ++ [j.dst]
  let w := streams.foldl (fun m s => max m (fmtBits (stFmt s))) 0
  let slow := (if j.dst.id = noTensor then vecSources j else streams).any fun s => 1 < s.stride.natAbs
  let cap (n : Nat) : Nat := if slow then min n 16 else n
  let l := cap (laneRate w)
  let rate := cap (if j.func = 0x40 || j.func = 0x42 then 32
    else match vecClassOf j with | 1 => 16 | 5 => 64 | 6 => 64 | _ => laneRate w)
  let c := match j.func with
    | 0x70 => ceilDiv j.vl l + 2 * ceilDiv j.vl 16
    | 0x71 => 3 * ceilDiv j.vl l + 16
    | 0x72 => 2 * ceilDiv j.vl l + 16
    | _ => ceilDiv j.vl rate
  let sum := j.red == 1 && !codeIn j.dst.fmt intFmts
  let sweeps := match j.func with | 0x70 => 1 | 0x71 => 2 | 0x72 => 1 | _ => if sum then 1 else 0
  let chain := if !hStrict x then 0
    else if sum && j.whole then j.vl * j.rows
    else ceilDiv j.rows 16 * sweeps * j.vl
  let idle := if j.func = 0x71 || j.func = 0x72 then 16 * j.rows else 0
  (24 + max (j.rows * c) chain, j.rows * c - idle)

end Sys2Proof.Machine
end

