-- ==== Sys2Proof/Machine/Quant.lean ====
section
/-!
DEFINITION. Machine/Quant.lean: QUANT: descriptor and checks (R132, R133, R138, R140 to R142, R145, R146), the statistics
and conversion passes with their spoil (R134 to R143, R148), and execution time (R144, R151).
-/
namespace Sys2Proof.Machine
open Sys2Proof

/-- A QUANT as decoded (R145). -/
structure QuantJob where
  src : Nat
  dst : Nat
  scale : Nat
  rows : Nat
  cols : Nat
  fs : Nat
  fd : Nat
  mode : Nat
  gran : Nat
  pow2 : Bool
  zpEn : Bool
  zp : Int
deriving DecidableEq, Repr

/-- The fields of a QUANT. -/
def quantJob (x : Desc) : QuantJob :=
  { src := dfield x 24 0 32, dst := dfield x 28 0 32, scale := dfield x 32 0 32, rows := dfield x 36 0 32,
    cols := dfield x 40 0 32, fs := dfield x 44 4 4, fd := dfield x 44 0 4, mode := dfield x 45 6 2, gran := dfield x 45 4 2,
    pow2 := dbit x 45 3, zpEn := dbit x 45 2, zp := sext 32 (dfield x 48 0 32) }

/-- Whether the operation has a statistics pass (R141). -/
def qStats (j : QuantJob) : Bool := j.mode == 0 || j.mode == 2
/-- Whether the operation has a conversion pass (R141). -/
def qConverts (j : QuantJob) : Bool := j.mode != 2
/-- Whether the operation reads its scales (R141). -/
def qReadsScale (j : QuantJob) : Bool := j.mode == 1 || j.mode == 3
/-- The zero point in use. -/
def qZero (j : QuantJob) : Int := if j.zpEn then j.zp else 0

/-- Whether the formats are those of R138 or R140. -/
def quantFmtsOk (j : QuantJob) : Bool :=
  if j.mode = 3 then codeIn j.fs [.int4, .int8, .int16, .int32, .f8] && codeIn j.fd [.fp32, .bf16, .fp16]
  else codeIn j.fs [.fp32, .bf16, .fp16, .int32, .int16] && codeIn j.fd [.int4, .int8, .int16, .f8]

/-- Whether a zero point is allowed (R138). -/
def quantZpOk (j : QuantJob) : Bool :=
  !j.zpEn ||
    (let side := if j.mode = 3 then j.fs else j.fd
     j.gran == 0 && codeIn side [.int4, .int8] &&
       (let w := if side = 0 then 4 else 8
        intMin w ≤ j.zp && j.zp < intMax w))

/-- Whether the tensors are named as the mode has it (R142, R145, R146). A ring or built-in identifier gives 0x0501.
DEDUCED (R146's causes name neither it nor an extent out of range, R6 makes both invalid fields): assumption log 113. -/
def quantNamesOk (j : QuantJob) : Bool :=
  isTensorId j.src && (if j.mode = 2 then j.dst == noTensor else isTensorId j.dst)
    && (isTensorId j.scale || (j.mode == 0 && j.scale == noTensor))
    && j.src != j.dst && j.src != j.scale && (j.dst == noTensor || j.dst != j.scale)

/-- Whether every reserved bit is zero and every size is in range (R6, R145); a size out of range gives 0x0501. DEDUCED:
assumption log 113. -/
def quantFieldsOk (x : Desc) (j : QuantJob) : Bool :=
  dfield x 45 0 2 == 0 && dfield x 46 0 16 == 0 && dfield x 52 0 96 == 0 && j.gran != 3
    && 1 ≤ j.rows && j.rows ≤ 16777216 && 1 ≤ j.cols && j.cols ≤ 16777216

/-- Number of scale groups (R133). -/
def quantGroups (j : QuantJob) : Nat := match j.gran with | 0 => 1 | 1 => j.rows | _ => j.cols
/-- The group of element `i` (R133). -/
def quantGroup (j : QuantJob) (i : Nat) : Nat := match j.gran with | 0 => 0 | 1 => i / j.cols | _ => i % j.cols

/-- Whether a tensor has the view and format given (R132, R146). -/
def viewOk (d : Dev) (ctx id fmt : Nat) (j : QuantJob) : Bool :=
  match tensorOf d ctx id with
  | some t => t.fmt == fmt && tInner t == j.cols && tElems t == j.rows * j.cols
  | none => false

/-- Whether the scale tensor can hold the scales (R133, R146). -/
def scaleOk (d : Dev) (ctx : Nat) (j : QuantJob) : Bool :=
  match tensorOf d ctx j.scale with
  | some t => t.fmt == 7 && quantGroups j ≤ tElems t
  | none => false

/-- The tensors a QUANT names. -/
def quantTensors (j : QuantJob) : List Nat := [j.src, j.dst, j.scale].filter fun t => t != noTensor

/-- The first fault of a QUANT (R146, R201). -/
def quantReason (d : Dev) (h : Head) : Option Nat :=
  let j := quantJob h.desc
  if !quantFieldsOk h.desc j || !quantFmtsOk j || !quantZpOk j || !quantNamesOk j then some 0x0501
  else if (quantTensors j).any fun t => (tensorOf d h.ctx t).isNone then some 0x0704
  else if !viewOk d h.ctx j.src j.fs j || !(j.dst == noTensor || viewOk d h.ctx j.dst j.fd j)
      || !(j.scale == noTensor || scaleOk d h.ctx j) then some 0x0502
  else none

/-- A scale in use: its FP32 code, and whether it is spoil. -/
abbrev Scale := Nat × Bool

/-- `qmax` of the target (R135). -/
def quantMax (j : QuantJob) : Nat := (quantHi ((fmtOf j.fd).getD .int8) - qZero j).toNat

/-- The value of a source element in use, with the flags of its flush (R49, R134). -/
def quantVal (md : NMode) (j : QuantJob) (code : Nat) : Val × Flags :=
  inVal ((fmtOf j.fs).getD .int8) md.strict md.ftz code

/-- Of two elements by their codes, the one of larger magnitude: the first of equals, and a NaN before all (R134). -/
def maxCode (md : NMode) (j : QuantJob) (a b : Nat) : Nat :=
  let x := absVal (quantVal md j a).1
  if maxVal x (absVal (quantVal md j b).1) = x then a else b

/-- The running maximum of a group: the code of its element of largest magnitude so far, and its spoil (R134, R148, R149). -/
def runMax (md : NMode) (j : QuantJob) (h : Option Held) (g : Nat) (es : List (Nat × Bool)) : Held :=
  es.foldl (fun m e => ⟨g, maxCode md j m.code e.1, m.spoil || e.2⟩) (h.getD ⟨g, 0, false⟩)

/-- The scale formed for a group from its maximum (R134 to R136, R148). -/
def formScale (md : NMode) (j : QuantJob) (m : Held) : Scale :=
  (scaleOf j.pow2 (quantMax j) (groupAbsmax [(quantVal md j m.code).1]), m.spoil)

/-- The running maxima of every group after the statistics of the elements given by index (R149). -/
def quantMaxima (d : Dev) (md : NMode) (j : QuantJob) (s : Src) (hs : List Held) (is : List Nat) : List Held :=
  (List.range (quantGroups j)).map fun g =>
    runMax md j (heldAt hs g) g ((is.filter fun i => quantGroup j i == g).map fun i => (srcElem d s i, srcSpoil d s i))

/-- The scales of a QUANT, formed from its maxima or read (R136, R140, R142). -/
def quantScales (d : Dev) (md : NMode) (j : QuantJob) (maxima : List Held) (sc : Option Src) : List Scale :=
  if qReadsScale j then
    match sc with
    | some s => (List.range (quantGroups j)).map fun g => (srcElem d s g, srcSpoil d s g)
    | none => []
  else maxima.map (formScale md j)

/-- The conversion of one element (R53, R137, R140). -/
def quantOne (md : NMode) (j : QuantJob) (x : Val) (s : Val) : FR :=
  let f := (fmtOf j.fd).getD .int8
  if j.mode = 3 then dequantElem f md (qZero j) x s else quantElem f md.strict md.ftz (qZero j) x s

/-- The value of a scale as it is used: a given subnormal one is flushed under R49 (R143). -/
def scaleVal (md : NMode) (j : QuantJob) (s : Scale) : Val × Flags :=
  if qReadsScale j then inVal .fp32 md.strict md.ftz s.1 else (fp32Val s.1, fNone)

/-! ### The order of the work (R141, R149): the statistics pass and then the conversion pass, each row by row in column
blocks of 256 elements. -/

/-- Column blocks of a row. -/
def quantBlocks (j : QuantJob) : Nat := ceilDiv j.cols 256
/-- Units of work of the statistics pass. -/
def quantStat (j : QuantJob) : Nat := if qStats j then j.rows * quantBlocks j else 0
/-- Units of work of a QUANT. -/
def quantTotal (j : QuantJob) : Nat := quantStat j + if qConverts j then j.rows * quantBlocks j else 0
/-- The column block of element `i`, counted through the rows. -/
def quantUnit (j : QuantJob) (i : Nat) : Nat := i / j.cols * quantBlocks j + i % j.cols / 256
/-- The elements whose statistics, or whose conversion, lies between two cursors. -/
def quantSpan (j : QuantJob) (base cur till : Nat) : List Nat :=
  (List.range (j.rows * j.cols)).filter fun i => cur ≤ base + quantUnit j i && base + quantUnit j i < till

/-- The work of a QUANT from its cursor to the place that a command names (R59, R141, R148, R149). The scales are stored when
the statistics pass ends. -/
def quantWork (d : Dev) (id : Nat) (o : Op) (till : List Nat) : Work :=
  let j := quantJob o.desc
  let md : NMode := ⟨hStrict o.desc, ftzOf d o.ctx⟩
  match srcOf d o.ctx j.src id with
  | none => Work.none
  | some s =>
    let cur := lget 0 o.cur 0
    let ends := cursorTo o.cur till 0 (quantTotal j)
    let t1 := quantStat j
    let stat := if qStats j then quantSpan j 0 cur (min ends t1) else []
    let conv := if qConverts j then quantSpan j t1 cur ends else []
    let maxima := if qStats j then quantMaxima d md j s o.held stat else []
    let scs := quantScales d md j maxima (if j.scale = noTensor then none else srcOf d o.ctx j.scale id)
    let vals := scs.map fun c => (scaleVal md j c, c.2)
    let one (i : Nat) : OutElem × Flags × Bool :=
      let x := quantVal md j (srcElem d s i)
      let sc := lget ((valZeroP, fNone), false) vals (quantGroup j i)
      let r := quantOne md j x.1 sc.1.1
      let sp := srcSpoil d s i || sc.2
      (⟨i, r.bits, sp⟩, r.flags ||| x.2 ||| sc.1.2, sp)
    let cs := conv.map one
    let scaled := qStats j && j.scale != noTensor
    let outS := match (if scaled then tensorOf d o.ctx j.scale else none) with
      | some t =>
        (if cur < t1 && t1 ≤ ends then [(t, scs.zipIdx.map fun (c : Scale × Nat) => (⟨c.2, c.1.1, c.1.2⟩ : OutElem))] else [],
          if ends < t1 then elemBlocks o.ctx t (List.range (quantGroups j)) else [])
      | none => ([], [])
    let outD := match (if qConverts j then tensorOf d o.ctx j.dst else none) with
      | some t => ([(t, cs.map fun (e : OutElem × Flags × Bool) => e.1)], elemBlocks o.ctx t (quantSpan j t1 ends (quantTotal j)))
      | none => ([], [])
    { outs := outS.1 ++ outD.1,
      flags := fAll (stat.map fun i => (quantVal md j (srcElem d s i)).2) ||| fAll (cs.map fun e => e.2.1),
      spoil := stat.any (srcSpoil d s) || cs.any (fun e => e.2.2),
      held := if ends = quantTotal j then [] else maxima, left := outS.2 ++ outD.2, cur := [ends] }

/-- Occupancy and active cycles of a QUANT, its scales given (R144, R151). -/
def quantCycles (j : QuantJob) (scs : List Scale) : Nat × Nat :=
  let v := if j.mode = 3 || scs.all (fun c => isPow2Fp32 c.1) then 256 else 128
  let s := if qStats j then j.rows * ceilDiv j.cols 256 else 0
  let c := if qConverts j then j.rows * ceilDiv j.cols v else 0
  (32 + s + c, s + c)

/-- Occupancy and active cycles of a QUANT operation as it runs. -/
def quantOcc (d : Dev) (id : Nat) (o : Op) : Nat × Nat :=
  let j := quantJob o.desc
  let md : NMode := ⟨hStrict o.desc, ftzOf d o.ctx⟩
  match srcOf d o.ctx j.src id with
  | none => (0, 0)
  | some s =>
    let maxima := if qStats j then quantMaxima d md j s [] (List.range (j.rows * j.cols)) else []
    quantCycles j (quantScales d md j maxima (if j.scale = noTensor then none else srcOf d o.ctx j.scale id))

end Sys2Proof.Machine
end

