-- ==== Sys2Proof/Machine/Run.lean ====
section
/-!
DEFINITION. Machine/Run.lean: compute operations from issue to completion: the pages they touch (R206, R207), their results
delivered with flags and spoil (R58, R83, R127, R148), residue and signature outcomes (R94, R129, R150), resumption (R246).
-/
namespace Sys2Proof.Machine
open Sys2Proof

/-- The physical benches of an operation's units, each once. -/
def opBenches (o : Op) : List Nat := (o.units.map (unitBench o.kind)).eraseDups

/-- The pages that hold the elements of a tensor given by index. -/
def elemPages (t : Tensor) (is : List Nat) : List Nat :=
  ((is.map fun i => pagesOf t (elemPos t i).1 ((elemPos t i).1 + 1)).flatten).eraseDups

/-- The pages of a whole tensor. -/
def wholePages (t : Tensor) : List Nat := pagesOf t 0 t.size

/-- The element indices of a stream. -/
def streamElems (j : VecJob) (s : Stream) : List Nat :=
  ((List.range j.rows).map fun r => (List.range j.vl).map (streamIdx j s r)).flatten.eraseDups

/-- Pages of a tensor by identifier, chosen by a function of the tensor. -/
def tensorPages (d : Dev) (ctx id : Nat) (f : Tensor → List Nat) : List Nat :=
  match tensorOf d ctx id with
  | some t => f t
  | none => []

/-- The pages an operation touches on every engine, and those it touches on its first engine only: a split operation's
output and accumulator source (R66, R68). -/
def touched (d : Dev) (o : Op) : List Nat × List Nat :=
  match o.kind with
  | .bench =>
    let j := benchJob o.desc
    (tensorPages d o.ctx j.a wholePages ++ tensorPages d o.ctx j.w wholePages,
      tensorPages d o.ctx j.dst wholePages ++ (if j.accum then tensorPages d o.ctx j.c wholePages else []))
  | .vec =>
    let j := vecJob o.desc
    let st (s : Stream) : List Nat := tensorPages d o.ctx s.id fun t => elemPages t (streamElems j s)
    ((vecSources j).flatMap st ++ (if j.func = 0x60 then tensorPages d o.ctx j.c.id wholePages else []),
      st j.dst ++ (if usesR j then tensorPages d o.ctx j.r fun t => elemPages t (List.range (redCount j)) else []))
  | .quant =>
    let j := quantJob o.desc
    (tensorPages d o.ctx j.src wholePages,
      tensorPages d o.ctx j.dst wholePages
        ++ tensorPages d o.ctx j.scale fun t => elemPages t (List.range (quantGroups j)))
  | _ => ([], [])

/-- The pages an operation must wait for (R206): those it touches that are not on the bench that touches them. -/
def opNeeds (d : Dev) (o : Op) : List (Nat × Nat) :=
  let t := touched d o
  let bs := opBenches o
  let lack (b : Nat) (ps : List Nat) : List (Nat × Nat) :=
    ((ps.eraseDups).filter fun p => !bitAt (pageOf d o.ctx p).copies b).map fun p => (ckey o.ctx p, b)
  (bs.flatMap (fun b => lack b t.1) ++ (match bs with | b :: _ => lack b t.2 | [] => [])).eraseDups

/-- The work of a compute operation from its cursor to the place that a command names. -/
def opWork (d : Dev) (id : Nat) (o : Op) (till : List Nat) : Work :=
  match o.kind with
  | .bench => benchWork d id o till
  | .vec => vecWork d id o till
  | .quant => quantWork d id o till
  | _ => Work.none

/-- The ends of the cursors of a compute operation: one for each range. -/
def opTotals (d : Dev) (o : Op) : List Nat :=
  match o.kind with
  | .bench =>
    let j := benchJob o.desc
    match pairOf j.fa j.fw with
    | some (cls, lc) => let g := benchGrid d o cls lc j; g.spans.map (gridTotal g)
    | none => []
  | .vec => [vecTotal (vecJob o.desc)]
  | .quant => [quantTotal (quantJob o.desc)]
  | _ => []

/-- Where a command takes the cursors: an operation that ends by a second mismatch on a bench stops short of the end of that
bench's range (R82, R94). -/
def runTill (d : Dev) (o : Op) : List Nat :=
  match o.run.failed with
  | none => o.run.till
  | some b =>
    let bs := opBenches o
    (opTotals d o).zipIdx.map fun t =>
      let stop := (o.run.till[t.2]?).getD t.1
      if lget 16 bs (t.2 % max 1 bs.length) = b then min stop (t.1 - 1) else stop

/-- Engine ticks of a compute operation. -/
def opOcc (d : Dev) (id : Nat) (o : Op) : Nat :=
  match o.kind with
  | .bench => benchOcc d o
  | .vec => (vecCycles o.desc).1
  | .quant => (quantOcc d id o).1
  | _ => 0

/-- Active cycles of a VOP or QUANT up to a cursor: those of its rows, in proportion to the work. DEDUCED: assumption log
117. -/
def activeShare (cycles total cur : Nat) : Nat := if total = 0 then 0 else cycles * cur / total

/-- Active cycles counted on the engines of a compute operation for its work up to new cursors (R97, R130, R151). -/
def countActive (d : Dev) (id : Nat) (o : Op) (ends : List Nat) : Dev :=
  let b := (opBenches o).headD 16
  let add (cycles : Nat) (n : Nat) : Nat :=
    let total := lget 0 (opTotals d o) 0
    satAdd 64 n (activeShare cycles total (lget 0 ends 0) - activeShare cycles total (lget 0 o.cur 0))
  match o.kind with
  | .bench => benchCount d o ends
  | .vec => { d with comp := { d.comp with vecCycles := lmod d.comp.vecCycles b (add (vecCycles o.desc).2) } }
  | .quant => { d with comp := { d.comp with quantCycles := lmod d.comp.quantCycles b (add (quantOcc d id o).2) } }
  | _ => d

/-- A transient mismatch counted on the engine of kind `k` of a bench (R94, R129, R150). -/
def countTransient (k : EngKind) (d : Dev) (b : Nat) : Dev :=
  let inc (n : Nat) : Nat := satAdd 32 n 1
  match k with
  | .bench => { d with comp := { d.comp with benchTransients := lmod d.comp.benchTransients b inc } }
  | .vec => { d with comp := { d.comp with vecTransients := lmod d.comp.vecTransients b inc } }
  | .quant => { d with comp := { d.comp with quantTransients := lmod d.comp.quantTransients b inc } }
  | _ => d

/-- The reason of a permanent mismatch by kind (R90, R124, R146). -/
def hwReason : EngKind → Nat
  | .vec => 0x0403
  | .quant => 0x0503
  | _ => 0x0303

/-- Whether an operation reads a block that another operation still writes (R24). -/
def readsHot (d : Dev) (id : Nat) (o : Op) : Bool :=
  let ts := match o.kind with
    | .bench => let j := benchJob o.desc; [j.a, j.w] ++ (if j.accum then [j.c] else [])
    | .vec => let j := vecJob o.desc; (vecSources j).map (fun (s : Stream) => s.id) ++ (if j.func = 0x60 then [j.c.id] else [])
    | .quant => let j := quantJob o.desc; [j.src, j.scale]
    | _ => []
  ts.any fun t => match srcOf d o.ctx t id with | some s => !s.hot.isEmpty | none => false

/-- An operation's results stored, its flags raised, and one SPOIL_READ where it read spoil for the first time (R58, R59,
R83, R127, R148). -/
def deliver (d : Dev) (o : Op) (w : Work) : Dev :=
  let bench := (opBenches o).head?
  let d := w.outs.foldl (fun d e => storeElems d o.ctx e.1 bench e.2) d
  let d := raise d o.ctx w.flags
  if w.spoil && !o.spoilSeen then postSpoilRead d o else d

/-- The operation after its work: at its new cursor, with the running state it holds there (R92, R128, R149). -/
def opAfter (d : Dev) (id : Nat) (o : Op) (w : Work) : Op :=
  { o with phase := if w.cur = opTotals d o then .done else .running, needs := [], cur := w.cur, held := w.held, left := w.left,
           spoilSeen := o.spoilSeen || w.spoil, run := .whole, occ := if w.cur = opTotals d o then opOcc d id o else o.occ }

/-- A compute operation whose pages have all come in works from its cursor: to its end, where it waits for its completion,
or to the place that the command names, or up to the second mismatch that ends it, whose engine is worked out (R94, R129,
R150). -/
def runOp (d : Dev) (id : Nat) (o : Op) : Dev :=
  if o.kind = .vec && !tableValid d o.ctx (vecJob o.desc) id then abortOp (setOp d id o) id 0x0405
  else
    let w := opWork d id o (runTill d o)
    let d1 := countActive d id o w.cur
    let d1 := if o.kind = .bench then peWork d1 id o w.cur else d1
    let d1 := if readsHot d id o then { d1 with free := d1.free + 1 } else d1
    let bs := opBenches o
    let d2 := (o.run.transients.filter fun b => bs.contains b).foldl (countTransient o.kind)
      (setOp (deliver d1 o w) id (opAfter d id o w))
    match o.run.failed.filter fun b => bs.contains b with
    | some b => benchRetire (abortOp d2 id (hwReason o.kind)) b
    | none => grantScratch d2 (opAfter d id o w)

/-- An issued compute operation runs, or stalls on the pages it touches (R207). -/
def beginOp (d : Dev) (id : Nat) (o : Op) : Dev :=
  match opNeeds d o with
  | [] => runOp d id o
  | ns => let o := { o with phase := .stalled, needs := ns }; touchAll (setOp d id o) ns (some o)

/-- An operation as it issues, with the output blocks it is to write (R82). -/
def computeOp (d : Dev) (h : Head) (run : WorkRun) : Op :=
  let o := { freshOp d h with run := run }
  let bs := (opWork d d.disp.nextOp o (List.replicate 16 0)).left
  { o with blocks := bs, left := bs, cur := (opTotals d o).map fun _ => 0 }

/-- A compute descriptor issued (R227). -/
def startCompute (run : WorkRun) (d : Dev) (h : Head) : Dev :=
  let r := issue d h (computeOp d h run)
  beginOp r.2 r.1 (computeOp d h run)

/-- The pages of a LUT's table whose contents the device does not hold: the table is checked before the VOP is executed, so
it waits at its head for them (R117, R124, R206, R208). -/
def tableAbsent (d : Dev) (h : Head) : List (Nat × Nat) :=
  let j := vecJob h.desc
  if j.func = 0x60 then
    (tensorPages d h.ctx j.c.id wholePages).filterMap fun p => if servable d (ckey h.ctx p, 16) then none else some (ckey h.ctx p, 16)
  else []

/-- The first fault of a VOP whose table is not wholly present is judged without it. -/
def vecHeadReason (d : Dev) (h : Head) : Option Nat :=
  match vecReason d h with
  | some r => if r = 0x0405 && !(tableAbsent d h).isEmpty then none else some r
  | none => none

/-- A VOP at its head: it touches the absent pages of its table, or issues. -/
def startVop (run : WorkRun) (d : Dev) (h : Head) : Dev :=
  match tableAbsent d h with
  | [] => startCompute run d h
  | ns => touchAll d ns (some (freshOp d h))

/-- MATMUL (R85). -/
def famMatmul (run : WorkRun) : Family :=
  { op := 0x10, sub := fun _ => true, invalid := 0x0301, check := benchReason, ready := mayIssue, run := startCompute run }
/-- CONV (R87). -/
def famConv (run : WorkRun) : Family :=
  { op := 0x11, sub := fun _ => true, invalid := 0x0301, check := benchReason, ready := mayIssue, run := startCompute run }
/-- VOP (R123). -/
def famVop (run : WorkRun) : Family :=
  { op := 0x20, sub := fun _ => true, invalid := 0x0401, check := vecHeadReason, ready := mayIssue, run := startVop run }
/-- QUANT (R145). -/
def famQuant (run : WorkRun) : Family :=
  { op := 0x30, sub := fun _ => true, invalid := 0x0501, check := quantReason, ready := mayIssue, run := startCompute run }

/-- A compute descriptor's command: its checks name benches that exist (R15). -/
def runWork (s : State) (q : Nat) (run : WorkRun) (f : Family) : Host.Outcome State Fault Refusal :=
  onDev (q < 16384 && workRunOk run) s fun d => settle (withHead d q f)

/-- MATMUL. -/
def execMatmul (q : Nat) (run : WorkRun) (s : State) : Host.Outcome State Fault Refusal := runWork s q run (famMatmul run)
/-- CONV. -/
def execConvolve (q : Nat) (run : WorkRun) (s : State) : Host.Outcome State Fault Refusal := runWork s q run (famConv run)
/-- VOP. -/
def execVop (q : Nat) (run : WorkRun) (s : State) : Host.Outcome State Fault Refusal := runWork s q run (famVop run)
/-- QUANT. -/
def execQuant (q : Nat) (run : WorkRun) (s : State) : Host.Outcome State Fault Refusal := runWork s q run (famQuant run)

/-- An operation that is not parked completes when its outputs are all written (R225); a compute operation that a command left
at a cursor first works to its end. -/
def descriptorComplete (d : Dev) (op : Nat) : Dev :=
  match opOf d op with
  | none => d
  | some o =>
    let d := if o.phase = .running && !o.parked then runOp d op { o with run := .whole } else d
    match opOf d op with
    | some o => if o.phase = .done && !o.parked && outsIn d o then completeOp d op else d
    | none => d

/-- DESCRIPTOR_COMPLETE. -/
def execDescriptorComplete (op : Nat) (s : State) : Host.Outcome State Fault Refusal :=
  runDev true s fun d => descriptorComplete d op

/-! ### Resumption -/

/-- Whether the pair of a core is READY. -/
def coreReady (d : Dev) (c : Nat) : Bool := (lget ⟨0, 4⟩ d.sc.pairs (c / 2)).st == 1

/-- Whether a best-effort program can go on on its own core. -/
def ownCore (d : Dev) (c : Nat) : Bool := coreReady d c && !unitBusy d .core c && !reservedNow d 3 c

/-- The moves of the parked instances of a best-effort program, each from its core to the one it goes on on: its own where
that is free, or else another free one; an instance for which there is none stays parked (R246, R346, R348). -/
def resumeCores (d : Dev) : List Nat → List Nat → List (Nat × Nat)
  | [], _ => []
  | c :: t, free =>
    if ownCore d c then (c, c) :: resumeCores d t free
    else
      match free with
      | f :: rest => (c, f) :: resumeCores d t rest
      | [] => resumeCores d t []

/-- Whether best-effort work of a kind may resume for an operation's context: a boosted context's operations go first
(R254). -/
def beTurn (d : Dev) (o : Op) : Bool := boostedCtx d o.ctx || !boostWaits d o.kind

/-- What a resumed best-effort compute operation takes: any free engine of its kind (R246). -/
def resumeBe (d : Dev) (o : Op) : Option (List Nat) :=
  match kindNo o.kind with
  | none => none
  | some n => if !beTurn d o || d.pwr.powerHold || d.pwr.heatHold then none else pickBe d o.ctx o.kind n (wantOf d o.desc)

/-- What a resumed latency-critical compute operation takes, inside its graph's next reservation (R243). -/
def resumeLc (d : Dev) (o : Op) : Option (List Nat) :=
  match kindNo o.kind with
  | none => none
  | some n => pickLc d o.ctx o.kind n o.graph (wantOf d o.desc)

/-- Where a parked instance of a latency-critical program goes on in its graph's next reservation: on the core that holds its
part, or, that one's pair having left service, on the core that the placement now gives its place (R243, R244, R320). -/
def resumeLcCore (d : Dev) (o : Op) (r : Resv) (c : Nat) : Option (Nat × Nat) :=
  if coreReady d c then (if unitBusy d .core c then none else some (c, c))
  else
    match (placedCores d r)[o.units.idxOf c]? with
    | some n => if coreOpen d r n then some (c, n) else none
    | none => none

/-- The moves of the parked instances of a signal-core program (R243, R246, R346). -/
def resumeMoves (d : Dev) (o : Op) : List (Nat × Nat) :=
  if o.lc then
    match resvOf d o.graph 3 with
    | some r => o.away.filterMap (resumeLcCore d o r)
    | none => []
  else if beTurn d o then resumeCores d o.away ((List.range 32).filter (freeForBe d .core 3 false))
  else []

/-- Instances of an operation moved from their cores to others, whose regions they are copied to (R346). -/
def moveInsts (d : Dev) (id : Nat) (ms : List (Nat × Nat)) : Dev :=
  let ps := ms.filter fun e => e.1 != e.2
  let take (c : Nat) : List Inst := (tget coreDefault d.sc.cores c).insts.filter fun i => i.op == id
  let moved := ps.map fun e => (e.2, take e.1)
  let cores := ps.foldl (fun t e => tmod coreDefault t e.1 fun x => { x with insts := x.insts.filter fun i => i.op != id })
    d.sc.cores
  let cores := moved.foldl (fun t e => tmod coreDefault t e.1 fun x => { x with insts := x.insts ++ e.2, code := none }) cores
  { d with sc := { d.sc with cores := cores } }

/-- The parked instances of a program that can go on back on cores (R346). -/
def resumeProgram (d : Dev) (id : Nat) (o : Op) (ms : List (Nat × Nat)) : Dev :=
  let goes (c : Nat) : Nat := match ms.find? fun e => e.1 == c with | some e => e.2 | none => c
  let away := o.away.filter fun c => !ms.any fun e => e.1 == c
  setOp (moveInsts d id ms) id { o with parked := !away.isEmpty, away := away, units := o.units.map goes }

/-- The array state that was saved with an operation put back on its partitions (R92). -/
def restorePe (d : Dev) (o : Op) (us : List Nat) : Dev :=
  if o.kind = .bench then
    { d with comp := { d.comp with pe := (us.zip o.pes).foldl (fun l e => lset l e.1 e.2) d.comp.pe } }
  else d

/-- A parked operation back on engines: a compute operation goes on from its cursor once the pages it touches are on its
benches, which may be new ones (R93, R128, R149, R246). -/
def resumeOp (d : Dev) (id : Nat) (o : Op) (us : List Nat) (run : WorkRun) : Dev :=
  let d := restorePe d o us
  let o1 := { o with parked := false, units := us, pes := [], scratch := scratchFor o.kind us }
  if o.phase = .stalled || o.phase = .running then beginOp d id { o1 with needs := [], run := run } else setOp d id o1

/-- A parked operation resumes where an engine is free for it (R246). -/
def operationResume (d : Dev) (id : Nat) (run : WorkRun) : Dev :=
  match opOf d id with
  | none => d
  | some o =>
    if !o.parked then d
    else if o.kind = .core then resumeProgram d id o (resumeMoves d o)
    else
      match (if o.lc then resumeLc d o else resumeBe d o) with
      | some us => resumeOp d id o us run
      | none => d

/-- OPERATION_RESUME. -/
def execOperationResume (op : Resumed) (s : State) : Host.Outcome State Fault Refusal :=
  runDev (workRunOk op.run) s fun d => operationResume d op.op op.run

end Sys2Proof.Machine
end

