-- ==== Sys2Proof/Machine/Memory.lean ====
section
/-!
DEFINITION. Machine/Memory.lean: ALLOC and FREE (R198 to R204), page-ins and host timeouts (R206 to R209), migration (R211,
R212) and the draining of channels (R216).
-/
namespace Sys2Proof.Machine
open Sys2Proof

/-! ### ALLOC and FREE -/

/-- `ALLOC.TENSOR_ID`, `FREE.TENSOR_ID`. -/
def alId (x : Desc) : Nat := dfield x 24 0 32
/-- `ALLOC.BACKING`. -/
def alBacking (x : Desc) : Nat := dfield x 28 6 2
/-- `ALLOC.PIN_BENCH`. -/
def alPin (x : Desc) : Bool := dbit x 28 5
/-- `ALLOC.BENCH_MASK`. -/
def alMask (x : Desc) : Nat := dfield x 30 0 16

/-- The tensor an ALLOC would record, without its place (R200, R508). -/
def alTensor (d : Dev) (ctx : Nat) (x : Desc) : Option Tensor :=
  (tableFind d ctx (alId x)).map fun e =>
    let size := imageSize ((fmtOf e.fmt).getD .int8) e.dims
    { fmt := e.fmt, dims := e.dims, base := 0, pages := ceilDiv size 65536, size := size, host := alBacking x == 1,
      pinMask := if alPin x then alMask x else 0, pinMem := dbit x 28 4, freeze := dbit x 28 3 }

/-- Pages a context has allocated (R234). -/
def ctxPages (d : Dev) (ctx : Nat) : Nat :=
  ((d.mem.tensors.filter fun e => e.1 / 2 ^ 32 == ctx).map fun e => e.2.pages).sum

/-- LPDDR6 pages that an ALLOC can have: free ones, and those it may drop (R210). -/
def takeable (d : Dev) : Nat := freePages d + (d.mem.pages.filter (droppable d)).length

/-- The host benches of a mask of logical benches, each once. -/
def hostsOf (d : Dev) (mask : Nat) : List Nat := (((List.range 16).filter (bitAt mask)).map (hostOf d)).eraseDups

/-- The first fault of an ALLOC (R200, R202, R204, R234); while the host of a bench it pins to is not READY it waits (R21). -/
def allocReason (d : Dev) (h : Head) : Option Nat :=
  let x := h.desc
  if 1 < alBacking x || dfield x 28 0 3 != 0 || dfield x 29 0 8 != 0 || dfield x 32 0 256 != 0 || !isTensorId (alId x)
      || (tensorOf d h.ctx (alId x)).isSome || (alPin x && (alMask x == 0 || 2 ^ d.boot.lbenches ≤ alMask x)) then some 0x0701
  else
    match alTensor d h.ctx x with
    | none => some 0x0701
    | some t =>
      if (ctxOf d h.ctx).share < ctxPages d h.ctx + t.pages || takeable d < t.pages then some 0x0702
      else reasonIf ((hostsOf d t.pinMask).any fun b => (benchReg d b).st == 1 && 88 < pinnedFrames d b + t.pages) 0x0703

/-- The lowest page from `p` on where `n` pages lie free, over the tensors given in rising order of place (R198). -/
def firstFit (n : Nat) : Nat → List (Nat × Nat) → Nat
  | p, [] => p
  | p, (b, k) :: t => if p + n ≤ b then p else firstFit n (max p (b + k)) t

/-- A list of ranges with one inserted by its start. -/
def insRange (r : Nat × Nat) : List (Nat × Nat) → List (Nat × Nat)
  | [] => [r]
  | q :: t => if r.1 < q.1 then r :: q :: t else q :: insRange r t

/-- The place of a new tensor of `n` pages in a context's space: page 0 is never assigned (R198). -/
def placeFor (d : Dev) (ctx n : Nat) : Nat :=
  let used := (d.mem.tensors.filter fun e => e.1 / 2 ^ 32 == ctx).foldl (fun l e => insRange (e.2.base, e.2.pages) l) []
  firstFit n 1 used

/-- Whether an ALLOC can issue: the hosts of the logical benches it pins to are READY (R21). -/
def allocReady (d : Dev) (h : Head) : Bool :=
  !alPin h.desc || ((List.range 16).filter (bitAt (alMask h.desc))).all (hostReady d)

/-- A tensor recorded with its pages, each assigned to a channel in rotation (R200, R211). -/
def placeTensor (d : Dev) (ctx id : Nat) (t : Tensor) : Dev :=
  let base := placeFor d ctx t.pages
  let d := { d with mem := { d.mem with tensors := tset d.mem.tensors (ckey ctx id) { t with base := base } } }
  (List.range t.pages).foldl (fun d i =>
    assignPage (setPage d ctx (base + i) { pageDefault with st := if t.host then .hostAbsent else .untouched }) ctx (base + i)) d

/-- ALLOC: without a pin it completes at once; with one it waits until every page is resident on every named bench
(R200). -/
def startAlloc (d : Dev) (h : Head) : Dev :=
  match alTensor d h.ctx h.desc with
  | none => d
  | some t =>
    let d := placeTensor d h.ctx (alId h.desc) t
    if t.pinMask = 0 then completeHead d h
    else
      let base := match tensorOf d h.ctx (alId h.desc) with | some x => x.base | none => 0
      let ns := (hostsOf d t.pinMask).flatMap fun b => (List.range t.pages).map fun i => (ckey h.ctx (base + i), b)
      let o := { freshOp d h with phase := .stalled, needs := ns }
      let r := issue d h o
      touchAll r.2 ns (some o)

/-- ALLOC. -/
def famAlloc : Family :=
  { op := 0x50, sub := fun _ => true, invalid := 0x0701, check := allocReason, ready := allocReady, run := startAlloc }

/-- ALLOC. -/
def execAlloc (q : Nat) (s : State) : Host.Outcome State Fault Refusal := runHead s q famAlloc

/-- Whether an operation still needs a tensor: it waits for one of its pages, or is a MOVE that names it. -/
def usesTensor (ctx id : Nat) (t : Tensor) (o : Op) : Bool :=
  o.ctx == ctx &&
    (o.needs.any (fun n => ckey ctx t.base ≤ n.1 && n.1 < ckey ctx (t.base + t.pages))
      || (o.phase == .moving && hOpcode o.desc == 0x40 && (mvFrom o.desc == some id || mvTo o.desc == some id)))

/-- A tensor released: every copy of every page discarded without write-back, its range free (R201, R232). -/
def releaseTensor (d : Dev) (ctx id : Nat) (t : Tensor) : Dev :=
  let d := (List.range t.pages).foldl (fun d i => memClearPage d ctx (t.base + i)) d
  let gone (e : Nat × Page) : Bool := ckey ctx t.base ≤ e.1 && e.1 < ckey ctx (t.base + t.pages)
  { d with mem := { d.mem with tensors := tdel d.mem.tensors (ckey ctx id),
                               pages := d.mem.pages.filter fun e => !gone e,
                               clamping := d.mem.clamping.filter fun k => !(k.1 == ctx && k.2.1 == freezeKey id) } }

/-- FREE (R201), which may let a logical bench return (R96): an operation that still uses the tensor without an order ends with MEM_NOT_ALLOCATED. -/
def freeTensor (d : Dev) (h : Head) : Dev :=
  match tensorOf d h.ctx (alId h.desc) with
  | none => d
  | some t =>
    let late := d.disp.ops.filter fun o => usesTensor h.ctx (alId h.desc) t o.2
    let d := late.foldl (fun d o => abortOp d o.1 0x0704) d
    completeHead (checkReturn (pinLimits (releaseTensor d h.ctx (alId h.desc) t))) h

/-- The fault of a FREE (R202). -/
def freeReason (d : Dev) (h : Head) : Option Nat :=
  reasonIf (dfield h.desc 28 0 288 != 0 || !isTensorId (alId h.desc) || (tensorOf d h.ctx (alId h.desc)).isNone) 0x0701

/-- FREE. -/
def famFree : Family :=
  { op := 0x51, sub := fun _ => true, invalid := 0x0701, check := freeReason, ready := fun _ _ => true, run := freeTensor }

/-- FREE. -/
def execFree (q : Nat) (s : State) : Host.Outcome State Fault Refusal := runHead s q famFree

/-! ### Pages -/

/-- An operation goes on once its last page is in (R207). -/
def goOn (d : Dev) (id : Nat) (o : Op) : Dev :=
  match o.kind with
  | .haul => moveOn d id o
  | .mem => setOp d id { o with phase := .done, needs := [] }
  | _ => runOp d id o

/-- Room on bench `b` for a page of a class: a pinned one takes any of the 88 frames, an unpinned one keeps the envelope (R203,
R205, R211); whether there is. -/
def roomFor (d : Dev) (ctx p b : Nat) (lc : Bool) : Dev × Bool :=
  if pagePinned d b (ckey ctx p) then makeFrames 96 d b lc 1 0 0 else makeRoom d ctx b lc

/-- The bench that receives a page a haul engine touched: the READY one with the fewest frames in use (R181). -/
def benchFor (d : Dev) : Option Nat := bestOf (fun b => 4096 - benchFramesUsed d b) ((List.range 16).filter (benchTakes d))

/-- A page brought in by `hold`: its contents are read from LPDDR6 with the failures of their blocks, unless it is UNTOUCHED and
zero-filled (R196, R206, R217). -/
def fetchPage (d : Dev) (ctx p : Nat) (crc : List BlockFail) (hold : Dev → Dev) : Dev :=
  if fetched (pageOf d ctx p).st then readPages d ctx [p] crc hold else hold d

/-- One page brought in for a need of a class (R206, R207): fetched with its CRC checks, or zero-filled; whether there was room.
Where no bench can take a page that a haul engine touched, the engine reads it from LPDDR6 (R152, R181). -/
def servePage (d : Dev) (ctx p : Nat) (b : Option Nat) (lc : Bool) (crc : List BlockFail) : Dev × Bool :=
  match b with
  | none => (fetchPage d ctx p crc fun d => d, true)
  | some b =>
    if bitAt (pageOf d ctx p).copies b then (d, true)
    else
      let r := roomFor d ctx p b lc
      (if r.2 then fetchPage r.1 ctx p crc fun d => pageIn d ctx p b lc else r.1, r.2)

/-- Whether a latency-critical operation waits for a page the device can serve (R207). -/
def lcWaits (d : Dev) : Bool := d.disp.ops.any fun o => o.2.lc && !o.2.parked && o.2.needs.any (servable d)

/-- The list without the first element equal to one. -/
def dropNeed (n : Nat × Nat) : List (Nat × Nat) → List (Nat × Nat)
  | [] => []
  | m :: t => if m = n then t else m :: dropNeed n t

/-- A page an operation waits for comes in, latency-critical ones first; after the last the operation goes on (R207). A page that
was lost with its channel in the meantime is waited for still (R217). -/
def pageInComplete (d : Dev) (id : Nat) (crc : List BlockFail) : Dev :=
  match opOf d id with
  | none => d
  | some o =>
    if !o.lc && lcWaits d then d
    else
      match o.needs.find? (servable d) with
      | none => d
      | some n =>
        let r := servePage d (n.1 / 2 ^ 32) (n.1 % 2 ^ 32) (if n.2 = 16 then benchFor d else some n.2) o.lc crc
        if !r.2 || !servable r.1 n then r.1
        else
          match opOf r.1 id with
          | none => r.1
          | some o =>
            let rest := dropNeed n o.needs
            if rest.isEmpty && !o.parked && o.phase != .done then goOn r.1 id { o with needs := [] }
            else setOp r.1 id { o with needs := rest }

/-- PAGE_IN_COMPLETE. -/
def execPageInComplete (op : Nat) (crc : List BlockFail) (s : State) : Host.Outcome State Fault Refusal :=
  runDev (failsOk crc) s fun d => pageInComplete d op crc

/-- Whether the host has missed its time for a page (R209, R219): one microsecond is 800 ticks. -/
def hostLate (d : Dev) (ctx p : Nat) : Bool :=
  d.mem.hostTimeout != 0 && (pageOf d ctx p).st == .hostAbsent &&
    match (pageOf d ctx p).req with
    | some t => t + 800 * d.mem.hostTimeout < now d
    | none => false

/-- HOST_PAGE_TIMEOUT (R209). -/
def execHostPageTimeout (ctx page : Nat) (s : State) : Host.Outcome State Fault Refusal :=
  runDev (ctx < 64 && page < 2 ^ 32) s fun d =>
    if hostLate d ctx page then pageUnserved d ctx page (waitingOp d ctx page) else d

/-- Whether a channel can take a page that moves: READY, with a free page, and under its ceiling unless every such channel is at
its own (R211, R213). -/
def chanTakes (d : Dev) (c : Nat) : Bool :=
  (chanReg d c).st == 1 && 0 < chanFree d c
    && (!chanFull d c || (readyChans d).all fun k => chanFull d k || chanFree d k == 0)

/-- A page migrated to a channel inside the placement envelope, or held at its edge with a clamp (R211, R212). -/
def migrateChan (d : Dev) (ctx p c : Nat) (crc : List BlockFail) : Dev :=
  let t := tensorAt d ctx p
  let frozen := match t with | some t => t.2.freeze | none => false
  if (pageOf d ctx p).chan.isNone || (pageOf d ctx p).chan == some c || (chanReg d c).st != 1 || chanFree d c == 0 then d
  else if d.mem.migrateFreeze then memClamp d ctx 0x5503 0
  else if frozen then memClampFree d ctx (freezeKey ((t.map fun t => t.1).getD 0)) 0
  else if chanFull d c then memClamp d ctx 0x5502 (c + 1)
  else
    readPages (unclampCtx (unclampCtx d ctx 0x5503 0) ctx 0x5502 (c + 1)) ctx [p] crc fun d =>
      modPage d ctx p fun x => { x with chan := some c }

/-- A page's copy moved to another bench inside the placement envelope, in a frame of its class (R205, R211). -/
def migrateBench (d : Dev) (ctx p b : Nat) : Dev :=
  match lowBit (pageOf d ctx p).copies with
  | none => d
  | some a =>
    if bitAt (pageOf d ctx p).copies b || !benchTakes d b || pagePinned d a (ckey ctx p) then d
    else
      let lc := bitAt (pageOf d ctx p).lcFrames a
      let r := roomFor d ctx p b lc
      if r.2 then
        modPage r.1 ctx p fun x =>
          let y := pageJoin b (pageLeave a x)
          if lc then { y with lcFrames := y.lcFrames ||| 2 ^ b } else y
      else r.1

/-- PAGE_MIGRATION: targets 0 to 7 are channels, 8 to 23 benches (R211). -/
def execPageMigration (ctx page : Nat) (target : Reading Nat) (s : State) : Host.Outcome State Fault Refusal :=
  runDev (ctx < 64 && page < 2 ^ 32 && target.of < 24 && failsOk target.fails) s fun d =>
    if (tensorAt d ctx page).isNone then d
    else if target.of < 8 then migrateChan d ctx page target.of target.fails
    else migrateBench d ctx page (target.of - 8)

/-! ### Draining a channel -/

/-- The first page assigned to a channel. -/
def pageOn (d : Dev) (c : Nat) : Option Nat := (d.mem.pages.find? fun e => e.2.chan == some c).map fun e => e.1

/-- A drained channel is worked out, and its interface domain with the other channel of its pair; with the eighth the memory
system is (R194, R216, R461). -/
def chanDrained (d : Dev) (c : Nat) : Dev :=
  let d := chanTo d c 3
  let k := c / 2
  let d := if (chanReg d (2 * k)).st = 3 && (chanReg d (2 * k + 1)).st = 3 then
      { d with pwr := { d.pwr with domains := lmod d.pwr.domains (2 + k) fun g => genTo g 3 } }
    else d
  if (List.range 8).all fun k => (chanReg d k).st == 3 then memDown d else d

/-- One page of a DRAINING channel moved to one that takes it: its contents are read with the failures of their blocks; after
the last page the channel is worked out (R196, R211, R216). -/
def pageMoved (d : Dev) (c target : Nat) (crc : List BlockFail) : Dev :=
  if (chanReg d c).st ≠ 2 then d
  else
    match pageOn d c with
    | none => chanDrained d c
    | some k =>
      if (chanReg d target).st ≠ 1 || chanFree d target = 0 then d
      else if !chanTakes d target then memClamp d (k / 2 ^ 32) 0x5502 (target + 1)
      else
        let d := readPages d (k / 2 ^ 32) [k % 2 ^ 32] crc fun d =>
          modPage d (k / 2 ^ 32) (k % 2 ^ 32) fun x => { x with chan := some target }
        if (chanReg d c).st = 2 && (pageOn d c).isNone then chanDrained d c else d

/-- PAGE_MOVE_COMPLETE. -/
def execPageMoveComplete (chan : Nat) (target : Reading Nat) (s : State) : Host.Outcome State Fault Refusal :=
  runDev (chan < 8 && target.of < 8 && failsOk target.fails) s fun d => pageMoved d chan target.of target.fails

end Sys2Proof.Machine
end

