-- ==== Sys2Proof/Machine/Front.lean ====
section
/-!
DEFINITION. Machine/Front.lean: the radio front end: packet detection (R305 to R308), receive samples (R295, R296, R312), transmit
samples with the mask monitor and DPD (R297 to R304, R312), and the descriptors that bind streams and detectors (R309 to R311,
R315).
-/
namespace Sys2Proof.Machine
open Sys2Proof

/-! ### Detectors (R305, R306) -/

/-- `W`. -/
def dtW (c : Bytes) : Nat := leAt c 0 2
/-- `QUAL`. -/
def dtQual (c : Bytes) : Nat := leAt c 2 2
/-- `HOLDOFF`. -/
def dtHoldoff (c : Bytes) : Nat := leAt c 4 4
/-- `NF_SHIFT`. -/
def dtShift (c : Bytes) : Nat := leAt c 8 1
/-- `MARGIN`. -/
def dtMargin (c : Bytes) : Nat := leAt c 10 2
/-- `PIN` of `DET_ENVELOPE`. -/
def dePin (e : Bytes) : Bool := bitAt (leAt e 0 1) 0
/-- `FREEZE` of `DET_ENVELOPE`. -/
def deFreeze (e : Bytes) : Bool := bitAt (leAt e 0 1) 1

/-- The hardware's threshold of a noise floor. -/
def hwThreshold (x : DetSt) : Nat := roundQ false (x.noise * dtMargin x.cfg) 256

/-- The threshold formed again from N inside the envelope; a bound that begins to clamp is posted (R306, R212). -/
def formThreshold (d : Dev) (n : Nat) : Dev :=
  let x := detOf d n
  let hw := hwThreshold x
  let lo := leAt x.env 8 4
  let hi := leAt x.env 12 4
  let t := if dePin x.env then leAt x.env 4 4 else if hw < lo then lo else if hi < hw then hi else hw
  let d := setDet d n { x with thresh := t }
  if x.on then
    let d := feClamp d (!dePin x.env && hw < lo) x.ctx 0x4301 (n + 1)
    feClamp d (!dePin x.env && lo ≤ hw && hi < hw) x.ctx 0x4301 (n + 1 + 256)
  else d

/-- A noise floor that is due set or updated (R306): on the W-th sample from P, later by its step towards P. -/
def noiseUpdate (d : Dev) (n : Nat) : Dev :=
  let x := detOf d n
  if !x.noiseDue then d
  else
    let new : Int := if x.seen = 0 then max x.p 1
      else (x.noise : Int) + rna ((x.p : Int) - x.noise) (2 ^ dtShift x.cfg)
    formThreshold (setDet d n { x with noiseDue := false, noise := new.toNat, seen := 0 }) n

/-- NOISE_FLOOR_UPDATE. -/
def execNoiseFloorUpdate (det : Nat) (s : State) : Host.Outcome State Fault Refusal :=
  runDev (det < 64) s fun d => noiseUpdate d det

/-- The end of HOLDOFF (R305). -/
def holdoffEnd (d : Dev) (n : Nat) : Dev :=
  let x := detOf d n
  if x.endDue then setDet d n { x with endDue := false, phase := .idle } else d

/-- HOLDOFF_END. -/
def execHoldoffEnd (det : Nat) (s : State) : Host.Outcome State Fault Refusal :=
  runDev (det < 64) s fun d => holdoffEnd d det

/-- A detection record in a slot of the detector's ring, or dropped (R308): the result, metric and peak tick, and P, T and N of
the detection. -/
def detRecord (d : Dev) (n result metric first peak p t nf : Nat) : Dev :=
  let x := detOf d n
  match claimSlot d x.ring with
  | none => setDet d n { x with dropped := satAdd 32 x.dropped 1 }
  | some (d, s) =>
    let r := leBytes 1 n ++ leBytes 1 result ++ leBytes 2 metric ++ leBytes 4 p ++ leBytes 8 first ++ leBytes 8 peak
      ++ leBytes 4 t ++ leBytes 4 nf
    slotPost (slotWrite d x.ring (stageOf d x.ring s) 0 r false) x.ring

/-- A detection (R305, R307, R308): a record of energy alone, or the linked correlator armed, or CORR_BUSY. -/
def detection (d : Dev) (n : Nat) : Dev :=
  let x := detOf d n
  if !x.detDue then d
  else
    let d := setDet d n { x with detDue := false }
    match x.corr with
    | none => detRecord d n 1 0 x.first.2 0 x.power x.thresh x.noise
    | some c =>
      let y := corrOf d c
      match y.search with
      | some _ => detRecord d n 4 0 x.first.2 0 x.power x.thresh x.noise
      | none => setCorr d c { y with search := some (x.first.1, x.first.2, x.power, x.thresh, x.noise) }

/-- DETECTION. -/
def execDetection (det : Nat) (s : State) : Host.Outcome State Fault Refusal :=
  runDev (det < 64) s fun d => detection d det

/-! ### Correlators (R307) -/

/-- `REF_LEN`. -/
def crLen (c : Bytes) : Nat := leAt c 0 2
/-- `SEARCH`. -/
def crSearch (c : Bytes) : Nat := leAt c 2 2
/-- `CORR_TH`. -/
def crTh (c : Bytes) : Nat := leAt c 4 2

/-- Reference sample `i`. -/
def refSmp (r : Bytes) (i : Nat) : Cplx := (sext 16 (leAt r (4 * i) 2), sext 16 (leAt r (4 * i + 2) 2))

/-- One alignment: C, E_x, and the tick of its last sample. -/
structure Alignment where
  c : Nat
  ex : Nat
  tick : Nat
deriving DecidableEq, Repr

/-- Σ x·conj(r) over the samples of an alignment. -/
def crossSum (xs rs : List Cplx) : Cplx :=
  (xs.zip rs).foldl (fun a e => (a.1 + e.1.1 * e.2.1 + e.1.2 * e.2.2, a.2 + e.1.2 * e.2.1 - e.1.1 * e.2.2)) (0, 0)

/-- The energy of samples. -/
def energies (xs : List Cplx) : Nat := xs.foldl (fun a x => a + energy x) 0

/-- Metrics of the alignment whose last sample has number `k`, where the history holds all of it. -/
def alignmentAt (y : CorrSt) (rs : List Cplx) (k : Nat) : Option Alignment :=
  let w := (y.hist.drop (y.newest - k)).take rs.length
  match w.head? with
  | none => none
  | some e =>
    if w.length < rs.length then none
    else
      let xs := (w.map fun h => h.1).reverse
      some ⟨energy (crossSum xs rs), energies xs, e.2⟩

/-- Whether an alignment has a larger C / E_x than another (zero where E_x is zero). -/
def betterAlignment (a b : Alignment) : Bool := b.c * a.ex < a.c * b.ex || (b.ex == 0 && a.c != 0)

/-- The first alignment with the largest metric among those that pass. -/
def bestAlignment (th er : Nat) : List Alignment → Option Alignment
  | [] => none
  | a :: t =>
    let r := bestAlignment th er t
    if 65536 * a.c ≥ th * a.ex * er then
      match r with
      | some b => if betterAlignment b a then some b else some a
      | none => some a
    else r

/-- Whether a search has every sample it needs. -/
def searchOver (d : Dev) (c : Nat) : Bool :=
  let y := corrOf d c
  match y.search with
  | some (f, _) => f + crSearch y.cfg ≤ y.newest
  | none => false

/-- A search ends and writes the detection's record (R307, R308). The metric of an alignment without energy is a free value
(assumption log 1). -/
def searchEnd (d : Dev) (c : Nat) : Dev :=
  let y := corrOf d c
  match y.search, y.det with
  | some (f, tick, p, t, nf), some n =>
    let d := setCorr d c { y with search := none }
    let rs := (List.range (crLen y.cfg)).map (refSmp y.ref)
    let er := energies rs
    let as := (List.range (crSearch y.cfg + 1)).filterMap fun i => alignmentAt y rs (f + i)
    match bestAlignment (crTh y.cfg) er as with
    | some a =>
      let free := (Config.freeBits d.free).toNat % 65536
      let m := if a.ex * er = 0 then free else min 0xFFFF (roundQ false (65536 * a.c) (a.ex * er))
      detRecord { d with free := d.free + 1 } n 2 m tick a.tick p t nf
    | none => detRecord d n 3 0 tick 0 p t nf
  | _, _ => d

/-- CORRELATOR_SEARCH_END. -/
def execCorrelatorSearchEnd (corr : Nat) (s : State) : Host.Outcome State Fault Refusal :=
  runDev (corr < 16) s fun d => if searchOver d corr then searchEnd d corr else d

/-- A sample of the channel filter enters the history of a bound correlator. -/
def corrPush (d : Dev) (c : Nat) (y : Cplx) (tick : Nat) : Dev :=
  let x := corrOf d c
  setCorr d c { x with hist := ((y, tick) :: x.hist).take (crLen x.cfg + 4096), newest := x.newest + 1 }

/-- The detector's state after a sample compared (R305). -/
def detCompare (x : DetSt) (p tick num : Nat) : DetSt :=
  let hit := x.thresh ≤ p
  let x := { x with p := p, seen := x.seen + 1 }
  let idle := x.phase == .idle || (x.phase == .detected && dtHoldoff x.cfg == 0)
  if idle then
    if hit then
      let x := { x with phase := .candidate, first := (num, tick), run := 1 }
      if dtQual x.cfg ≤ 1 then { x with phase := .detected, detDue := true, power := p } else x
    else { x with phase := .idle, noiseDue := x.noiseDue || (dtW x.cfg ≤ x.seen && !deFreeze x.env) }
  else
    match x.phase with
    | .candidate =>
      if !hit then { x with phase := .idle, falseStarts := satAdd 32 x.falseStarts 1 }
      else if dtQual x.cfg ≤ x.run + 1 then { x with phase := .detected, run := x.run + 1, detDue := true, power := p }
      else { x with run := x.run + 1 }
    | .detected => { x with phase := .holdoff, held := 1, endDue := dtHoldoff x.cfg ≤ 1 }
    | _ => { x with held := x.held + 1, endDue := dtHoldoff x.cfg ≤ x.held + 1 }

/-- What a detector has due from earlier samples. -/
def detFlush (d : Dev) (n : Nat) : Dev :=
  let d := holdoffEnd (detection (noiseUpdate d n) n) n
  match (detOf d n).corr with
  | some c => if searchOver d c then searchEnd d c else d
  | none => d

/-- One sample of a stream's channel filter at its detector (R305, R306). -/
def detSample (d : Dev) (n : Nat) (y : Cplx) (tick : Nat) : Dev :=
  let x := detOf d n
  if !x.on then d
  else
    let d := match x.corr with
      | some c => corrPush d c y tick
      | none => d
    let num := match x.corr with
      | some c => (corrOf d c).newest
      | none => 0
    let w := dtW x.cfg
    let win := (energy y :: x.win).take w
    let p := roundQ false win.sum (max 1 w)
    let x := { x with win := win }
    if x.filled then setDet d n (detCompare x p tick num)
    else if win.length < w then setDet d n x
    else setDet d n { x with filled := true, p := p, seen := 0, noiseDue := true }

/-! ### Receive streams (R295, R296, R310 to R312) -/

/-- `GAIN_SHIFT`. -/
def rxGain (c : Bytes) : Nat := leAt c 5 1
/-- `TAPS` of a receive configuration. -/
def rxTaps (c : Bytes) : Nat := leAt c 6 2

/-- The stop counts of a stream that are reached by its next sample, or by now. -/
def stopDue (d : Dev) (l : Nat) (b : Binding) : Bool :=
  b.stops.any fun s => s.1 ≤ nextTick d l b && s.1 ≤ d.time.ticks

/-- Whether a stop count lies at or before the next sample. -/
def stopped (d : Dev) (l : Nat) (b : Binding) : Bool := b.stops.any fun s => s.1 ≤ nextTick d l b

/-- The operations that end with a stream: its FE_START if it had not started, and its FE_STOPs (R310, R311). -/
def endStreamOps (d : Dev) (armed : Bool) (b : Binding) : Dev :=
  let d := if armed then endUnitOp d b.op else d
  b.stops.foldl (fun d s => endUnitOp d (some s.2)) d

/-- A receive stream stops: an open slot is completed with zero samples, its listeners stop (R311, R363). -/
def stopRx (d : Dev) (n : Nat) : Dev :=
  let r := feRxOf d n
  if r.reg.st = 0 then d
  else
    let d := if r.bind.slot then slotPost d r.bind.ring else d
    let d := freeProd d r.bind.ring (.rx n)
    let d := setFeRx d n { r with reg := genTo r.reg 0, bind := bindDefault, dropped := 0, line := [] }
    stopListeners (endStreamOps d (r.reg.st == 1) r.bind) n

/-- A receive stream's first output sample goes into its slot: the stream is RUNNING and its FE_START completes (R310). -/
def startRx (d : Dev) (n : Nat) : Dev :=
  let r := feRxOf d n
  match linkFor d 0 n with
  | none => d
  | some l =>
    if r.reg.st ≠ 1 then d
    else
      let d := setFeRx d n { r with reg := genTo r.reg 2 }
      let d := if r.bind.late then postLate d r.bind.ctx ⟨r.bind.tag, r.bind.queue⟩ r.bind.count (sampleTick d l r.bind.start) else d
      endUnitOp d r.bind.op

/-- A receive stream's stop, where it is due and its samples have all been written. -/
def stopRxDue (d : Dev) (n : Nat) : Dev :=
  match linkFor d 0 n with
  | some l => if (feRxOf d n).reg.st ≠ 0 && stopDue d l (feRxOf d n).bind && (feRxOf d n).line.isEmpty then stopRx d n else d
  | none => d

/-- A sample written into the open slot of a receive stream, a slot claimed for it, or dropped (R312); a request to stop takes
effect at the slot's end (R311). -/
def rxWrite (d : Dev) (n : Nat) (y : Cplx) (bad : Bool) (tick : Nat) : Dev :=
  let r := feRxOf d n
  let b := r.bind
  let got := if b.slot then
      match ringOf d b.ring with
      | some x => some (d, x.tail)
      | none => none
    else claimSlot d b.ring
  match got with
  | none => setFeRx d n { r with dropped := r.dropped + 1, bind := { b with slot := false } }
  | some (d, s) =>
    let d := if r.dropped = 0 then d
      else post d b.ctx 0x0021 ⟨b.tag, b.queue⟩ (leBytes 1 n ++ zeros 3 ++ leBytes 4 (min r.dropped 0xFFFFFFFF) ++ leBytes 8 tick)
    let pos := if b.slot then b.pos else 0
    let d := ringStore d b.ring s pos (smpBytes y) bad
    if pos + 4 < ringSlotBytes d b.ring then
      setFeRx d n { r with dropped := 0, bind := { b with slot := true, pos := pos + 4 } }
    else
      let d := setFeRx (slotPost d b.ring) n { r with dropped := 0, bind := { b with slot := false, pos := 0 } }
      if b.halt then stopRx d n else d

/-- The chain of a receive stream over one converter sample (R295): the stream after it, and the output sample, if one
comes. -/
def rxChain (r : FeRx) (x : Cplx) : FeRx × Option Cplx :=
  let c := r.cfg
  let m := ncoMix false x (ncoPhase (sext 32 (leAt c 0 4)) r.bind.n)
  let ch := decStages (stagesOf (rxDec c)) r.bind.n m.1 r.half
  let r := { r with half := ch.lines, bind := { r.bind with n := r.bind.n + 1 } }
  match ch.out with
  | none => ({ r with sats := satAdd 32 r.sats (m.2 + ch.sats) }, none)
  | some v =>
    let h := (v :: r.chan).take (rxTaps c)
    let y := scaleC (2 ^ (15 - rxGain c)) (firC (coefs c 8 (rxTaps c)) h)
    ({ r with chan := h, sats := satAdd 32 r.sats (m.2 + ch.sats + y.2) }, some y.1)

/-- The output samples of a receive stream that have been on their way for `JESD_RX_LATENCY` ticks reach the signal store; the
first one starts an ARMED stream (R289, R310). -/
def rxPump : Nat → Dev → Nat → Dev
  | 0, d, _ => d
  | k + 1, d, n =>
    match (feRxOf d n).line, linkFor d 0 n with
    | e :: t, some l =>
      if (feRxOf d n).reg.st ≠ 0 && latencyOver d l e.1 then
        let d := startRx (setFeRx d n { feRxOf d n with line := t }) n
        rxPump k (rxWrite d n e.2.1 e.2.2 e.1) n
      else d
    | _, _ => d

/-- What is due at a receive stream: samples, and then its stop. -/
def rxDue (d : Dev) (n : Nat) : Dev := stopRxDue (rxPump (feRxOf d n).line.length d n) n

/-- What is due at every receive stream. -/
def rxDueAll (d : Dev) : Dev := (d.fe.rx.map fun e => e.1).foldl rxDue d

/-- A converter sample of a receive stream, as its LEMC period is released (R289, R293 to R295, R305, R312). -/
def rxSample (d : Dev) (n : Nat) (x : Cplx) : Dev :=
  let d := rxDue (detFlush d n) n
  let r := feRxOf d n
  match linkFor d 0 n with
  | none => d
  | some l =>
    let c := r.bind.start + r.bind.n
    let t := nextTick d l r.bind
    if r.reg.st = 0 || !linkKeepsTime d l || d.time.ticks < t || !released d l c || stopped d l r.bind || !sampleHere d l c then d
    else
      let dec := max 1 (rxDec r.cfg)
      let bad := (List.range (min dec (r.bind.n + 1))).any fun i => sampleBad d l (c - i)
      let o := rxChain r (if sampleBad d l c then (0, 0) else x)
      match o.2 with
      | none => setFeRx d n o.1
      | some y =>
        let y := if bad then (0, 0) else y
        let d := setFeRx d n { o.1 with line := o.1.line ++ [(t, y, bad)] }
        let d := hear (if bad then noteSpoil d n t else d) n t y
        rxDue (detSample d n y t) n

/-! ### Observation streams (R302) -/

/-- `MON` of a mask record. -/
def mkMon (m : Bytes) : Bool := leAt m 129 1 == 1
/-- `ACTION`. -/
def mkAction (m : Bytes) : Nat := leAt m 128 1

/-- `CAP_LEN`. -/
def dpLen (c : Bytes) : Nat := leAt c 4 4
/-- The transmit stream a DPD engine is bound to. -/
def dpStream (c : Bytes) : Nat := leAt c 0 1

/-- The DPD engine of a transmit stream. -/
def dpdFor (d : Dev) (n : Nat) : Option Nat := firstBelow 16 fun e => dpStream (dpdOf d e).cfg == n

/-- A transmit stream's mask block one sample longer (R298). -/
def maskSample (d : Dev) (n : Nat) (x : Cplx) : Dev :=
  let t := feTxOf d n
  setFeTx d n { t with block := x :: t.block }

/-- Whether a stream's mask is monitored on its DPD engine's observation stream. -/
def monitored (d : Dev) (n : Nat) : Bool := mkMon (feTxOf d n).mask && (dpdFor d n).isSome

/-- A sample of observation stream `n`: it enters a capture of DPD engine `n` that has begun, and the mask monitor that
listens there. -/
def obsSample (d : Dev) (n : Nat) (x : Cplx) : Dev :=
  match linkFor d 2 n with
  | none => d
  | some l =>
    let c := tget 0 d.fe.obs n
    let t := sampleTick d l c
    if !linkKeepsTime d l || d.time.ticks < t || !sampleHere d l c then d
    else
      let bad := sampleBad d l c
      let x := if bad then (0, 0) else x
      let d := { d with fe := { d.fe with obs := tset d.fe.obs n (c + 1) } }
      let e := dpdOf d n
      let s := dpStream e.cfg
      let d := if s < 64 && (feTxOf d s).reg.st = 2 && monitored d s then maskSample d s x else d
      match e.cap with
      | some b =>
        if b ≤ t && e.obs.length < dpLen e.cfg && !e.ended then
          setDpd d n { e with obs := x :: e.obs, obsBad := e.obsBad || bad }
        else d
      | none => d

/-- RX_SAMPLE: receive streams 0 to 63, and 64 + n for observation stream n; I and Q as the converters sent them. -/
def execRxSample (stream : Nat) (i qd : Int) (s : State) : Host.Outcome State Fault Refusal :=
  runDev (stream < 80) s fun d =>
    let x := (satInt 16 i, satInt 16 qd)
    if stream < 64 then rxSample d stream x else obsSample d (stream - 64) x

/-! ### The mask monitor (R298, R299) -/

/-- The terms of bin `k` of the windowed samples' 512-point transform: the factor of each power of the root of unity
(R298). -/
def binTerms (xs : List Cplx) (k : Nat) : List Cplx :=
  let ws := xs.zipIdx.map fun e => (k * e.2 % 512, Config.maskWindow e.2 * e.1.1, Config.maskWindow e.2 * e.1.2)
  (List.range 512).map fun j =>
    (ws.filter fun e => e.1 == j).foldl (fun a e => (a.1 + e.2.1, a.2 + e.2.2)) (0, 0)

/-- The largest level of the bins of segment `k` of a block (R298). -/
def segmentLevel (xs : List Cplx) (k : Nat) : Int :=
  ((List.range 8).map fun i => Config.binLevel (binTerms xs (8 * k + i))).foldl max (Config.binLevel (binTerms xs (8 * k)))

/-- The segment with the largest excess over its limit, the first of equals, with the excess (R298). -/
def worstSegment (xs : List Cplx) (mask : Bytes) : Nat × Int :=
  ((List.range 64).map fun k => (k, segmentLevel xs k - sext 16 (leAt mask (2 * k) 2))).foldl
    (fun a e => if a.2 < e.2 then e else a) (0, segmentLevel xs 0 - sext 16 (leAt mask 0 2))

/-- Whether every sample of a block is zero: it lies below every limit. -/
def silent (xs : List Cplx) : Bool := xs.all fun x => x == (0, 0)

/-- A block of 512 samples checked (R298, R299); a mask written meanwhile holds from the next block on. -/
def maskBlock (d : Dev) (n : Nat) : Dev :=
  let t := feTxOf d n
  if t.block.length < 512 then d
  else
    let w := worstSegment t.block.reverse t.mask
    let fresh := { t with block := [], mask := t.maskNew.getD t.mask, maskNew := none }
    if silent t.block || w.2 ≤ 0 then setFeTx d n fresh
    else
      let d := post d t.bind.ctx 0x0023 ⟨t.bind.tag, t.bind.queue⟩
        (leBytes 1 n ++ leBytes 1 w.1 ++ leBytes 2 (wrapBits 16 (satInt 16 w.2)) ++ leBytes 1 (mkAction t.mask))
      let mute := match linkFor d 1 n with
        | some l => some (boundaryFrom d l (sampleTick d l (t.bind.start + t.bind.n - 1) + 1))
        | none => none
      setFeTx d n { fresh with violations := satAdd 32 t.violations 1,
                               muted := if mkAction t.mask = 1 && t.muted.isNone then mute else t.muted }

/-- MASK_BLOCK. -/
def execMaskBlock (stream : Nat) (s : State) : Host.Outcome State Fault Refusal :=
  runDev (stream < 64) s fun d => maskBlock d stream

/-! ### DPD (R300 to R304) -/

/-- `PIN` of `DPD_ENVELOPE`. -/
def dpPin (e : Bytes) : Bool := bitAt (leAt e 0 1) 0
/-- `FREEZE` of `DPD_ENVELOPE`. -/
def dpFreeze (e : Bytes) : Bool := bitAt (leAt e 0 1) 1

/-- A capture begins at the next LEMC boundary of the observation stream's link (R302). -/
def captureStart (d : Dev) (n : Nat) : Dev :=
  let e := dpdOf d n
  let s := dpStream e.cfg
  match linkFor d 2 n with
  | none => d
  | some l =>
    if dpPin e.env || dpFreeze e.env || 64 ≤ s || (feTxOf d s).reg.st ≠ 2 || e.cap.isSome || e.swap.isSome
        || (linkOf d l).reg.st ≠ 2 then d
    else setDpd d n { e with cap := some (boundaryFrom d l d.time.ticks), ins := [], obs := [], obsBad := false, ended := false }

/-- DPD_CAPTURE_START. -/
def execDpdCaptureStart (n : Nat) (s : State) : Host.Outcome State Fault Refusal :=
  runDev (n < 16) s fun d => captureStart d n

/-- The FP32 value of bits, of a sum, and of a product, each rounded RNA (R302). -/
def f32 (x : Nat) : Val := fp32Val x
/-- Sum. -/
def add32 (a b : Val) : Val := fp32Val (fp32Add false false a b).bits
/-- a + μ(â − a). -/
def stepCoef (mu : Val) (a new : Val) : Val := add32 a (mul32 mu (add32 new (valFlip a)))

/-- The FP32 code of a value. -/
def code32 (v : Val) : Nat := (toFp32 false false v).bits

/-- |a|² of a coefficient. -/
def coefNorm (a : Val × Val) : Frac :=
  let i := valFrac a.1
  let q := valFrac a.2
  fracAdd (fracMul i i) (fracMul q q)

/-- Whether a value is an infinity, and whether it is negative. -/
def infSign : Val → Option Bool
  | .inf n => some n
  | _ => none

/-- The FP32 value of a ceiling, or of a signed zero, with a sign. -/
def signed (c : Val) (neg : Bool) : Val := if neg then valFlip c else c

/-- Whether a coefficient's magnitude exceeds a ceiling: an infinite one exceeds every finite ceiling, one that is no number
exceeds none (R303). -/
def overCeil (ceil : Val) (a : Val × Val) : Bool :=
  match ceil with
  | .fin neg n m =>
    if a.1 matches .nan _ || a.2 matches .nan _ then (infSign a.1).isSome || (infSign a.2).isSome
    else if (infSign a.1).isSome || (infSign a.2).isSome then true
    else if neg && n != 0 then true
    else fracLt (fracMul (valFrac (.fin false n m)) (valFrac (.fin false n m))) (coefNorm a)
  | _ => false

/-- A coefficient beyond `COEF_CEIL` scaled to that magnitude (R303): whether it was, and the coefficient. One infinite
component takes the whole magnitude; the direction of one with two is a free value (assumption log 124). -/
def capCoef (ceil : Val) (a : Val × Val) : Bool × Val × Val :=
  if !overCeil ceil a then (false, a)
  else
    match infSign a.1, infSign a.2 with
    | some x, some y => let r := Config.infCoef (code32 ceil) x y; (true, f32 (r.1 % 2 ^ 32), f32 (r.2 % 2 ^ 32))
    | some x, none => (true, signed ceil x, f32 0)
    | none, some y => (true, f32 0, signed ceil y)
    | none, none =>
      let mag := f32 (funSqrt (toFp32 false false) (fracVal (coefNorm a) false)).bits
      let k := f32 (code32 (fracVal (fracDiv (valFrac ceil) (valFrac mag)) false))
      (true, mul32 a.1 k, mul32 a.2 k)

/-- A bank after an update towards the solver's coefficients (R302, R303): the bank, and whether `COEF_CEIL` clamped. -/
def updateBank (bank : Bytes) (mu ceil : Val) (count : Nat) (new : List (Nat × Nat)) : Bytes × Bool :=
  (List.range count).foldl (fun b k =>
    let a := (f32 (leAt bank (8 * k) 4), f32 (leAt bank (8 * k + 4) 4))
    let n := match new[k]? with
      | some e => (f32 (e.1 % 2 ^ 32), f32 (e.2 % 2 ^ 32))
      | none => a
    let r := capCoef ceil (stepCoef mu a.1 n.1, stepCoef mu a.2 n.2)
    (overlay b.1 (8 * k) (leBytes 4 (code32 r.2.1) ++ leBytes 4 (code32 r.2.2)), b.2 || r.1)) (bank, false)

/-- The delays that a capture tries, in eighths of a sample: 0 first, then both signs outwards (R302). -/
def dpdLags : List Int := 0 :: (List.range 512).flatMap fun (i : Nat) => [(i : Int) + 1, -((i : Int) + 1)]

/-- The observation of a capture moved by a delay, paired with its input (R302). -/
def lagged (ins obs : List Cplx) (lag : Int) : List Cplx × List Cplx :=
  let p := (lag % 8).toNat
  let q := lag / 8
  let obs := if p = 0 then obs else Config.dpdShift p obs
  if 0 ≤ q then (obs.drop q.toNat, ins) else (obs, ins.drop (-q).toNat)

/-- The squared magnitude of the cross-correlation at a delay. -/
def corrAt (ins obs : List Cplx) (lag : Int) : Nat :=
  let p := lagged ins obs lag
  energy (crossSum p.1 p.2)

/-- Whether the correlation peak reaches 0.5 of the normalised maximum (R302). -/
def corrPeaks (ins obs : List Cplx) : Bool :=
  dpdLags.any fun lag => energies ins * energies obs ≤ 4 * corrAt ins obs lag

/-- The delay of the correlation peak, the first of equals. -/
def peakLag (ins obs : List Cplx) : Int :=
  dpdLags.foldl (fun m lag => if corrAt ins obs m < corrAt ins obs lag then lag else m) 0

/-- The reason to discard a capture (R302). -/
def skipReason (e : DpdSt) : Option Nat :=
  if energies e.obs < leAt e.env 12 4 * dpLen e.cfg then some 1
  else if !corrPeaks e.ins.reverse e.obs.reverse then some 2
  else if e.obsBad then some 3
  else none

/-- Whether a capture holds all its samples. -/
def captured (e : DpdSt) : Bool := dpLen e.cfg ≤ e.ins.length && dpLen e.cfg ≤ e.obs.length

/-- The update of a capture: the new shadow bank, whether `COEF_CEIL` clamped, and whether `MU_CEIL` did; `c` stands for what
the solver's arithmetic leaves open (R302, R303). -/
def dpdUpdate (e : DpdSt) (c : Nat) : Bytes × Bool × Bool :=
  let ins := e.ins.reverse
  let obs := (lagged ins e.obs.reverse (peakLag ins e.obs.reverse)).1
  let want := if -2500 < Config.dpdError ins obs then 65536 else 16384
  let ceil := leAt e.env 4 4
  let mu := fracVal ⟨(min want ceil : Nat), 65536⟩ false
  let k := leAt e.cfg 1 1
  let q := leAt e.cfg 2 1
  let b := updateBank e.active mu (f32 (leAt e.env 8 4)) (k * q) (Config.dpdSolve c k q ins obs)
  (b.1, b.2, ceil < want)

/-- A capture ends: discarded, or the shadow bank updated and a swap requested (R302 to R304). -/
def captureDone (d : Dev) (n c : Nat) : Dev :=
  let e := dpdOf d n
  let ctx := (feTxOf d (dpStream e.cfg)).bind.ctx
  if e.cap.isNone then d
  else if e.ended then setDpd d n { e with cap := none, ended := false }
  else if !captured e then d
  else
    match skipReason e with
    | some r =>
      let d := setDpd d n { e with cap := none }
      if (feTxOf d (dpStream e.cfg)).reg.st = 2 then post d ctx 0x0024 noCause (leBytes 1 n ++ leBytes 1 r) else d
    | none =>
      let u := dpdUpdate e c
      let d := setDpd d n { e with cap := none, shadow := u.1, swap := some d.time.ticks }
      let d := feClamp d u.2.2 ctx 0x4204 (n + 1)
      feClamp d u.2.1 ctx 0x4204 (n + 1 + 256)

/-- DPD_CAPTURE_COMPLETE; `c` names the order of the solver's FP32 operations, which R302 leaves open. -/
def execDpdCaptureComplete (n c : Nat) (s : State) : Host.Outcome State Fault Refusal :=
  runDev (n < 16) s fun d => captureDone d n c

/-- The tick from which a requested swap holds: the LEMC period that begins at least 625 ticks after the request (R301). -/
def swapTick (d : Dev) (e : DpdSt) : Option Nat :=
  e.swap.map fun r =>
    match linkFor d 1 (dpStream e.cfg) with
    | some l => if linkKeepsTime d l then boundaryFrom d l (r + 625) else r + 625
    | none => r + 625

/-- Whether the sample of a bound stream that comes next lies at or after a tick; where none comes, whether the tick has
passed. -/
def nextFrom (d : Dev) (s t : Nat) : Bool :=
  match linkFor d 1 s with
  | some l => if (feTxOf d s).reg.st ≠ 0 && linkKeepsTime d l then t ≤ nextTick d l (feTxOf d s).bind else t ≤ d.time.ticks
  | none => t ≤ d.time.ticks

/-- The banks exchange roles (R301). -/
def bankSwap (d : Dev) (n : Nat) : Dev :=
  let e := dpdOf d n
  match swapTick d e with
  | some t =>
    if nextFrom d (dpStream e.cfg) t then setDpd d n { e with active := e.shadow, shadow := e.active, swap := none } else d
  | none => d

/-- DPD_BANK_SWAP. -/
def execDpdBankSwap (n : Nat) (s : State) : Host.Outcome State Fault Refusal := runDev (n < 16) s fun d => bankSwap d n

/-! ### Transmit streams (R297, R310 to R312) -/

/-- `GAIN`. -/
def txGain (c : Bytes) : Nat := leAt c 6 2
/-- `TAPS` of a transmit configuration. -/
def txTaps (c : Bytes) : Nat := leAt c 8 2

/-- A transmit stream stops: an open slot returns to EMPTY, its mix waits (R311, R358). -/
def stopTx (d : Dev) (n : Nat) : Dev :=
  let t := feTxOf d n
  if t.reg.st = 0 then d
  else
    let d := if t.bind.slot then slotGive d t.bind.ring else d
    let d := freeCons d t.bind.ring (.tx n)
    let d := mixHalt d n
    let d := setFeTx d n { feTxOf d n with reg := genTo t.reg 0, bind := bindDefault, zeros := 0, starved := false, muted := none,
                                           block := [], mask := t.maskNew.getD t.mask, maskNew := none,
                                           last := none }
    let d := match dpdFor d n with
      | some e => setDpd d e { dpdOf d e with cap := none, ended := false, hist := [] }
      | none => d
    endStreamOps d (t.reg.st == 1) t.bind

/-- A transmit stream reaches its first sample's tick: it is RUNNING, and its FE_START completes (R310). -/
def startTx (d : Dev) (n : Nat) : Dev :=
  let x := feTxOf d n
  match linkFor d 1 n with
  | none => d
  | some l =>
    let t := sampleTick d l x.bind.start
    if x.reg.st ≠ 1 || !linkKeepsTime d l || d.time.ticks < t || stopped d l { x.bind with n := 0 } then d
    else
      let d := setFeTx d n { x with reg := genTo x.reg 2 }
      let d := if x.bind.late then postLate d x.bind.ctx ⟨x.bind.tag, x.bind.queue⟩ x.bind.count t else d
      endUnitOp d x.bind.op

/-- A transmit stream's stop, where it is due. -/
def stopTxDue (d : Dev) (n : Nat) : Dev :=
  match linkFor d 1 n with
  | some l => if (feTxOf d n).reg.st ≠ 0 && stopDue d l (feTxOf d n).bind then stopTx d n else d
  | none => d

/-- The next sample of a transmit stream's ring, or a zero where the slot has not come (R312). A stream that starved says so
when its slot arrives. -/
def txTake (d : Dev) (n : Nat) : Dev × Cplx :=
  let t := feTxOf d n
  let b := t.bind
  let got := if b.slot then
      match ringOf d b.ring with
      | some x => some (d, x.head)
      | none => none
    else takeSlot d b.ring
  match got with
  | none => (setFeTx d n { t with zeros := t.zeros + 1, starved := true, bind := { b with slot := false } }, (0, 0))
  | some (d, s) =>
    let d := if t.starved then post d b.ctx 0x0022 ⟨b.tag, b.queue⟩ (leBytes 1 n ++ zeros 3 ++ leBytes 4 (min t.zeros 0xFFFFFFFF)) else d
    let pos := if b.slot then b.pos else 0
    let x := slotSmp d b.ring s pos
    if pos + 4 < ringSlotBytes d b.ring then
      (setFeTx d n { t with starved := false, bind := { b with slot := true, pos := pos + 4 } }, x)
    else (setFeTx (slotGive d b.ring) n { t with starved := false, bind := { b with slot := false, pos := 0 } }, x)

/-- The chain of a transmit stream for one converter sample (R297): `x` is the ring sample, where one is due. -/
def txChain (t : FeTx) (x : Option Cplx) : FeTx × Cplx :=
  let c := t.cfg
  let k := stagesOf (txInterp c)
  let sh := match x with
    | some x =>
      let h := (x :: t.shape).take (txTaps c)
      let y := scaleC (2 ^ 15) (firC (coefs c 10 (txTaps c)) h)
      (h, some y.1, y.2)
    | none => (t.shape, none, 0)
  let ch := intStages k t.bind.n sh.2.1 t.half
  let m := ncoMix true (ch.out.getD (0, 0)) (ncoPhase (sext 32 (leAt c 0 4)) t.bind.n)
  let g := scaleC (2 ^ 14) (m.1.1 * txGain c, m.1.2 * txGain c)
  ({ t with shape := sh.1, half := ch.lines, sats := satAdd 32 t.sats (sh.2.2 + ch.sats + m.2 + g.2),
            bind := { t.bind with n := t.bind.n + 1 } }, g.1)

/-- The input of a DPD engine enters a capture that has begun (R302). -/
def captureIn (e : DpdSt) (t : Nat) (y : Cplx) : DpdSt :=
  match e.cap with
  | some b => if b ≤ t && e.ins.length < dpLen e.cfg && !e.ended then { e with ins := y :: e.ins } else e
  | none => e

/-- A sample of tick `t` through the DPD engine of a stream, if it has one (R300). -/
def txPredistort (d : Dev) (n t : Nat) (y : Cplx) : Dev × Cplx :=
  match dpdFor d n with
  | none => (d, y)
  | some k =>
    let e := captureIn (dpdOf d k) t y
    let h := (y :: e.hist).take (leAt e.cfg 2 1)
    let o := dpdApply e.active (leAt e.cfg 1 1) (leAt e.cfg 2 1) h
    (setDpd d k { e with hist := h, sats := satAdd 32 e.sats o.2 }, o.1)

/-- A converter sample of a transmit stream, read `JESD_TX_LEAD` ticks ahead of its tick (R290, R294, R297 to R301, R312). -/
def txSample (d : Dev) (n : Nat) : Dev :=
  let d := stopTxDue (startTx (maskBlock d n) n) n
  let d := match dpdFor d n with
    | some e => bankSwap d e
    | none => d
  let x := feTxOf d n
  match linkFor d 1 n with
  | none => d
  | some l =>
    let t := nextTick d l x.bind
    if x.reg.st = 0 || !linkKeepsTime d l || !(decide (t ≤ d.time.ticks) || decide (t ≤ d.time.ticks + txLead d)) || stopped d l x.bind then d
    else
      let due := x.bind.n % max 1 (txInterp x.cfg) == 0
      let (d, smp) := if due then
          let r := txTake d n
          (r.1, some r.2)
        else (d, none)
      let halted := due && x.bind.halt && !(feTxOf d n).bind.slot
      let o := txChain (feTxOf d n) smp
      let d := setFeTx d n o.1
      let d := if monitored d n then d else maskSample d n o.2
      let p := txPredistort d n t o.2
      let u := feTxOf p.1 n
      let muted := match u.muted with
        | some m => decide (m ≤ t)
        | none => false
      let sent := if (linkOf d l).reg.st = 3 then none else some (if muted then (0, 0) else p.2)
      let d := setFeTx p.1 n { u with last := sent }
      if halted then stopTx d n else d

/-- TX_SAMPLE_DUE. -/
def execTxSampleDue (stream : Nat) (s : State) : Host.Outcome State Fault Refusal :=
  runDev (stream < 64) s fun d => txSample d stream

/-- STREAM_START: receive streams 0 to 63, and 64 + n for transmit stream n. -/
def execStreamStart (stream : Nat) (s : State) : Host.Outcome State Fault Refusal :=
  runDev (stream < 128) s fun d => if stream < 64 then rxDue d stream else startTx d (stream - 64)

/-- STREAM_STOP: numbered as STREAM_START. -/
def execStreamStop (stream : Nat) (s : State) : Host.Outcome State Fault Refusal :=
  runDev (stream < 128) s fun d => if stream < 64 then rxDue d stream else stopTxDue d (stream - 64)

/-! ### Descriptors (R309 to R311, R315) -/

/-- `FE.DIR`. -/
def feDir (x : Desc) : Bool := dbit x 24 7
/-- `FE.ENABLE`. -/
def feEnable (x : Desc) : Bool := dbit x 24 6
/-- `FE.UNIT`. -/
def feUnit (x : Desc) : Nat := dfield x 24 0 6
/-- `FE.CORR`. -/
def feCorr (x : Desc) : Nat := dfield x 25 0 8
/-- `FE.RING`. -/
def feRing (x : Desc) : Nat := dfield x 26 0 12
/-- `FE.COUNT`. -/
def feCount (x : Desc) : Nat := dfield x 28 0 64
/-- Whether a reserved bit of an FE descriptor is set. -/
def feReserved (x : Desc) : Bool := dfield x 26 12 4 != 0 || dfield x 36 0 224 != 0

/-- Whether the link of a stream runs. -/
def feLinkRuns (d : Dev) (tx : Bool) (n : Nat) : Bool :=
  match linkFor d (if tx then 1 else 0) n with
  | some l => (linkOf d l).reg.st == 2
  | none => false

/-- The state of a stream. -/
def feState (d : Dev) (tx : Bool) (n : Nat) : Nat := if tx then (feTxOf d n).reg.st else (feRxOf d n).reg.st

/-- The first fault of an FE_START (R315). -/
def feStartReason (d : Dev) (h : Head) : Option Nat :=
  let x := h.desc
  if feReserved x || !ringFor d (feRing x) h.ctx h.lc (fun r => if feDir x then r.consDie == 0 else r.prodDie == 0) then some 0x0A01
  else if feState d (feDir x) (feUnit x) != 0 then some 0x0A02
  else reasonIf (!feLinkRuns d (feDir x) (feUnit x)) 0x0A03

/-- A stream ARMED on its ring (R310). -/
def startFe (d : Dev) (h : Head) : Dev :=
  let x := h.desc
  let n := feUnit x
  let tx := feDir x
  let (id, d) := issue d h (freshOp d h)
  match linkFor d (if tx then 1 else 0) n with
  | none => d
  | some l =>
    if tx then
      let t := feTxOf d n
      let d := setFeTx d n { t with reg := genTo t.reg 1, bind := bindFor d h l 1 id, zeros := 0, starved := false, shape := [],
                                    half := [[], [], []], block := [], muted := none, last := none }
      mixArm (bindCons d (feRing x) (.tx n)) n (feRing x)
    else
      let r := feRxOf d n
      let d := setFeRx d n { r with reg := genTo r.reg 1, bind := bindFor d h l (max 1 (rxDec r.cfg)) id, dropped := 0,
                                    half := [[], [], []], chan := [], line := [] }
      bindProd d (feRing x) (.rx n)

/-- FE_START. -/
def famFeStart : Family :=
  { op := 0x80, sub := fun _ => true, invalid := 0x0A01, check := feStartReason, ready := fun _ _ => true, run := startFe }
/-- FE_START. -/
def execFeStart (q : Nat) (s : State) : Host.Outcome State Fault Refusal := runHead s q famFeStart

/-- A stop count for a stream; on a STOPPED stream it has already come (R311). -/
def stopFe (d : Dev) (h : Head) : Dev :=
  let x := h.desc
  let n := feUnit x
  if feState d (feDir x) n = 0 then completeHead d h
  else
    let (id, d) := issue d h (freshOp d h)
    if feDir x then
      let t := feTxOf d n
      setFeTx d n { t with bind := { t.bind with stops := t.bind.stops ++ [(feCount x, id)] } }
    else
      let r := feRxOf d n
      setFeRx d n { r with bind := { r.bind with stops := r.bind.stops ++ [(feCount x, id)] } }

/-- FE_STOP. -/
def famFeStop : Family :=
  { op := 0x81, sub := fun _ => true, invalid := 0x0A01, check := fun _ h => reasonIf (feReserved h.desc) 0x0A01,
    ready := fun _ _ => true, run := stopFe }
/-- FE_STOP. -/
def execFeStop (q : Nat) (s : State) : Host.Outcome State Fault Refusal := runHead s q famFeStop

/-- The first fault of an FE_DETECT that starts (R315). -/
def feDetectReason (d : Dev) (h : Head) : Option Nat :=
  let x := h.desc
  let c := feCorr x
  if feReserved x || feDir x || (15 < c && c != 0xFF) || !ringFor d (feRing x) h.ctx h.lc (fun r => r.prodDie == 0) then some 0x0A01
  else if (detOf d (feUnit x)).on || (c < 16 && (corrOf d c).det.isSome) then some 0x0A02
  else reasonIf (!feLinkRuns d false (feUnit x)) 0x0A03

/-- A detector started, with its correlator (R306, R307). -/
def startDetect (d : Dev) (h : Head) : Dev :=
  let x := h.desc
  let n := feUnit x
  let c := feCorr x
  let y := detOf d n
  let d := setDet d n { y with on := true, ctx := h.ctx, lc := h.lc, ring := feRing x, corr := if c < 16 then some c else none,
                               filled := false, phase := .idle, win := [], seen := 0, run := 0, first := (0, 0), held := 0,
                               noiseDue := false, detDue := false, endDue := false }
  let d := if c < 16 then setCorr d c { corrOf d c with det := some n, hist := [], newest := 0, search := none } else d
  completeHead (bindProd d (feRing x) (.detector n)) h

/-- FE_DETECT with `ENABLE` = 1. -/
def famDetectOn : Family :=
  { op := 0x82, sub := feEnable, invalid := 0x0A01, check := feDetectReason, ready := fun _ _ => true, run := startDetect }
/-- FE_DETECT_START. -/
def execFeDetectStart (q : Nat) (s : State) : Host.Outcome State Fault Refusal := runHead s q famDetectOn

/-- A detector stopped, its correlator freed. -/
def stopDetect (d : Dev) (n : Nat) : Dev :=
  let y := detOf d n
  if !y.on then d
  else
    let d := match y.corr with
      | some c => setCorr d c { corrOf d c with det := none, search := none }
      | none => d
    let d := setDet d n { y with on := false, corr := none, phase := .idle, noiseDue := false, detDue := false, endDue := false }
    freeProd d y.ring (.detector n)

/-- FE_DETECT with `ENABLE` = 0. -/
def famDetectOff : Family :=
  { op := 0x82, sub := fun x => !feEnable x, invalid := 0x0A01,
    check := fun _ h => reasonIf (feReserved h.desc || feDir h.desc || (15 < feCorr h.desc && feCorr h.desc != 0xFF)) 0x0A01,
    ready := fun _ _ => true,
    run := fun d h => completeHead (stopDetect d (feUnit h.desc)) h }
/-- FE_DETECT_STOP. -/
def execFeDetectStop (q : Nat) (s : State) : Host.Outcome State Fault Refusal := runHead s q famDetectOff

/-! ### Requests (R311) -/

/-- A request for STOPPED on a stream accepted: an ARMED one, or one between slots, stops at once, a RUNNING one at the end of
its slot. -/
def requestStop (d : Dev) (tx : Bool) (n : Nat) : Dev :=
  if tx then
    let t := feTxOf d n
    if t.reg.st = 2 && t.bind.slot then setFeTx d n { t with bind := { t.bind with halt := true } } else stopTx d n
  else
    let r := feRxOf d n
    if r.reg.st = 2 && r.bind.slot then setFeRx d n { r with bind := { r.bind with halt := true } } else stopRx d n

end Sys2Proof.Machine
end

