-- ==== Sys2Proof/Machine/Simd.lean ====
section
/-!
DEFINITION. Machine/Simd.lean: the lane arithmetic of a signal core (R321, R323 to R326): functions of lanes alone.
-/
namespace Sys2Proof.Machine
open Sys2Proof

/-- A vector register: 8 lanes. -/
abbrev Vec := List Lane

/-- A zero lane without a spoil bit. -/
def laneZero : Lane := ⟨0, false⟩
/-- Lane `i` of a vector. -/
def laneAt (v : Vec) (i : Nat) : Lane := lget laneZero v i
/-- A zero vector. -/
def vecZero : Vec := List.replicate 8 laneZero

/-- The sample form of a lane (R321). -/
def laneSmp (l : Lane) : Cplx := (sext 16 (bitsAt l.bits.toNat 0 16), sext 16 (bitsAt l.bits.toNat 16 16))
/-- The integer accumulator form of a lane. -/
def laneAcc (l : Lane) : Cplx := (sext 40 (bitsAt l.bits.toNat 0 40), sext 40 (bitsAt l.bits.toNat 40 40))
/-- The FP32 codes of the float accumulator form of a lane. -/
def laneF (l : Lane) : Nat × Nat := (bitsAt l.bits.toNat 0 32, bitsAt l.bits.toNat 40 32)
/-- The binary16 codes of a CF16 sample. -/
def laneH (l : Lane) : Nat × Nat := (bitsAt l.bits.toNat 0 16, bitsAt l.bits.toNat 16 16)

/-- A lane of samples. -/
def smpLane (z : Cplx) (spoil : Bool) : Lane := ⟨BitVec.ofNat 80 (wrapBits 16 z.1 + wrapBits 16 z.2 * 2 ^ 16), spoil⟩
/-- A lane of integer accumulators. -/
def accLane (z : Cplx) (spoil : Bool) : Lane := ⟨BitVec.ofNat 80 (wrapBits 40 z.1 + wrapBits 40 z.2 * 2 ^ 40), spoil⟩
/-- A lane of float accumulators. -/
def fLane (i q : Nat) (spoil : Bool) : Lane := ⟨BitVec.ofNat 80 (i + q * 2 ^ 40), spoil⟩
/-- A lane of CF16 samples. -/
def hLane (i q : Nat) (spoil : Bool) : Lane := ⟨BitVec.ofNat 80 (i + q * 2 ^ 16), spoil⟩

/-- A vector with the flags its lanes raised. -/
structure VRes where
  v : Vec
  f : Flags
deriving DecidableEq, Repr

/-- Lanes with their flags gathered. -/
def vres (ls : List (Lane × Flags)) : VRes := ⟨ls.map fun e => e.1, fAll (ls.map fun e => e.2)⟩

/-- `SATURATED` where a component did. -/
def satFlag (n : Nat) : Flags := fWhen (n != 0) fSaturated

/-- A lane-wise operation of two vectors. -/
def lanes2 (f : Lane → Lane → Lane × Flags) (a b : Vec) : VRes :=
  vres ((List.range 8).map fun i => f (laneAt a i) (laneAt b i))

/-- A lane-wise operation of three vectors. -/
def lanes3 (f : Lane → Lane → Lane → Lane × Flags) (a b c : Vec) : VRes :=
  vres ((List.range 8).map fun i => f (laneAt a i) (laneAt b i) (laneAt c i))

/-- Sum or difference of samples, halved where asked (R324). -/
def addSub (sub half : Bool) (a b : Lane) : Lane × Flags :=
  let x := laneSmp a
  let y := laneSmp b
  let z : Cplx := if sub then (x.1 - y.1, x.2 - y.2) else (x.1 + y.1, x.2 + y.2)
  let r := satC (if half then (rna z.1 2, rna z.2 2) else z)
  (smpLane r.1 (a.spoil || b.spoil), satFlag r.2)

/-- CONJ. -/
def conjLane (a : Lane) : Lane × Flags :=
  let x := laneSmp a
  let r := satC (x.1, -x.2)
  (smpLane r.1 a.spoil, satFlag r.2)

/-- Whether any lane carries spoil. -/
def laneSpoil (v : Vec) : Bool := v.any fun l => l.spoil

/-- PERM (R336: spoil of any source lane spreads to every lane). -/
def permVec (a b : Vec) : VRes :=
  let bad := laneSpoil a || laneSpoil b
  vres ((List.range 8).map fun i =>
    let j := bitsAt (laneAt b i).bits.toNat 0 16
    if j < 8 then (smpLane (laneSmp (laneAt a j)) bad, fNone) else (smpLane (0, 0) bad, fPermOob))

/-- The exact product of samples, or with the conjugate of the second (R324). -/
def cprod (conj : Bool) (x y : Cplx) : Cplx :=
  let q := if conj then -y.2 else y.2
  (x.1 * y.1 - x.2 * q, x.1 * q + x.2 * y.1)

/-- CMUL and CMULC. -/
def mulLane (conj : Bool) (a b : Lane) : Lane × Flags :=
  (accLane (cprod conj (laneSmp a) (laneSmp b)) (a.spoil || b.spoil), fNone)

/-- A sum saturated to 40 bits, with the components that saturated. -/
def sat40 (z : Cplx) : Cplx × Nat :=
  ((satInt 40 z.1, satInt 40 z.2), (if outsideInt 40 z.1 then 1 else 0) + (if outsideInt 40 z.2 then 1 else 0))

/-- CMAC and CMACC. -/
def macLane (conj : Bool) (d a b : Lane) : Lane × Flags :=
  let p := cprod conj (laneSmp a) (laneSmp b)
  let c := laneAcc d
  let r := sat40 (c.1 + p.1, c.2 + p.2)
  (accLane r.1 (d.spoil || a.spoil || b.spoil), satFlag r.2)

/-- WIDEN. -/
def widenLane (a : Lane) : Lane × Flags := (accLane (laneSmp a) a.spoil, fNone)
/-- MAG2. -/
def mag2Lane (a : Lane) : Lane × Flags := (accLane ((energy (laneSmp a) : Int), 0) a.spoil, fNone)

/-- HADD (R336: spoil spreads to every lane). -/
def haddVec (a : Vec) : VRes :=
  let s := a.foldl (fun (t : Cplx) l => (t.1 + (laneAcc l).1, t.2 + (laneAcc l).2)) (0, 0)
  let r := sat40 s
  ⟨accLane r.1 (laneSpoil a) :: List.replicate 7 (accLane (0, 0) (laneSpoil a)), satFlag r.2⟩

/-- RNDS with shift `s` (R324). -/
def rndsLane (s : Nat) (a : Lane) : Lane × Flags :=
  let x := laneAcc a
  let r := satC (rna x.1 (2 ^ s), rna x.2 (2 ^ s))
  (smpLane r.1 a.spoil, satFlag r.2)

/-- The count of leading sign bits of a 16-bit component (R326). -/
def cls16 (x : Int) : Nat :=
  let m := if x < 0 then (-1 - x).toNat else x.toNat
  if m = 0 then 15 else 14 - Nat.log2 m

/-- CLS. -/
def clsLane (a : Lane) : Lane × Flags :=
  (smpLane ((cls16 (laneSmp a).1 : Int), (cls16 (laneSmp a).2 : Int)) a.spoil, fNone)

/-- The least count of leading sign bits of a vector's components (R326). -/
def bexpOf (a : Vec) : Nat := a.foldl (fun m l => min m (min (cls16 (laneSmp l).1) (cls16 (laneSmp l).2))) 15

/-- BSHL by `s`. -/
def bshlLane (s : Nat) (bad : Bool) (a : Lane) : Lane × Flags :=
  let x := laneSmp a
  let r := satC (x.1 * 2 ^ s, x.2 * 2 ^ s)
  (smpLane r.1 (a.spoil || bad), satFlag r.2)

/-- BSHR by `s`. -/
def bshrLane (s : Nat) (bad : Bool) (a : Lane) : Lane × Flags :=
  let x := laneSmp a
  (smpLane (satInt 16 (rna x.1 (2 ^ s)), satInt 16 (rna x.2 (2 ^ s))) (a.spoil || bad), fNone)

/-! ### Float operations (R325) -/

/-- One, for a term that is no product. -/
def laneOne : Val := .fin false 1 1

/-- A CF16 component read under the context's flush-to-zero bit (R49). -/
def inH (ftz : Bool) (x : Nat) : Val × Flags := inVal .cf16 false ftz x
/-- An FP32 component read. -/
def inF (ftz : Bool) (x : Nat) : Val × Flags := inVal .fp32 false ftz x

/-- The exact sum of products, rounded once to FP32 (R325). -/
def fused (ftz : Bool) (ps : List (Val × Val)) : FR := passPartial ftz (foldPass ps)

/-- CFADD. -/
def cfaddLane (ftz : Bool) (a b : Lane) : Lane × Flags :=
  let x := laneF a
  let y := laneF b
  let one (p q : Nat) : FR :=
    let u := inF ftz p
    let v := inF ftz q
    let r := fused ftz [(u.1, laneOne), (v.1, laneOne)]
    ⟨r.bits, r.flags ||| u.2 ||| v.2⟩
  let i := one x.1 y.1
  let q := one x.2 y.2
  (fLane i.bits q.bits (a.spoil || b.spoil), i.flags ||| q.flags)

/-- CFMUL, CFMAC and CFMACC: an accumulator is given where one is added. -/
def cfmulLane (ftz conj : Bool) (d : Option Lane) (a b : Lane) : Lane × Flags :=
  let x := laneH a
  let y := laneH b
  let xi := inH ftz x.1
  let xq := inH ftz x.2
  let yi := inH ftz y.1
  let yq := inH ftz y.2
  let q := if conj then valFlip yq.1 else yq.1
  let acc (p : Nat × Nat → Nat) : List (Val × Val) × Flags :=
    match d with
    | some l => ([((inF ftz (p (laneF l))).1, laneOne)], (inF ftz (p (laneF l))).2)
    | none => ([], fNone)
  let i := fused ftz ((acc fun e => e.1).1 ++ [(xi.1, yi.1), (valFlip xq.1, q)])
  let r := fused ftz ((acc fun e => e.2).1 ++ [(xi.1, q), (xq.1, yi.1)])
  let spoil := a.spoil || b.spoil || (match d with | some l => l.spoil | none => false)
  (fLane i.bits r.bits spoil,
    i.flags ||| r.flags ||| xi.2 ||| xq.2 ||| yi.2 ||| yq.2 ||| (acc fun e => e.1).2 ||| (acc fun e => e.2).2)

/-- RNDF. -/
def rndfLane (ftz : Bool) (a : Lane) : Lane × Flags :=
  let x := laneF a
  let one (p : Nat) : FR :=
    let u := inF ftz p
    let r := convert .cf16 false ftz u.1
    ⟨r.bits, r.flags ||| u.2⟩
  let i := one x.1
  let q := one x.2
  (hLane i.bits q.bits a.spoil, i.flags ||| q.flags)

/-- CVTF. -/
def cvtfLane (a : Lane) : Lane × Flags :=
  let x := laneSmp a
  let one (n : Int) : Nat := (toFp32 false false (fracVal ⟨n, 1⟩ false)).bits
  (fLane (one x.1) (one x.2) a.spoil, fNone)

/-! ### A compute operation (R328) -/

/-- What a compute operation writes: VD, V(D + 1) of a BFLY, the address register of a BEXP with its spoil mark, and flags. -/
structure SimdOut where
  vd : Option Vec
  vd1 : Option Vec
  an : Option (Nat × Bool)
  f : Flags
deriving DecidableEq, Repr

/-- A result in VD. -/
def toVd (r : VRes) : SimdOut := ⟨some r.v, none, none, r.f⟩

/-- The compute operations but BEXP, BSHL and BSHR: `op`, `MOD`, the shift of RNDS, the flush-to-zero bit, sources and the old
destination. -/
def simd (op : Nat) (half : Bool) (shift : Nat) (ftz : Bool) (a b d : Vec) : SimdOut :=
  match op with
  | 0x01 => ⟨some a, none, none, fNone⟩
  | 0x02 => toVd (lanes2 (addSub false half) a b)
  | 0x03 => toVd (lanes2 (addSub true half) a b)
  | 0x04 => toVd (vres (a.map conjLane))
  | 0x05 => toVd (permVec a b)
  | 0x06 =>
    let s := lanes2 (addSub false half) a b
    let t := lanes2 (addSub true half) a b
    ⟨some s.v, some t.v, none, s.f ||| t.f⟩
  | 0x07 => toVd (vres (a.map widenLane))
  | 0x08 => toVd (lanes2 (mulLane false) a b)
  | 0x09 => toVd (lanes2 (mulLane true) a b)
  | 0x0A => toVd (lanes3 (macLane false) d a b)
  | 0x0B => toVd (lanes3 (macLane true) d a b)
  | 0x0C => toVd (vres (a.map mag2Lane))
  | 0x0D => toVd (haddVec a)
  | 0x0E => toVd (vres (a.map (rndsLane shift)))
  | 0x10 => toVd (vres (a.map clsLane))
  | 0x18 => toVd (lanes2 (cfaddLane ftz) a b)
  | 0x19 => toVd (lanes2 (cfmulLane ftz false none) a b)
  | 0x1A => toVd (lanes3 (fun d a b => cfmulLane ftz false (some d) a b) d a b)
  | 0x1B => toVd (lanes3 (fun d a b => cfmulLane ftz true (some d) a b) d a b)
  | 0x1C => toVd (vres (a.map (rndfLane ftz)))
  | 0x1D => toVd (vres (a.map cvtfLane))
  | _ => ⟨none, none, none, fNone⟩

end Sys2Proof.Machine
end

