-- ==== Sys2Proof/Machine/SigCore.lean ====
section
/-!
DEFINITION. Machine/SigCore.lean: signal cores: program images and SC_RUN (R338 to R341), instances and how they end (R343,
R344, R347), the data address map and slot windows (R319, R334 to R336), and the instructions (R327 to R333, R337, R342).
-/
namespace Sys2Proof.Machine
open Sys2Proof

/-! ### Units -/

/-- Signal core `n`. -/
def coreOf (d : Dev) (n : Nat) : CoreSt := tget coreDefault d.sc.cores n
/-- The device with a core replaced. -/
def setCore (d : Dev) (n : Nat) (c : CoreSt) : Dev := { d with sc := { d.sc with cores := tset d.sc.cores n c } }
/-- The device with a core changed. -/
def modCore (d : Dev) (n : Nat) (f : CoreSt → CoreSt) : Dev := setCore d n (f (coreOf d n))

/-- The number an instance binds rings under. -/
def instKey (i : Inst) : Nat := 32 * i.op + i.index

/-- Whether an operation's instance on core `n` runs: it is issued, not parked, not done, and no pre-emption request is in
force there: from the opening tick of a reservation a best-effort program issues no further instruction (R345). -/
def opRuns (d : Dev) (n id : Nat) : Bool :=
  match opOf d id with
  | some o => !o.away.contains n && o.phase == .moving && (o.lc || !reservedNow d 3 n)
  | none => false

/-- The instance that runs on a core. -/
def running (d : Dev) (n : Nat) : Option Inst := (coreOf d n).insts.find? fun i => opRuns d n i.op

/-- The device with an instance of a core replaced. -/
def putInst (d : Dev) (n : Nat) (i : Inst) : Dev :=
  modCore d n fun c => { c with insts := c.insts.map fun j => if j.op = i.op && j.index = i.index then i else j }

/-- The device without an instance of a core. -/
def dropInst (d : Dev) (n : Nat) (i : Inst) : Dev :=
  modCore d n fun c => { c with insts := c.insts.filter fun j => !(j.op == i.op && j.index == i.index) }

/-! ### Images (R338) -/

/-- Sizes of the LC regions in bytes: P, X, Y (R318, R349). -/
def lcRegion (d : Dev) (k : Nat) : Nat := 1024 * leAt d.sc.region (2 * k) 2
/-- Sizes of a core's memories in bytes: P, X, Y (R317). -/
def memSize (k : Nat) : Nat := if k = 0 then 131072 else 262144

/-- `PROG_ID`. -/
def imId (h : Bytes) : Nat := leAt h 0 2
/-- `PCLASS`. -/
def imClass (h : Bytes) : Nat := leAt h 2 1
/-- `P_BYTES`. -/
def imP (h : Bytes) : Nat := leAt h 4 4
/-- `X_INIT`. -/
def imXInit (h : Bytes) : Nat := leAt h 8 4
/-- `Y_INIT`. -/
def imYInit (h : Bytes) : Nat := leAt h 12 4
/-- `X_FOOT`. -/
def imX (h : Bytes) : Nat := leAt h 16 4
/-- `Y_FOOT`. -/
def imY (h : Bytes) : Nat := leAt h 20 4
/-- `ENTRY`. -/
def imEntry (h : Bytes) : Nat := leAt h 24 4

/-- `n` rounded up to a multiple of 32. -/
def pad32 (n : Nat) : Nat := ceilDiv n 32 * 32

/-- Bytes of the image that begins here. -/
def imBytes (h : Bytes) : Nat := 32 + pad32 (imP h) + pad32 (imXInit h) + pad32 (imYInit h)

/-- The images of a store; none where its bytes end inside one. -/
def storeImages : Nat → Bytes → Option (List Bytes)
  | 0, bs => if bs.isEmpty then some [] else none
  | n + 1, bs =>
    if bs.isEmpty then some []
    else if bs.length < 32 || bs.length < imBytes bs then none
    else (storeImages n (bs.drop (imBytes bs))).map fun r => bs.take (imBytes bs) :: r

/-- The images of a context (R338). -/
def imagesOf (d : Dev) (ctx : Nat) : List Bytes :=
  let bs := tget [] d.sc.store ctx
  (storeImages (bs.length / 32) bs).getD []

/-- Program `p` of a context. -/
def imageOf (d : Dev) (ctx p : Nat) : Option Bytes := (imagesOf d ctx).find? fun h => imId h == p

/-- Whether an image keeps the ranges of its header (R338). -/
def imageRanges (h : Bytes) : Bool :=
  imClass h < 3 && leAt h 3 1 == 0 && imP h % 8 == 0 && imXInit h ≤ imX h && imYInit h ≤ imY h && imX h % 32 == 0
    && imY h % 32 == 0 && leAt h 28 4 == 0 && imEntry h < max 1 (imP h / 8)

/-- Whether an image's footprints lie inside the regions of its class (R338). -/
def imageFits (d : Dev) (h : Bytes) : Bool :=
  let fits (lc : Bool) : Bool :=
    let cap (k : Nat) : Nat := if lc then lcRegion d k else memSize k - lcRegion d k
    imP h ≤ cap 0 && imX h ≤ cap 1 && imY h ≤ cap 2
  if imClass h = 0 then fits false else if imClass h = 1 then fits true else fits false && fits true

/-! ### The LC region (R320) -/

/-- The lowest address of a region of `cap` bytes at which `n` bytes are free beside the parts given as start and size. -/
def partFit (cap n : Nat) (parts : List (Nat × Nat)) : Option Nat :=
  let starts := 0 :: parts.map fun p => p.1 + p.2
  let ok (s : Nat) : Bool := s + n ≤ cap && parts.all fun p => s + n ≤ p.1 || p.1 + p.2 ≤ s || p.2 == 0 || n == 0
  (starts.filter ok).foldl (fun m s => match m with | none => some s | some k => some (min k s)) none

/-- Whether a graph keeps its parts: neither withdrawn nor revoked (R320). -/
def keepsPart (d : Dev) (p : Part) : Bool :=
  let g := graphOf d p.graph
  (g.st == 1 || (g.st == 3 && g.revokedIn.isSome)) && gCtx g.rcd == p.ctx

/-- The parts of a core's LC region that are still held. -/
def partsOf (d : Dev) (n : Nat) : List Part := (coreOf d n).parts.filter (keepsPart d)

/-- The part of a program on a core: the one that holds its image, or a new one placed first-fit, whose code must be loaded
(`true`). An image that has been written anew is another program. DEDUCED: assumption log 123. -/
def partFor (d : Dev) (n ctx g : Nat) (h : Bytes) : Option (Part × Bool) :=
  let ps := partsOf d n
  match ps.find? fun p => p.ctx == ctx && p.graph == g && p.image == h with
  | some p => some (p, false)
  | none =>
    match partFit (lcRegion d 0) (imP h) (ps.map fun p => p.p), partFit (lcRegion d 1) (imX h) (ps.map fun p => p.x),
        partFit (lcRegion d 2) (imY h) (ps.map fun p => p.y) with
    | some a, some b, some c => some (⟨ctx, g, h, (a, imP h), (b, imX h), (c, imY h)⟩, true)
    | _, _, _ => none

/-! ### SC_RUN (R339 to R341) -/

/-- `SC_RUN.PROGRAM`. -/
def srProgram (x : Desc) : Nat := dfield x 24 0 16
/-- `SC_RUN.CORES`. -/
def srCores (x : Desc) : Nat := dfield x 26 0 8
/-- `SC_RUN.ARG` k, 1 to 7. -/
def srArg (x : Desc) (k : Nat) : Nat := dfield x (24 + 4 * k) 0 32
/-- `SC_RUN.CYCLE_LIMIT`. -/
def srLimit (x : Desc) : Nat := dfield x 56 0 32

/-- Whether a program fits its region: the BE region of any core, or the LC region of each core placed for the graph
(R320). -/
def programFits (d : Dev) (h : Head) (im : Bytes) : Bool :=
  if h.lc then
    ((lget [] (graphOf d (hGraph h.desc)).place 3).take (srCores h.desc)).all fun n =>
      (partFor d n h.ctx (hGraph h.desc) im).isSome
  else
    let cap (k : Nat) : Nat := memSize k - lcRegion d k
    imP im ≤ cap 0 && imX im ≤ cap 1 && imY im ≤ cap 2

/-- The first fault of an SC_RUN (R344). -/
def scReason (d : Dev) (h : Head) : Option Nat :=
  let x := h.desc
  if hStrict x || dfield x 27 0 8 != 0 || dfield x 60 0 32 != 0 || srCores x == 0 || 32 < srCores x
      || (h.lc && gCount (graphOf d (hGraph x)).rcd 3 < srCores x) then some 0x0B01
  else
    match imageOf d h.ctx (srProgram x) with
    | none => some 0x0B02
    | some im =>
      if (imClass im == 0 && h.lc) || (imClass im == 1 && !h.lc) then some 0x0B01
      else reasonIf (!programFits d h im) 0x0B03

/-- The failing memory words that an instance is to read, of those a command gives. -/
def failsOf (cs : List CoreFail) (index : Nat) : List (Nat × Bool) :=
  (cs.filter fun c => c.inst == index).map fun c => (c.cycle, c.permanent)

/-- An instance as it starts (R340): `c` is its cycle count after setup. -/
def freshInst (h : Head) (im : Bytes) (cs : List CoreFail) (op index c : Nat) : Inst :=
  let x := h.desc
  let xo := 32 + pad32 (imP im)
  let arg (k : Nat) : BitVec 32 := if k = 0 then BitVec.ofNat 32 index else if k < 8 then BitVec.ofNat 32 (srArg x k) else 0
  { op := op, index := index, prog := slice im 32 (imP im), xfoot := imX im, yfoot := imY im, pc := imEntry im,
    v := List.replicate 64 vecZero, a := (List.range 16).map arg, aspoil := List.replicate 16 false,
    lc := List.replicate 4 0, x := cellsPut [] 0 (slice im xo (imXInit im)),
    y := cellsPut [] 0 (slice im (xo + pad32 (imXInit im)) (imYInit im)), xspoil := [], yspoil := [], loops := [], rrb := 0,
    windows := List.replicate 4 none, cycles := c, limit := srLimit x, cached := none, spoilRead := false,
    fails := failsOf cs index }

/-- Setup cycles (R341). -/
def setupCycles (im : Bytes) (load : Bool) : Nat :=
  16 + (if load then ceilDiv (imP im) 32 else 0) + ceilDiv (max (imX im) (imY im)) 32

/-- One instance placed on a core. -/
def placeInst (h : Head) (im : Bytes) (cs : List CoreFail) (op : Nat) (d : Dev) (e : Nat × Nat) : Dev :=
  let n := e.1
  if h.lc then
    match partFor d n h.ctx (hGraph h.desc) im with
    | none => d
    | some (p, load) =>
      let ps := partsOf d n
      modCore d n fun c => { c with parts := if load then ps ++ [p] else ps,
                                    insts := c.insts ++ [freshInst h im cs op e.2 (setupCycles im load)] }
  else
    let load := (coreOf d n).code != some (h.ctx, imId im)
    modCore d n fun c => { c with code := some (h.ctx, imId im),
                                  insts := c.insts ++ [freshInst h im cs op e.2 (setupCycles im load)] }

/-! ### How an instance ends (R343, R344, R347) -/

/-- A ring to whose slots an operation's completion answers (R225, R343). -/
def addOut (d : Dev) (id r : Nat) : Dev :=
  let m := outMark d r
  modOp d id fun o => { o with outs := (o.outs.filter fun e => e.1 != r) ++ m }

/-- A window's slot closed at the end of an instance: what a FILLING slot lacks is zero and spoil, and it becomes SPOIL; a
DRAINING slot returns to EMPTY (R343). -/
def closeWindow (op : Nat) (d : Dev) (w : Window) : Dev :=
  if !w.filling then slotGive d w.ring
  else
    let n := ringSlotBytes d w.ring / 64
    let bad := (List.range n).filter fun b => !(w.wrote.contains (2 * b) && w.wrote.contains (2 * b + 1))
    let bad := if bad.isEmpty then [n - 1] else bad
    let d := { d with haul := { d.haul with spoil := bad.foldl (fun m b => insSorted m (slotKey w.ring w.slot 0 / 64 + b)) d.haul.spoil } }
    addOut (slotPost d w.ring) op w.ring

/-- The rings an instance bound are free of it. -/
def unbind (d : Dev) (key : Nat) : Dev :=
  let a : Option Agent := some (.core key)
  { d with haul := { d.haul with rings := d.haul.rings.map fun e =>
      (e.1, { e.2 with prod := if e.2.prod = a then none else e.2.prod, cons := if e.2.cons = a then none else e.2.cons }) } }

/-- Whether any core still holds an instance of an operation. -/
def hasInst (d : Dev) (id : Nat) : Bool := d.sc.cores.any fun c => c.2.insts.any fun i => i.op == id

/-- An instance has ended on a core: its slots are closed, its core is free, and after the last one its SC_RUN waits only for
its slots to arrive (R343). -/
def instEnd (d : Dev) (n : Nat) (i : Inst) : Dev :=
  let d := (i.windows.filterMap id).foldl (closeWindow i.op) d
  let d := unbind (dropInst d n i) (instKey i)
  let ticks := ceilDiv (2 * i.cycles) 3
  let d := modOp d i.op fun o =>
    let away := o.away.filter fun u => u != n
    { o with units := o.units.filter fun u => u != n, away := away, parked := !away.isEmpty, occ := o.occ + ticks }
  if hasInst d i.op then d else modOp d i.op fun o => { o with phase := .done }

/-- An instance aborted by a fault (R344). -/
def instFault (d : Dev) (n : Nat) (i : Inst) (reason : Nat) : Dev :=
  let d := match opOf d i.op with
    | some o => postOpFault d o reason 0
    | none => d
  instEnd d n i

/-- The state register of pair `p`. -/
def pairReg (d : Dev) (p : Nat) : GenSt := lget ⟨0, 1⟩ d.sc.pairs p
/-- Pair `p` moved to a state. -/
def pairTo (d : Dev) (p st : Nat) : Dev := { d with sc := { d.sc with pairs := lmod d.sc.pairs p fun g => genTo g st } }

/-- The code and parts of a pair's cores lost. -/
def clearPair (d : Dev) (p : Nat) : Dev :=
  [2 * p, 2 * p + 1].foldl (fun d n => modCore d n fun c => { c with code := none, parts := [] }) d

/-- A pair worked out: every instance on it faults, and graphs are re-admitted (R347, R471). -/
def pairRetire (d : Dev) (p : Nat) : Dev :=
  if (pairReg d p).st = 3 then d
  else
    let d := postWorkedOut (pairTo d p 3) 0x4400 (p + 1)
    let d := [2 * p, 2 * p + 1].foldl (fun d n => (coreOf d n).insts.foldl (fun d i => instFault d n i 0x0B0A) d) d
    readmit (clearPair d p) d.sc.pairs

/-- The failing memory words that the instance on a core reads at the point it has come to: one that reads right the second
time counts as transient; at one that fails again the instance faults and the pair is worked out (R347). -/
def memoryCheck (d : Dev) (n : Nat) : Dev :=
  match running d n with
  | none => d
  | some i =>
    let due := i.fails.filter fun e => e.1 ≤ i.cycles
    if due.isEmpty then d
    else
      let i := { i with fails := i.fails.filter fun e => i.cycles < e.1 }
      let good := (due.takeWhile fun e => !e.2).length
      let d := modCore (putInst d n i) n fun c => { c with transients := satAdd 32 c.transients good }
      if due.any fun e => e.2 then pairRetire (instFault d n i 0x0B09) (n / 2) else d

/-- An SC_RUN started (R340), with the failing memory words that its instances read (R347). -/
def startScRun (cs : List CoreFail) (d : Dev) (h : Head) : Dev :=
  match imageOf d h.ctx (srProgram h.desc) with
  | none => d
  | some im =>
    let o := freshOp d h
    let (id, d) := issue d h o
    let d := (o.units.zipIdx).foldl (placeInst h im cs id) d
    o.units.foldl memoryCheck d

/-- SC_RUN. -/
def famScRun (cs : List CoreFail) : Family :=
  { op := 0x90, sub := fun _ => true, invalid := 0x0B01, check := scReason, ready := mayIssue, run := startScRun cs }

/-- SC_RUN. -/
def execScRun (q : Nat) (checks : List CoreFail) (s : State) : Host.Outcome State Fault Refusal := runHead s q (famScRun checks)

/-- A draining pair on which nothing runs is GATED; what its cores held is lost to it (R348). -/
def pairDrained (d : Dev) (p : Nat) : Dev :=
  if (pairReg d p).st = 2 && !unitBusy d .core (2 * p) && !unitBusy d .core (2 * p + 1) then
    let d := clearPair (pairTo d p 0) p
    readmit d d.sc.pairs
  else d

/-- PAIR_DRAIN_COMPLETE. -/
def execPairDrainComplete (pair : Nat) (s : State) : Host.Outcome State Fault Refusal :=
  runDev (pair < 16) s fun d => pairDrained d pair

/-! ### Instruction words (R327) -/

/-- `CLASS`. -/
def wClass (w : Nat) : Nat := bitsAt w 61 3
/-- The operation code of a word's class. -/
def wOp (w : Nat) : Nat := if wClass w = 0 then bitsAt w 49 6 else bitsAt w 56 5
/-- `VD`. -/
def wVd (w : Nat) : Nat := bitsAt w 43 6
/-- `VA`. -/
def wVa (w : Nat) : Nat := bitsAt w 37 6
/-- `VB`. -/
def wVb (w : Nat) : Nat := bitsAt w 31 6
/-- `MOD`. -/
def wMod (w : Nat) : Bool := bitAt w 30
/-- `MSTAGE`. -/
def wMstage (w : Nat) : Nat := bitsAt w 58 3
/-- `CSTAGE`. -/
def wCstage (w : Nat) : Nat := bitsAt w 55 3
/-- Destination, tested or receiving address register: bits [55:52]. -/
def wDst (w : Nat) : Nat := bitsAt w 52 4
/-- Source address register: bits [51:48]. -/
def wSrc (w : Nat) : Nat := bitsAt w 48 4
/-- Immediate, count, target or increment: bits [31:0]. -/
def wImm (w : Nat) : Nat := bitsAt w 0 32
/-- Window: bits [51:50]. -/
def wWin (w : Nat) : Nat := bitsAt w 50 2
/-- Ring: bits [43:32]. -/
def wRing (w : Nat) : Nat := bitsAt w 32 12
/-- Sync object of a SIG: bits [44:32]. -/
def wObj (w : Nat) : Nat := bitsAt w 32 13
/-- `BODY` of a LOOP. -/
def wBody (w : Nat) : Nat := bitsAt w 32 12
/-- The counter of a LOOP. -/
def wLc (w : Nat) : Nat := bitsAt w 54 2
/-- S of a LOOP. -/
def wStages (w : Nat) : Nat := bitsAt w 50 3 + 1
/-- `ROT` of a LOOP. -/
def wRot (w : Nat) : Nat := bitsAt w 47 3

/-- A move field (R327). -/
structure Move where
  en : Bool
  store : Bool
  v : Nat
  a : Nat
  mode : Nat
  bcast : Bool
deriving DecidableEq, Repr

/-- The move field of 15 bits. -/
def moveOf (x : Nat) : Move := ⟨bitAt x 14, bitAt x 13, bitsAt x 7 6, bitsAt x 4 3, bitsAt x 1 3, bitAt x 0⟩
/-- The X move. -/
def wX (w : Nat) : Move := moveOf (bitsAt w 15 15)
/-- The Y move. -/
def wY (w : Nat) : Move := moveOf (bitsAt w 0 15)

/-- Registers of a rotating region (R332). -/
def rotSize (c : Nat) : Nat := match c with | 0 => 0 | 1 => 8 | 2 => 16 | 3 => 32 | _ => 64

/-- Whether a class has the operation code. -/
def knownOp (w : Nat) : Bool :=
  match wClass w with
  | 0 => wOp w ≤ 0x0E || (0x10 ≤ wOp w && wOp w ≤ 0x13) || (0x18 ≤ wOp w && wOp w ≤ 0x1D)
  | 1 => 1 ≤ wOp w && wOp w ≤ 6
  | 2 => wOp w ≤ 5
  | 3 => 1 ≤ wOp w && wOp w ≤ 5
  | _ => false

/-- The vector registers that a compute operation writes, as named. -/
def computeDst (w : Nat) : List Nat :=
  match wOp w with
  | 0x00 => []
  | 0x11 => []
  | 0x06 => [wVd w, wVd w + 1]
  | _ => [wVd w]

/-- Whether an enabled move has a reserved mode or a broadcast store. -/
def moveBad (m : Move) : Bool := m.en && (m.mode == 7 || (m.store && m.bcast))
/-- Whether a move loads one of the registers. -/
def loadsOne (m : Move) (vs : List Nat) : Bool := m.en && !m.store && vs.contains m.v

/-- The innermost loop with `STAGES` > 1 (R333). -/
def stagedLoop (i : Inst) : Option LoopSt := i.loops.find? fun l => 1 < l.stages

/-- Whether a word at instruction `pc` faults with `SC_ILLEGAL` (R327, R328, R330, R332). -/
def illegal (i : Inst) (w : Nat) : Bool :=
  !knownOp w ||
    match wClass w with
    | 0 =>
      moveBad (wX w) || moveBad (wY w) || ((wMstage w != 0 || wCstage w != 0) && (stagedLoop i).isNone)
        || loadsOne (wX w) (computeDst w) || loadsOne (wY w) (computeDst w) || (wOp w == 0x06 && wVd w == 63)
    | 2 =>
      match wOp w with
      | 1 =>
        5 ≤ wRot w || 4 ≤ i.loops.length || i.loops.any (fun l => l.lc == wLc w)
          || (wRot w != 0 && i.loops.any fun l => l.rot != 0)
          || (match i.loops with | l :: _ => decide (l.last < i.pc + wBody w) | [] => false)
      | 2 => branchOut i w
      | 3 => branchOut i w
      | 4 => branchOut i w
      | _ => false
    | 3 => wOp w == 5 && wImm w == 0
    | _ => false
where
  /-- A branch from inside a body to a target outside it. -/
  branchOut (i : Inst) (w : Nat) : Bool :=
    match i.loops with
    | l :: _ => decide (wImm w < l.first) || decide (l.last < wImm w)
    | [] => false

/-! ### Loops (R330 to R333) -/

/-- Runs of a loop's body. -/
def loopRuns (l : LoopSt) : Nat := l.count + l.stages - 1

/-- The innermost loop's body has run to its end: it begins again, at 3 cycles where the body is not in the loop cache, or its
runs have expired (R331 to R333). -/
def bodyEnd (i : Inst) : Inst :=
  match i.loops with
  | [] => i
  | l :: t =>
    let i := { i with loops := { l with run := l.run + 1 } :: t, lc := lmod i.lc l.lc fun c => c - 1 }
    if l.run + 1 < loopRuns l then
      { i with pc := l.first, cycles := i.cycles + (if i.cached = some l.first then 0 else 3),
               rrb := if l.rot = 0 then i.rrb else (i.rrb + l.rot - 1) % l.rot }
    else { i with pc := l.last + 1 }

/-- The instance moved past instruction `e`, which may end a body. -/
def passed (i : Inst) (e : Nat) : Inst :=
  match i.loops with
  | l :: _ => if l.last = e then bodyEnd i else { i with pc := e + 1 }
  | [] => { i with pc := e + 1 }

/-- Whether the innermost loop's runs have expired. -/
def loopOver (i : Inst) : Bool :=
  match i.loops with
  | l :: _ => loopRuns l ≤ l.run
  | [] => false

/-- An expired loop ends: RRB returns to 0 (R332); the body around it may end there too. -/
def loopExit (i : Inst) : Inst :=
  match i.loops with
  | [] => i
  | l :: t => passed { i with loops := t, rrb := if l.rot = 0 then i.rrb else 0 } l.last

/-- Every expired loop ended. -/
def flushLoops : Nat → Inst → Inst
  | 0, i => i
  | n + 1, i => if loopOver i then flushLoops n (loopExit i) else i

/-- The physical register that an instruction names as Vn (R332). -/
def phys (i : Inst) (n : Nat) : Nat :=
  match i.loops.find? fun l => l.rot != 0 with
  | some l => let b := 64 - l.rot; if b ≤ n then b + (n - b + i.rrb) % l.rot else n
  | none => n

/-- Vn as an instruction reads it. -/
def vReg (i : Inst) (n : Nat) : Vec := lget vecZero i.v (phys i n)
/-- Vn written. -/
def setV (i : Inst) (n : Nat) (v : Vec) : Inst := { i with v := lset i.v (phys i n) v }
/-- An. -/
def aReg (i : Inst) (n : Nat) : Nat := (lget 0 i.a n).toNat
/-- An written, with its spoil mark. -/
def setA (i : Inst) (n x : Nat) (bad : Bool) : Inst :=
  { i with a := lset i.a n (BitVec.ofNat 32 x), aspoil := lset i.aspoil n bad }
/-- Whether An depends on spoil. -/
def aBad (i : Inst) (n : Nat) : Bool := lget false i.aspoil n

/-- Whether the parts of an instruction with a stage take place in this run (R333). -/
def takesPlace (i : Inst) (stage : Nat) : Bool :=
  match stagedLoop i with
  | some l => stage ≤ l.run && l.run < stage + l.count
  | none => true

/-! ### Data addresses (R319, R328, R336) -/

/-- Where an access lands. -/
inductive Place where
  | ram (off : Nat)
  | window (w : Window) (n off : Nat)
deriving DecidableEq, Repr

/-- The place of an access of `n` bytes on the X bus or, with `y`, the Y bus; or the fault (R319, R328, R334). -/
def placeOf (d : Dev) (i : Inst) (y store : Bool) (addr n : Nat) : Except Nat Place :=
  if addr % n != 0 then .error 0x0B05
  else if addr + n ≤ (if y then i.yfoot else i.xfoot) then .ok (.ram addr)
  else if addr < 0x100000 || 0x140000 ≤ addr then .error 0x0B05
  else
    let k := (addr - 0x100000) / 0x10000
    match lget none i.windows k with
    | none => .error 0x0B05
    | some w =>
      let off := addr % 0x10000
      if ringSlotBytes d w.ring < off + n then .error 0x0B05
      else if store && !w.filling then .error 0x0B06
      else .ok (.window w k off)

/-- The bytes of an access, and whether its block is spoil. -/
def loadBytes (d : Dev) (i : Inst) (y : Bool) (p : Place) (n : Nat) : Bytes × Bool :=
  match p with
  | .ram a => (cellsGet (if y then i.y else i.x) a n, (if y then i.yspoil else i.xspoil).contains (a / 64))
  | .window w _ off => (slotRead d w.ring w.slot off n, slotSpoilAt d w.ring w.slot off)

/-- A vector from its bytes; 4 bytes go to every lane (R321). -/
def vecOf (bs : Bytes) (bcast bad : Bool) : Vec :=
  (List.range 8).map fun k => ⟨BitVec.ofNat 80 (leAt bs (if bcast then 0 else 4 * k) 4), bad⟩

/-- The bytes of a vector's store. -/
def vecBytes (v : Vec) : Bytes := v.flatMap fun l => leBytes 4 (bitsAt l.bits.toNat 0 32)

/-- A vector stored; a spoil lane marks its block (R336). -/
def storeVec (d : Dev) (i : Inst) (y : Bool) (p : Place) (v : Vec) : Dev × Inst :=
  let bad := laneSpoil v
  match p with
  | .ram a =>
    if y then (d, { i with y := cellsPut i.y a (vecBytes v), yspoil := if bad then insSorted i.yspoil (a / 64) else i.yspoil })
    else (d, { i with x := cellsPut i.x a (vecBytes v), xspoil := if bad then insSorted i.xspoil (a / 64) else i.xspoil })
  | .window w k off =>
    (noteStored (slotStore d w.ring w.slot off (vecBytes v) bad) w.ring off 32,
      { i with windows := lset i.windows k (some { w with wrote := insSorted w.wrote (off / 32) }) })

/-! ### Address modification (R328) -/

/-- The 32 bits of a number in reverse order. -/
def rev32 (x : Nat) : Nat := (List.range 32).foldl (fun a k => 2 * a + bitsAt x k 1) 0

/-- The next power of two at or above a number. -/
def pow2Up (n : Nat) : Nat := if n ≤ 1 then 1 else 2 ^ (Nat.log2 (n - 1) + 1)

/-- An after a move in a mode; a circular buffer that An does not lie in, or of a length R328 does not allow, leaves An
open. -/
def postMod (mode a c free : Nat) : Nat :=
  match mode with
  | 1 => a + 32
  | 2 => a + 2 ^ 32 - 32
  | 3 => a + c
  | 4 =>
    let p := pow2Up c
    let off := a % p
    if c = 0 || c % 32 != 0 || c ≤ off then free else a - off + (if off + 32 < c then off + 32 else off + 32 - c)
  | 5 => rev32 ((rev32 a + rev32 c) % 2 ^ 32)
  | 6 => a + 4
  | _ => a

/-! ### The class-0 instruction -/

/-- The move of one bus, as its operands stand: its place or its fault; none where it does not take place. -/
def movePlace (d : Dev) (i : Inst) (y on : Bool) (m : Move) : Except Nat (Option Place) :=
  if m.en && on then (placeOf d i y m.store (aReg i m.a) (if m.bcast then 4 else 32)).map some else .ok none

/-- Free lanes: a value that the spec leaves open (assumption log 1). -/
def freeVec (d : Dev) (bad : Bool) : Vec :=
  (List.range 8).map fun k => smpLane (sext 16 (Config.freeBits (d.free + k)).toNat, sext 16 ((Config.freeBits (d.free + k)).toNat / 2 ^ 16)) bad

/-- The compute operation of a word on an instance's registers. -/
def computeOf (d : Dev) (i : Inst) (ftz : Bool) (w : Nat) : SimdOut :=
  let a := vReg i (wVa w)
  let n := bitsAt w 31 4
  let s := min 15 (aReg i n)
  match wOp w with
  | 0x11 =>
    let k := bitsAt w 43 4
    ⟨none, none, some (min (aReg i k) (bexpOf a), aBad i k || laneSpoil a), fNone⟩
  | 0x12 => toVd (vres (a.map (bshlLane s (aBad i n))))
  | 0x13 => toVd (vres (a.map (bshrLane s (aBad i n))))
  | 0x0E => if 39 < wVb w then ⟨some (freeVec d (laneSpoil a)), none, none, fNone⟩ else simd 0x0E false (wVb w) ftz a a a
  | op => simd op (wMod w) 0 ftz a (vReg i (wVb w)) (vReg i (wVd w))

/-- Issue cycles of a class-0 operation (R328). -/
def issueCycles (w : Nat) : Nat := if wClass w = 0 && 0x18 ≤ wOp w then 2 else 1

/-- One bus's move carried out on the instance: a load into V, or a store of the value V had. -/
def doMove (old : Inst) (y : Bool) (m : Move) (p : Option Place) (a : Dev × Inst) : Dev × Inst :=
  match p with
  | none => a
  | some p =>
    if m.store then storeVec a.1 a.2 y p (vReg old m.v)
    else
      let r := loadBytes a.1 old y p (if m.bcast then 4 else 32)
      (a.1, { setV a.2 m.v (vecOf r.1 m.bcast (r.2 || aBad old m.a)) with spoilRead := a.2.spoilRead || r.2 })

/-- The address register of a move modified. -/
def doPost (old : Inst) (free : Nat) (m : Move) (p : Option Place) (i : Inst) : Inst :=
  if p.isSome && m.mode != 0 then
    setA i m.a (postMod m.mode (aReg old m.a) (aReg old (m.a + 8)) free) (aBad old m.a || (m.mode == 3 && aBad old (m.a + 8)))
  else i

/-- A class-0 instruction (R327 to R333): the operation and both moves read the registers as they stood. Where two of them
write one register at once, what it holds is open. -/
def runClass0 (d : Dev) (i : Inst) (ctx : Nat) (w : Nat) : Except Nat (Dev × Inst) :=
  let mx := wX w
  let my := wY w
  let on := takesPlace i (wMstage w)
  match movePlace d i false on mx, movePlace d i true on my with
  | .error r, _ => .error r
  | .ok _, .error r => .error r
  | .ok px, .ok py =>
    let c := if takesPlace i (wCstage w) then computeOf d i (ftzOf d ctx) w else ⟨none, none, none, fNone⟩
    let free := (Config.freeBits d.free).toNat
    -- loads come before the stores of the same instruction; of two stores, Y's data remains
    let r := (d, i)
    let r := if mx.store then r else doMove i false mx px r
    let r := if my.store then r else doMove i true my py r
    let r := if mx.store then doMove i false mx px r else r
    let r := if my.store then doMove i true my py r else r
    let twice := px.isSome && py.isSome && !mx.store && !my.store && mx.v == my.v
    let j := if twice then setV r.2 mx.v (freeVec d (laneSpoil (vReg r.2 mx.v))) else r.2
    let j := doPost i (free + 1) my py (doPost i free mx px j)
    let j := if px.isSome && py.isSome && mx.a = my.a && mx.mode != 0 && my.mode != 0 then setA j mx.a free (aBad j mx.a) else j
    let j := match c.vd with
      | some v => setV j (wVd w) v
      | none => j
    let j := match c.vd1 with
      | some v => setV j (wVd w + 1) v
      | none => j
    let k := bitsAt w 43 4
    let clash := (px.isSome && mx.mode != 0 && mx.a == k) || (py.isSome && my.mode != 0 && my.a == k)
    let j := match c.an with
      | some e => setA j k (if clash then free else e.1) e.2
      | none => j
    .ok (raise { r.1 with free := d.free + 8 } ctx c.f, passed { j with cycles := j.cycles + issueCycles w } i.pc)

/-! ### Scalar and control instructions (R328) -/

/-- A scalar instruction: address arithmetic wraps (R322). -/
def runScalar (i : Inst) (w : Nat) : Inst :=
  let dst := wDst w
  let s := aReg i (wSrc w)
  let t := aReg i dst
  let bs := aBad i (wSrc w)
  let bt := aBad i dst
  let j := match wOp w with
    | 1 => setA i dst (wImm w) false
    | 2 => setA i dst (s + wImm w) bs
    | 3 => setA i dst (t + s) (bs || bt)
    | 4 => setA i dst (t + 2 ^ 32 - s) (bs || bt)
    | 5 => setA i dst (t &&& s) (bs || bt)
    | _ => setA i dst (if 32 ≤ wImm w then 0 else s * 2 ^ wImm w) bs
  passed { j with cycles := j.cycles + 1 } i.pc

/-- LOOP (R330): a count of zero skips the body. -/
def runLoop (i : Inst) (w : Nat) : Inst :=
  let n := if bitAt w 53 then aReg i (bitsAt w 0 4) else wImm w
  let i := { i with cycles := i.cycles + 1 }
  if n = 0 || wBody w = 0 then passed i (i.pc + wBody w)
  else
    let l : LoopSt := ⟨wLc w, i.pc + 1, i.pc + wBody w, n, wStages w, rotSize (wRot w), 0⟩
    { i with pc := i.pc + 1, loops := l :: i.loops, rrb := if wRot w = 0 then i.rrb else 0,
             lc := lset i.lc (wLc w) (BitVec.ofNat 32 n),
             cached := if wBody w ≤ 64 then some (i.pc + 1) else i.cached }

/-- A branch that is taken costs 3 cycles more (R331, R342). -/
def runBranch (i : Inst) (w : Nat) (taken : Bool) : Inst :=
  if taken then { i with pc := wImm w, cycles := i.cycles + 4 } else passed { i with cycles := i.cycles + 1 } i.pc

/-! ### Ring instructions (R334 to R337) -/

/-- Whether a side of a ring is bound by another agent, or served by a MOVE. -/
def sideTaken (d : Dev) (r : Nat) (a : Option Agent) (fill : Bool) (key : Nat) : Bool :=
  (a.isSome && a != some (.core key)) || (a.isNone && (ringMover d r fill).isSome)

/-- The base address of a window (R319). -/
def windowBase (w : Nat) : Nat := 0x100000 + 0x10000 * w

/-- RCLAIM or RTAKE: faults, or binds the side and then waits (no instance) or maps the slot; where the consumer is on the
other die, the window shows the staging buffer of the slot (R334, R335). -/
def runMap (d : Dev) (i : Inst) (o : Op) (w : Nat) (fill : Bool) : Except Nat (Dev × Option Inst) :=
  let r := wRing w
  match ringOf d r with
  | none => .error 0x0B06
  | some x =>
    let die := if fill then x.prodDie else x.consDie
    let side := if fill then x.prod else x.cons
    if x.ctx != o.ctx || x.lc != o.lc || die != 0 || (lget none i.windows (wWin w)).isSome || sideTaken d r side fill (instKey i) then
      .error 0x0B06
    else
      let d := if fill then bindProd d r (.core (instKey i)) else bindCons d r (.core (instKey i))
      match (if fill then claimSlot d r else takeSlot d r) with
      | none => .ok (d, none)
      | some (d, s) =>
        let s := if fill then stageSlot x s else s
        let i := { i with windows := lset i.windows (wWin w) (some ⟨r, s, fill, []⟩), cycles := i.cycles + 1 }
        .ok (d, some (passed (setA i (wDst w) (windowBase (wWin w)) false) i.pc))

/-- RPOST or RGIVE: the window's slot leaves it. -/
def runUnmap (d : Dev) (i : Inst) (w : Nat) (fill : Bool) : Except Nat (Dev × Inst) :=
  match lget none i.windows (wWin w) with
  | none => .error 0x0B06
  | some x =>
    if x.filling != fill then .error 0x0B06
    else
      let d := if fill then addOut (slotPost d x.ring) i.op x.ring else slotGive d x.ring
      .ok (d, passed { i with windows := lset i.windows (wWin w) none, cycles := i.cycles + 1 } i.pc)

/-- SIG: the increment follows the program's posted slots across the road (R337); one that the object's class forbids (R250) is
not made, and reported as a descriptor's would be. -/
def runSig (d : Dev) (i : Inst) (o : Op) (w : Nat) : Dev × Inst :=
  let s := syncOf d (wObj w)
  let d := if s.declared && !syncClassOk s o.lc then postOpFault d o 0x0803 0
    else enqueue d .st o.lc (.syncInc (wObj w) (wImm w) o.ctx (hTag o.desc) o.queue (hOpcode o.desc) o.idx)
  (d, passed { i with cycles := i.cycles + 1 } i.pc)

/-! ### One instruction -/

/-- The word at an instance's next instruction; none beyond its code. -/
def fetchWord (i : Inst) : Option Nat := if i.pc < i.prog.length / 8 then some (leAt i.prog (8 * i.pc) 8) else none

/-- An instruction done: the device and the instance after it. -/
def did (r : Dev × Inst) : Dev × Option Inst := (r.1, some r.2)

/-- An instruction's outcome: a fault, a wait (no instance), or the instance after it. -/
def runWord (d : Dev) (i : Inst) (o : Op) (w : Nat) : Except Nat (Dev × Option Inst) :=
  match wClass w with
  | 0 => (runClass0 d i o.ctx w).map did
  | 1 => .ok (d, some (runScalar i w))
  | 2 =>
    match wOp w with
    | 1 => .ok (d, some (runLoop i w))
    | 2 => .ok (d, some (runBranch i w true))
    | 3 => .ok (d, some (runBranch i w (aReg i (wDst w) == 0)))
    | 4 => .ok (d, some (runBranch i w (aReg i (wDst w) != 0)))
    | _ => .ok (d, some (passed { i with cycles := i.cycles + 1 } i.pc))
  | _ =>
    match wOp w with
    | 1 => runMap d i o w true
    | 2 => (runUnmap d i w true).map did
    | 3 => runMap d i o w false
    | 4 => (runUnmap d i w false).map did
    | _ => .ok (did (runSig d i o w))

/-- Whether the count of an instance has reached its limit (R342). -/
def limitReached (i : Inst) : Bool := i.limit != 0 && i.limit ≤ i.cycles

/-- A HALT, which takes its issue cycle: a slot still mapped is a fault (R343, R349). -/
def runHalt (d : Dev) (n : Nat) (i : Inst) : Dev :=
  let i := { i with cycles := i.cycles + 1 }
  let d := modCore (putInst d n i) n fun c => { c with active := satAdd 64 c.active 1 }
  if i.windows.any fun w => w.isSome then instFault d n i 0x0B08 else instEnd d n i

/-- The device after an instruction of a core's instance: issue cycles are counted, and the first read of spoil is posted
(R336). -/
def instDone (d : Dev) (n : Nat) (o : Op) (was i : Inst) (w : Nat) : Dev :=
  let d := modCore (putInst d n i) n fun c => { c with active := satAdd 64 c.active (issueCycles w) }
  if i.spoilRead && !was.spoilRead then postSpoilRead d o else d

/-- The next instruction of the instance that runs on core `n`, where it is the one named: class and operation code. A word
that is illegal faults whatever was expected (R328). -/
def runInstr (d : Dev) (n cls op : Nat) : Dev :=
  let d := memoryCheck d n
  match running d n with
  | none => d
  | some i =>
    match opOf d i.op with
    | none => d
    | some o =>
      let i := flushLoops 5 i
      if limitReached i then d
      else
        match fetchWord i with
        | none => instFault d n i 0x0B04
        | some w =>
          if illegal i w then instFault d n i 0x0B04
          else if wClass w != cls || wOp w != op then d
          else if wClass w = 2 && wOp w = 5 then runHalt d n i
          else
            match runWord d i o w with
            | .error r => instFault d n i r
            | .ok (d, none) => d
            | .ok (d, some j) => instDone d n o i j w

/-- An instruction command: the next instruction of core `core`'s instance. -/
def runCore (s : State) (core cls op : Nat) : Host.Outcome State Fault Refusal :=
  runDev (core < 32) s fun d => runInstr d core cls op

/-- NOP of class 0: its two moves alone. -/
def execNop (core : Nat) (s : State) : Host.Outcome State Fault Refusal := runCore s core 0 0x00
/-- VMOV. -/
def execVmov (core : Nat) (s : State) : Host.Outcome State Fault Refusal := runCore s core 0 0x01
/-- CADD. -/
def execCadd (core : Nat) (s : State) : Host.Outcome State Fault Refusal := runCore s core 0 0x02
/-- CSUB. -/
def execCsub (core : Nat) (s : State) : Host.Outcome State Fault Refusal := runCore s core 0 0x03
/-- CONJ. -/
def execConj (core : Nat) (s : State) : Host.Outcome State Fault Refusal := runCore s core 0 0x04
/-- PERM. -/
def execPerm (core : Nat) (s : State) : Host.Outcome State Fault Refusal := runCore s core 0 0x05
/-- BFLY. -/
def execBfly (core : Nat) (s : State) : Host.Outcome State Fault Refusal := runCore s core 0 0x06
/-- WIDEN. -/
def execWiden (core : Nat) (s : State) : Host.Outcome State Fault Refusal := runCore s core 0 0x07
/-- CMUL. -/
def execCmul (core : Nat) (s : State) : Host.Outcome State Fault Refusal := runCore s core 0 0x08
/-- CMULC. -/
def execCmulc (core : Nat) (s : State) : Host.Outcome State Fault Refusal := runCore s core 0 0x09
/-- CMAC. -/
def execCmac (core : Nat) (s : State) : Host.Outcome State Fault Refusal := runCore s core 0 0x0A
/-- CMACC. -/
def execCmacc (core : Nat) (s : State) : Host.Outcome State Fault Refusal := runCore s core 0 0x0B
/-- MAG2. -/
def execMag2 (core : Nat) (s : State) : Host.Outcome State Fault Refusal := runCore s core 0 0x0C
/-- HADD. -/
def execHadd (core : Nat) (s : State) : Host.Outcome State Fault Refusal := runCore s core 0 0x0D
/-- RNDS. -/
def execRnds (core : Nat) (s : State) : Host.Outcome State Fault Refusal := runCore s core 0 0x0E
/-- CLS. -/
def execCls (core : Nat) (s : State) : Host.Outcome State Fault Refusal := runCore s core 0 0x10
/-- BEXP. -/
def execBexp (core : Nat) (s : State) : Host.Outcome State Fault Refusal := runCore s core 0 0x11
/-- BSHL. -/
def execBshl (core : Nat) (s : State) : Host.Outcome State Fault Refusal := runCore s core 0 0x12
/-- BSHR. -/
def execBshr (core : Nat) (s : State) : Host.Outcome State Fault Refusal := runCore s core 0 0x13
/-- CFADD. -/
def execCfadd (core : Nat) (s : State) : Host.Outcome State Fault Refusal := runCore s core 0 0x18
/-- CFMUL. -/
def execCfmul (core : Nat) (s : State) : Host.Outcome State Fault Refusal := runCore s core 0 0x19
/-- CFMAC. -/
def execCfmac (core : Nat) (s : State) : Host.Outcome State Fault Refusal := runCore s core 0 0x1A
/-- CFMACC. -/
def execCfmacc (core : Nat) (s : State) : Host.Outcome State Fault Refusal := runCore s core 0 0x1B
/-- RNDF. -/
def execRndf (core : Nat) (s : State) : Host.Outcome State Fault Refusal := runCore s core 0 0x1C
/-- CVTF. -/
def execCvtf (core : Nat) (s : State) : Host.Outcome State Fault Refusal := runCore s core 0 0x1D
/-- LDI. -/
def execLdi (core : Nat) (s : State) : Host.Outcome State Fault Refusal := runCore s core 1 0x01
/-- ADDI. -/
def execAddi (core : Nat) (s : State) : Host.Outcome State Fault Refusal := runCore s core 1 0x02
/-- ADD. -/
def execAdd (core : Nat) (s : State) : Host.Outcome State Fault Refusal := runCore s core 1 0x03
/-- SUB. -/
def execSub (core : Nat) (s : State) : Host.Outcome State Fault Refusal := runCore s core 1 0x04
/-- AND. -/
def execAnd (core : Nat) (s : State) : Host.Outcome State Fault Refusal := runCore s core 1 0x05
/-- SHLI. -/
def execShli (core : Nat) (s : State) : Host.Outcome State Fault Refusal := runCore s core 1 0x06
/-- NOP of the control class. -/
def execControlNop (core : Nat) (s : State) : Host.Outcome State Fault Refusal := runCore s core 2 0x00
/-- LOOP. -/
def execLoop (core : Nat) (s : State) : Host.Outcome State Fault Refusal := runCore s core 2 0x01
/-- BR. -/
def execBr (core : Nat) (s : State) : Host.Outcome State Fault Refusal := runCore s core 2 0x02
/-- BZ. -/
def execBz (core : Nat) (s : State) : Host.Outcome State Fault Refusal := runCore s core 2 0x03
/-- BNZ. -/
def execBnz (core : Nat) (s : State) : Host.Outcome State Fault Refusal := runCore s core 2 0x04
/-- HALT. -/
def execHalt (core : Nat) (s : State) : Host.Outcome State Fault Refusal := runCore s core 2 0x05
/-- RCLAIM. -/
def execRclaim (core : Nat) (s : State) : Host.Outcome State Fault Refusal := runCore s core 3 0x01
/-- RPOST. -/
def execRpost (core : Nat) (s : State) : Host.Outcome State Fault Refusal := runCore s core 3 0x02
/-- RTAKE. -/
def execRtake (core : Nat) (s : State) : Host.Outcome State Fault Refusal := runCore s core 3 0x03
/-- RGIVE. -/
def execRgive (core : Nat) (s : State) : Host.Outcome State Fault Refusal := runCore s core 3 0x04
/-- SIG. -/
def execSig (core : Nat) (s : State) : Host.Outcome State Fault Refusal := runCore s core 3 0x05

/-- LOOP_EXIT: the runs of the innermost loop have expired. -/
def execLoopExit (core : Nat) (s : State) : Host.Outcome State Fault Refusal :=
  runDev (core < 32) s fun d =>
    match running d core with
    | some i => if loopOver i then putInst d core (loopExit i) else d
    | none => d

/-- CYCLE_LIMIT_REACHED: the instance faults before its next instruction (R342). -/
def execCycleLimitReached (core : Nat) (s : State) : Host.Outcome State Fault Refusal :=
  runDev (core < 32) s fun d =>
    match running d core with
    | some i => if limitReached i then instFault d core i 0x0B07 else d
    | none => d

end Sys2Proof.Machine
end

