-- ==== Sys2Proof/Machine/Power.lean ====
section
/-!
DEFINITION. Machine/Power.lean: power-up and draining (R96, R348, R462), the voltage loop and its envelope (R464, R465, R487),
holds of best-effort work (R466), the thermal trip (R467) and supply undervoltage (R468).
-/
namespace Sys2Proof.Machine
open Sys2Proof

/-- Whether the device serves: start-up is complete and it has not tripped. -/
def up (d : Dev) : Bool := d.boot.phase == .up

/-! ### Power-up (R462) -/

/-- A unit asked to power up; one at a time, in order of acceptance. -/
def askPower (d : Dev) (u : PowerUnit) : Dev :=
  if d.pwr.powering.contains u then d else { d with pwr := { d.pwr with powering := d.pwr.powering ++ [u] } }

/-- A bench back in service: its logical benches return to it once their contexts allow (R96). -/
def benchUp (d : Dev) (b : Nat) : Dev :=
  if (benchReg d b).st ≠ 0 then d
  else
    let d := benchTo d b 1
    let ls := (logicals d).filter fun l => homeOf d l == b && hostOf d l != b && !d.comp.returning.any fun x => x.1 == l
    checkReturn { d with comp := { d.comp with returning := d.comp.returning ++ ls.map fun l => (l, []) } }

/-- Domain `k` of `PWR_DOMAIN_STATE`, from zero, moved to a state. -/
def domainTo (d : Dev) (k st : Nat) : Dev :=
  { d with pwr := { d.pwr with domains := lmod d.pwr.domains k fun g => genTo g st } }

/-- The memories of a domain that was gated: they hold zeros (R462). -/
def zeroDomain (d : Dev) (k : Nat) : Dev :=
  match k with
  | 10 => { d with fe := { d.fe with rx := d.fe.rx.map fun e => (e.1, { e.2 with half := [[], [], []], chan := [] }) } }
  | 11 =>
    let tx (e : Nat × FeTx) : Nat × FeTx := (e.1, { e.2 with half := [[], [], []], shape := [] })
    { d with fe := { d.fe with tx := d.fe.tx.map tx, dpd := d.fe.dpd.map fun e => (e.1, { e.2 with hist := [] }) } }
  | 12 => { d with fe := { d.fe with det := d.fe.det.map fun e => (e.1, { e.2 with win := [], filled := false }),
                                     corr := d.fe.corr.map fun e => (e.1, { e.2 with hist := [] }) } }
  | _ => d

/-- The next powering unit finishes: its memories are zero and its register reads READY. -/
def powerUp (d : Dev) : Dev :=
  match d.pwr.powering with
  | [] => d
  | u :: rest =>
    let d := { d with pwr := { d.pwr with powering := rest } }
    match u with
    | .bench b => benchUp d b
    | .pair p => if (pairReg d p).st = 0 then pairTo (clearPair d p) p 1 else d
    | .domain k => if (lget ⟨0, 1⟩ d.pwr.domains k).st = 0 then domainTo (zeroDomain d k) k 1 else d

/-- POWER_UP_COMPLETE. -/
def execPowerUpComplete (s : State) : Host.Outcome State Fault Refusal :=
  runDev true s fun d => if up d then powerUp d else d

/-- A DRAINING bench whose operations have ended: its dirty blocks are written back, its pins copied, it is GATED, and graphs
are re-admitted (R96). -/
def benchDrained (d : Dev) (b : Nat) : Dev :=
  if (benchReg d b).st ≠ 2 || d.disp.ops.any fun o => opOnBench o.2 b && o.2.phase != .done then d
  else
    let d := benchTo (evacuate d b (logicals d)) b 0
    readmit (pinLimits (moveScratch d b ((newHost d b).getD b))) d.sc.pairs

/-- BENCH_DRAIN_COMPLETE. -/
def execBenchDrainComplete (bench : Nat) (s : State) : Host.Outcome State Fault Refusal :=
  runDev (bench < 16) s fun d => benchDrained d bench

/-! ### The voltage loop (R464, R465, R487) -/

/-- `V_FLOOR`. -/
def vFloor (d : Dev) : Nat := leAt d.pwr.envelope 4 2
/-- `V_CEIL`. -/
def vCeil (d : Dev) : Nat := leAt d.pwr.envelope 6 2
/-- `V_PIN`. -/
def vPin (d : Dev) : Nat := leAt d.pwr.envelope 8 2
/-- `P_CEIL`. -/
def pCeil (d : Dev) : Nat := leAt d.pwr.envelope 12 2
/-- `PIN`. -/
def avsPin (d : Dev) : Bool := bitAt (leAt d.pwr.envelope 0 1) 0
/-- `FREEZE`. -/
def avsFreeze (d : Dev) : Bool := bitAt (leAt d.pwr.envelope 0 1) 1

/-- A bound of `AVS_ENVELOPE` that clamps, or has stopped: one POLICY_CLAMP to every ACTIVE context when it begins (R212, R465).
Bounds are told apart by 256 times their number in the record of clamps; 64 stands for the device. -/
def avsClamp (d : Dev) (on : Bool) (bound : Nat) : Dev :=
  let key := (64, 0x6010, 256 * bound)
  if !on then { d with mem := { d.mem with clamping := d.mem.clamping.filter fun x => x != key } }
  else if d.mem.clamping.contains key then d
  else { postActive d 0x0008 (leBytes 2 0x6010 ++ leBytes 1 0) with
    mem := { (postActive d 0x0008 (leBytes 2 0x6010 ++ leBytes 1 0)).mem with clamping := key :: d.mem.clamping } }

/-- The target the loop would choose: at most 10 mV from the present one, in steps of 5 mV. -/
def avsWant (d : Dev) (choice : Nat) : Nat :=
  if d.pwr.target ≤ choice then d.pwr.target + min 10 ((choice - d.pwr.target) / 5 * 5)
  else d.pwr.target - min 10 ((d.pwr.target - choice) / 5 * 5)

/-- The target inside the envelope: pinned, frozen, or between floor and ceiling. -/
def avsTarget (d : Dev) (want : Nat) : Nat :=
  if avsPin d then vPin d else if avsFreeze d then d.pwr.target else max (vFloor d) (min (vCeil d) want)

/-- The bounds that clamp the loop's choice. -/
def avsBounds (d : Dev) (want : Nat) : Dev :=
  let d := avsClamp d (avsPin d && want != vPin d) 3
  let d := avsClamp d (!avsPin d && avsFreeze d && want != d.pwr.target) 4
  let free := !avsPin d && !avsFreeze d
  avsClamp (avsClamp d (free && want < vFloor d) 1) (free && vCeil d < want) 2

/-- A voltage transaction that was acknowledged or not: after three without one the loop holds its last acknowledged target. -/
def avsBus (d : Dev) (ack : Bool) : Dev :=
  if ack then { d with pwr := { d.pwr with acked := d.pwr.target, noAck := 0 } }
  else
    let n := d.pwr.noAck + 1
    { d with pwr := { d.pwr with noAck := n, target := if 3 ≤ n then d.pwr.acked else d.pwr.target } }

/-- One pass of the loop. -/
def avsUpdate (d : Dev) (choice sensed : Nat) (ack : Bool) : Dev :=
  let d := { d with pwr := { d.pwr with sensed := sensed } }
  if d.pwr.uv then avsBus { d with pwr := { d.pwr with target := vCeil d } } ack
  else
    let want := avsWant d choice
    let t := avsTarget d want
    let d := avsBounds d want
    avsBus { d with pwr := { d.pwr with target := t } } ack

/-- AVS_LOOP_UPDATE. -/
def execAvsLoopUpdate (choice sensed : Nat) (ack : Bool) (s : State) : Host.Outcome State Fault Refusal :=
  runDev true s fun d => if up d then avsUpdate d choice sensed ack else d

/-! ### Holds of best-effort work (R466) -/

/-- A power estimate: above `P_CEIL` best-effort work is held back, until it is at or below `P_CEIL` − 5 W. -/
def powerEstimate (d : Dev) (watts milliamps : Nat) (ack : Bool) : Dev :=
  let n := if ack then 0 else d.pwr.noAck + 1
  let t := if 3 ≤ n then d.pwr.acked else d.pwr.target
  let d := { d with pwr := { d.pwr with current := if ack then milliamps else d.pwr.current, noAck := n, target := t } }
  if pCeil d < watts then avsClamp { d with pwr := { d.pwr with powerHold := true } } true 5
  else if watts + 5 ≤ pCeil d then avsClamp { d with pwr := { d.pwr with powerHold := false } } false 5
  else d

/-- POWER_ESTIMATE. -/
def execPowerEstimate (watts milliamps : Nat) (ack : Bool) (s : State) : Host.Outcome State Fault Refusal :=
  runDev true s fun d => if up d then powerEstimate d watts milliamps ack else d

/-- `THERMAL_THROTTLE` posted: 1 start, 2 end. -/
def postThrottle (d : Dev) (temp : Int) (k : Nat) : Dev := postActive d 0x0040 (leBytes 2 (wrapBits 16 temp) ++ leBytes 1 k)

/-- A temperature of the hottest junction, in 0.01 °C: the hold begins at 105.00 and ends at 100.00. -/
def thermal (d : Dev) (temp : Int) : Dev :=
  let d := { d with pwr := { d.pwr with temp := temp } }
  if 10500 ≤ temp && !d.pwr.heatHold then
    postThrottle { d with pwr := { d.pwr with heatHold := true, throttles := satAdd 32 d.pwr.throttles 1 } } temp 1
  else if temp ≤ 10000 && d.pwr.heatHold then postThrottle { d with pwr := { d.pwr with heatHold := false } } temp 2
  else d

/-- THERMAL_THROTTLE. -/
def execThermalThrottle (temp : Int) (s : State) : Host.Outcome State Fault Refusal :=
  runDev true s fun d => if up d then thermal d temp else d

/-! ### Self-tests cut short (R476) -/

/-- The result image of a test (R480): its status and what has accumulated. -/
def testResult (t : TestSt) (status ticks : Nat) : Bytes :=
  let cov := lget 0 [10000, 10000, 10000, 10000, 10000, 9720, 10000, 10000, 10000, 10000, 9650, 9580, 9400, 9860, 10000, 9310] (t.test - 1)
  leBytes 1 status ++ leBytes 1 t.test ++ leBytes 2 t.mask ++ leBytes 2 t.failed ++ leBytes 2 t.transient ++ leBytes 2 cov
    ++ leBytes 2 (if t.test = 0x0E then 9200 else 0) ++ leBytes 4 ((ticks - t.start) / 800) ++ leBytes 8 t.start
    ++ leBytes 4 t.detail ++ zeros 4

/-- A test over with a status. -/
def testEnd (d : Dev) (t : TestSt) (status : Nat) : Dev :=
  { d with test := { running := none, results := lset d.test.results (t.test - 1) (testResult t status d.time.ticks) } }

/-- The running test aborted, if it satisfies `p` (R476). -/
def testAbort (d : Dev) (p : TestSt → Bool) : Dev :=
  match d.test.running with
  | some t => if p t then testEnd d t 5 else d
  | none => d

/-! ### Overrides (R467, R468) -/

/-- A state register gated by hardware; one that is worked out or disabled stays. -/
def gateReg (g : GenSt) : GenSt := if g.st = 1 || g.st = 2 then genTo g 0 else g

/-- A thermal trip: every domain but the management ones is gated, the work and state of every context are lost, and only a full
reset ends it; a channel or lane worked out stays so, since a trip is no full reset (R8, R467). -/
def trip (d : Dev) : Dev :=
  let d := testAbort d fun _ => true
  let keep (e : GenSt × Nat) : GenSt := if e.2 = 7 || e.2 = 15 then e.1 else gateReg e.1
  { Dev.reset with
    free := d.free, dict := d.dict, test := d.test, net := { NetSt.reset with ports := d.net.ports, sent := d.net.sent },
    time := d.time,
    mem := { d.mem with cells := [], spoil := [], tensors := [], pages := [], clamping := [] },
    haul := { HaulSt.reset with lanes := d.haul.lanes, roadLanes := d.haul.roadLanes, roadLatency := d.haul.roadLatency },
    fe := { FeSt.reset with lanes := d.fe.lanes },
    boot := { d.boot with phase := .tripped, tripped := true, thermTrip := true },
    comp := { CompSt.reset with bench := d.comp.bench.map gateReg, map := d.comp.map },
    sc := { ScSt.reset with pairs := d.sc.pairs.map gateReg },
    pwr := { d.pwr with domains := d.pwr.domains.zipIdx.map keep, powering := [], powerHold := false, heatHold := false,
                         temp := max 11500 d.pwr.temp } }

/-- THERMAL_TRIP. -/
def execThermalTrip (s : State) : Host.Outcome State Fault Refusal :=
  onDev true s fun d => if up d then trip d else d

/-- Supply undervoltage (R468): every READY bench is gated and its work aborts, the target is `V_CEIL`, graphs are
re-admitted. What the benches hold is written back as R96 has it. -/
def undervolt (d : Dev) (mv : Nat) : Dev :=
  if d.pwr.uv then d
  else
    let bs := (List.range 16).filter fun b => (benchReg d b).st == 1
    let d := testAbort d fun t => t.test == 7 || t.test == 0x0B
    let d := bs.foldl (fun d b => abortOnBench d b fun _ => 0x1001) d
    let d := bs.foldl (fun d b => benchTo d b 0) d
    let d := bs.foldl remapFrom d
    let d := bs.foldl (fun d b => moveScratch (evacuate d b (logicals d)) b ((newHost d b).getD b)) d
    let d := pinLimits d
    let mask := bs.foldl (fun m b => m ||| 2 ^ b) 0
    let d := { d with pwr := { d.pwr with uv := true, uvBenches := mask, target := vCeil d } }
    readmit (postActive d 0x0041 (leBytes 2 mv ++ leBytes 1 1 ++ leBytes 1 bs.length)) d.sc.pairs

/-- SUPPLY_UNDERVOLTAGE. -/
def execSupplyUndervoltage (mv : Nat) (s : State) : Host.Outcome State Fault Refusal :=
  runDev true s fun d => if up d && mv < 680 then undervolt { d with pwr := { d.pwr with sensed := mv } } mv else d

/-- The rail has stayed at or above `V_FLOOR`: each bench so gated powers up again (R468, R462). -/
def recoverSupply (d : Dev) (mv : Nat) : Dev :=
  if !d.pwr.uv || mv < vFloor d then d
  else
    let bs := (List.range 16).filter fun b => bitAt d.pwr.uvBenches b
    let d := bs.foldl (fun d b => if (benchReg d b).st = 0 then askPower d (.bench b) else d) d
    let d := { d with pwr := { d.pwr with uv := false, uvBenches := 0, sensed := mv } }
    postActive d 0x0041 (leBytes 2 mv ++ leBytes 1 2 ++ leBytes 1 bs.length)

/-- SUPPLY_RECOVERY. -/
def execSupplyRecovery (mv : Nat) (s : State) : Host.Outcome State Fault Refusal :=
  runDev true s fun d => if up d then recoverSupply d mv else d

end Sys2Proof.Machine
end

