-- ==== Sys2Proof/Machine/Entries.lean ====
section
/-!
DEFINITION. Machine/Entries.lean: the dictionary's entries (R429, R430, R445), each with its type, its access and what a read
of it returns. Scalars are read most significant byte first, DOMAIN values byte for byte (R431).
-/
namespace Sys2Proof.Machine
open Sys2Proof

/-- Entry types (R430). -/
inductive EntryType where
  | bool | u8 | u16 | u32 | u64 | i16 | i32 | f32 | str | domain
deriving DecidableEq, Repr

/-- Access codes (R7). -/
inductive Access where
  | ro | rw | wo | rwl
deriving DecidableEq, Repr

/-- The length of a scalar type; none for STR and DOMAIN. -/
def typeLen : EntryType → Option Nat
  | .bool => some 1 | .u8 => some 1 | .u16 => some 2 | .u32 => some 4 | .u64 => some 8
  | .i16 => some 2 | .i32 => some 4 | .f32 => some 4 | .str => none | .domain => none

/-- Entries of one index whose subindices `lo` to `hi` share a type, an access and a reading; the reading gets the subindex
less `lo`. -/
structure Entry where
  idx : Nat
  lo : Nat
  hi : Nat
  ty : EntryType
  acc : Access
  read : State → Nat → Bytes

/-- A one-byte, two-byte, four-byte and eight-byte scalar as it travels. -/
def v8 (x : Nat) : Bytes := beBytes 1 x
/-- A two-byte scalar. -/
def v16 (x : Nat) : Bytes := beBytes 2 x
/-- A four-byte scalar. -/
def v32 (x : Nat) : Bytes := beBytes 4 x
/-- An eight-byte scalar. -/
def v64 (x : Nat) : Bytes := beBytes 8 x
/-- A signed four-byte scalar. -/
def vi32 (x : Int) : Bytes := beBytes 4 (wrapBits 32 x)
/-- A BOOL. -/
def vBool (b : Bool) : Bytes := v8 (if b then 1 else 0)
/-- A state register: `GEN` in [31:16], `STATE` in [3:0] (R95). -/
def vState (g : GenSt) : Bytes := v32 (g.gen * 65536 + g.st)

/-! ### Values formed when they are read -/

/-- `TB_SLEW_REMAINING` (R403). -/
def slewLeft (t : TimeSt) : Nat := match t.slew with | some (_, n, i) => n - i | none => 0

/-- `TU_TRIGGER_STATE` (R403). -/
def trigWord (x : Trigger) : Nat := if x.armed then 2 ^ 31 + x.ctx * 65536 else 0

/-- `SYNC_INFO` of the object selected (R261). -/
def syncInfo (x : Sync) : Nat :=
  let held := match x.holder with | some c => 32768 + c | none => 0
  if x.declared then 2 ^ 31 + x.cls * 2 ^ 24 + x.owner * 65536 + held else held

/-- Bytes of program images held (R338). -/
def storeUsed (d : Dev) : Nat := (d.sc.store.map fun e => e.2.length).sum

/-- `WT_ENDPOINT_STATE` (R428). -/
def epWord (x : Endpoint) : Nat := x.port * 256 + x.st

/-- A self-test result: of a running test, what has accumulated (R480). -/
def resultOf (d : Dev) (n : Nat) : Bytes :=
  match d.test.running with
  | some t => if t.test = n + 1 then testResult t 1 d.time.ticks else lget (zeros 32) d.test.results n
  | none => lget (zeros 32) d.test.results n

/-! ### The entry map -/

/-- Device organisation and dictionary. -/
def entriesDevice : List Entry :=
  [⟨0x1000, 0, 0, .u32, .ro, fun _ _ => v32 Config.deviceType⟩,
   ⟨0x1001, 0, 0, .str, .ro, fun s _ => s.dev.boot.part⟩,
   ⟨0x1002, 0, 0, .u8, .ro, fun s _ => v8 s.dev.boot.lbenches⟩,
   ⟨0x1003, 0, 0, .u16, .ro, fun s _ => v16 (benchMask s.dev)⟩,
   ⟨0x1004, 0, 0, .u16, .ro, fun _ _ => v16 Config.siliconStep⟩,
   ⟨0x1005, 0, 0, .domain, .ro, fun _ _ => Config.clockRates.flatMap (leBytes 4)⟩,
   ⟨0x1010, 1, 1, .u8, .ro, fun _ _ => v8 1⟩,
   ⟨0x1010, 2, 2, .u32, .rw, fun s _ => v32 s.dev.dict.timeout⟩,
   ⟨0x1010, 3, 3, .u8, .ro, fun s _ => v8 s.dev.dict.sessions.length⟩,
   ⟨0x9000, 0, 0, .u64, .ro, fun s _ => v64 s.dev.dict.requests⟩,
   ⟨0x9001, 0, 0, .u32, .ro, fun s _ => v32 s.dev.dict.aborts⟩,
   ⟨0x9002, 0, 0, .domain, .ro, fun s _ => s.dev.dict.lastAbort⟩,
   ⟨0x9003, 0, 0, .u32, .ro, fun s _ => v32 s.dev.dict.crcErrors⟩,
   ⟨0x9004, 0, 0, .u32, .ro, fun s _ => v32 s.dev.dict.stale⟩]

/-- Network ports and work transport. -/
def entriesNet : List Entry :=
  [⟨0x1100, 1, 5, .u32, .rw, fun s n => vState (portOf s.dev n).reg⟩,
   ⟨0x1101, 1, 5, .domain, .rwl, fun s n => (portOf s.dev n).cfg⟩,
   ⟨0x1102, 1, 5, .u64, .ro, fun s n => v64 (portOf s.dev n).mac⟩,
   ⟨0x1103, 1, 5, .u32, .ro, fun s n => v32 (portOf s.dev n).discards⟩,
   ⟨0x1104, 1, 5, .u32, .ro, fun s n => v32 (portOf s.dev n).fcs⟩,
   ⟨0x1105, 1, 5, .u32, .ro, fun s n => v32 (portOf s.dev n).wtTransients⟩,
   ⟨0x1110, 1, 64, .domain, .rw, fun s n => (epOf s.dev n).rcd⟩,
   ⟨0x1111, 1, 64, .u32, .ro, fun s n => v32 (epWord (epOf s.dev n))⟩,
   ⟨0x1112, 0, 0, .u32, .rw, fun s _ => v32 s.dev.net.resendUs⟩,
   ⟨0x1113, 0, 0, .u8, .rw, fun s _ => v8 s.dev.net.resendLimit⟩,
   ⟨0x1114, 0, 0, .u32, .ro, fun s _ => v32 s.dev.net.resends⟩,
   ⟨0x1115, 0, 0, .u32, .ro, fun s _ => v32 s.dev.net.arriveDropped⟩,
   ⟨0x1120, 1, 4, .domain, .rw, fun s n => (portOf s.dev n).gcl⟩,
   ⟨0x1121, 1, 4, .domain, .rw, fun s n => (portOf s.dev n).cbs⟩,
   ⟨0x1122, 1, 4, .domain, .rwl, fun s n => (portOf s.dev n).preempt⟩,
   ⟨0x1123, 0, 0, .domain, .rw, fun s _ => s.dev.net.cb⟩,
   ⟨0x1124, 0, 0, .domain, .rw, fun s _ => s.dev.net.psfp⟩]

/-- Numeric modes and lock-step. -/
def entriesMode : List Entry :=
  [⟨0x2100, 1, 64, .u32, .rwl, fun s n => v32 (ctxOf s.dev n).numeric⟩,
   ⟨0x2101, 1, 64, .u32, .rw, fun s n => v32 (ctxOf s.dev n).flags.toNat⟩,
   ⟨0x2400, 1, 1, .bool, .rwl, fun s _ => vBool s.dev.ls.enable⟩,
   ⟨0x2400, 2, 2, .u8, .rwl, fun s _ => v8 s.dev.ls.peer⟩,
   ⟨0x2400, 3, 3, .u8, .rwl, fun s _ => v8 s.dev.ls.ctx⟩,
   ⟨0x2400, 4, 4, .u8, .rwl, fun s _ => v8 s.dev.ls.peerCtx⟩,
   ⟨0x2400, 5, 5, .u32, .rw, fun s _ => v32 s.dev.ls.timeout⟩,
   ⟨0x2400, 6, 6, .u8, .ro, fun s _ => v8 s.dev.ls.state⟩,
   ⟨0x2400, 7, 7, .domain, .ro, fun s _ => s.dev.ls.first⟩]

/-- Time unit. -/
def entriesTime : List Entry :=
  [⟨0x3000, 0, 0, .u32, .rw, fun s _ => vState s.dev.time.base⟩,
   ⟨0x3001, 0, 0, .u64, .rw, fun s _ => v64 s.dev.time.inc⟩,
   ⟨0x3002, 0, 0, .domain, .rw, fun s _ => s.dev.time.slewRcd⟩,
   ⟨0x3003, 0, 0, .u32, .ro, fun s _ => v32 (slewLeft s.dev.time)⟩,
   ⟨0x3004, 0, 0, .i32, .wo, fun _ _ => v32 0⟩,
   ⟨0x3005, 0, 0, .domain, .wo, fun _ _ => zeros 12⟩,
   ⟨0x3006, 0, 0, .domain, .ro, fun s _ => timeRecord s.dev⟩,
   ⟨0x3010, 1, 1, .u8, .rw, fun s _ => v8 s.dev.time.ptp.profile⟩,
   ⟨0x3010, 2, 2, .u8, .rwl, fun s _ => v8 s.dev.time.ptp.port⟩,
   ⟨0x3010, 3, 3, .u8, .rwl, fun s _ => v8 s.dev.time.ptp.transport⟩,
   ⟨0x3010, 4, 4, .u8, .rwl, fun s _ => v8 s.dev.time.ptp.domain⟩,
   ⟨0x3010, 5, 5, .u8, .rwl, fun s _ => v8 s.dev.time.ptp.role⟩,
   ⟨0x3010, 6, 6, .bool, .rwl, fun s _ => vBool s.dev.time.ptp.oneStep⟩,
   ⟨0x3010, 7, 7, .u16, .rwl, fun s _ => v16 s.dev.time.ptp.priority⟩,
   ⟨0x3010, 8, 8, .i32, .rwl, fun s _ => vi32 s.dev.time.ptp.logSync⟩,
   ⟨0x3010, 9, 9, .i32, .ro, fun s _ => vi32 s.dev.time.ptp.offset⟩,
   ⟨0x3010, 10, 10, .u32, .ro, fun s _ => v32 s.dev.time.ptp.meanDelay⟩,
   ⟨0x3010, 11, 11, .u32, .ro, fun s _ => v32 s.dev.time.ptp.updates⟩,
   ⟨0x3020, 1, 5, .u32, .rw, fun s n => v32 (lget 0 s.dev.time.txLat n)⟩,
   ⟨0x3021, 1, 5, .u32, .rw, fun s n => v32 (lget 0 s.dev.time.rxLat n)⟩,
   ⟨0x3022, 1, 5, .i32, .rw, fun s n => vi32 (lget 0 s.dev.time.asym n)⟩]

/-- Time unit: triggers and edges. -/
def entriesTrigger : List Entry :=
  [⟨0x3030, 1, 64, .u32, .ro, fun s n => v32 (trigWord (trigOf s.dev n))⟩,
   ⟨0x3031, 1, 64, .u32, .ro, fun s n => v32 (trigOf s.dev n).firings⟩,
   ⟨0x3032, 0, 0, .u32, .ro, fun s _ => v32 s.dev.time.lateIncs⟩,
   ⟨0x3033, 0, 0, .u8, .ro, fun _ _ => v8 outLatency⟩,
   ⟨0x3040, 0, 0, .domain, .rw, fun s _ => s.dev.time.pps⟩,
   ⟨0x3041, 1, 2, .domain, .ro, fun s n => (lget ⟨zeros 24, 0, none⟩ s.dev.time.caps n).rcd⟩,
   ⟨0x3042, 1, 2, .u32, .ro, fun s n => v32 (lget ⟨zeros 24, 0, none⟩ s.dev.time.caps n).edges⟩,
   ⟨0x3043, 0, 0, .u64, .ro, fun s _ => v64 s.dev.time.sysrefLast⟩]

/-- Converter ports. -/
def entriesJesd : List Entry :=
  [⟨0x4000, 1, 1, .u8, .rwl, fun s _ => v8 s.dev.fe.laneRate⟩,
   ⟨0x4000, 2, 2, .u16, .rwl, fun s _ => v16 s.dev.fe.sysrefOffset⟩,
   ⟨0x4000, 3, 3, .u32, .ro, fun s _ => v32 s.dev.fe.drifts⟩,
   ⟨0x4010, 1, 4, .domain, .rwl, fun s n => (linkOf s.dev n).rcd⟩,
   ⟨0x4011, 1, 4, .domain, .rwl, fun s n => (linkOf s.dev (4 + n)).rcd⟩,
   ⟨0x4012, 1, 8, .u32, .rw, fun s n => vState (linkOf s.dev n).reg⟩,
   ⟨0x4013, 1, 32, .u32, .ro, fun s n => vState (laneOf s.dev n).reg⟩,
   ⟨0x4014, 1, 32, .u32, .ro, fun s n => v32 (laneOf s.dev n).transients⟩,
   ⟨0x4015, 1, 4, .u16, .ro, fun s n => v16 (jesdLatency s.dev n)⟩,
   ⟨0x4016, 1, 4, .u16, .ro, fun s n => v16 (jesdLatency s.dev (4 + n))⟩,
   ⟨0x4016, 5, 5, .u16, .ro, fun s _ => v16 (txLead s.dev)⟩]

/-- Streams, pre-distortion and detection. -/
def entriesFront : List Entry :=
  [⟨0x4100, 1, 64, .domain, .rwl, fun s n => (feRxOf s.dev n).cfg⟩,
   ⟨0x4101, 1, 64, .domain, .rwl, fun s n => (feTxOf s.dev n).cfg⟩,
   ⟨0x4102, 1, 64, .u32, .rw, fun s n => vState (feRxOf s.dev n).reg⟩,
   ⟨0x4103, 1, 64, .u32, .rw, fun s n => vState (feTxOf s.dev n).reg⟩,
   ⟨0x4104, 1, 64, .u32, .ro, fun s n => v32 (feRxOf s.dev n).sats⟩,
   ⟨0x4105, 1, 64, .u32, .ro, fun s n => v32 (feTxOf s.dev n).sats⟩,
   ⟨0x4110, 1, 64, .domain, .rw, fun s n => (feTxOf s.dev n).maskNew.getD (feTxOf s.dev n).mask⟩,
   ⟨0x4111, 1, 64, .u32, .ro, fun s n => v32 (feTxOf s.dev n).violations⟩,
   ⟨0x4112, 1, 64, .u8, .wo, fun _ _ => v8 0⟩,
   ⟨0x4120, 0, 0, .domain, .ro, fun _ _ => halfbandImage⟩,
   ⟨0x4200, 1, 16, .domain, .rwl, fun s n => (dpdOf s.dev n).cfg⟩,
   ⟨0x4201, 1, 16, .domain, .rw, fun s n => (dpdOf s.dev n).shadow⟩,
   ⟨0x4202, 1, 16, .domain, .ro, fun s n => (dpdOf s.dev n).active⟩,
   ⟨0x4203, 1, 16, .u8, .wo, fun _ _ => v8 0⟩,
   ⟨0x4204, 1, 16, .domain, .rw, fun s n => (dpdOf s.dev n).env⟩,
   ⟨0x4205, 1, 16, .u32, .ro, fun s n => v32 (dpdOf s.dev n).sats⟩,
   ⟨0x4300, 1, 64, .domain, .rwl, fun s n => (detOf s.dev n).cfg⟩,
   ⟨0x4301, 1, 64, .domain, .rw, fun s n => (detOf s.dev n).env⟩,
   ⟨0x4302, 1, 64, .u32, .ro, fun s n => v32 (detOf s.dev n).noise⟩,
   ⟨0x4303, 1, 64, .i16, .ro, fun s n => v16 (wrapBits 16 (noiseDbfs (detOf s.dev n).noise))⟩,
   ⟨0x4304, 1, 64, .u32, .ro, fun s n => v32 (detOf s.dev n).thresh⟩,
   ⟨0x4305, 1, 64, .u32, .ro, fun s n => v32 (detOf s.dev n).falseStarts⟩,
   ⟨0x4306, 1, 64, .u32, .ro, fun s n => v32 (detOf s.dev n).dropped⟩,
   ⟨0x4310, 1, 16, .domain, .rwl, fun s n => (corrOf s.dev n).cfg⟩,
   ⟨0x4311, 1, 16, .domain, .rwl, fun s n => (corrOf s.dev n).ref⟩]

/-- Signal cores, chirp modem and trellis unit. -/
def entriesCore : List Entry :=
  [⟨0x4400, 1, 16, .u32, .rw, fun s n => vState (pairReg s.dev n)⟩,
   ⟨0x4401, 0, 0, .domain, .rwl, fun s _ => s.dev.sc.region⟩,
   ⟨0x4402, 1, 32, .u64, .ro, fun s n => v64 (coreOf s.dev n).active⟩,
   ⟨0x4403, 1, 32, .u32, .ro, fun s n => v32 (coreOf s.dev n).transients⟩,
   ⟨0x4410, 1, 64, .domain, .rwl, fun s n => tget [] s.dev.sc.store n⟩,
   ⟨0x4411, 0, 0, .u32, .ro, fun s _ => v32 (4194304 - storeUsed s.dev)⟩,
   ⟨0x4500, 1, 64, .domain, .rwl, fun s n => (lsnOf s.dev n).cfg⟩,
   ⟨0x4501, 1, 64, .u32, .rw, fun s n => vState (lsnOf s.dev n).reg⟩,
   ⟨0x4502, 0, 0, .u16, .ro, fun s _ => v16 s.dev.lr.dems.length⟩,
   ⟨0x4503, 0, 0, .u32, .ro, fun s _ => v32 s.dev.lr.refused⟩,
   ⟨0x4504, 1, 64, .u32, .ro, fun s n => v32 (lsnOf s.dev n).framesOk⟩,
   ⟨0x4505, 1, 64, .u32, .ro, fun s n => v32 (lsnOf s.dev n).headerErrors⟩,
   ⟨0x4506, 1, 64, .u32, .ro, fun s n => v32 (lsnOf s.dev n).payloadErrors⟩,
   ⟨0x4507, 1, 64, .u32, .ro, fun s n => v32 (lsnOf s.dev n).netRejects⟩,
   ⟨0x4508, 1, 64, .u32, .ro, fun s n => v32 (lsnOf s.dev n).recordsDropped⟩,
   ⟨0x4510, 1, 16, .u32, .ro, fun s n => v32 ((mixOf s.dev n).reg.gen * 65536 + (mixOf s.dev n).stream * 256 + (mixOf s.dev n).reg.st)⟩,
   ⟨0x4511, 1, 16, .u32, .ro, fun s n => v32 (mixOf s.dev n).sats⟩,
   ⟨0x4512, 0, 0, .u32, .ro, fun s _ => v32 s.dev.lr.framesSent⟩,
   ⟨0x4600, 1, 16, .domain, .rw, fun s n => lget [] s.dev.tr.codes n⟩,
   ⟨0x4601, 1, 4, .u64, .ro, fun s n => v64 (lget 0 s.dev.tr.cycles n)⟩,
   ⟨0x4602, 0, 0, .u64, .ro, fun s _ => v64 s.dev.tr.codewords⟩,
   ⟨0x4603, 0, 0, .u32, .ro, fun s _ => v32 s.dev.tr.softSats⟩,
   ⟨0x4604, 0, 0, .u32, .ro, fun s _ => v32 s.dev.tr.transients⟩]

/-- Benches, vector engines, quantisation units, haul engines and the haul road. -/
def entriesBench : List Entry :=
  [⟨0x5100, 1, 16, .u32, .rw, fun s n => vState (benchReg s.dev n)⟩,
   ⟨0x5101, 1, 16, .u64, .ro, fun s n => v64 (lget 0 s.dev.comp.benchCycles n)⟩,
   ⟨0x5102, 1, 16, .u32, .ro, fun s n => v32 (lget 0 s.dev.comp.benchTransients n)⟩,
   ⟨0x5103, 0, 0, .domain, .ro, fun s _ => s.dev.comp.map.flatMap (leBytes 1)⟩,
   ⟨0x5200, 1, 16, .u64, .ro, fun s n => v64 (lget 0 s.dev.comp.vecCycles n)⟩,
   ⟨0x5201, 1, 16, .u32, .ro, fun s n => v32 (lget 0 s.dev.comp.vecTransients n)⟩,
   ⟨0x5210, 1, 7, .domain, .ro, fun _ n => builtinImage n⟩,
   ⟨0x5300, 1, 16, .u64, .ro, fun s n => v64 (lget 0 s.dev.comp.quantCycles n)⟩,
   ⟨0x5301, 1, 16, .u32, .ro, fun s n => v32 (lget 0 s.dev.comp.quantTransients n)⟩,
   ⟨0x5400, 1, 2, .u64, .ro, fun s n => v64 (lget 0 s.dev.haul.blocks n)⟩,
   ⟨0x5401, 1, 2, .u16, .rw, fun s n => v16 (lget 0 s.dev.haul.tagsPeak n)⟩,
   ⟨0x5402, 0, 0, .u16, .ro, fun s _ => v16 s.dev.haul.rings.length⟩,
   ⟨0x5403, 0, 0, .u32, .ro, fun s _ => v32 s.dev.haul.misses⟩,
   ⟨0x5404, 0, 0, .u32, .ro, fun s _ => v32 s.dev.haul.deadlineMisses⟩,
   ⟨0x5410, 1, 1, .u8, .ro, fun s _ => v8 s.dev.haul.roadLanes⟩,
   ⟨0x5410, 2, 2, .u8, .ro, fun s _ => v8 s.dev.haul.roadLatency⟩,
   ⟨0x5410, 3, 3, .u32, .ro, fun s _ => v32 s.dev.haul.replays⟩,
   ⟨0x5410, 4, 4, .u32, .ro, fun s _ => v32 s.dev.haul.retrains⟩,
   ⟨0x5411, 1, 64, .u32, .ro, fun s n => vState (lget ⟨0, 1⟩ s.dev.haul.lanes n)⟩]

/-- Memory. -/
def entriesMem : List Entry :=
  [⟨0x5500, 1, 1, .u64, .ro, fun s _ => v64 (memCapacity s.dev)⟩,
   ⟨0x5500, 2, 2, .u16, .ro, fun s _ => v16 s.dev.mem.rate⟩,
   ⟨0x5500, 3, 3, .u32, .ro, fun s _ => v32 (freePages s.dev)⟩,
   ⟨0x5500, 4, 4, .u64, .ro, fun s _ => v64 s.dev.mem.softFaults⟩,
   ⟨0x5500, 5, 5, .u64, .ro, fun s _ => v64 s.dev.mem.hardFaults⟩,
   ⟨0x5500, 6, 6, .u32, .rw, fun s _ => v32 s.dev.mem.hostTimeout⟩,
   ⟨0x5501, 1, 8, .u32, .rw, fun s n => vState (chanReg s.dev n)⟩,
   ⟨0x5502, 1, 8, .u8, .rw, fun s n => v8 (lget 100 s.dev.mem.ceil n)⟩,
   ⟨0x5503, 0, 0, .bool, .rw, fun s _ => vBool s.dev.mem.migrateFreeze⟩,
   ⟨0x5504, 0, 0, .u32, .ro, fun s _ => v32 s.dev.mem.policyClamps⟩,
   ⟨0x5505, 1, 8, .u32, .ro, fun s n => v32 (lget 0 s.dev.mem.crcTransients n)⟩,
   ⟨0x5510, 1, 64, .u8, .rwl, fun s n => v8 (ctxOf s.dev n).floor⟩,
   ⟨0x5511, 1, 64, .u8, .rwl, fun s n => v8 (ctxOf s.dev n).ceiling⟩]

/-- Dispatcher. -/
def entriesDisp : List Entry :=
  [⟨0x5600, 0, 0, .u32, .rw, fun s _ => v32 s.dev.disp.lcFrame⟩,
   ⟨0x5601, 0, 0, .u8, .rw, fun s _ => v8 s.dev.disp.lcCap⟩,
   ⟨0x5602, 1, 64, .u32, .rw, fun s n => vState (ctxOf s.dev n).reg⟩,
   ⟨0x5603, 1, 64, .u16, .rwl, fun s n => v16 (ctxOf s.dev n).qbase⟩,
   ⟨0x5604, 1, 64, .u16, .rwl, fun s n => v16 (ctxOf s.dev n).qcount⟩,
   ⟨0x5605, 1, 64, .u16, .rwl, fun s n => v16 (ctxOf s.dev n).lcq⟩,
   ⟨0x5606, 1, 64, .u16, .rwl, fun s n => v16 (ctxOf s.dev n).depth⟩,
   ⟨0x5607, 1, 64, .u8, .rw, fun s n => v8 (ctxOf s.dev n).weight⟩,
   ⟨0x5608, 1, 64, .u32, .rwl, fun s n => v32 (ctxOf s.dev n).share⟩,
   ⟨0x5609, 1, 64, .u32, .rwl, fun s n => v32 (ctxOf s.dev n).evqDepth⟩,
   ⟨0x560A, 1, 64, .u32, .ro, fun s n => v32 (ctxOf s.dev n).evqDropped⟩,
   ⟨0x560B, 1, 64, .domain, .rwl, fun s n => (ctxOf s.dev n).table⟩,
   ⟨0x5610, 1, 64, .domain, .rw, fun s n => (graphOf s.dev n).rcd⟩,
   ⟨0x5611, 1, 64, .u32, .ro, fun s n => v32 ((graphOf s.dev n).reason * 256 + (graphOf s.dev n).st)⟩,
   ⟨0x5620, 0, 0, .u32, .wo, fun _ _ => v32 0⟩,
   ⟨0x5621, 0, 0, .u16, .rw, fun s _ => v16 s.dev.disp.syncSelect⟩,
   ⟨0x5622, 0, 0, .u64, .ro, fun s _ => v64 (syncOf s.dev s.dev.disp.syncSelect).value⟩,
   ⟨0x5623, 0, 0, .u32, .ro, fun s _ => v32 (syncInfo (syncOf s.dev s.dev.disp.syncSelect))⟩,
   ⟨0x5630, 1, 1, .u64, .ro, fun s _ => v64 s.dev.disp.preemptions⟩,
   ⟨0x5630, 2, 2, .u32, .ro, fun s _ => v32 s.dev.disp.boostsBegun⟩,
   ⟨0x5630, 3, 3, .u32, .ro, fun s _ => v32 s.dev.disp.boostsExhausted⟩,
   ⟨0x5630, 4, 4, .u32, .ro, fun s _ => v32 s.dev.disp.lateLaunches⟩]

/-- Trust, power and self-test. -/
def entriesTrust : List Entry :=
  [⟨0x6000, 1, 16, .u32, .rw, fun s n => vState (lget ⟨0, 1⟩ s.dev.pwr.domains n)⟩,
   ⟨0x6010, 0, 0, .domain, .rw, fun s _ => s.dev.pwr.envelope⟩,
   ⟨0x6011, 0, 0, .u32, .ro, fun s _ => v32 s.dev.pwr.sensed⟩,
   ⟨0x6020, 0, 0, .i32, .ro, fun s _ => vi32 s.dev.pwr.temp⟩,
   ⟨0x6021, 0, 0, .u32, .ro, fun s _ => v32 s.dev.pwr.throttles⟩,
   ⟨0x7000, 0, 0, .u32, .wo, fun _ _ => v32 0⟩,
   ⟨0x7001, 1, 16, .domain, .ro, fun s n => resultOf s.dev n⟩,
   ⟨0x8000, 0, 0, .u32, .ro, fun s _ => v32 (bootStatus s)⟩,
   ⟨0x8001, 0, 0, .domain, .ro, fun s _ => s.dev.boot.rcd⟩,
   ⟨0x8010, 0, 0, .domain, .wo, fun _ _ => zeros 32⟩,
   ⟨0x8011, 0, 0, .domain, .ro, fun s _ => s.trust.report⟩]

/-- Every entry of the dictionary (R445). -/
def entries : List Entry :=
  entriesDevice ++ entriesNet ++ entriesMode ++ entriesTime ++ entriesTrigger ++ entriesJesd ++ entriesFront ++ entriesCore
    ++ entriesBench ++ entriesMem ++ entriesDisp ++ entriesTrust

/-- The entries of one index. -/
def entriesAt (idx : Nat) : List Entry := entries.filter fun e => e.idx == idx

/-- Subindex 0 of an array or record: its count (R429). -/
def countEntry (es : List Entry) (idx : Nat) : Entry :=
  ⟨idx, 0, 0, .u8, .ro, fun _ _ => v8 (es.foldl (fun m e => max m e.hi) 0)⟩

/-- An entry by index and subindex, or the abort code of R439's second check. -/
def findEntry (idx sub : Nat) : Except Nat Entry :=
  let es := entriesAt idx
  if es.isEmpty then .error abNoEntry
  else
    match es.find? fun e => e.lo ≤ sub && sub ≤ e.hi with
    | some e => .ok e
    | none => if sub = 0 then .ok (countEntry es idx) else .error abNoSub

/-- A read of an entry (R432, R437). -/
def readEntry (s : State) (e : Entry) (sub : Nat) : Bytes := e.read s (sub - e.lo)

end Sys2Proof.Machine
end

