-- ==== Sys2Proof/Machine/Dict.lean ====
section
/-!
DEFINITION. Machine/Dict.lean: the dictionary protocol (R433 to R441): sessions, the checks of R439, reads and their snapshots,
writes and their segments, and the answers.
-/
namespace Sys2Proof.Machine
open Sys2Proof

/-! ### Abort codes of the protocol (R440) -/

/-- `BAD_FRAME`. -/
def abBadFrame : Nat := 0x01010001
/-- `NO_SESSION`. -/
def abNoSession : Nat := 0x01010002
/-- `BAD_SEQUENCE`. -/
def abBadSequence : Nat := 0x01010003
/-- `SEGMENT_ORDER`. -/
def abSegment : Nat := 0x01010004
/-- `NO_RESOURCE`. -/
def abNoResource : Nat := 0x01010005

/-- Whether a code is of R439's first check: frame, session and sequence. -/
def firstCheck (c : Nat) : Bool := 0x01010001 ≤ c && c ≤ 0x01010005

/-- The code of the first condition that holds. -/
def firstFail (l : List (Bool × Nat)) : Option Nat := (l.find? fun x => x.1).map fun x => x.2

/-! ### Answers -/

/-- A dictionary frame the device sends (R433). -/
def dictBytes (f : DictFrame) (type session offset total abort : Nat) (payload : Bytes) : Bytes :=
  let b := beBytes 1 0x10 ++ beBytes 1 type ++ beBytes 2 payload.length ++ beBytes 4 session ++ beBytes 4 f.seq
    ++ beBytes 2 f.index ++ beBytes 1 f.sub ++ beBytes 1 0 ++ beBytes 4 offset ++ beBytes 4 total ++ beBytes 4 abort ++ zeros 4
    ++ payload
  b ++ beBytes 4 (crc32c b)

/-- An answer sent to the sender of a frame. -/
def dictSend (d : Dev) (m : EthMeta) (b : Bytes) : Dev :=
  let x := portOf d m.port
  emitFrame d { m with srcMac := x.mac, dstMac := m.srcMac, srcIp := beAt x.cfg 16 16, dstIp := m.srcIp, srcUdp := m.dstUdp,
                       dstUdp := m.srcUdp, rtag := none } (.dict b)

/-- An ABORT counted and recorded in `DICT_LAST_ABORT` (R445). -/
def noteAbort (d : Dev) (f : DictFrame) (c : Nat) : Dev :=
  let r := leBytes 2 f.index ++ leBytes 1 f.sub ++ zeros 1 ++ leBytes 4 c ++ leBytes 4 f.session ++ leBytes 4 f.seq
  { d with dict := { d.dict with aborts := satAdd 32 d.dict.aborts 1, lastAbort := r,
                                 stale := if c = abStale then satAdd 32 d.dict.stale 1 else d.dict.stale } }

/-- A request refused at the first check: no session keeps the answer. -/
def dictRefuse (d : Dev) (f : DictFrame) (c : Nat) : Dev :=
  dictSend (noteAbort d f c) f.eth (dictBytes f 0x81 f.session 0 0 c [])

/-- What a request comes to: its abort code or its answer, its session afterwards (none: ended), and the state. -/
structure Served where
  code : Option Nat
  offset : Nat
  total : Nat
  payload : Bytes
  sess : Option Session
  st : State

/-- A request refused. -/
def served (c : Nat) (x : Session) (s : State) : Served := ⟨some c, 0, 0, [], some x, s⟩
/-- A request done that returns nothing. -/
def servedOk (x : Session) (s : State) : Served := ⟨none, 0, 0, [], some x, s⟩

/-- The answer of a request sent, counted and kept (R435, R445). -/
def dictFinish (f : DictFrame) (r : Served) : State :=
  let d := r.st.dev
  let first := match r.code with | some c => firstCheck c | none => false
  let d := if first then d else { d with dict := { d.dict with requests := satAdd 64 d.dict.requests 1 } }
  let d := match r.code with | some c => noteAbort d f c | none => d
  let b := match r.code with
    | some c => dictBytes f 0x81 f.session 0 0 c []
    | none => dictBytes f 0x80 f.session r.offset r.total 0 r.payload
  let tab := match r.sess with
    | some x => tset d.dict.sessions f.session { x with seq := f.seq, last := b }
    | none => tdel d.dict.sessions f.session
  { r.st with dev := dictSend { d with dict := { d.dict with sessions := tab } } f.eth b }

/-! ### Frames and sessions -/

/-- Frame types a client sends. -/
def dictType (t : Nat) : Bool := t == 0x01 || t == 0x02 || t == 0x10 || t == 0x11

/-- Whether a frame fails as a frame: version, type, reserved bits, lengths, and what its type forbids (R433, R440). -/
def badFrame (f : DictFrame) : Bool :=
  f.version != 1 || !dictType f.type || f.resv0 != 0 || f.resv15 != 0 || f.resv28 != 0 || f.abort != 0
    || f.len != f.payload.length || 1024 < f.len
    || (f.type == 0x01 && (f.session != 0 || f.len != 16)) || ((f.type == 0x02 || f.type == 0x10) && f.len != 0)

/-- Whether a port serves the dictionary (R30) and a frame is addressed to it. -/
def dictMine (d : Dev) (m : EthMeta) : Bool :=
  m.dstUdp == 50210 && addressed d m && (m.port == 4 || bitAt (leAt (portOf d m.port).cfg 8 1) 0)

/-- Whether an OPEN's token is good (R458). -/
def tokenOk (d : Dev) (tok : Bytes) : Bool :=
  let h := slice d.boot.body 144 48
  if h == zeros 48 then tok == zeros 16 else sha384 tok == h

/-- The lowest unused non-zero session number from a free value on. -/
def sessionNumber (d : Dev) : Nat :=
  let r := (Config.freeBits d.free).toNat
  let at_ (k : Nat) : Nat := 1 + (r + k) % (2 ^ 32 - 1)
  at_ ((firstBelow 17 fun k => !thas d.dict.sessions (at_ k)).getD 0)

/-- OPEN (R434, R458). -/
def dictOpen (d : Dev) (f : DictFrame) : Dev :=
  if f.seq ≠ 0 then dictRefuse d f abBadSequence
  else if !tokenOk d f.payload then dictRefuse d f abNoSession
  else if 16 ≤ d.dict.sessions.length then dictRefuse d f abNoResource
  else
    let n := sessionNumber d
    let b := dictBytes f 0x80 n 0 0 0 []
    let x : Session := ⟨0, b, none, none, d.time.ticks⟩
    let tab := tset d.dict.sessions n x
    dictSend { d with free := d.free + 1,
                      dict := { d.dict with sessions := tab, requests := satAdd 64 d.dict.requests 1 } } f.eth b

/-- A received dictionary frame (R405, R433 to R441): what the row does with a request that passes frame, session and sequence
is `op`; a request with the session's last number gets its answer again. -/
def dictServe (s : State) (f : DictFrame) (op : State → DictFrame → Session → Served) : State :=
  let r := receive s.dev f.eth (dictMine s.dev f.eth)
  let d := if r.1 then dictCrcPassed r.2 f.eth.port else r.2
  if !r.1 then { s with dev := d }
  else if badFrame f then { s with dev := dictRefuse d f abBadFrame }
  else if f.type = 0x01 then { s with dev := dictOpen d f }
  else
    match tfind d.dict.sessions f.session with
    | none => { s with dev := dictRefuse d f abNoSession }
    | some x =>
      let x := { x with heard := d.time.ticks }
      let d := { d with dict := { d.dict with sessions := tset d.dict.sessions f.session x } }
      if f.seq = x.seq then { s with dev := dictSend d f.eth x.last }
      else if f.seq ≠ (x.seq + 1) % 2 ^ 32 then { s with dev := dictRefuse d f abBadSequence }
      else dictFinish f (op { s with dev := d } f x)

/-- A row's frame: one that is the row's own, or of a type that no row has. -/
def dictRow (s : State) (f : DictFrame) (mine : Bool) (op : State → DictFrame → Session → Served) :
    Host.Outcome State Fault Refusal :=
  if !dictFrameOk f then .fault .noSuchUnit
  else if mine || !dictType f.type then
    let t := dictServe s f op
    .next { t with dev := settle t.dev }
  else .next s

/-! ### The second and third check -/

/-- Whether the dictionary serves an index now: after a trip and during a logic scan only part of it (R467, R477). -/
def indexServed (d : Dev) (i : Nat) : Bool :=
  let base := (0x1000 ≤ i && i ≤ 0x10FF) || (0x6000 ≤ i && i ≤ 0x6FFF) || (0x8000 ≤ i && i ≤ 0x8FFF)
  let scan := match d.test.running with | some t => t.test == 0x0E | none => false
  if d.boot.phase == .tripped then base
  else if scan then base || (0x7000 ≤ i && i ≤ 0x7FFF)
  else true

/-- Writes that a setting or the hardware makes read-only (R440): PHY pairs, the fixed code entries, DPD coefficients and swaps
with `PIN` = 0. -/
def heldReadOnly (d : Dev) (i sub : Nat) : Bool :=
  (i == 0x6000 && 3 ≤ sub && sub ≤ 6) || (i == 0x4600 && sub ≤ 3)
    || ((i == 0x4201 || i == 0x4203) && !dpPin (dpdOf d (sub - 1)).env)

/-- Whether an entry belongs to a unit of the tensor die: contexts, memory, benches, the dispatcher, lock-step and the tensor-die
haul engine (R15, R16, R220). -/
def tensorEntry (i sub : Nat) : Bool :=
  i / 256 == 0x21 || i / 256 == 0x24 || (0x51 ≤ i / 256 && i / 256 ≤ 0x53) || i / 256 == 0x55 || i / 256 == 0x56
    || ((i == 0x5400 || i == 0x5401) && sub == 2)

/-- A management request crosses the haul road to a unit of the tensor die, and its answer comes back, each in a DESCRIPTOR flit
of the best-effort class; the command stands for both (R16, R170). DEDUCED: assumption log 121. -/
def mgmtCross (d : Dev) (f : DictFrame) : Dev :=
  if tensorEntry f.index f.sub && canCross d .st false && canCross d .ts false then
    crossFlit (crossFlit d .st false (.request f.index f.sub)) .ts false (.answer f.index f.sub)
  else d

/-- The entry of a request and whether it may be accessed so. A unit of the tensor die cannot be reached over a worked-out road
(R176). -/
def dictAccess (s : State) (f : DictFrame) (write : Bool) : Except Nat Entry :=
  if !indexServed s.dev f.index || (tensorEntry f.index f.sub && roadDown s.dev) then .error abBusy
  else
    match findEntry f.index f.sub with
    | .error c => .error c
    | .ok e => if write && (e.acc == .ro || heldReadOnly s.dev f.index f.sub) then .error abReadOnly else .ok e

/-! ### Reads (R437) -/

/-- Bytes staged and kept as snapshots by every session but one (R438). -/
def dictHeld (d : Dev) (but : Nat) : Nat :=
  ((d.dict.sessions.filter fun e => e.1 != but).map fun e =>
    (match e.2.staged with | some v => v.2.2.1 | none => 0) + (match e.2.snap with | some v => v.2.2.length | none => 0)).sum

/-- What a session itself stages. -/
def stagedSize (x : Session) : Nat := match x.staged with | some v => v.2.2.1 | none => 0

/-- A DOMAIN read from its session's snapshot, taken anew where `OFFSET` is 0 or there is none of this entry. -/
def readDomain (s : State) (f : DictFrame) (x : Session) (e : Entry) : Served :=
  let old := match x.snap with
    | some v => if f.offset ≠ 0 && v.1 == f.index && v.2.1 == f.sub then some v.2.2 else none
    | none => none
  let val := match old with | some b => b | none => readEntry s e f.sub
  if f.total = 0 || 1024 < f.total then served abLength x s
  else if old.isNone && 8388608 < dictHeld s.dev f.session + stagedSize x + val.length then served abNoResource x s
  else
    let x := { x with snap := some (f.index, f.sub, val) }
    ⟨none, f.offset, val.length, (val.drop f.offset).take f.total, some x, s⟩

/-- A scalar read: its whole value; a snapshot of another entry is dropped. -/
def readScalar (s : State) (f : DictFrame) (x : Session) (e : Entry) : Served :=
  let val := readEntry s e f.sub
  if f.total ≠ 0 || f.offset ≠ 0 then served abLength x s
  else ⟨none, 0, val.length, val, some { x with snap := none }, s⟩

/-- READ. -/
def opRead (s : State) (f : DictFrame) (x : Session) : Served :=
  match dictAccess s f false with
  | .error c => served c x s
  | .ok e => let s := { s with dev := mgmtCross s.dev f }; if e.ty = .domain then readDomain s f x e else readScalar s f x e

/-- CLOSE: the session ends with what it stages. -/
def opClose (s : State) (_ : DictFrame) (_ : Session) : Served := ⟨none, 0, 0, [], none, s⟩

/-! ### Writes (R438) -/

/-- The order of segments, and the limit on what is staged. -/
def segmentCode (s : State) (f : DictFrame) (x : Session) : Option Nat :=
  if f.first then
    if f.offset ≠ 0 || (!f.last && f.total ≤ 1024) then some abSegment
    else if !f.last && 8388608 < dictHeld s.dev f.session + f.total then some abNoResource
    else none
  else
    match x.staged with
    | none => some abSegment
    | some v => if v.1 ≠ f.index || v.2.1 ≠ f.sub || v.2.2.2.length ≠ f.offset then some abSegment else none

/-- The full length and the bytes of a value with this segment. -/
def segmentValue (f : DictFrame) (x : Session) : Nat × Bytes :=
  if f.first then (f.total, f.payload)
  else match x.staged with
    | some v => (v.2.2.1, v.2.2.2 ++ f.payload)
    | none => (0, [])

/-- A segment without `LAST`: staged. -/
def opSegment (s : State) (f : DictFrame) (x : Session) : Served :=
  match segmentCode s f x with
  | some c => served c x s
  | none =>
    match dictAccess s f true with
    | .error c => served c x s
    | .ok _ =>
      let v := segmentValue f x
      if v.1 < v.2.length then served abLength x s
      else servedOk { x with staged := some (f.index, f.sub, v.1, v.2), snap := none } s

/-- What a write of an entry is checked for from the length on (R439), and what it does; the subindex is counted from the first
of its rows. -/
structure WriteRule where
  check : State → Nat → Bytes → Option Nat
  apply : State → Nat → Bytes → State

/-- A segment with `LAST`: the value is checked and applied whole, or the entry is left unchanged. -/
def opWrite (rule : WriteRule) (s : State) (f : DictFrame) (x : Session) : Served :=
  match segmentCode s f x with
  | some c => served c x s
  | none =>
    match dictAccess s f true with
    | .error c => served c x s
    | .ok e =>
      let v := segmentValue f x
      let x := { x with staged := none }
      let long := match typeLen e.ty with | some n => v.2.length != n | none => false
      if v.1 ≠ v.2.length || long then served abLength x s
      else
        match rule.check s (f.sub - e.lo) v.2 with
        | some c => served c x s
        | none => servedOk x (rule.apply { s with dev := mgmtCross s.dev f } (f.sub - e.lo) v.2)

/-- Whether a frame is the last segment of a write to an index. -/
def writesTo (f : DictFrame) (i : Nat) : Bool := f.type == 0x11 && f.last && f.index == i

/-! ### The protocol's rows -/

/-- DICT_OPEN. -/
def execDictOpen (f : DictFrame) (s : State) : Host.Outcome State Fault Refusal := dictRow s f (f.type == 0x01) opRead
/-- DICT_CLOSE. -/
def execDictClose (f : DictFrame) (s : State) : Host.Outcome State Fault Refusal := dictRow s f (f.type == 0x02) opClose
/-- DICT_READ. -/
def execDictRead (f : DictFrame) (s : State) : Host.Outcome State Fault Refusal := dictRow s f (f.type == 0x10) opRead
/-- DICT_WRITE_SEGMENT. -/
def execDictWriteSegment (f : DictFrame) (s : State) : Host.Outcome State Fault Refusal :=
  dictRow s f (f.type == 0x11 && !f.last) opSegment

/-- A session idle for `DICT_SESSION_TIMEOUT` seconds ends (R434). -/
def sessionTimeout (d : Dev) (n : Nat) : Dev :=
  match tfind d.dict.sessions n with
  | some x =>
    if x.heard + d.dict.timeout * 800000000 < d.time.ticks then
      { d with dict := { d.dict with sessions := tdel d.dict.sessions n } }
    else d
  | none => d

/-- DICT_SESSION_TIMEOUT. -/
def execDictSessionTimeout (session : Nat) (s : State) : Host.Outcome State Fault Refusal :=
  onDev true s fun d => sessionTimeout d session

/-- A dictionary frame that fails its CRC: counted, and the transient and permanent rule of R416 applies, with a second
dictionary failure in a row as the permanent one (R441). -/
def dictCrcError (d : Dev) (p : Nat) : Dev :=
  if !portUp d p || !(p = 4 || bitAt (leAt (portOf d p).cfg 8 1) 0) then d
  else
    let d := { d with dict := { d.dict with crcErrors := satAdd 32 d.dict.crcErrors 1 } }
    if (portOf d p).dictFailed then crcPermanent d p else modPort d p fun x => { x with dictFailed := true }

/-- DICT_CRC_ERROR. -/
def execDictCrcError (port : Nat) (s : State) : Host.Outcome State Fault Refusal :=
  runDev (port < 5) s fun d => dictCrcError d port

end Sys2Proof.Machine
end

