-- ==== Sys2Proof/Machine/Requests.lean ====
section
/-!
DEFINITION. Machine/Requests.lean: dictionary writes that have a row of their own: requests to state registers (R442 to R444)
and the other commands given by a write.
-/
namespace Sys2Proof.Machine
open Sys2Proof

/-! ### What every request to a state register is checked for -/

/-- The running self-test is one of `ts`. -/
def testIn (d : Dev) (ts : List Nat) : Bool := match d.test.running with | some t => ts.contains t.test | none => false
/-- Unit `n` is under one of the tests `ts` (R476). -/
def unitTested (d : Dev) (ts : List Nat) (n : Nat) : Bool :=
  match d.test.running with | some t => ts.contains t.test && bitAt t.mask n | none => false

/-- The state a request names. -/
def requested (v : Bytes) : Nat := beNat v % 16

/-- The checks of R439 on a request to a state register: generation, reserved bits and states, then `rest`; a request for the
state already held is accepted where that state may be requested at all (`ask`), but for a unit under test (R95, R442, R443,
R476). -/
def requestCheck (g : GenSt) (top : Nat) (ask : Nat → Bool) (busy : Bool) (v : Bytes) (rest : Nat → List (Bool × Nat)) : Option Nat :=
  let w := beNat v
  let r := w % 16
  if w / 65536 ≠ g.gen then some abStale
  else if w / 16 % 4096 ≠ 0 || top < r then some abRange
  else if r = g.st && ask r then (if busy then some abBusy else none)
  else firstFail (rest r ++ [(busy, abBusy)])

/-- A write that acts on the device alone. -/
def onDevice (f : Dev → Nat → Bytes → Dev) (s : State) (n : Nat) (v : Bytes) : State := { s with dev := f s.dev n v }

/-! ### Benches, pairs, domains and channels -/

/-- `BENCH_STATE` (R95, R96): READY of a GATED bench, GATED of a READY or a DRAINING one. -/
def benchRule : WriteRule :=
  { check := fun s n v =>
      let g := benchReg s.dev n
      requestCheck g 4 (· ≤ 1) (unitTested s.dev [0x07, 0x0B] n || testIn s.dev [0x0E]) v fun r =>
        [(!((r == 1 && g.st == 0) || (r == 0 && (g.st == 1 || g.st == 2))), abTransition)]
    apply := onDevice fun d n v =>
      let g := benchReg d n
      if requested v = 1 then (if g.st = 0 then askPower d (.bench n) else d)
      else if g.st = 1 then benchLeave d n 2 else d }

/-- BENCH_GATE_REQUEST. -/
def execBenchGateRequest (f : DictFrame) (s : State) : Host.Outcome State Fault Refusal :=
  dictRow s f (writesTo f 0x5100 && requested f.payload != 1) (opWrite benchRule)
/-- BENCH_READY_REQUEST. -/
def execBenchReadyRequest (f : DictFrame) (s : State) : Host.Outcome State Fault Refusal :=
  dictRow s f (writesTo f 0x5100 && requested f.payload == 1) (opWrite benchRule)

/-- A READY pair asked to gate: at once where no instance runs on it, else it drains (R348). -/
def pairLeave (d : Dev) (p : Nat) : Dev :=
  if (running d (2 * p)).isNone && (running d (2 * p + 1)).isNone then
    let d := clearPair (pairTo d p 0) p
    readmit d d.sc.pairs
  else pairTo d p 2

/-- `SC_PAIR_STATE` (R348). -/
def pairRule : WriteRule :=
  { check := fun s n v =>
      let g := pairReg s.dev n
      requestCheck g 3 (· ≤ 1) (unitTested s.dev [0x08, 0x0C] n || testIn s.dev [0x0E]) v fun r =>
        [(!((r == 1 && g.st == 0) || (r == 0 && (g.st == 1 || g.st == 2))), abTransition)]
    apply := onDevice fun d n v =>
      let g := pairReg d n
      if requested v = 1 then (if g.st = 0 then askPower d (.pair n) else d)
      else if g.st = 1 then pairLeave d n else d }

/-- PAIR_GATE_REQUEST. -/
def execPairGateRequest (f : DictFrame) (s : State) : Host.Outcome State Fault Refusal :=
  dictRow s f (writesTo f 0x4400 && requested f.payload != 1) (opWrite pairRule)
/-- PAIR_READY_REQUEST. -/
def execPairReadyRequest (f : DictFrame) (s : State) : Host.Outcome State Fault Refusal :=
  dictRow s f (writesTo f 0x4400 && requested f.payload == 1) (opWrite pairRule)

/-- Whether every link of a direction is STOPPED. -/
def linksStopped (d : Dev) (ls : List Nat) : Bool := ls.all fun l => (linkOf d l).reg.st == 0
/-- Whether every receive stream is STOPPED. -/
def rxStopped (d : Dev) : Bool := d.fe.rx.all fun e => e.2.reg.st == 0
/-- Whether every transmit stream is STOPPED. -/
def txStopped (d : Dev) : Bool := d.fe.tx.all fun e => e.2.reg.st == 0
/-- Whether no listener is RUNNING. -/
def noListener (d : Dev) : Bool := d.lr.lsns.all fun e => e.2.reg.st == 0
/-- The GATED condition of the chirp modem (R461). -/
def chirpIdle (d : Dev) : Bool := noListener d && d.lr.mixes.all (fun e => e.2.reg.st == 0) && d.lr.mods.isEmpty
/-- The GATED condition of the trellis unit (R461). -/
def trellisIdle (d : Dev) : Bool := d.tr.jobs.isEmpty && noListener d
/-- Whether no detector or correlator is bound. -/
def detectIdle (d : Dev) : Bool := d.fe.det.all (fun e => !e.2.on) && d.fe.corr.all fun e => e.2.det.isNone

/-- What refuses GATED of domain `k`, counted from zero (R461). -/
def domainBusy (d : Dev) (k : Nat) : Bool :=
  match k with
  | 6 => !((List.range 4).all fun p => (portOf d p).reg.st == 0)
  | 8 => !linksStopped d [0, 1, 2, 3]
  | 9 => !linksStopped d [4, 5, 6, 7]
  | 10 => !rxStopped d
  | 11 => !txStopped d
  | 12 => !detectIdle d
  | 13 => !chirpIdle d
  | 14 => !trellisIdle d
  | _ => false

/-- The tests that test a domain as a whole (R473, R476). -/
def domainTests (k : Nat) : List Nat :=
  if k = 10 || k = 11 || k = 12 then [0x06, 0x0E] else if k = 13 || k = 14 then [0x0D, 0x0E] else [0x0E]

/-- `PWR_DOMAIN_STATE` (R461, R462). -/
def domainRule : WriteRule :=
  { check := fun s k v =>
      let g := lget ⟨0, 1⟩ s.dev.pwr.domains k
      let fixed := k == 0 || k == 1 || k == 7 || k == 15
      requestCheck g 3 (· ≤ 1) (testIn s.dev (domainTests k)) v fun r =>
        [(r == 2, abRange), (!((r == 1 && g.st == 0) || (r == 0 && g.st == 1 && !fixed)), abTransition),
         (r == 0 && domainBusy s.dev k, abBusy)]
    apply := onDevice fun d k v =>
      let g := lget ⟨0, 1⟩ d.pwr.domains k
      if requested v = 1 then (if g.st = 0 then askPower d (.domain k) else d)
      else if g.st = 1 then domainTo d k 0 else d }

/-- DOMAIN_GATE_REQUEST. -/
def execDomainGateRequest (f : DictFrame) (s : State) : Host.Outcome State Fault Refusal :=
  dictRow s f (writesTo f 0x6000 && requested f.payload != 1) (opWrite domainRule)
/-- DOMAIN_READY_REQUEST. -/
def execDomainReadyRequest (f : DictFrame) (s : State) : Host.Outcome State Fault Refusal :=
  dictRow s f (writesTo f 0x6000 && requested f.payload == 1) (opWrite domainRule)

/-- `MEM_CHANNEL_STATE` (R215): DRAINING of a READY channel whose pages fit on the other READY ones. -/
def channelRule : WriteRule :=
  { check := fun s n v =>
      let d := s.dev
      let g := chanReg d n
      requestCheck g 3 (· == 2) (unitTested d [0x0A] n || testIn d [0x0E]) v fun r =>
        [(r == 0, abRange), (!(r == 2 && g.st == 1), abTransition), (freePages d - chanFree d n < chanUsed d n, abConflict)]
    apply := onDevice fun d n v => if requested v = 2 && (chanReg d n).st = 1 then chanTo d n 2 else d }

/-- CHANNEL_DRAIN_REQUEST. -/
def execChannelDrainRequest (f : DictFrame) (s : State) : Host.Outcome State Fault Refusal :=
  dictRow s f (writesTo f 0x5501) (opWrite channelRule)

/-! ### Links, streams, listeners and ports -/

/-- The power domain of a link: JESD receive or transmit. -/
def linkPowered (d : Dev) (l : Nat) : Bool := (lget ⟨0, 1⟩ d.pwr.domains (if l < 4 then 8 else 9)).st == 1

/-- `JESD_LINK_STATE` (R291): RUNNING of a STOPPED link whose record is valid, STOPPED of any. -/
def linkRule : WriteRule :=
  { check := fun s l v =>
      let d := s.dev
      let k := linkOf d l
      let fit := lkL k.rcd != 0 && linkValid d.fe.laneRate (4 ≤ l) k.rcd && linkPowered d l
      requestCheck k.reg 3 (fun r => r == 0 || r == 2) (testIn d [0x0E]) v fun r =>
        [(!(r == 0 || (r == 2 && k.reg.st == 0)), abTransition), (r == 2 && !fit, abConflict),
         (r == 2 && testIn d [0x03, 0x09], abBusy)]
    apply := onDevice fun d l v =>
      let st := (linkOf d l).reg.st
      if requested v = 2 then (if st = 0 then linkStart d l else d) else if st = 0 then d else linkStop d l }

/-- LINK_START_REQUEST. -/
def execLinkStartRequest (f : DictFrame) (s : State) : Host.Outcome State Fault Refusal :=
  dictRow s f (writesTo f 0x4012 && requested f.payload == 2) (opWrite linkRule)
/-- LINK_STOP_REQUEST. -/
def execLinkStopRequest (f : DictFrame) (s : State) : Host.Outcome State Fault Refusal :=
  dictRow s f (writesTo f 0x4012 && requested f.payload != 2) (opWrite linkRule)

/-- `RX_STREAM_STATE` and `TX_STREAM_STATE` (R311): STOPPED. -/
def streamRule (tx : Bool) : WriteRule :=
  { check := fun s n v =>
      let g := if tx then (feTxOf s.dev n).reg else (feRxOf s.dev n).reg
      requestCheck g 2 (· == 0) (testIn s.dev [0x06, 0x0E]) v fun r => [(r != 0, abTransition)]
    apply := onDevice fun d n _ => if feState d tx n = 0 then d else requestStop d tx n }

/-- STREAM_STOP_REQUEST. -/
def execStreamStopRequest (f : DictFrame) (s : State) : Host.Outcome State Fault Refusal :=
  dictRow s f (writesTo f 0x4102 || writesTo f 0x4103) (opWrite (streamRule (f.index == 0x4103)))

/-- A listener stopped by a dictionary request: the spec gives `LR_LISTENER_STOPPED` no reason for it, so it is free (R374). -/
def listenerStop (d : Dev) (n : Nat) : Dev :=
  if (lsnOf d n).reg.st ≠ 1 then d
  else
    let w := takeFree d
    stopListener w.2 n (w.1.toNat % 256)

/-- `LR_LISTENER_STATE` (R363, R375): STOPPED. -/
def listenerRule : WriteRule :=
  { check := fun s n v => requestCheck (lsnOf s.dev n).reg 1 (· == 0) (testIn s.dev [0x0D, 0x0E]) v fun r => [(r != 0, abTransition)]
    apply := onDevice fun d n _ => listenerStop d n }

/-- LISTENER_STOP_REQUEST. -/
def execListenerStopRequest (f : DictFrame) (s : State) : Host.Outcome State Fault Refusal :=
  dictRow s f (writesTo f 0x4501) (opWrite listenerRule)

/-- A port brought into service: READY with block lock, NO_LINK without (R406). -/
def portReady (d : Dev) (p : Nat) : Dev := portTo d p (if (portOf d p).lock then 1 else 2)

/-- `NET_PORT_STATE` (R406): DOWN of a port in service, READY of a DOWN port whose domain is powered. -/
def portRule : WriteRule :=
  { check := fun s p v =>
      let g := (portOf s.dev p).reg
      requestCheck g 3 (· ≤ 1) (unitTested s.dev [0x04] p || testIn s.dev [0x0E]) v fun r =>
        [(!((r == 0 && (g.st == 1 || g.st == 2)) || (r == 1 && g.st == 0)), abTransition),
         (r == 1 && !portPowered s.dev p, abConflict)]
    apply := onDevice fun d p v =>
      let st := (portOf d p).reg.st
      if requested v = 1 then (if st = 0 then portReady d p else d)
      else if st = 1 || st = 2 then movePorts (portTo d p 0) p else d }

/-- PORT_DOWN_REQUEST. -/
def execPortDownRequest (f : DictFrame) (s : State) : Host.Outcome State Fault Refusal :=
  dictRow s f (writesTo f 0x1100 && requested f.payload != 1) (opWrite portRule)
/-- PORT_READY_REQUEST. -/
def execPortReadyRequest (f : DictFrame) (s : State) : Host.Outcome State Fault Refusal :=
  dictRow s f (writesTo f 0x1100 && requested f.payload == 1) (opWrite portRule)

/-! ### The time unit (R384 to R386, R389, R390) -/

/-- `TB_INCREMENT`: within 1,000 ppm, from the next tick on (R383, R384). -/
def incrementRule : WriteRule :=
  { check := fun _ _ v => firstFail [(beNat v < 0x13FAE147B || 0x14051EB85 < beNat v, abRange)]
    apply := onDevice fun d _ v => { d with time := { d.time with inc := beNat v } } }
/-- TB_INCREMENT_WRITE. -/
def execTbIncrementWrite (f : DictFrame) (s : State) : Host.Outcome State Fault Refusal :=
  dictRow s f (writesTo f 0x3001) (opWrite incrementRule)

/-- `O` of a `TB_SLEW` value. -/
def slewOffset (v : Bytes) : Int := sext 64 (leAt v 0 8)

/-- `TB_SLEW` (R385): 16 bytes, the offset within 0x0051_EB85 a tick, no slew running. -/
def slewRule : WriteRule :=
  { check := fun s _ v =>
      firstFail [(v.length != 16, abLength), (leAt v 12 4 != 0 || leAt v 8 4 * 0x51EB85 < (slewOffset v).natAbs, abRange),
        (s.dev.time.slew.isSome, abBusy)]
    apply := onDevice fun d _ v =>
      let n := leAt v 8 4
      { d with time := { d.time with slewRcd := v, slew := if n = 0 then none else some (slewOffset v, n, 0) } } }
/-- TB_SLEW_WRITE. -/
def execTbSlewWrite (f : DictFrame) (s : State) : Host.Outcome State Fault Refusal :=
  dictRow s f (writesTo f 0x3002) (opWrite slewRule)

/-- `TB_STEP`: whole nanoseconds added on the next tick; a slew ends (R386). -/
def stepRule : WriteRule :=
  { check := fun _ _ _ => none
    apply := onDevice fun d _ v =>
      { d with time := { d.time with step := some (d.time.step.getD 0 + sext 32 (beNat v)), slew := none } } }
/-- TB_STEP_WRITE. -/
def execTbStepWrite (f : DictFrame) (s : State) : Host.Outcome State Fault Refusal :=
  dictRow s f (writesTo f 0x3004) (opWrite stepRule)

/-- `TB_TOD_SET`: bytes 8 to 19 of the time record replace the time of day on the next tick; a slew ends (R386, R387). -/
def todRule : WriteRule :=
  { check := fun _ _ v => firstFail [(v.length != 12, abLength), (1000000000 ≤ leAt v 6 4, abRange)]
    apply := onDevice fun d _ v =>
      let nano := leAt v 6 4 * 2 ^ 32 + leAt v 10 2 * 65536
      { d with time := { d.time with set := some (leAt v 0 6, nano), step := none, slew := none } } }
/-- TB_TOD_SET_WRITE. -/
def execTbTodSetWrite (f : DictFrame) (s : State) : Host.Outcome State Fault Refusal :=
  dictRow s f (writesTo f 0x3005) (opWrite todRule)

/-- Whether any LC graph is ADMITTED. -/
def anyAdmitted (d : Dev) : Bool := d.disp.graphs.any fun e => e.2.st == 1

/-- `TB_STATE` (R389, R390): the links STOPPED and no context ACTIVE, no graph ADMITTED and no trigger armed. -/
def baseRule : WriteRule :=
  { check := fun s _ v =>
      let d := s.dev
      let w := beNat v
      let go := w % 16 != d.time.base.st
      let still := linksStopped d (List.range 8) && (ctxsWhere d fun c => c.reg.st == ctxActive).isEmpty
      if w / 65536 ≠ d.time.base.gen then some abStale
      else firstFail [(go && !still, abNotStopped), (w / 16 % 4096 != 0 || 1 < w % 16, abRange),
        (go && (anyAdmitted d || d.time.trigs.any fun e => e.2.armed), abBusy)]
    apply := onDevice fun d _ v =>
      let r := requested v
      if r = d.time.base.st then d
      else { d with time := { d.time with base := genTo d.time.base r, align := if r = 1 then some 2 else d.time.align } } }
/-- TIMEBASE_ALIGN. -/
def execTimebaseAlign (f : DictFrame) (s : State) : Host.Outcome State Fault Refusal :=
  dictRow s f (writesTo f 0x3000 && requested f.payload == 1) (opWrite baseRule)
/-- TIMEBASE_FREE_RUN. -/
def execTimebaseFreeRun (f : DictFrame) (s : State) : Host.Outcome State Fault Refusal :=
  dictRow s f (writesTo f 0x3000 && requested f.payload != 1) (opWrite baseRule)

/-! ### Contexts (R229 to R232) -/

/-- The queues `[lo, lo + n)` emptied. -/
def dropQueues (d : Dev) (lo n : Nat) : Dev :=
  { d with disp := { d.disp with queues := d.disp.queues.filter fun e => e.1 < lo || lo + n ≤ e.1 } }

/-- Whether two ranges meet. -/
def rangesMeet (a n b m : Nat) : Bool := n != 0 && m != 0 && a < b + m && b < a + n

/-- Whether a queue range meets that of another context that is not FREE (R226). -/
def queuesOverlap (d : Dev) (c base count : Nat) : Bool :=
  (ctxsWhere d fun x => x.reg.st != ctxFree).any fun o => o != c && rangesMeet base count (ctxOf d o).qbase (ctxOf d o).qcount

/-- A context created: its queues empty, its flag word zero, its event queue empty (R230). -/
def ctxCreate (d : Dev) (c : Nat) : Dev :=
  let x := ctxOf d c
  setCtx (dropQueues d x.qbase x.qcount) c
    { x with reg := genTo x.reg ctxStopped, flags := 0#32, evs := [], evFirst := 0, evLost := false, evqDropped := 0 }

/-- A context made ACTIVE; an armed lock-step context begins to number its LAYERs (R230, R277). -/
def ctxActivate (d : Dev) (c : Nat) : Dev :=
  let d := modCtx d c fun x => { x with reg := genTo x.reg ctxActive }
  if inLockstep d c && d.ls.state = 1 then { d with ls := { d.ls with state := 2, lseq := 0 } } else d

/-- The parts, the loaded code and the images of a context's programs given up (R320, R338). -/
def dropPrograms (d : Dev) (c : Nat) : Dev :=
  let clear (e : Nat × CoreSt) : Nat × CoreSt :=
    (e.1, { e.2 with parts := e.2.parts.filter fun p => p.ctx != c,
                     code := match e.2.code with | some k => if k.1 = c then none else some k | none => none })
  { d with sc := { d.sc with cores := d.sc.cores.map clear, store := tdel d.sc.store c } }

/-- Streams, detectors, listeners and mixes that use a context's rings stopped. -/
def stopUnits (d : Dev) (c : Nat) : Dev :=
  let ls := (d.lr.lsns.filter fun e => e.2.reg.st == 1 && e.2.ctx == c).map fun e => e.1
  let ms := (d.lr.mixes.filter fun e => e.2.reg.st != 0 && e.2.ctx == c).map fun e => e.1
  let ds := (d.fe.det.filter fun e => e.2.on && e.2.ctx == c).map fun e => e.1
  let rs := (d.fe.rx.filter fun e => e.2.reg.st != 0 && e.2.bind.ctx == c).map fun e => e.1
  let ts := (d.fe.tx.filter fun e => e.2.reg.st != 0 && e.2.bind.ctx == c).map fun e => e.1
  ts.foldl stopTx (rs.foldl stopRx (ds.foldl stopDetect (ms.foldl stopMix (ls.foldl listenerStop d))))

/-- A context destroyed: its tensors freed without write-back, its rings destroyed, its graphs withdrawn, its sync objects
undeclared, its triggers disarmed, its queues and events discarded, its entries back at their defaults (R232). -/
def ctxDestroy (d : Dev) (c : Nat) : Dev :=
  let x := ctxOf d c
  let d := stopUnits d c
  let d := ((d.mem.tensors.filter fun e => e.1 / 2 ^ 32 == c).map fun e => (e.1 % 2 ^ 32, e.2)).foldl
    (fun d e => releaseTensor d c e.1 e.2) d
  let d := ((d.haul.rings.filter fun e => e.2.ctx == c).map fun e => e.1).foldl ringDrop d
  let gs := (d.disp.graphs.filter fun e => e.2.st != 0 && gCtx e.2.rcd == c).map fun e => e.1
  let d := gs.foldl graphEmpty d
  let d := ((d.time.trigs.filter fun e => e.2.armed && e.2.ctx == c).map fun e => e.1).foldl disarm d
  let d := dropPrograms (dropQueues d x.qbase x.qcount) c
  let d := { d with disp := { d.disp with resv := d.disp.resv.filter (fun r => !gs.contains r.graph),
                                          syncs := d.disp.syncs.filter fun e => !(e.2.declared && e.2.owner == c) },
                    mem := { d.mem with clamping := d.mem.clamping.filter fun k => k.1 != c } }
  setCtx d c { ctxDefault c with reg := genTo x.reg ctxFree }

/-- `CTX_STATE` (R230): the four transitions; a created context's queue range must meet no other (R226), and a halted
lock-step context stays halted while it is enabled (R282). -/
def ctxRule : WriteRule :=
  { check := fun s c v =>
      let d := s.dev
      let x := ctxOf d c
      let st := x.reg.st
      requestCheck x.reg 3 (· ≤ 2) false v fun r =>
        [(!((st == 0 && r == 1) || (st == 1 && r == 2) || (st == 2 && r == 1) || (st == 1 && r == 0)), abTransition),
         (st == 0 && queuesOverlap d c x.qbase x.qcount, abConflict),
         (r == 2 && inLockstep d c && 3 ≤ d.ls.state, abConflict),
         (st == 0 && testIn d [0x09, 0x0A, 0x0E, 0x10], abBusy)]
    apply := onDevice fun d c v =>
      let st := (ctxOf d c).reg.st
      let r := requested v
      if r = st then d
      else if st = 0 then ctxCreate d c
      else if st = 2 then modCtx d c fun x => { x with reg := genTo x.reg ctxStopping }
      else if r = 2 then ctxActivate d c
      else ctxDestroy d c }

/-- CONTEXT_CREATE. -/
def execContextCreate (f : DictFrame) (s : State) : Host.Outcome State Fault Refusal :=
  dictRow s f (writesTo f 0x5602 && requested f.payload == 1 && (ctxOf s.dev (f.sub - 1)).reg.st == ctxFree) (opWrite ctxRule)
/-- CONTEXT_ACTIVATE. -/
def execContextActivate (f : DictFrame) (s : State) : Host.Outcome State Fault Refusal :=
  dictRow s f (writesTo f 0x5602 && requested f.payload == 2) (opWrite ctxRule)
/-- CONTEXT_STOP: a request for STOPPED on a context that is not FREE, or for a state no request may name. -/
def execContextStop (f : DictFrame) (s : State) : Host.Outcome State Fault Refusal :=
  dictRow s f (writesTo f 0x5602 && requested f.payload != 0 && requested f.payload != 2
    && !(requested f.payload == 1 && (ctxOf s.dev (f.sub - 1)).reg.st == ctxFree)) (opWrite ctxRule)
/-- CONTEXT_DESTROY. -/
def execContextDestroy (f : DictFrame) (s : State) : Host.Outcome State Fault Refusal :=
  dictRow s f (writesTo f 0x5602 && requested f.payload == 0) (opWrite ctxRule)

/-- A STOPPING context none of whose operations is issued or parked is STOPPED (R230). -/
def ctxStoppedNow (d : Dev) (c : Nat) : Dev :=
  if (ctxOf d c).reg.st = ctxStopping && !d.disp.ops.any fun o => o.2.ctx == c then
    modCtx d c fun x => { x with reg := genTo x.reg ctxStopped }
  else d

/-- CONTEXT_STOPPED. -/
def execContextStopped (ctx : Nat) (s : State) : Host.Outcome State Fault Refusal :=
  runDev (ctx < 64) s fun d => ctxStoppedNow d ctx

/-- `CTX_FLAGS`: the bits written as one are cleared (R61). -/
def flagRule : WriteRule :=
  { check := fun _ _ v => firstFail [(512 ≤ beNat v, abRange)]
    apply := onDevice fun d c v => modCtx d c fun x => { x with flags := flagClear x.flags (beNat v) } }
/-- FLAG_CLEAR. -/
def execFlagClear (f : DictFrame) (s : State) : Host.Outcome State Fault Refusal :=
  dictRow s f (writesTo f 0x2101) (opWrite flagRule)

/-! ### Queues and graphs -/

/-- A queue emptied: its tail is set to its head (R228). -/
def queueReset (d : Dev) (q : Nat) : Dev :=
  modQueue d q fun x => { x with descs := [], tail := x.head, halted := false, cover := none, boosted := false, mark := none }

/-- `QUEUE_CONTROL` (R228). -/
def queueRule : WriteRule :=
  { check := fun s _ v =>
      let w := beNat v
      let q := w % 16384
      let stopped := match ownerOf s.dev q with | some c => (ctxOf s.dev c).reg.st == ctxStopped | none => false
      firstFail [(w / 2 ^ 30 == 2 && !stopped, abNotStopped),
        (w / 16384 % 65536 != 0 || !(w / 2 ^ 30 == 1 || w / 2 ^ 30 == 2), abRange),
        (w / 2 ^ 30 == 1 && !(queueOf s.dev q).halted, abTransition)]
    apply := onDevice fun d _ v =>
      let q := beNat v % 16384
      if beNat v / 2 ^ 30 = 2 then queueReset d q
      else modQueue (advance d q) q fun x => { x with halted := false } }

/-- QUEUE_RESUME. -/
def execQueueResume (f : DictFrame) (s : State) : Host.Outcome State Fault Refusal :=
  dictRow s f (writesTo f 0x5620 && beNat f.payload / 2 ^ 30 == 1) (opWrite queueRule)
/-- QUEUE_RESET. -/
def execQueueReset (f : DictFrame) (s : State) : Host.Outcome State Fault Refusal :=
  dictRow s f (writesTo f 0x5620 && beNat f.payload / 2 ^ 30 != 1) (opWrite queueRule)

/-- Whether a graph record keeps its ranges (R237). -/
def graphRanges (r : Bytes) : Bool :=
  leAt r 0 1 < 64 && leAt r 1 1 < 2 && leAt r 2 1 < 16 && gFrames r ≤ 4 && leAt r 20 4 == 0
    && (List.range 4).all fun k => leAt r (25 + 12 * k) 3 == 0

/-- The parts of a graph's programs given up (R320). -/
def dropGraphParts (d : Dev) (g : Nat) : Dev :=
  { d with sc := { d.sc with cores := d.sc.cores.map fun e => (e.1, { e.2 with parts := e.2.parts.filter fun p => p.graph != g }) } }

/-- `LC_GRAPH` (R237, R239, R240, R244): admission of a record, or withdrawal of the slot's graph. -/
def graphRule : WriteRule :=
  { check := fun s g v =>
      firstFail [(v.length != 72, abLength), (!graphRanges v, abRange),
        (gAdmit v && ((graphOf s.dev g).st == 1 || testIn s.dev [0x05, 0x0E]), abBusy)]
    apply := onDevice fun d g v => if gAdmit v then graphAdmit (dropGraphParts d g) d.sc.pairs g v else graphWithdraw d g }

/-- GRAPH_ADMIT. -/
def execGraphAdmit (f : DictFrame) (s : State) : Host.Outcome State Fault Refusal :=
  dictRow s f (writesTo f 0x5610 && gAdmit f.payload) (opWrite graphRule)
/-- GRAPH_WITHDRAW. -/
def execGraphWithdraw (f : DictFrame) (s : State) : Host.Outcome State Fault Refusal :=
  dictRow s f (writesTo f 0x5610 && !gAdmit f.payload) (opWrite graphRule)

/-- `HAUL_TAGS_PEAK`: any write sets it to zero (R191). -/
def tagsRule : WriteRule :=
  { check := fun _ _ _ => none
    apply := onDevice fun d n _ => { d with haul := { d.haul with tagsPeak := lset d.haul.tagsPeak n 0 } } }
/-- HAUL_TAGS_PEAK_RESET. -/
def execHaulTagsPeakReset (f : DictFrame) (s : State) : Host.Outcome State Fault Refusal :=
  dictRow s f (writesTo f 0x5401) (opWrite tagsRule)

/-! ### Lock-step (R276, R277, R282) -/

/-- Whether the lock-step context is STOPPED. -/
def lsStopped (d : Dev) : Bool := (ctxOf d d.ls.ctx).reg.st == ctxStopped

/-- `LOCKSTEP_ENABLE`: arming needs a peer that is a PEER entry (R276, R410). -/
def lockstepRule : WriteRule :=
  { check := fun s _ v =>
      let d := s.dev
      firstFail [(!lsStopped d, abNotStopped), (1 < beNat v, abRange),
        (beNat v == 1 && (63 < d.ls.peer || epKind (epOf d d.ls.peer) != 2), abConflict)]
    apply := onDevice fun d _ v =>
      let on := beNat v == 1
      let first := if on then zeros 32 else d.ls.first
      { d with ls := { d.ls with enable := on, state := if on then 1 else 0, first := first, lseq := 0, mine := [], theirs := [],
                                 compared := [], mismatch := [] } } }
/-- LOCKSTEP_ARM. -/
def execLockstepArm (f : DictFrame) (s : State) : Host.Outcome State Fault Refusal :=
  dictRow s f (writesTo f 0x2400 && f.sub == 1 && beNat f.payload == 1) (opWrite lockstepRule)
/-- LOCKSTEP_DISABLE. -/
def execLockstepDisable (f : DictFrame) (s : State) : Host.Outcome State Fault Refusal :=
  dictRow s f (writesTo f 0x2400 && f.sub == 1 && beNat f.payload != 1) (opWrite lockstepRule)

/-! ### Masks, pre-distortion and attestation -/

/-- `MASK_REARM`: 0x01 ends MUTE (R299). -/
def rearmRule : WriteRule :=
  { check := fun _ _ v => firstFail [(beNat v != 1, abRange)]
    apply := onDevice fun d n _ => setFeTx d n { feTxOf d n with muted := none } }
/-- MASK_REARM. -/
def execMaskRearm (f : DictFrame) (s : State) : Host.Outcome State Fault Refusal :=
  dictRow s f (writesTo f 0x4112) (opWrite rearmRule)

/-- `DPD_SWAP`: 0x01 requests a swap; one that waits already keeps its time (R301, R304). -/
def swapRule : WriteRule :=
  { check := fun _ _ v => firstFail [(beNat v != 1, abRange)]
    apply := onDevice fun d n _ => setDpd d n { dpdOf d n with swap := some ((dpdOf d n).swap.getD d.time.ticks) } }
/-- DPD_SWAP. -/
def execDpdSwap (f : DictFrame) (s : State) : Host.Outcome State Fault Refusal :=
  dictRow s f (writesTo f 0x4203) (opWrite swapRule)

/-- `ATTEST_REQUEST`: a nonce starts a report (R457). -/
def attestRule : WriteRule :=
  { check := fun s _ v =>
      firstFail [(v.length != 32, abLength), (s.trust.idMismatch, abConflict),
        (!s.trust.attestReady || s.trust.signing.isSome, abBusy)]
    apply := fun s _ v => { s with trust := { s.trust with signing := some (reportHead s v) } } }
/-- ATTEST_REQUEST. -/
def execAttestRequest (f : DictFrame) (s : State) : Host.Outcome State Fault Refusal :=
  dictRow s f (writesTo f 0x8010) (opWrite attestRule)

end Sys2Proof.Machine
end

