-- ==== Sys2Proof/Machine/EntryWrite.lean ====
section
/-!
DEFINITION. Machine/EntryWrite.lean: writes of the entries that have no row of their own (R432, R445): what each is checked for
in the order of R439, from the length on, and what it sets.
-/
namespace Sys2Proof.Machine
open Sys2Proof

/-- A scalar whose value lies between two bounds. -/
def inRange (lo hi : Nat) (f : Dev → Nat → Nat → Dev) : WriteRule :=
  { check := fun _ _ v => firstFail [(beNat v < lo || hi < beNat v, abRange)]
    apply := onDevice fun d n v => f d n (beNat v) }

/-- As `inRange`, of a unit that must be stopped. -/
def stoppedRange (stopped : Dev → Nat → Bool) (lo hi : Nat) (f : Dev → Nat → Nat → Dev) : WriteRule :=
  { check := fun s n v => firstFail [(!stopped s.dev n, abNotStopped), (beNat v < lo || hi < beNat v, abRange)]
    apply := onDevice fun d n v => f d n (beNat v) }

/-- The largest U32. -/
def maxU32 : Nat := 0xFFFFFFFF

/-- Whether a number is a power of two between two bounds. -/
def powerIn (lo hi x : Nat) : Bool := lo ≤ x && x ≤ hi && (List.range 17).any fun k => x == 2 ^ k

/-! ### Network ports and endpoints (R410, R428) -/

/-- `NET_PORT_CFG`: 40 bytes, while the port is DOWN. -/
def portCfgRule : WriteRule :=
  { check := fun s p v =>
      firstFail [(v.length != 40, abLength), ((portOf s.dev p).reg.st != 0, abNotStopped), (!netCfgOk p v, abRange)]
    apply := onDevice fun d p v => modPort d p fun x => { x with cfg := v } }

/-- Whether an endpoint record keeps its ranges (R410). -/
def endpointOk (r : Bytes) : Bool :=
  let k := leAt r 0 1
  let ip := leAt r 3 1
  k ≤ 2 && leAt r 1 1 < 16 && leAt r 2 1 < 64 && (ip == 4 || ip == 6 || (k == 0 && ip == 0)) && beAt r 22 2 < 4096
    && beAt r 32 2 / 8192 % 4 == 0 && leAt r 34 1 ≤ 192 && leAt r 35 1 ≤ 64 && leAt r 36 12 == 0

/-- The credits of a class granted by all PEER entries, with entry `n` replaced. -/
def creditSum (d : Dev) (n : Nat) (r : Bytes) (lc : Bool) : Nat :=
  let grant (x : Bytes) : Nat := if leAt x 0 1 = 2 then leAt x (if lc then 35 else 34) 1 else 0
  grant r + ((d.net.eps.filter fun e => e.1 != n).map fun e => grant e.2.rcd).sum

/-- Whether an endpoint has a frame in flight: sent and not acknowledged, received and not yet effective, or a get that waits
for its data. -/
def epBusy (d : Dev) (n : Nat) : Bool :=
  let x := epOf d n
  let slots := d.net.inLc ++ d.net.inBe ++ d.net.outLc ++ d.net.outBe
  x.tx.any (fun t => !t.unacked.isEmpty) || x.rx.any (fun r => !r.held.isEmpty || !r.asks.isEmpty)
    || slots.any (fun s => s.ep == n) || d.net.gets.any fun g => g.ep == n

/-- An endpoint entry replaced: its streams end, and the entry is CLOSED on its lowest READY port. -/
def epReplace (d : Dev) (n : Nat) (r : Bytes) : Dev :=
  let d := closeRx (closeRx d n true) n false
  let x := { epDefault with rcd := r }
  setEp d n { x with port := (readyPort d x).getD 0 }

/-- `WT_ENDPOINT`. -/
def endpointRule : WriteRule :=
  { check := fun s n v =>
      let d := s.dev
      firstFail [(v.length != 48, abLength), (!endpointOk v, abRange),
        (192 < creditSum d n v false || 64 < creditSum d n v true, abConflict), (epBusy d n, abBusy)]
    apply := onDevice epReplace }

/-- A value whose refusal a function gives. -/
def checkedBy (bad : Bytes → Option Nat) (f : Dev → Nat → Bytes → Dev) : WriteRule :=
  { check := fun _ _ v => bad v
    apply := onDevice f }

/-- `TSN_PREEMPT`: while the port is DOWN. -/
def preemptRule : WriteRule :=
  { check := fun s p v =>
      if v.length ≠ 4 then some abLength
      else if (portOf s.dev p).reg.st ≠ 0 then some abNotStopped
      else preemptBad v
    apply := onDevice fun d p v => modPort d p fun x => { x with preempt := v } }

/-- The writes of the network entries. -/
def netRule (idx : Nat) : Option WriteRule :=
  match idx with
  | 0x1101 => some portCfgRule
  | 0x1110 => some endpointRule
  | 0x1112 => some (inRange 10 100000 fun d _ v => { d with net := { d.net with resendUs := v } })
  | 0x1113 => some (inRange 1 255 fun d _ v => { d with net := { d.net with resendLimit := v } })
  | 0x1120 => some (checkedBy gclBad setGcl)
  | 0x1121 => some (checkedBy cbsBad fun d p v => modPort d p fun x => { x with cbs := v })
  | 0x1122 => some preemptRule
  | 0x1123 => some (checkedBy cbBad fun d _ v => setCb d v)
  | 0x1124 => some (checkedBy psfpBad fun d _ v => setPsfp d v)
  | _ => none

/-! ### Contexts (R60, R219, R226, R261) -/

/-- Whether a context is STOPPED (R231). -/
def ctxStill (d : Dev) (c : Nat) : Bool := (ctxOf d c).reg.st == ctxStopped

/-- A context's queues as a write would make them. -/
structure QueueRange where
  base : Nat
  count : Nat
  lcq : Nat
  depth : Nat

/-- A context's queue entries. -/
def queueRange (d : Dev) (c : Nat) : QueueRange :=
  let x := ctxOf d c
  ⟨x.qbase, x.qcount, x.lcq, x.depth⟩

/-- A context's queues set: the queues it keeps stay as they are, their indices going on (R509, log 90); those it leaves
and those it gets are empty. -/
def setRange (d : Dev) (c : Nat) (r : QueueRange) : Dev :=
  let x := ctxOf d c
  let old := fun q => x.qbase ≤ q && q < x.qbase + x.qcount
  let new := fun q => r.base ≤ q && q < r.base + r.count
  let d := { d with disp := { d.disp with queues := d.disp.queues.filter fun e => old e.1 == new e.1 } }
  setCtx d c { x with qbase := r.base, qcount := r.count, lcq := r.lcq, depth := r.depth }

/-- A write of one of the queue entries (R226): the range stays inside the device and clear of other contexts, and its LC
queues inside it. -/
def queueEntryRule (ok : Nat → Bool) (f : QueueRange → Nat → QueueRange) : WriteRule :=
  { check := fun s c v =>
      let d := s.dev
      let r := f (queueRange d c) (beNat v)
      firstFail [(!ctxStill d c, abNotStopped), (!ok (beNat v), abRange),
        (16384 < r.base + r.count || r.count < r.lcq || queuesOverlap d c r.base r.count, abConflict)]
    apply := onDevice fun d c v => setRange d c (f (queueRange d c) (beNat v)) }

/-- Whether the floors with context `c`'s replaced keep to 88 less the frames pinned on every enabled bench (R213). -/
def floorsFit (d : Dev) (c floor : Nat) : Bool :=
  let sum := floor + ((d.disp.ctxs.filter fun e => e.1 != c).map fun e => e.2.floor).sum
  (List.range 16).all fun b => (benchReg d b).st == 4 || sum + pinnedFrames d b ≤ 88

/-- `CTX_FRAME_FLOOR`. -/
def floorRule : WriteRule :=
  { check := fun s c v =>
      firstFail [(!ctxStill s.dev c, abNotStopped), (88 < beNat v, abRange),
        (!floorsFit s.dev c (beNat v) || (ctxOf s.dev c).ceiling < beNat v, abConflict)]
    apply := onDevice fun d c v => modCtx d c fun x => { x with floor := beNat v } }

/-- `CTX_FRAME_CEILING`. -/
def ceilingRule : WriteRule :=
  { check := fun s c v =>
      firstFail [(!ctxStill s.dev c, abNotStopped), (88 < beNat v, abRange), (beNat v < (ctxOf s.dev c).floor, abConflict)]
    apply := onDevice fun d c v => modCtx d c fun x => { x with ceiling := beNat v } }

/-- `CTX_EVQ_DEPTH`. -/
def evqRule : WriteRule :=
  { check := fun s c v => firstFail [(!ctxStill s.dev c, abNotStopped), (!powerIn 64 65536 (beNat v), abRange)]
    apply := onDevice fun d c v => modCtx d c fun x => { x with evqDepth := beNat v } }

/-- `CTX_TENSOR_TABLE` (R233). -/
def tableRule : WriteRule :=
  { check := fun s c v =>
      firstFail [(v.length % 32 != 0 || 2097152 < v.length, abLength), (!ctxStill s.dev c, abNotStopped), (!tableOk v, abRange)]
    apply := onDevice fun d c v => modCtx d c fun x => { x with table := v } }

/-- Whether every ADMITTED graph keeps to a cap (R239, R261). -/
def capHolds (d : Dev) (cap : Nat) : Bool :=
  let gs := admittedGraphs d 64 64
  (List.range 4).all fun k => (List.range (engineCount k)).all fun e =>
    100 * ((gs.filter fun p => (placedOn p k).contains e).map fun p => gTicks d.disp.lcFrame p.rcd k).sum ≤ cap * d.disp.lcFrame

/-- `LC_CAP`. -/
def capRule : WriteRule :=
  { check := fun s _ v => firstFail [(beNat v < 10 || 95 < beNat v, abRange), (!capHolds s.dev (beNat v), abConflict)]
    apply := onDevice fun d _ v => { d with disp := { d.disp with lcCap := beNat v } } }

/-- `LC_FRAME_TICKS`. -/
def frameRule : WriteRule :=
  { check := fun s _ v => firstFail [(beNat v < 16000 || 4000000000 < beNat v, abRange), (anyAdmitted s.dev, abBusy)]
    apply := onDevice fun d _ v => { d with disp := { d.disp with lcFrame := beNat v } } }

/-- The writes of the context and dispatcher entries. -/
def ctxRuleOf (idx : Nat) : Option WriteRule :=
  match idx with
  | 0x2100 => some (stoppedRange ctxStill 0 1 fun d c v => modCtx d c fun x => { x with numeric := v })
  | 0x5510 => some floorRule
  | 0x5511 => some ceilingRule
  | 0x5600 => some frameRule
  | 0x5601 => some capRule
  | 0x5603 => some (queueEntryRule (fun v => v ≤ 16383) fun r v => { r with base := v })
  | 0x5604 => some (queueEntryRule (fun v => v ≤ 16384) fun r v => { r with count := v })
  | 0x5605 => some (queueEntryRule (fun v => v ≤ 16384) fun r v => { r with lcq := v })
  | 0x5606 => some (queueEntryRule (powerIn 16 4096) fun r v => { r with depth := v })
  | 0x5607 => some (inRange 1 255 fun d c v => modCtx d c fun x => { x with weight := v })
  | 0x5608 => some (stoppedRange ctxStill 0 maxU32 fun d c v => modCtx d c fun x => { x with share := v })
  | 0x5609 => some evqRule
  | 0x560B => some tableRule
  | 0x5621 => some (inRange 0 8191 fun d _ v => { d with disp := { d.disp with syncSelect := v } })
  | _ => none

/-! ### Memory, lock-step and power (R219, R276, R465) -/

/-- `LOCKSTEP_PEER`: a PEER entry, or 0xFF (R276, R410). -/
def peerRule : WriteRule :=
  { check := fun s _ v =>
      let n := beNat v
      firstFail [(!lsStopped s.dev, abNotStopped), (63 < n && n != 0xFF, abRange),
        (n != 0xFF && epKind (epOf s.dev n) != 2, abConflict)]
    apply := onDevice fun d _ v => { d with ls := { d.ls with peer := beNat v } } }

/-- The writes of the lock-step entries, by subindex. -/
def lockRuleOf (sub : Nat) : Option WriteRule :=
  match sub with
  | 2 => some peerRule
  | 3 => some (stoppedRange (fun d _ => lsStopped d) 0 63 fun d _ v => { d with ls := { d.ls with ctx := v } })
  | 4 => some (stoppedRange (fun d _ => lsStopped d) 0 63 fun d _ v => { d with ls := { d.ls with peerCtx := v } })
  | 5 => some (inRange 1 1000000 fun d _ v => { d with ls := { d.ls with timeout := v } })
  | _ => none

/-- Whether an envelope keeps its ranges (R465). -/
def avsOk (d : Dev) (v : Bytes) : Bool :=
  let mv (i : Nat) : Bool := 720 ≤ leAt v i 2 && leAt v i 2 ≤ 850
  leAt v 0 1 < 4 && leAt v 1 3 == 0 && mv 4 && mv 6 && mv 8 && leAt v 10 2 == 0 && 20 ≤ leAt v 12 2
    && leAt v 12 2 ≤ maxPower d && leAt v 14 2 == 0

/-- `AVS_ENVELOPE`. -/
def avsRule : WriteRule :=
  { check := fun s _ v =>
      firstFail [(v.length != 16, abLength), (!avsOk s.dev v, abRange), (leAt v 6 2 < leAt v 4 2, abConflict)]
    apply := onDevice fun d _ v => { d with pwr := { d.pwr with envelope := v } } }

/-- The writes of the memory and power entries. -/
def memRuleOf (idx : Nat) : Option WriteRule :=
  match idx with
  | 0x5500 => some (inRange 0 maxU32 fun d _ v => { d with mem := { d.mem with hostTimeout := v } })
  | 0x5502 => some (inRange 1 100 fun d n v => { d with mem := { d.mem with ceil := lset d.mem.ceil n v } })
  | 0x5503 => some (inRange 0 1 fun d _ v => { d with mem := { d.mem with migrateFreeze := v == 1 } })
  | 0x6010 => some avsRule
  | _ => none

/-! ### Time unit and PTP (R391, R403) -/

/-- The exchange in progress of the PTP engine forgotten. -/
def ptpFresh (p : PtpSt) : PtpSt :=
  { p with syncT2 := none, reqT := none, uplink := none, peerGap := none, answer := [], syncAt := none, best := none }

/-- Whether the PTP entries agree: domain 0 under 802.1AS, and no one-step Sync over UDP on IPv6 (R391, R403). -/
def ptpAgree (p : PtpSt) : Bool := !(p.profile == 3 && p.domain != 0) && !(p.oneStep && p.transport == 2)

/-- `PTP_PROFILE`: a change starts the engine afresh. -/
def profileRule : WriteRule :=
  { check := fun s _ v =>
      firstFail [(3 < beNat v, abRange), (!ptpAgree { s.dev.time.ptp with profile := beNat v }, abConflict)]
    apply := onDevice fun d _ v =>
      let p := d.time.ptp
      if p.profile = beNat v then d
      else { d with time := { d.time with ptp := ptpFresh { p with profile := beNat v } } } }

/-- A PTP entry that is writable while `PTP_PROFILE` is 0. -/
def ptpRule (ok : Nat → Bool) (f : PtpSt → Nat → PtpSt) : WriteRule :=
  { check := fun s _ v =>
      let p := s.dev.time.ptp
      firstFail [(p.profile != 0, abNotStopped), (!ok (beNat v), abRange), (!ptpAgree (f p (beNat v)), abConflict)]
    apply := onDevice fun d _ v => { d with time := { d.time with ptp := f d.time.ptp (beNat v) } } }

/-- The writes of the PTP entries, by subindex. -/
def ptpRuleOf (sub : Nat) : Option WriteRule :=
  match sub with
  | 1 => some profileRule
  | 2 => some (ptpRule (fun v => v ≤ 4) fun p v => { p with port := v })
  | 3 => some (ptpRule (fun v => v ≤ 2) fun p v => { p with transport := v })
  | 4 => some (ptpRule (fun v => v ≤ 127) fun p v => { p with domain := v })
  | 5 => some (ptpRule (fun v => v ≤ 1) fun p v => { p with role := v })
  | 6 => some (ptpRule (fun v => v ≤ 1) fun p v => { p with oneStep := v == 1 })
  | 7 => some (ptpRule (fun _ => true) fun p v => { p with priority := v })
  | 8 => some (ptpRule (fun v => decide (-7 ≤ sext 32 v ∧ sext 32 v ≤ 4)) fun p v => { p with logSync := sext 32 v })
  | _ => none

/-- `TU_PPS_CFG`. -/
def ppsRule : WriteRule :=
  { check := fun _ _ v =>
      let w := leAt v 4 4
      firstFail [(v.length != 8, abLength),
        (1 < leAt v 0 1 || leAt v 1 3 != 0 || 799999999 < w || (w == 0 && leAt v 0 1 == 1), abRange)]
    apply := onDevice fun d _ v => { d with time := { d.time with pps := v } } }

/-- The writes of the time-unit entries. -/
def timeRuleOf (idx sub : Nat) : Option WriteRule :=
  match idx with
  | 0x3010 => ptpRuleOf sub
  | 0x3020 => some (inRange 0 maxU32 fun d p v => { d with time := { d.time with txLat := lset d.time.txLat p v } })
  | 0x3021 => some (inRange 0 maxU32 fun d p v => { d with time := { d.time with rxLat := lset d.time.rxLat p v } })
  | 0x3022 => some (inRange 0 maxU32 fun d p v => { d with time := { d.time with asym := lset d.time.asym p (sext 32 v) } })
  | 0x3040 => some ppsRule
  | _ => none

/-! ### Converter ports and streams (R283 to R287, R296, R297, R299) -/

/-- Whether a link record's fields keep their ranges, reserved bits zero. -/
def linkRanges (tx : Bool) (r : Bytes) : Bool :=
  leAt r 4 1 < 4 && (lkL r == 0 ||
    ([1, 2, 4, 8, 16].contains (lkL r) && lkM r % 2 == 0 && 2 ≤ lkM r && lkM r ≤ 128 && 1 ≤ leAt r 2 1 && leAt r 2 1 ≤ 2
      && 1 ≤ lkE r && lkE r ≤ 32 && !(tx && lkObs r) && lkRelease r ≤ 624
      && (List.range 16).all fun i => if i < lkL r then lkLane r i < 16 else lkLane r i == 0xFF))

/-- Whether a record's lanes meet those of another link of its direction. -/
def lanesMeet (d : Dev) (l : Nat) (r : Bytes) : Bool :=
  ((List.range 8).filter fun k => k / 4 == l / 4 && k != l).any fun k =>
    (lkLanes (linkOf d k).rcd).any fun x => (lkLanes r).contains x

/-- `JESD_RX_LINK` (links 0 to 3) and `JESD_TX_LINK` (4 to 7). -/
def linkRecordRule (tx : Bool) : WriteRule :=
  { check := fun s n v =>
      let d := s.dev
      let l := if tx then 4 + n else n
      firstFail [(v.length != 24, abLength), ((linkOf d l).reg.st != 0, abNotStopped), (!linkRanges tx v, abRange),
        (!linkValid d.fe.laneRate tx v || lanesMeet d l v, abConflict)]
    apply := onDevice fun d n v => modLink d (if tx then 4 + n else n) fun x => { x with rcd := v } }

/-- The rule of an entry that needs every link STOPPED. -/
def allLinksStopped (d : Dev) (_ : Nat) : Bool := linksStopped d (List.range 8)

/-- Whether a factor is 1, 2, 4 or 8. -/
def factorOk (x : Nat) : Bool := [1, 2, 4, 8].contains x

/-- `RX_STREAM_CFG`. -/
def rxCfgRule : WriteRule :=
  { check := fun s n v =>
      firstFail [(v.length != 264, abLength), ((feRxOf s.dev n).reg.st != 0, abNotStopped),
        (!factorOk (leAt v 4 1) || 8 < leAt v 5 1 || leAt v 6 2 == 0 || 128 < leAt v 6 2, abRange)]
    apply := onDevice fun d n v => setFeRx d n { feRxOf d n with cfg := v } }

/-- `TX_STREAM_CFG`. -/
def txCfgRule : WriteRule :=
  { check := fun s n v =>
      firstFail [(v.length != 522, abLength), ((feTxOf s.dev n).reg.st != 0, abNotStopped),
        (!factorOk (leAt v 4 1) || leAt v 5 1 != 0 || leAt v 8 2 == 0 || 256 < leAt v 8 2, abRange)]
    apply := onDevice fun d n v => setFeTx d n { feTxOf d n with cfg := v } }

/-- `TX_MASK`: at the next block boundary, which a STOPPED stream is at (R299). -/
def maskRule : WriteRule :=
  { check := fun _ _ v => firstFail [(v.length != 130, abLength), (1 < leAt v 128 1 || 1 < leAt v 129 1, abRange)]
    apply := onDevice fun d n v =>
      let x := feTxOf d n
      setFeTx d n (if x.reg.st = 0 then { x with mask := v, maskNew := none } else { x with maskNew := some v }) }

/-! ### Pre-distortion and detection (R300 to R307) -/

/-- Whether a transmit stream, if any, is STOPPED. -/
def txStill (d : Dev) (n : Nat) : Bool := 64 ≤ n || (feTxOf d n).reg.st == 0

/-- `DPD_CFG`: while the streams it leaves and takes are STOPPED; a stream has one engine. -/
def dpdCfgRule : WriteRule :=
  { check := fun s n v =>
      let d := s.dev
      let t := leAt v 0 1
      firstFail [(v.length != 8, abLength), (!txStill d (dpStream (dpdOf d n).cfg) || !txStill d t, abNotStopped),
        ((63 < t && t != 0xFF) || leAt v 1 1 == 0 || 7 < leAt v 1 1 || leAt v 2 1 == 0 || 8 < leAt v 2 1 || leAt v 3 1 != 0
          || leAt v 4 4 < 4096 || 65536 < leAt v 4 4, abRange),
        (t != 0xFF && d.fe.dpd.any (fun e => e.1 != n && dpStream e.2.cfg == t), abConflict),
        (t != 0xFF && testIn d [0x06], abBusy)]
    apply := onDevice fun d n v => setDpd d n { dpdOf d n with cfg := v } }

/-- `DPD_COEF_SHADOW`; with `PIN` = 0 it is read-only (`heldReadOnly`). -/
def shadowRule : WriteRule :=
  { check := fun _ _ v => firstFail [(v.length != 448, abLength)]
    apply := onDevice fun d n v => setDpd d n { dpdOf d n with shadow := v } }

/-- `DPD_ENVELOPE`: `PIN` or `FREEZE` set during a capture discards it (R303, R304). -/
def dpdEnvRule : WriteRule :=
  { check := fun _ _ v =>
      firstFail [(v.length != 16, abLength),
        (3 < leAt v 0 1 || leAt v 1 3 != 0 || leAt v 4 4 == 0 || 65536 < leAt v 4 4, abRange)]
    apply := onDevice fun d n v =>
      let x := dpdOf d n
      setDpd d n { x with env := v, ended := x.ended || (x.cap.isSome && (dpPin v || dpFreeze v)) } }

/-- `DET_CFG`: while the detector is off. -/
def detCfgRule : WriteRule :=
  { check := fun s n v =>
      firstFail [(v.length != 12, abLength), ((detOf s.dev n).on, abNotStopped),
        (!powerIn 16 4096 (dtW v) || dtQual v == 0 || dtShift v < 4 || 16 < dtShift v || leAt v 9 1 != 0, abRange)]
    apply := onDevice fun d n v => setDet d n { detOf d n with cfg := v } }

/-- `DET_ENVELOPE`: the threshold is formed again (R306). -/
def detEnvRule : WriteRule :=
  { check := fun _ _ v =>
      firstFail [(v.length != 16, abLength), (3 < leAt v 0 1 || leAt v 1 3 != 0, abRange), (leAt v 12 4 < leAt v 8 4, abConflict)]
    apply := onDevice fun d n v => formThreshold (setDet d n { detOf d n with env := v }) n }

/-- `CORR_CFG`: while no detector is linked. -/
def corrCfgRule : WriteRule :=
  { check := fun s n v =>
      firstFail [(v.length != 8, abLength), ((corrOf s.dev n).det.isSome, abNotStopped),
        (leAt v 0 2 < 16 || 1024 < leAt v 0 2 || 4096 < leAt v 2 2 || leAt v 6 2 != 0, abRange)]
    apply := onDevice fun d n v => setCorr d n { corrOf d n with cfg := v } }

/-- `CORR_REF`. -/
def corrRefRule : WriteRule :=
  { check := fun s n v => firstFail [(v.length != 4096, abLength), ((corrOf s.dev n).det.isSome, abNotStopped)]
    apply := onDevice fun d n v => setCorr d n { corrOf d n with ref := v } }

/-- The writes of the converter-port and front-end entries. -/
def feRuleOf (idx sub : Nat) : Option WriteRule :=
  match idx with
  | 0x4000 =>
    if sub = 1 then some (stoppedRange allLinksStopped 1 3 fun d _ v => { d with fe := { d.fe with laneRate := v } })
    else some (stoppedRange allLinksStopped 0 624 fun d _ v => { d with fe := { d.fe with sysrefOffset := v } })
  | 0x4010 => some (linkRecordRule false)
  | 0x4011 => some (linkRecordRule true)
  | 0x4100 => some rxCfgRule
  | 0x4101 => some txCfgRule
  | 0x4110 => some maskRule
  | 0x4200 => some dpdCfgRule
  | 0x4201 => some shadowRule
  | 0x4204 => some dpdEnvRule
  | 0x4300 => some detCfgRule
  | 0x4301 => some detEnvRule
  | 0x4310 => some corrCfgRule
  | 0x4311 => some corrRefRule
  | _ => none

/-! ### Signal cores, chirp modem and trellis unit (R318, R338, R364, R375) -/

/-- Whether a program is resident on a core: an instance running or parked, or a part of its LC region held (R320). -/
def anyResident (d : Dev) : Bool := d.sc.cores.any fun e => !e.2.insts.isEmpty || !(partsOf d e.1).isEmpty

/-- `SC_LC_REGION`. -/
def regionRule : WriteRule :=
  { check := fun s _ v =>
      let bad (i k top : Nat) : Bool := leAt v i 2 % k != 0 || top < leAt v i 2
      firstFail [(v.length != 8, abLength), (anyResident s.dev, abNotStopped),
        (bad 0 8 64 || bad 2 16 128 || bad 4 16 128 || leAt v 6 2 != 0, abRange)]
    apply := onDevice fun d _ v =>
      let clear (e : Nat × CoreSt) : Nat × CoreSt := (e.1, { e.2 with code := none, parts := [] })
      { d with sc := { d.sc with region := v, cores := d.sc.cores.map clear } } }

/-- Whether images may be a context's program store: its own rules apart from ranges. -/
def storeFits (d : Dev) (c : Nat) (v : Bytes) (ims : List Bytes) : Bool :=
  ims.all (imageFits d) && (ims.map imId).eraseDups.length == ims.length
    && storeUsed d - (tget [] d.sc.store c).length + v.length ≤ 4194304

/-- `SC_PROGRAM_STORE`: code of the old images that a core still holds is not used again. -/
def storeRule : WriteRule :=
  { check := fun s c v =>
      let ims := storeImages (v.length / 32) v
      firstFail [(v.length % 32 != 0, abLength), (!ctxStill s.dev c, abNotStopped),
        (ims.isNone || !(ims.getD []).all imageRanges, abRange), (!storeFits s.dev c v (ims.getD []), abConflict)]
    apply := onDevice fun d c v =>
      let clear (e : Nat × CoreSt) : Nat × CoreSt :=
        (e.1, { e.2 with code := match e.2.code with | some k => if k.1 = c then none else some k | none => none })
      { d with sc := { d.sc with store := tset d.sc.store c v, cores := d.sc.cores.map clear } } }

/-- `LR_LISTENER_CFG`. -/
def lsnCfgRule : WriteRule :=
  { check := fun s n v =>
      firstFail [(v.length != 16, abLength), ((lsnOf s.dev n).reg.st != 0, abNotStopped), (!lsnCfgOk v, abRange)]
    apply := onDevice fun d n v => setLsn d n { lsnOf d n with cfg := v } }

/-- Whether a code entry is accepted (R364). -/
def codeEntryOk (c : Bytes) : Bool :=
  let k := leAt c 0 1
  let n := leAt c 1 1
  let p := leAt c 2 1
  let gen (g : Nat) : Nat := leAt c (4 + 2 * g) 2
  let mask (g : Nat) : Nat := leAt c (12 + 2 * g) 2
  3 ≤ k && k ≤ 9 && 2 ≤ n && n ≤ 4 && 1 ≤ p && p ≤ 16 && leAt c 3 1 == 0
    && (List.range 4).all (fun g => if g < n then bitAt (gen g) (k - 1) && gen g < 2 ^ k else gen g == 0 && mask g == 0)
    && (List.range p).all fun i => (List.range n).any fun g => bitAt (mask g) i

/-- `TR_CODE`; entries 0 to 2 are read-only (`heldReadOnly`). -/
def codeRule : WriteRule :=
  { check := fun _ _ v => firstFail [(v.length != 20, abLength), (!codeEntryOk v, abRange)]
    apply := onDevice fun d n v => { d with tr := { d.tr with codes := lset d.tr.codes n v } } }

/-- The writes of the signal-core, chirp-modem and trellis entries. -/
def coreRuleOf (idx : Nat) : Option WriteRule :=
  match idx with
  | 0x4401 => some regionRule
  | 0x4410 => some storeRule
  | 0x4500 => some lsnCfgRule
  | 0x4600 => some codeRule
  | _ => none

/-! ### The row -/

/-- The rule of an entry without a row of its own; an entry with none is never written. -/
def entryRule (idx sub : Nat) : WriteRule :=
  let own := match idx with
    | 0x1010 => some (inRange 1 3600 fun d _ v => { d with dict := { d.dict with timeout := v } })
    | 0x2400 => lockRuleOf sub
    | _ => none
  ((((((own.or (netRule idx)).or (ctxRuleOf idx)).or (memRuleOf idx)).or (timeRuleOf idx sub)).or (feRuleOf idx sub)).or
    (coreRuleOf idx)).getD { check := fun _ _ _ => some abReadOnly, apply := fun s _ _ => s }

/-- Entries whose writes have rows of their own. -/
def ownRow (idx sub : Nat) : Bool :=
  [0x1100, 0x2101, 0x3000, 0x3001, 0x3002, 0x3004, 0x3005, 0x4012, 0x4102, 0x4103, 0x4112, 0x4203, 0x4400, 0x4501, 0x5100,
    0x5401, 0x5501, 0x5602, 0x5610, 0x5620, 0x6000, 0x7000, 0x8010].contains idx || (idx == 0x2400 && sub == 1)

/-- ENTRY_WRITE. -/
def execEntryWrite (f : DictFrame) (s : State) : Host.Outcome State Fault Refusal :=
  dictRow s f (f.type == 0x11 && f.last && !ownRow f.index f.sub) (opWrite (entryRule f.index f.sub))

end Sys2Proof.Machine
end

