-- ==== Sys2Proof/Machine/SelfTest.lean ====
section
/-!
DEFINITION. Machine/SelfTest.lean: self-test (R473 to R480): what a request is checked for, the units in order, retirement after
a second failure, and what a destructive test leaves.
-/
namespace Sys2Proof.Machine
open Sys2Proof

/-- `TEST` of a `SELFTEST_REQUEST` (R474). -/
def stTest (v : Bytes) : Nat := beNat v / 65536 % 256
/-- `UNIT_MASK`. -/
def stMask (v : Bytes) : Nat := beNat v % 65536

/-- Whether a mask names units of a test (R473, R475). -/
def stMaskOk (t m : Nat) : Bool :=
  match t with
  | 3 | 7 | 8 | 0x0B | 0x0C => m != 0
  | 4 => m != 0 && m < 16
  | 0x0A => m != 0 && m < 256
  | _ => m == 1

/-- Whether unit `n` of a test is DISABLED or WORKED_OUT (R475, R476). -/
def stOut (d : Dev) (t n : Nat) : Bool :=
  match t with
  | 3 => (laneOf d n).reg.st == 3 || (laneOf d (16 + n)).reg.st == 3
  | 4 => (portOf d n).reg.st == 3
  | 7 | 0x0B => (benchReg d n).st == 3 || (benchReg d n).st == 4
  | 8 | 0x0C => (pairReg d n).st == 3
  | 0x0A => (chanReg d n).st == 3
  | _ => false

/-- Whether every unit of a mask that is in service satisfies a condition. -/
def stUnits (d : Dev) (t m : Nat) (p : Nat → Bool) : Bool :=
  (List.range 16).all fun n => !bitAt m n || stOut d t n || p n

/-- Whether every context is FREE. -/
def allFree (d : Dev) : Bool := (ctxsWhere d fun c => c.reg.st != ctxFree).isEmpty
/-- Whether every link and every stream is STOPPED. -/
def allStill (d : Dev) : Bool := linksStopped d (List.range 8) && rxStopped d && txStopped d

/-- The precondition of a test (R473), for the units that are in service. -/
def stReady (d : Dev) (t m : Nat) : Bool :=
  match t with
  | 3 => linksStopped d (List.range 8)
  | 4 => stUnits d t m fun n => 4 ≤ n || (portOf d n).reg.st == 0
  | 5 => !anyAdmitted d
  | 6 => rxStopped d && txStopped d && detectIdle d && d.fe.dpd.all fun e => 64 ≤ dpStream e.2.cfg
  | 7 | 0x0B => stUnits d t m fun n => (benchReg d n).st == 0
  | 8 | 0x0C => stUnits d t m fun n => (pairReg d n).st == 0
  | 9 => allFree d && allStill d
  | 0x0A => allFree d && stUnits d t m fun n => 8 ≤ n || (chanReg d n).st == 1
  | 0x0D => chirpIdle d && trellisIdle d
  | 0x0E => allFree d && allStill d && (List.range 4).all (fun p => (portOf d p).reg.st == 0 || (portOf d p).reg.st == 3) && !anyAdmitted d
  | 0x10 => allFree d
  | _ => true

/-- The checks of a request that starts a test (R475), in the order of R439. -/
def stStartCheck (d : Dev) (v : Bytes) : Option Nat :=
  let t := stTest v
  let m := stMask v
  firstFail [(t ≤ 0x10 && !stReady d t m, abNotStopped), (0x10 < t || !stMaskOk t m || 2 ^ 24 ≤ beNat v, abRange),
    ((List.range 16).any fun n => bitAt m n && stOut d t n, abTransition), (d.test.running.isSome, abBusy)]

/-- The checks of a cancel (R474 to R476). -/
def stCancelCheck (d : Dev) (v : Bytes) : Option Nat :=
  firstFail [(stMask v != 0 || 2 ^ 24 ≤ beNat v, abRange), (d.test.running.isNone, abTransition), (testIn d [0x0E], abBusy)]

/-- A test accepted: its result reads RUNNING; the road test starts a retrain of both directions (R173), and the logic scan
follows the overwriting of every secret (R459, R477). -/
def stStart (s : State) (t m : Nat) : State :=
  let d := s.dev
  let x : TestSt := { test := t, mask := m, done := 0, failed := 0, transient := 0, detail := 0, start := d.time.ticks, cancel := false }
  let d := { d with test := { d.test with running := some x } }
  let d := if t = 5 then setRoad (setRoad d .st { roadOf d .st with retrain := true }) .ts { roadOf d .ts with retrain := true } else d
  if t = 0x0E then { s with dev := d, trust := { zeroise s.trust with scanEnabled := true } } else { s with dev := d }

/-- A cancel accepted: it waits for the next unit boundary. -/
def stCancel (d : Dev) : Dev :=
  match d.test.running with
  | some t => { d with test := { d.test with running := some { t with cancel := true } } }
  | none => d

/-- `SELFTEST_REQUEST`. -/
def selfTestRule : WriteRule :=
  { check := fun s _ v => if stTest v = 0 then stCancelCheck s.dev v else stStartCheck s.dev v
    apply := fun s _ v => if stTest v = 0 then { s with dev := stCancel s.dev } else stStart s (stTest v) (stMask v) }

/-- SELFTEST_START. -/
def execSelftestStart (f : DictFrame) (s : State) : Host.Outcome State Fault Refusal :=
  dictRow s f (writesTo f 0x7000 && stTest f.payload != 0) (opWrite selfTestRule)
/-- SELFTEST_CANCEL. -/
def execSelftestCancel (f : DictFrame) (s : State) : Host.Outcome State Fault Refusal :=
  dictRow s f (writesTo f 0x7000 && stTest f.payload == 0) (opWrite selfTestRule)

/-! ### Units and results (R479, R480) -/

/-- A unit that failed twice worked out (R479); for the logic scan the domain the failure is localised to: 0 to 15 benches, 16 to
31 signal-core pairs. -/
def stRetire (d : Dev) (t n domain : Nat) : Dev :=
  match t with
  | 3 => jesdLaneOut (jesdLaneOut d n) (16 + n)
  | 4 => portWorkedOut d n
  | 7 | 0x0B => benchRetire d n
  | 8 | 0x0C => pairRetire d n
  | 0x0A => chanRetire d n
  | 0x0E => if domain < 16 then benchRetire d domain else if domain < 32 then pairRetire d (domain - 16) else d
  | _ => d

/-- The memories that a destructive test leaves zeroed (R473, R476, R477). -/
def stZeroed (d : Dev) (t m : Nat) : Dev :=
  let units (m : Nat) (d : Dev) : Dev := ((List.range 16).filter (bitAt m)).foldl clearPair d
  let front (d : Dev) : Dev := zeroDomain (zeroDomain (zeroDomain d 10) 11) 12
  let disp (d : Dev) : Dev := { d with disp := { d.disp with queues := [], syncs := [] } }
  match t with
  | 6 => front d
  | 8 | 0x0C => units m d
  | 0x10 => disp d
  | 0x0E =>
    let d := disp (front (units 0xFFFF d))
    sendTimebase (setRoad (setRoad d .st { roadOf d .st with retrain := true }) .ts { roadOf d .ts with retrain := true })
  | _ => d

/-- A unit's runs recorded: passed, passed on retest, or failed twice; a unit that hardware retired meanwhile fails (R476). -/
def stRecord (d : Dev) (t : TestSt) (n : Nat) (r : TestRun) : TestSt :=
  let failed := stOut d t.test n || (!r.pass && !r.retest)
  let first := t.failed == 0 && t.transient == 0
  { t with done := t.done ||| 2 ^ n,
           failed := if failed then t.failed ||| 2 ^ n else t.failed,
           transient := if !failed && !r.pass then t.transient ||| 2 ^ n else t.transient,
           detail := if first && !r.pass then r.detail % 2 ^ 32 else t.detail }

/-- A unit of the running test finished: units go in increasing order, and the last one, or a cancel, ends the test; after the
logic scan the LPDDR6 channels train again, and one that fails twice is worked out (R194, R477). -/
def stUnitDone (s : State) (r : TestRun) : State :=
  match s.dev.test.running with
  | none => s
  | some t =>
    match firstBelow 16 fun n => bitAt t.mask n && !bitAt t.done n with
    | none => s
    | some n =>
      let d := s.dev
      let gone := stOut d t.test n
      let x := stRecord d t n r
      let d := { d with test := { d.test with running := some x } }
      let d := if !gone && !r.pass && !r.retest then stRetire d x.test n r.domain else d
      if x.done ≠ x.mask && !x.cancel then { s with dev := d }
      else
        let status := if x.cancel then 5 else if x.failed ≠ 0 then 4 else if x.transient ≠ 0 then 3 else 2
        let d := stZeroed d x.test x.mask
        let d := testEnd (if x.test = 0x0E then r.chanFail.foldl chanRetire d else d) x status
        { s with dev := d, trust := if x.test = 0x0E then { s.trust with scanEnabled := s.trust.scanInstr == 2 } else s.trust }

/-- SELFTEST_UNIT_COMPLETE. -/
def execSelftestUnitComplete (r : TestRun) (s : State) : Host.Outcome State Fault Refusal :=
  if r.chanFail.all fun c => c < 8 then
    let t := stUnitDone s r
    .next { t with dev := settle t.dev }
  else .fault .noSuchUnit

end Sys2Proof.Machine
end

