-- ==== Sys2Proof/Machine/SysRing.lean ====
section
/-!
DEFINITION. Machine/SysRing.lean: what the tensor-die haul engine does with an inbound system-ring slot, and the signal-die one
with an outbound slot (R418 to R426).
-/
namespace Sys2Proof.Machine
open Sys2Proof

/-- What an inbound slot comes to: a refusal code or none, the device, and the outbound slots it needs. -/
structure Applied where
  code : Option Nat
  dev : Dev
  out : List SysSlot

/-- A slot refused. -/
def refuse (d : Dev) (c : Nat) : Option Applied := some ⟨some c, d, []⟩
/-- A slot in effect. -/
def applied (d : Dev) : Option Applied := some ⟨none, d, []⟩

/-- An answer's slot: data for a request. -/
def answerSlot (s : SysSlot) (type arg1 spoil : Nat) (payload : Bytes) : SysSlot :=
  { type := type, ctx := s.ctx, ep := s.ep, last := false, seq := s.seq, arg0 := s.seq, arg1 := arg1, spoil := spoil, box := [],
    payload := payload, op := none }

/-! ### Queues (R422) -/

/-- Distance from `a` up to `b` modulo 2^32. -/
def upTo (a b : Nat) : Nat := (b + 2 ^ 32 - a % 2 ^ 32) % 2 ^ 32

/-- Descriptors of a payload. -/
def payloadDescs (bs : Bytes) : List Desc :=
  (List.range (bs.length / 64)).map fun i => BitVec.ofNat 512 (leNat (slice bs (64 * i) 64))

/-- QUEUE_WRITE: `n` descriptors from index `i`, with tail ≤ `i` and `i` + `n` ≤ head + depth modulo 2^32. -/
def applyQueueWrite (d : Dev) (s : SysSlot) (lc : Bool) : Option Applied :=
  let x := queueOf d s.arg0
  let ds := payloadDescs s.payload
  let i := s.arg1 % 2 ^ 32
  if !queueAllowed d s.arg0 s.ctx lc then refuse d 2
  else if s.payload.length % 64 ≠ 0 || upTo x.head i < upTo x.head x.tail || (ctxOf d s.ctx).depth < upTo x.head i + ds.length then
    refuse d 3
  else
    applied (modQueue d s.arg0 fun x =>
      { x with descs := (ds.zipIdx i).foldl (fun t e => tset t (e.2 % 2 ^ 32) e.1) x.descs })

/-- DOORBELL: a new tail between the tail and head + depth modulo 2^32. -/
def applyDoorbell (d : Dev) (s : SysSlot) (lc : Bool) : Option Applied :=
  let x := queueOf d s.arg0
  let t := s.arg1 % 2 ^ 32
  if !queueAllowed d s.arg0 s.ctx lc then refuse d 2
  else if upTo x.head t < upTo x.head x.tail || (ctxOf d s.ctx).depth < upTo x.head t then refuse d 3
  else applied (modQueue d s.arg0 fun x => { x with tail := t })

/-! ### Tensors (R422, R423) -/

/-- A page made ready for a write through the work transport: a LOST page is fetched again from its host or is SPOILED, a page
without an LPDDR6 page gets one (R206, R209, R211). -/
def readyPage (d : Dev) (ctx p : Nat) : Dev :=
  let d := if (pageOf d ctx p).st = .lost then touchPage d ctx p none else d
  if (pageOf d ctx p).st = .hostAbsent then d
  else
    let d := assignPage d ctx p
    if (pageOf d ctx p).chan.isSome then d else pageUnserved d ctx p none

/-- 64 bytes or fewer written at an offset: into a HOST_ABSENT page they are held, into any other they are a write. -/
def writeChunk (ctx : Nat) (t : Tensor) (off : Nat) (d : Dev) (bs : Bytes) (spoil : Bool) : Dev :=
  let p := t.base + off / 65536
  let d := memWrite d ctx (tAddr t off) bs spoil
  if (pageOf d ctx p).st = .hostAbsent then modPage d ctx p fun x => { x with got := x.got ||| 2 ^ (off % 65536 / 64) }
  else markWritten d ctx t none off (off + bs.length) spoil

/-- TENSOR_WRITE's bytes, 64 at a time with their spoil bits; pages that the host has now supplied whole enter MEMORY. -/
def writeImage (d : Dev) (ctx : Nat) (t : Tensor) (off spoil : Nat) (bs : Bytes) : Dev :=
  let ps := pagesOf t off (off + bs.length)
  let d := ps.foldl (fun d p => readyPage d ctx p) d
  let d := (List.range (ceilDiv bs.length 64)).foldl (fun d i =>
    writeChunk ctx t (off + 64 * i) d ((bs.drop (64 * i)).take 64) (bitAt spoil i)) d
  (ps.filter fun p => (pageOf d ctx p).st == .hostAbsent).foldl (fun d p => hostSupply d ctx p) d

/-- TENSOR_WRITE: offset and length multiples of 64, but for a write that ends at the tensor's end. -/
def applyTensorWrite (d : Dev) (s : SysSlot) : Option Applied :=
  match tensorOf d s.ctx s.arg0 with
  | none => refuse d 4
  | some t =>
    let n := s.payload.length
    if t.size < s.arg1 + n || s.arg1 % 64 ≠ 0 || (n % 64 ≠ 0 && s.arg1 + n ≠ t.size) then refuse d 5
    else applied (writeImage d s.ctx t s.arg1 s.spoil s.payload)

/-- A byte of a tensor as the work transport reads it: open where the device does not hold its page. -/
def readImage (d : Dev) (src : Src) (off : Nat) : BitVec 8 :=
  if byteAbsent d src.ctx src.t off then Config.freeByte d.free (vkey src.ctx (tAddr src.t off)) else srcByte d src off

/-- The spoil bits of a tensor's bytes, one for each 64. -/
def imageSpoil (d : Dev) (ctx : Nat) (t : Tensor) (off n : Nat) : Nat :=
  (List.range (ceilDiv n 64)).foldl (fun m i => if memSpoil d ctx (tAddr t (off + 64 * i)) then m ||| 2 ^ i else m) 0

/-- READ_DATA slots for bytes of a tensor, each as long as a frame may be. -/
def readSlots (d : Dev) (s : SysSlot) (src : Src) (off n : Nat) : List SysSlot :=
  let m := max 64 (payloadLimit d s.ep false)
  (List.range (max 1 (ceilDiv n m))).map fun i =>
    let o := off + m * i
    let k := min m (n - m * i)
    answerSlot s 0x05 o (imageSpoil d src.ctx src.t o k) ((List.range k).map fun j => readImage d src (o + j))

/-- Pages that a frame reads from LPDDR6: those of no bench. -/
def memPages (d : Dev) (ctx : Nat) (ps : List Nat) : List Nat := ps.filter fun p => (pageOf d ctx p).copies == 0

/-- A frame's answer from bytes read from LPDDR6, `ans` being what it makes of them, with what the read comes to (R196). -/
def readApplied (d : Dev) (ctx : Nat) (ps : List Nat) (crc : List BlockFail) (ans : Dev → List SysSlot) : Option Applied :=
  let ms := memPages d ctx ps
  let r := readMarked d ctx ms crc
  some ⟨none, readDone d ctx ms crc { r with free := r.free + 1 }, ans r⟩

/-- TENSOR_READ: answered with the bytes and their spoil marks. -/
def applyTensorRead (d : Dev) (s : SysSlot) (crc : List BlockFail) : Option Applied :=
  match srcOf d s.ctx s.arg0 d.disp.nextOp with
  | none => refuse d 4
  | some src =>
    let n := getLen s.arg1
    let off := s.arg1 % 2 ^ 48
    if 4096 < n || src.t.size < off + n || off % 64 ≠ 0 || (n % 64 ≠ 0 && off + n ≠ src.t.size) then refuse d 5
    else readApplied d s.ctx (pagesOf src.t off (off + n)) crc fun d => readSlots d s src off n

/-! ### Sync objects and events (R418, R423) -/

/-- SIGNAL: an increment of a declared object of a class the frame may signal. -/
def applySignal (d : Dev) (s : SysSlot) (lc : Bool) : Option Applied :=
  let o := s.arg0 % 8192
  if !(syncOf d o).declared || !syncClassOk (syncOf d o) lc then refuse d 10
  else applied (syncAdd d o s.arg1 s.ctx s.ctx noCause 0 0)

/-- READ_DATA slots for event records from index `i`. -/
def eventSlots (d : Dev) (s : SysSlot) (i : Nat) (rs : List Bytes) : List SysSlot :=
  let m := max 2 (payloadLimit d s.ep false / 32)
  (List.range (max 1 (ceilDiv rs.length m))).map fun k =>
    answerSlot s 0x05 ((i + m * k) % 2 ^ 32) 0 ((rs.drop (m * k)).take m).flatten

/-- EVENT_READ: the records from an index on, up to the count or the last one written. -/
def applyEventRead (d : Dev) (s : SysSlot) : Option Applied :=
  let c := ctxOf d s.ctx
  let k := upTo c.evFirst s.arg0
  if s.arg1 = 0 || 128 < s.arg1 || 2 ^ 31 ≤ k then refuse d 5
  else some ⟨none, d, eventSlots d s s.arg0 ((c.evs.drop k).take s.arg1)⟩

/-- EVENT_ACK: records below an index freed, as far as they are written. -/
def applyEventAck (d : Dev) (s : SysSlot) : Option Applied :=
  applied (modCtx d s.ctx fun c =>
    let k := upTo c.evFirst s.arg0
    let n := if 2 ^ 31 ≤ k then 0 else min k c.evs.length
    { c with evs := c.evs.drop n, evFirst := (c.evFirst + n) % 2 ^ 32 })

/-! ### Peer frames (R424 to R426) -/

/-- Whether a peer frame's box suits a tensor: its format, and inside it. -/
def boxSuits (t : Tensor) (box : Bytes) : Bool := leAt box 26 1 == t.fmt && boxInside t (wireBox box)

/-- Pages of a box's bytes whose contents the device does not hold. -/
def absentPages (d : Dev) (ctx : Nat) (t : Tensor) (b : Box) (lo n : Nat) : List (Nat × Nat) :=
  ((boxPages t b lo n).map fun p => (ckey ctx p, 16)).filter fun x => !servable d x

/-- A put segment written into its tensor, once the device holds its pages. -/
def applyPut (d : Dev) (s : SysSlot) (lc : Bool) : Option Applied :=
  match tensorOf d s.ctx s.arg0 with
  | none => refuse d 4
  | some t =>
    if !boxSuits t s.box then refuse d 5
    else
      let b := wireBox s.box
      let lo := s.arg1 % 2 ^ 48
      let n := s.payload.length
      match absentPages d s.ctx t b lo n with
      | _ :: _ => none
      | [] =>
        let d := (boxPages t b lo n).foldl (fun d p => readyPage d s.ctx p) d
        let d := boxWrite d s.ctx t none b lo (withSpoil s.spoil s.payload)
        applied (segWritten d s.ep lc s.ctx s.arg0 s.box s.last)

/-- A get of a tensor read, once the device holds its pages; latency-critical gets come first (R425). -/
def applyGet (d : Dev) (s : SysSlot) (lc : Bool) (crc : List BlockFail) : Option Applied :=
  match srcOf d s.ctx s.arg0 d.disp.nextOp with
  | none => refuse d 4
  | some src =>
    if !boxSuits src.t s.box then refuse d 5
    else
      let b := wireBox s.box
      let lo := s.arg1 % 2 ^ 48
      let n := getLen s.arg1
      if !(absentPages d s.ctx src.t b lo n).isEmpty || (!lc && (sysOpen d false true).any fun y => y.type == 0x11 && y.left == 0) then none
      else
        readApplied d s.ctx (boxPages src.t b lo n) crc fun d =>
          let bs := boxRead d src b lo n
          [answerSlot s 0x12 lo (segSpoil bs) (bs.map fun e => e.1)]

/-- A reply to a get of this device written into its tensor. -/
def applyData (d : Dev) (s : SysSlot) (lc : Bool) : Option Applied :=
  match getOf d s.ep lc s.arg0 with
  | none => applied d
  | some g =>
    let d := dropGet d g
    match opOf d g.op with
    | none => applied d
    | some o =>
      match sideTensor d o.ctx (mvTo o.desc) with
      | none => applied d
      | some t =>
        let d := (boxPages t (mvBox o.desc true) g.lo g.len).foldl (fun d p => readyPage d o.ctx p) d
        applied (landTensor d g.op t (withSpoil s.spoil s.payload) { o with got := g.lo })

/-- What an inbound slot comes to: none while it must wait. -/
def applySlot (d : Dev) (s : SysSlot) (lc : Bool) (crc : List BlockFail) : Option Applied :=
  match s.type with
  | 0x01 => applyQueueWrite d s lc
  | 0x02 => applyDoorbell d s lc
  | 0x03 => applyTensorWrite d s
  | 0x04 => applyTensorRead d s crc
  | 0x06 => applySignal d s lc
  | 0x07 => applyEventRead d s
  | 0x08 => applyEventAck d s
  | 0x10 => applyPut d s lc
  | 0x11 => applyGet d s lc crc
  | _ => applyData d s lc

/-- Pages that a waiting put or get touches: their host is asked for them (R208). -/
def slotTouch (d : Dev) (s : SysSlot) : Dev :=
  match tensorOf d s.ctx s.arg0 with
  | some t =>
    if (s.type = 0x10 || s.type = 0x11) && boxSuits t s.box then
      touchAll d (absentPages d s.ctx t (wireBox s.box) (s.arg1 % 2 ^ 48) (if s.type = 0x10 then s.payload.length else getLen s.arg1)) none
    else d
  | none => d

/-- A slot's refusal: a put frees its credit and gives no arrival increment; the STATUS goes back through the outbound ring, or
at once when the road is down (R420, R421). -/
def slotRefused (d : Dev) (lc : Bool) (s : SysSlot) (c : Nat) : Dev :=
  let d := if s.type = 0x10 then
      markBroken (modRx d s.ep lc fun r => { r with freed := r.freed + 1 }) s.ep lc s.arg0 s.box
    else d
  if roadDown d then sendStatus d s.ep lc s.seq c
  else sysPost d true lc { answerSlot s 0x22 0 0 [] with arg0 := c }

/-- The first inbound slot of a class that has not been given back, once all its flits are there: applied or refused and given
back (R420). Where the road is down it is refused and EMPTY at once (R176, R421). -/
def slotApply (d : Dev) (lc : Bool) (crc : List BlockFail) : Dev :=
  match sysOpen d false lc with
  | [] => d
  | s :: _ =>
    if roadDown d then ackUp (slotRefused (sysDrop d false lc s.num) lc s 9) s.ep lc false
    else if s.left ≠ 0 then d
    else
      match (if d.mem.down then refuse d 9 else applySlot d s lc crc) with
      | none => slotTouch d s
      | some r =>
        let need := r.out.length + (if r.code.isSome then 1 else 0)
        if 32 < (sysRing d true lc).length + need then d
        else
          let d := match r.code with
            | some c => slotRefused r.dev lc s c
            | none => r.out.foldl (fun d x => sysPost d true lc x) r.dev
          sysGive d false lc s.num

/-- SYSTEM_RING_SLOT_APPLY, with the blocks whose CRC fails as it reads LPDDR6 (R196). -/
def execSystemRingSlotApply (lc : Reading Bool) (s : State) : Host.Outcome State Fault Refusal :=
  runDev (failsOk lc.fails) s fun d => slotApply d lc.of lc.fails

/-- The frame of an outbound slot. -/
def slotFrame (s : SysSlot) (lc : Bool) (ctx : Nat) : TxFrame :=
  { ep := s.ep, lc := lc, type := s.type, session := 0, seq := 0, ackSeq := 0, freed := 0, ackValid := false, last := s.last,
    ctx := ctx, arg0 := s.arg0, arg1 := s.arg1, spoil := s.spoil, box := s.box, payload := s.payload }

/-- The first outbound slot of a class that has not been given back, once all its flits are there: a STATUS goes out at once,
data in a sequenced frame, a put segment with a credit, and the slot is given back (R415, R420, R425). What a worked-out road
cuts off is lost (R176). -/
def slotSend (d : Dev) (lc : Bool) : Dev :=
  match sysOpen d true lc with
  | [] => d
  | s :: _ =>
    if roadDown d then sysDrop d true lc s.num
    else if s.left ≠ 0 then d
    else if s.type = 0x22 then sendStatus (sysGive d true lc s.num) s.ep lc s.seq s.arg0
    else if s.type = 0x10 then
      if (txOf (epOf d s.ep) lc).session.isNone then openTx d s.ep lc
      else if canSend d s.ep lc && hasCredit d s.ep lc then sendFrame (sysGive d true lc s.num) (slotFrame s lc s.ctx) s.op
      else d
    else if canSend d s.ep lc then
      sendFrame (sysGive d true lc s.num) (slotFrame s lc (if s.type = 0x12 then epRemoteCtx (epOf d s.ep) else s.ctx)) none
    else d

/-- SYSTEM_RING_SLOT_SEND. -/
def execSystemRingSlotSend (lc : Bool) (s : State) : Host.Outcome State Fault Refusal :=
  runDev true s fun d => slotSend d lc

end Sys2Proof.Machine
end

