-- ==== Sys2Proof/Machine/Tick.lean ====
section
/-!
DEFINITION. Machine/Tick.lean: what an empty queue gives: one tick of the arithmetic clock (DESIGN CHOICE, assumption log 6), and
the commands that name a tick (R383, R385).
-/
namespace Sys2Proof.Machine
open Sys2Proof

/-- The device one tick later: the time unit moves on, and receive samples that are due reach the signal store (R289). -/
def tickAll (d : Dev) : Dev := rxDueAll (tickDev d)

/-- One tick of the arithmetic clock, while the device is up. -/
def tickState (s : State) : State :=
  if s.dev.boot.phase = .up then { s with dev := tickAll s.dev } else s

/-- SECOND_ROLLOVER: the tick on which the seconds advance (R383, R401). -/
def execSecondRollover (s : State) : Host.Outcome State Fault Refusal :=
  onDev true s fun d => if d.boot.phase = .up && rollsOver d.time then tickAll d else d

/-- SLEW_COMPLETE: the last tick of a slew (R385). -/
def execSlewComplete (s : State) : Host.Outcome State Fault Refusal :=
  onDev true s fun d => if d.boot.phase = .up && d.time.slew.isSome && (slewNext d.time).isNone then tickAll d else d

end Sys2Proof.Machine
end

