-- ==== Sys2Proof/Machine/Dispatch.lean ====
section
/-!
DEFINITION. Machine/Dispatch.lean: one arm per command, each one direct call of its meaning.
-/
namespace Sys2Proof.Machine
open Sys2Proof

/-- What a command does to everything but the queue of waiting commands. -/
def exec (i : Instr) (s : State) : Host.Outcome State Fault Refusal :=
  match i with
  | .porstAssert => Sys2Proof.Machine.execPorstAssert s
  | .porstRelease b => Sys2Proof.Machine.execPorstRelease b s
  | .resetAssert => Sys2Proof.Machine.execResetAssert s
  | .resetRelease b => Sys2Proof.Machine.execResetRelease b s
  | .pwrGoodLow => Sys2Proof.Machine.execPwrGoodLow s
  | .pllLockLoss => Sys2Proof.Machine.execPllLockLoss s
  | .rsaIdentityDerived matchesRecord => Sys2Proof.Machine.execRsaIdentityDerived matchesRecord s
  | .thermalTrip => Sys2Proof.Machine.execThermalTrip s
  | .thermalThrottle temp => Sys2Proof.Machine.execThermalThrottle temp s
  | .powerEstimate watts milliamps ack => Sys2Proof.Machine.execPowerEstimate watts milliamps ack s
  | .avsLoopUpdate choice sensed ack => Sys2Proof.Machine.execAvsLoopUpdate choice sensed ack s
  | .supplyUndervoltage mv => Sys2Proof.Machine.execSupplyUndervoltage mv s
  | .supplyRecovery mv => Sys2Proof.Machine.execSupplyRecovery mv s
  | .powerUpComplete => Sys2Proof.Machine.execPowerUpComplete s
  | .idcode => Sys2Proof.Machine.execIdcode s
  | .bypass => Sys2Proof.Machine.execBypass s
  | .boundaryScan => Sys2Proof.Machine.execBoundaryScan s
  | .timebaseDescriptor => Sys2Proof.Machine.execTimebaseDescriptor s
  | .tbIncrementWrite f => Sys2Proof.Machine.execTbIncrementWrite f s
  | .tbSlewWrite f => Sys2Proof.Machine.execTbSlewWrite f s
  | .slewComplete => Sys2Proof.Machine.execSlewComplete s
  | .tbStepWrite f => Sys2Proof.Machine.execTbStepWrite f s
  | .tbTodSetWrite f => Sys2Proof.Machine.execTbTodSetWrite f s
  | .timebaseAlign f => Sys2Proof.Machine.execTimebaseAlign f s
  | .timebaseFreeRun f => Sys2Proof.Machine.execTimebaseFreeRun f s
  | .secondRollover => Sys2Proof.Machine.execSecondRollover s
  | .ptpMessageReceived m => Sys2Proof.Machine.execPtpMessageReceived m s
  | .ptpMessageTransmit k => Sys2Proof.Machine.execPtpMessageTransmit k s
  | .tuArm q => Sys2Proof.Machine.execTuArm q s
  | .tuDisarm q => Sys2Proof.Machine.execTuDisarm q s
  | .triggerIncrementSend trig => Sys2Proof.Machine.execTriggerIncrementSend trig s
  | .triggerFiring trig => Sys2Proof.Machine.execTriggerFiring trig s
  | .pulseEnd out => Sys2Proof.Machine.execPulseEnd out s
  | .captureEdge cap => Sys2Proof.Machine.execCaptureEdge cap s
  | .sysrefEdge => Sys2Proof.Machine.execSysrefEdge s
  | .dictOpen f => Sys2Proof.Machine.execDictOpen f s
  | .dictClose f => Sys2Proof.Machine.execDictClose f s
  | .dictRead f => Sys2Proof.Machine.execDictRead f s
  | .dictWriteSegment f => Sys2Proof.Machine.execDictWriteSegment f s
  | .dictSessionTimeout session => Sys2Proof.Machine.execDictSessionTimeout session s
  | .dictCrcError port => Sys2Proof.Machine.execDictCrcError port s
  | .entryWrite f => Sys2Proof.Machine.execEntryWrite f s
  | .flagClear f => Sys2Proof.Machine.execFlagClear f s
  | .contextCreate f => Sys2Proof.Machine.execContextCreate f s
  | .contextActivate f => Sys2Proof.Machine.execContextActivate f s
  | .contextStop f => Sys2Proof.Machine.execContextStop f s
  | .contextStopped ctx => Sys2Proof.Machine.execContextStopped ctx s
  | .contextDestroy f => Sys2Proof.Machine.execContextDestroy f s
  | .queueResume f => Sys2Proof.Machine.execQueueResume f s
  | .queueReset f => Sys2Proof.Machine.execQueueReset f s
  | .graphAdmit f => Sys2Proof.Machine.execGraphAdmit f s
  | .graphWithdraw f => Sys2Proof.Machine.execGraphWithdraw f s
  | .haulTagsPeakReset f => Sys2Proof.Machine.execHaulTagsPeakReset f s
  | .lockstepArm f => Sys2Proof.Machine.execLockstepArm f s
  | .lockstepDisable f => Sys2Proof.Machine.execLockstepDisable f s
  | .benchGateRequest f => Sys2Proof.Machine.execBenchGateRequest f s
  | .benchReadyRequest f => Sys2Proof.Machine.execBenchReadyRequest f s
  | .benchDrainComplete bench => Sys2Proof.Machine.execBenchDrainComplete bench s
  | .pairGateRequest f => Sys2Proof.Machine.execPairGateRequest f s
  | .pairReadyRequest f => Sys2Proof.Machine.execPairReadyRequest f s
  | .pairDrainComplete pair => Sys2Proof.Machine.execPairDrainComplete pair s
  | .domainGateRequest f => Sys2Proof.Machine.execDomainGateRequest f s
  | .domainReadyRequest f => Sys2Proof.Machine.execDomainReadyRequest f s
  | .channelDrainRequest f => Sys2Proof.Machine.execChannelDrainRequest f s
  | .pageMoveComplete chan target => Sys2Proof.Machine.execPageMoveComplete chan target s
  | .linkStartRequest f => Sys2Proof.Machine.execLinkStartRequest f s
  | .linkStopRequest f => Sys2Proof.Machine.execLinkStopRequest f s
  | .streamStopRequest f => Sys2Proof.Machine.execStreamStopRequest f s
  | .listenerStopRequest f => Sys2Proof.Machine.execListenerStopRequest f s
  | .portDownRequest f => Sys2Proof.Machine.execPortDownRequest f s
  | .portReadyRequest f => Sys2Proof.Machine.execPortReadyRequest f s
  | .maskRearm f => Sys2Proof.Machine.execMaskRearm f s
  | .dpdSwap f => Sys2Proof.Machine.execDpdSwap f s
  | .attestRequest f => Sys2Proof.Machine.execAttestRequest f s
  | .attestReportReady => Sys2Proof.Machine.execAttestReportReady s
  | .selftestStart f => Sys2Proof.Machine.execSelftestStart f s
  | .selftestCancel f => Sys2Proof.Machine.execSelftestCancel f s
  | .selftestUnitComplete r => Sys2Proof.Machine.execSelftestUnitComplete r s
  | .syncDeclare q => Sys2Proof.Machine.execSyncDeclare q s
  | .syncSet q => Sys2Proof.Machine.execSyncSet q s
  | .syncWait q => Sys2Proof.Machine.execSyncWait q s
  | .syncHold q => Sys2Proof.Machine.execSyncHold q s
  | .syncRelease q => Sys2Proof.Machine.execSyncRelease q s
  | .syncUndeclare q => Sys2Proof.Machine.execSyncUndeclare q s
  | .fence q => Sys2Proof.Machine.execFence q s
  | .launchAt q => Sys2Proof.Machine.execLaunchAt q s
  | .waitTimeout q => Sys2Proof.Machine.execWaitTimeout q s
  | .boostExhausted obj => Sys2Proof.Machine.execBoostExhausted obj s
  | .descriptorComplete op => Sys2Proof.Machine.execDescriptorComplete op s
  | .reservationOpen g k => Sys2Proof.Machine.execReservationOpen g k s
  | .reservationEnd g k => Sys2Proof.Machine.execReservationEnd g k s
  | .preemptComplete op => Sys2Proof.Machine.execPreemptComplete op s
  | .operationResume op => Sys2Proof.Machine.execOperationResume op s
  | .admissionRevoked g => Sys2Proof.Machine.execAdmissionRevoked g s
  | .usageRatioHalving => Sys2Proof.Machine.execUsageRatioHalving s
  | .matmul q run => Sys2Proof.Machine.execMatmul q run s
  | .convolve q run => Sys2Proof.Machine.execConvolve q run s
  | .vop q run => Sys2Proof.Machine.execVop q run s
  | .quant q run => Sys2Proof.Machine.execQuant q run s
  | .layer q => Sys2Proof.Machine.execLayer q s
  | .lockstepSample f => Sys2Proof.Machine.execLockstepSample f s
  | .lockstepTimeout => Sys2Proof.Machine.execLockstepTimeout s
  | .move q => Sys2Proof.Machine.execMove q s
  | .ringCreate q => Sys2Proof.Machine.execRingCreate q s
  | .ringDestroy q => Sys2Proof.Machine.execRingDestroy q s
  | .ringReset q => Sys2Proof.Machine.execRingReset q s
  | .ringSlotFull ring => Sys2Proof.Machine.execRingSlotFull ring s
  | .ringSlotEmpty ring => Sys2Proof.Machine.execRingSlotEmpty ring s
  | .conveyorSlotAccept op bench => Sys2Proof.Machine.execConveyorSlotAccept op bench s
  | .conveyorFetch op => Sys2Proof.Machine.execConveyorFetch op s
  | .pageInComplete op crc => Sys2Proof.Machine.execPageInComplete op crc s
  | .hostPageTimeout ctx page => Sys2Proof.Machine.execHostPageTimeout ctx page s
  | .pageMigration ctx page target => Sys2Proof.Machine.execPageMigration ctx page target s
  | .alloc q => Sys2Proof.Machine.execAlloc q s
  | .free q => Sys2Proof.Machine.execFree q s
  | .slotData dir => Sys2Proof.Machine.execSlotData dir s
  | .slotRelease dir => Sys2Proof.Machine.execSlotRelease dir s
  | .descriptorFlit dir => Sys2Proof.Machine.execDescriptorFlit dir s
  | .linkFlit dir => Sys2Proof.Machine.execLinkFlit dir s
  | .flitCrcError dir => Sys2Proof.Machine.execFlitCrcError dir s
  | .roadRetrainComplete failing => Sys2Proof.Machine.execRoadRetrainComplete failing s
  | .laneLock lane => Sys2Proof.Machine.execLaneLock lane s
  | .laneLockTimeout lane => Sys2Proof.Machine.execLaneLockTimeout lane s
  | .laneLockLoss lane => Sys2Proof.Machine.execLaneLockLoss lane s
  | .lemcRelease link late => Sys2Proof.Machine.execLemcRelease link late s
  | .jesdMultiblock lane crcOk => Sys2Proof.Machine.execJesdMultiblock lane crcOk s
  | .rxSample stream ic qd => Sys2Proof.Machine.execRxSample stream ic qd s
  | .txSampleDue stream => Sys2Proof.Machine.execTxSampleDue stream s
  | .maskBlock stream => Sys2Proof.Machine.execMaskBlock stream s
  | .dpdCaptureStart n => Sys2Proof.Machine.execDpdCaptureStart n s
  | .dpdCaptureComplete n c => Sys2Proof.Machine.execDpdCaptureComplete n c s
  | .dpdBankSwap n => Sys2Proof.Machine.execDpdBankSwap n s
  | .feStart q => Sys2Proof.Machine.execFeStart q s
  | .streamStart stream => Sys2Proof.Machine.execStreamStart stream s
  | .feStop q => Sys2Proof.Machine.execFeStop q s
  | .streamStop stream => Sys2Proof.Machine.execStreamStop stream s
  | .feDetectStart q => Sys2Proof.Machine.execFeDetectStart q s
  | .feDetectStop q => Sys2Proof.Machine.execFeDetectStop q s
  | .noiseFloorUpdate det => Sys2Proof.Machine.execNoiseFloorUpdate det s
  | .detection det => Sys2Proof.Machine.execDetection det s
  | .holdoffEnd det => Sys2Proof.Machine.execHoldoffEnd det s
  | .correlatorSearchEnd corr => Sys2Proof.Machine.execCorrelatorSearchEnd corr s
  | .scRun q checks => Sys2Proof.Machine.execScRun q checks s
  | .nop core => Sys2Proof.Machine.execNop core s
  | .vmov core => Sys2Proof.Machine.execVmov core s
  | .cadd core => Sys2Proof.Machine.execCadd core s
  | .csub core => Sys2Proof.Machine.execCsub core s
  | .conj core => Sys2Proof.Machine.execConj core s
  | .perm core => Sys2Proof.Machine.execPerm core s
  | .bfly core => Sys2Proof.Machine.execBfly core s
  | .widen core => Sys2Proof.Machine.execWiden core s
  | .cmul core => Sys2Proof.Machine.execCmul core s
  | .cmulc core => Sys2Proof.Machine.execCmulc core s
  | .cmac core => Sys2Proof.Machine.execCmac core s
  | .cmacc core => Sys2Proof.Machine.execCmacc core s
  | .mag2 core => Sys2Proof.Machine.execMag2 core s
  | .hadd core => Sys2Proof.Machine.execHadd core s
  | .rnds core => Sys2Proof.Machine.execRnds core s
  | .cls core => Sys2Proof.Machine.execCls core s
  | .bexp core => Sys2Proof.Machine.execBexp core s
  | .bshl core => Sys2Proof.Machine.execBshl core s
  | .bshr core => Sys2Proof.Machine.execBshr core s
  | .cfadd core => Sys2Proof.Machine.execCfadd core s
  | .cfmul core => Sys2Proof.Machine.execCfmul core s
  | .cfmac core => Sys2Proof.Machine.execCfmac core s
  | .cfmacc core => Sys2Proof.Machine.execCfmacc core s
  | .rndf core => Sys2Proof.Machine.execRndf core s
  | .cvtf core => Sys2Proof.Machine.execCvtf core s
  | .ldi core => Sys2Proof.Machine.execLdi core s
  | .addi core => Sys2Proof.Machine.execAddi core s
  | .add core => Sys2Proof.Machine.execAdd core s
  | .sub core => Sys2Proof.Machine.execSub core s
  | .and core => Sys2Proof.Machine.execAnd core s
  | .shli core => Sys2Proof.Machine.execShli core s
  | .controlNop core => Sys2Proof.Machine.execControlNop core s
  | .loop core => Sys2Proof.Machine.execLoop core s
  | .loopExit core => Sys2Proof.Machine.execLoopExit core s
  | .br core => Sys2Proof.Machine.execBr core s
  | .bz core => Sys2Proof.Machine.execBz core s
  | .bnz core => Sys2Proof.Machine.execBnz core s
  | .halt core => Sys2Proof.Machine.execHalt core s
  | .cycleLimitReached core => Sys2Proof.Machine.execCycleLimitReached core s
  | .rclaim core => Sys2Proof.Machine.execRclaim core s
  | .rpost core => Sys2Proof.Machine.execRpost core s
  | .rtake core => Sys2Proof.Machine.execRtake core s
  | .rgive core => Sys2Proof.Machine.execRgive core s
  | .sig core => Sys2Proof.Machine.execSig core s
  | .lrTx q => Sys2Proof.Machine.execLrTx q s
  | .lrFrameStart m hw => Sys2Proof.Machine.execLrFrameStart m hw s
  | .lrMixEnable q => Sys2Proof.Machine.execLrMixEnable q s
  | .lrMixDisable q => Sys2Proof.Machine.execLrMixDisable q s
  | .mixSlotFill mix => Sys2Proof.Machine.execMixSlotFill mix s
  | .lrListenStart q => Sys2Proof.Machine.execLrListenStart q s
  | .lrListenStop q => Sys2Proof.Machine.execLrListenStop q s
  | .preambleDeclared lst sf => Sys2Proof.Machine.execPreambleDeclared lst sf s
  | .demodSymbol dem hw => Sys2Proof.Machine.execDemodSymbol dem hw s
  | .trEnc q => Sys2Proof.Machine.execTrEnc q s
  | .trDec q => Sys2Proof.Machine.execTrDec q s
  | .trellisCodewordStart eng => Sys2Proof.Machine.execTrellisCodewordStart eng s
  | .trellisCodewordComplete eng hw => Sys2Proof.Machine.execTrellisCodewordComplete eng hw s
  | .pcsLockLoss port => Sys2Proof.Machine.execPcsLockLoss port s
  | .pcsLockRegain port => Sys2Proof.Machine.execPcsLockRegain port s
  | .arpRequest m => Sys2Proof.Machine.execArpRequest m s
  | .neighborDiscovery m => Sys2Proof.Machine.execNeighborDiscovery m s
  | .icmpEcho m payload => Sys2Proof.Machine.execIcmpEcho m payload s
  | .unaddressedFrame m => Sys2Proof.Machine.execUnaddressedFrame m s
  | .fcsError port => Sys2Proof.Machine.execFcsError port s
  | .wtCrcError port => Sys2Proof.Machine.execWtCrcError port s
  | .queueWrite f => Sys2Proof.Machine.execQueueWrite f s
  | .doorbell f => Sys2Proof.Machine.execDoorbell f s
  | .tensorWrite f => Sys2Proof.Machine.execTensorWrite f s
  | .tensorRead f => Sys2Proof.Machine.execTensorRead f s
  | .signal f => Sys2Proof.Machine.execSignal f s
  | .eventRead f => Sys2Proof.Machine.execEventRead f s
  | .eventAck f => Sys2Proof.Machine.execEventAck f s
  | .peerPut f => Sys2Proof.Machine.execPeerPut f s
  | .peerGet f => Sys2Proof.Machine.execPeerGet f s
  | .peerData f => Sys2Proof.Machine.execPeerData f s
  | .wtOpen f => Sys2Proof.Machine.execWtOpen f s
  | .wtAck f => Sys2Proof.Machine.execWtAck f s
  | .wtStatus f => Sys2Proof.Machine.execWtStatus f s
  | .resendTimeout ep lc => Sys2Proof.Machine.execResendTimeout ep lc s
  | .systemRingSlotApply lc => Sys2Proof.Machine.execSystemRingSlotApply lc s
  | .systemRingSlotSend lc => Sys2Proof.Machine.execSystemRingSlotSend lc s
  | .gateIntervalEnd port => Sys2Proof.Machine.execGateIntervalEnd port s
  | .streamGateIntervalEnd gate => Sys2Proof.Machine.execStreamGateIntervalEnd gate s
  | .cbHistoryReset stream => Sys2Proof.Machine.execCbHistoryReset stream s

end Sys2Proof.Machine
end

