-- ==== Sys2Proof/Safety.lean ====
section
/-!
DEFINITION. Safety.lean: what counts as a safe state: what the trust rules promise of the secrets (R453, R456, R459, R477,
R496); and the terms in which the statements say what a command does.
-/
namespace Sys2Proof
open Sys2Proof.Machine

/-- No attestation without secrets, scan enabled or selected only after they are overwritten, and no attestation by a device whose
identity key does not match its record (R456, R459, R496). -/
structure TrustSafe (t : Trust) : Prop where
  noSecrets : t.secretsZeroed = true → t.attestReady = false
  scanAfter : t.scanEnabled = true → t.secretsZeroed = true
  mismatch : t.idMismatch = true → t.attestReady = false
  selected : t.scanInstr = 2 → t.secretsZeroed = true

/-- A safe state. -/
def Safe (s : State) : Prop := TrustSafe s.trust

end Sys2Proof

namespace Sys2Proof.Machine
open Sys2Proof

/-! ### How a statement says what a command does -/

/-- The command answers the next state whose device is `d` and what follows from `d` by itself; nothing else of the state
changes. -/
def Does (c : Instr) (s : State) (d : Dev) : Prop := exec c s = .next { s with dev := settle d }

/-- The command answers the next state whose device is `d`; nothing else of the state changes. -/
def DoesJust (c : Instr) (s : State) (d : Dev) : Prop := exec c s = .next { s with dev := d }

/-- The published head of queue `q` is `h`, its context is ACTIVE, no LAYER holds it back, its header is good, its header wait is
met, the haul road carries it where its engine is on the signal die, and its engine is in service (R170, R223, R224, R227, R228). -/
structure HeadReady (d : Dev) (q : Nat) (h : Head) (invalid : Nat) : Prop where
  queue : q < 16384
  head : headOf d q = some h
  active : (ctxOf d h.ctx).reg.st = ctxActive
  free : layerHolds d h.ctx q = false
  header : headerReason d h invalid = none
  wait : waitMet d h.desc = true
  road : onSignalDie d h.desc = true → canCross d .ts h.lc = true
  gate : gateReason d h.desc = none

/-- Frame `f` is the next request of session `x` on an open session, and `d` is the device with the frame received (R405, R433
to R441). -/
structure Turn (s : State) (f : DictFrame) (d : Dev) (x : Session) : Prop where
  frame : dictFrameOk f = true
  good : badFrame f = false
  notOpen : f.type ≠ 1
  turn : ∃ r y, receive s.dev f.eth (dictMine s.dev f.eth) = (true, r)
    ∧ tfind (dictCrcPassed r f.eth.port).dict.sessions f.session = some y
    ∧ x = { y with heard := (dictCrcPassed r f.eth.port).time.ticks }
    ∧ d = { dictCrcPassed r f.eth.port with
              dict := { (dictCrcPassed r f.eth.port).dict with
                          sessions := tset (dictCrcPassed r f.eth.port).dict.sessions f.session x } }
  next : f.seq = (x.seq + 1) % 2 ^ 32

/-- The state after request `f` comes to `r`: the answer is sent and kept, and what follows by itself is done (R435). -/
def answered (f : DictFrame) (r : Served) : State := { dictFinish f r with dev := settle (dictFinish f r).dev }

/-- A request that names no snapshot or staged value of its session answered without a payload. -/
def done (f : DictFrame) (x : Session) (s : State) : State := answered f (servedOk { x with staged := none } s)

/-- One frame writes a whole value of the right length to subindex `n`, counted from the first of its entry's rows, of the
writable index `i` (R437 to R440). -/
structure Writes (s : State) (f : DictFrame) (d : Dev) (x : Session) (i n : Nat) : Prop extends Turn s f d x where
  write : f.type = 0x11
  first : f.first = true
  last : f.last = true
  start : f.offset = 0
  whole : f.total = f.payload.length
  index : f.index = i
  entry : ∃ e, dictAccess { s with dev := d } f true = .ok e ∧ f.sub - e.lo = n
    ∧ (∀ k, typeLen e.ty = some k → f.payload.length = k)

/-- A request to a state register in state `g` that names its generation and state `r` (R442, R443). -/
def asks (f : DictFrame) (g : GenSt) (r : Nat) : Prop := beNat f.payload = g.gen * 65536 + r

/-- The dictionary write `f` of command `c` leaves the device `d'` and is answered without an ABORT. -/
def WriteDoes (c : Instr) (s : State) (f : DictFrame) (x : Session) (d' : Dev) : Prop :=
  exec c s = .next (done f x { s with dev := d' })

/-- The device as a full reset leaves it, with the PLL locked or not; the model's count of free values (log entry 1) is any. -/
def atReset (s : State) : Prop :=
  s.dev = { Dev.reset with free := s.dev.free, boot := { BootSt.reset with pllLocked := s.dev.boot.pllLocked } }

/-- A detector that is not bound and has nothing due. -/
def detIdle (x : DetSt) : Prop :=
  x.on = false ∧ x.noiseDue = false ∧ x.detDue = false ∧ x.endDue = false ∧ x.corr = none

/-- Core `n` runs instance `i` of operation `o`, past every expired loop, below its limit, with no memory check due, and its next
word is `w`, which is legal (R327, R328, R342, R347). -/
structure NextWord (d : Dev) (n : Nat) (i : Inst) (o : Op) (w : Nat) : Prop where
  core : n < 32
  inst : ∃ j, running d n = some j ∧ i = flushLoops 5 j ∧ ∀ e ∈ j.fails, j.cycles < e.1
  op : opOf d i.op = some o
  limit : limitReached i = false
  word : fetchWord i = some w
  legal : illegal i w = false

/-- Version 1 frame `f` from endpoint `n` passes the receive path and its CRC; `d` is the device that has received it (R405, R410,
R412, R416). -/
structure FrameFrom (s : State) (f : WtFrame) (n : Nat) (d : Dev) : Prop where
  frame : wtFrameOk f = true
  good : f.version = 1
  turn : ∃ r, receive s.dev f.eth (f.eth.port < 4 && f.eth.dstUdp == 50211 && addressed s.dev f.eth) = (true, r)
    ∧ d = crcPassed r f.eth.port
  sender : epFrom d f.eth = some n

/-- What a frame's acknowledgement fields do, where they are valid (R412, R414). -/
def acked (f : WtFrame) (n : Nat) (d : Dev) : Dev := if f.ackValid then takeAck d n f.lc f.ackSeq f.freed else d

/-- Frame `f` from endpoint `n` is of a type its endpoint may send and is next in its open stream; `d` is the device that has taken
what it acknowledges and counted it in (R411 to R414, R417). -/
structure FrameTurn (s : State) (f : WtFrame) (n : Nat) (d : Dev) : Prop where
  known : typeKnown f.type = true
  ordered : f.type < 0x20
  size : f.payload.length ≤ 4096
  turn : ∃ e, FrameFrom s f n e ∧ (rxOf (epOf (acked f n e) n) f.lc).session = some f.session
    ∧ (rxOf (epOf (acked f n e) n) f.lc).next = f.seq ∧ d = modRx (acked f n e) n f.lc fun x => { x with next := (x.next + 1) % 2 ^ 32 }
  may : typeAllowed (epKind (epOf d n)) f.type = true

/-- A frame that has been counted in refused with a code, and acknowledged in its order (R414, R417). -/
def refusedWith (f : WtFrame) (n : Nat) (d : Dev) (code : Nat) : Dev := ackUp (sendStatus d n f.lc f.seq code) n f.lc false

end Sys2Proof.Machine
end

