-- ==== Sys2Proof/Certificates/Slice0/Obligations.lean ====
section
/-!
DEFINITION. Certificates/Slice0/Obligations.lean: the statements for the provers. What a command does is stated as the device it
leaves, built from the shared operations, before `settle` carries out what follows from it by itself; fields that are not named
are unchanged.
-/
open Sys2Proof Sys2Proof.Machine

/-! ### The step and the whole command set -/

/-- A step takes the command at the front of the queue and carries it out on the rest. -/
def Obligations.StepRunsFront : Prop :=
  ∀ (s : State) (c : Instr) (rest : List Instr), step { s with pending := c :: rest } = exec c { s with pending := rest }

/-- With no command waiting a step is one tick of the arithmetic clock of a device that is up, and nothing otherwise (the model's
choice, log entry 6). One tick of the time of day with no setting, step or alignment waiting: a second's end carries into the
seconds and pulses `TU_PPS` where it is enabled, and the last tick of a slew adds its share and ends it (R383, R385, R401, R403);
receive samples due on the tick are stored (R289). A SECOND_ROLLOVER or SLEW_COMPLETE that the next tick does not bring, or of a
device that is not up, changes nothing. -/
def Obligations.TimeTicks : Prop :=
  (∀ s : State, s.pending = [] → step s = .next (if s.dev.boot.phase = .up then { s with dev := tickAll s.dev } else s))
    ∧ (∀ s : State, s.dev.boot.phase = .up → s.dev.time.set = none → s.dev.time.step = none → s.dev.time.align = none →
         s.dev.time.nano < secondUnits → s.dev.time.inc ≤ secondUnits →
         let t := s.dev.time
         let d := (s.dev.disp.queues.map fun e => e.1).foldl markWait s.dev
         let next := (t.ticks + 1) % 2 ^ 64
         (secondUnits ≤ t.nano + t.inc → t.slew = none → leAt t.pps 0 1 = 0 →
             DoesJust .secondRollover s (rxDueAll { d with time := { t with
               ticks := next, replica := (t.replica + 1) % 2 ^ 64, sec := (t.sec + 1) % 2 ^ 48, nano := t.nano + t.inc - secondUnits } }))
           ∧ (secondUnits ≤ t.nano + t.inc → t.slew = none → leAt t.pps 0 1 = 1 →
             DoesJust .secondRollover s (rxDueAll { d with time := { t with
               ticks := next, replica := (t.replica + 1) % 2 ^ 64, sec := (t.sec + 1) % 2 ^ 48, nano := t.nano + t.inc - secondUnits,
               pulses := t.pulses ++ [⟨2, t.ticks + 7, t.ticks + 7 + leAt t.pps 4 4⟩] } }))
           ∧ (∀ (o : Int) (n : Nat), t.slew = some (o, n + 1, n) → 0 ≤ t.nano + t.inc + slewShare o (n + 1) n →
             t.nano + t.inc + slewShare o (n + 1) n < secondUnits → t.sec < 2 ^ 48 →
             DoesJust .slewComplete s (rxDueAll { d with time := { t with
               ticks := next, replica := (t.replica + 1) % 2 ^ 64, slew := none,
               nano := (t.nano + t.inc + slewShare o (n + 1) n).toNat } })))
    ∧ (∀ s : State,
         (s.dev.boot.phase = .up ∧ rollsOver s.dev.time = true → DoesJust .secondRollover s (tickAll s.dev))
           ∧ (¬ (s.dev.boot.phase = .up ∧ rollsOver s.dev.time = true) → DoesJust .secondRollover s s.dev)
           ∧ (s.dev.boot.phase = .up ∧ s.dev.time.slew ≠ none ∧ slewNext s.dev.time = none → DoesJust .slewComplete s (tickAll s.dev))
           ∧ (¬ (s.dev.boot.phase = .up ∧ s.dev.time.slew ≠ none ∧ slewNext s.dev.time = none) → DoesJust .slewComplete s s.dev))

/-- Every command with operands that name existing units answers a next state that leaves the waiting commands; any other command
faults (the fault is the model's, log entry 4). -/
def Obligations.ExecAnswers : Prop :=
  ∀ (c : Instr) (s : State),
    (wellFormed c = true → ∃ t, exec c s = .next t ∧ t.pending = s.pending)
      ∧ (wellFormed c = false → exec c s = .fault .noSuchUnit)

/-! ### Reset, start-up and trust -/

/-- What the spec gives for reset: no context in use, the haul road and dictionary empty, and the defaults of the entries named
here; and a full reset by each of its four causes: every entry is at its default and reset is held, with the PLL locked only
through RESET_N, which leaves a device that TEST_MODE holds in reset so held; a queue of waiting commands and the model's count of free
values (log entry 1) go on. -/
def Obligations.FullResets : Prop :=
  (State.reset.pending = [] ∧ State.reset.dev.boot.phase = .held ∧ State.reset.dev.disp.ops = [] ∧ State.reset.dev.haul.rings = []
     ∧ State.reset.dev.mem.cells = [] ∧ State.reset.dev.mem.tensors = [] ∧ State.reset.dev.dict.sessions = []
     ∧ State.reset.dev.dict.timeout = 60 ∧ State.reset.dev.net.resendUs = 200 ∧ State.reset.dev.net.resendLimit = 8
     ∧ State.reset.dev.time.ticks = 0 ∧ State.reset.dev.time.inc = 0x140000000
     ∧ (∀ n, n < 64 → (ctxOf State.reset.dev n).reg = ⟨0, ctxFree⟩) ∧ State.reset.trust.attestReady = false)
    ∧ (∀ s : State,
         let clean (pll held : Bool) : State :=
           { s with trust := Trust.reset,
                    dev := { Dev.reset with free := s.dev.free, boot := { BootSt.reset with pllLocked := pll, testHeld := held } } }
         exec .porstAssert s = .next (clean false false) ∧ exec .pwrGoodLow s = .next (clean false false)
           ∧ exec .resetAssert s = .next (clean s.dev.boot.pllLocked s.dev.boot.testHeld)
           ∧ (s.dev.boot.pllLocked = true → exec .pllLockLoss s = .next (clean false false)))

/-- The rise of PORST_N starts the device up from reset, but for TEST_MODE high, which keeps it in reset (R493); the rise of RESET_N
does with the PLL locked (R497, R498). Start-up from reset with every road lane and LPDDR6 channel training (R452, R498): with a good
slot A the device is up at step 6 with the record's values in their entries; a slot A that fails a check lets slot B start, with
FALLBACK set and FAIL_CODE naming the failure; where slot B fails too, or the PUF cannot be recovered, the boot halts with the code. -/
def Obligations.StartUp : Prop :=
  (∀ (s : State) (b : Boot), bootOk b = true → s.dev.boot.phase = .held →
     (s.dev.boot.pllLocked = false → s.dev.boot.testHeld = false →
         (b.testMode = false → DoesJust (.porstRelease b) s (startUp s.dev b))
           ∧ (b.testMode = true →
             DoesJust (.porstRelease b) s { s.dev with boot := { s.dev.boot with testHeld := true } }))
       ∧ (s.dev.boot.pllLocked = true → DoesJust (.resetRelease b) s (startUp s.dev b)))
    ∧ (∀ (s : State) (b : Boot), atReset s → b.laneFail = [] → b.chanFail = [] →
         let d := startUp s.dev b
         (b.puf = false → d.boot.phase = .halted ∧ d.boot.failCode = 1)
           ∧ (b.puf = true → slotCheck b.deviceId b.slotA = none →
             d.boot.phase = .up ∧ d.boot.step = 6 ∧ d.boot.fallback = false ∧ d.boot.failCode = 0
               ∧ d.haul.roadLanes = 32 ∧ d.haul.roadLatency = 48
               ∧ d.boot.lbenches = leAt b.slotA.recBody 112 1
               ∧ d.comp.map = (List.range 16).map (fun i => leAt b.slotA.recBody (120 + i) 1)
               ∧ (∀ n, n < 16 → (benchReg d n).st = if bitAt (leAt b.slotA.recBody 114 2) n then 1 else 4))
           ∧ (∀ c, b.puf = true → slotCheck b.deviceId b.slotA = some c → d.boot.fallback = true
               ∧ (slotCheck b.deviceId b.slotB = none → d.boot.phase = .up ∧ d.boot.slotB = true ∧ d.boot.failCode = c)
               ∧ (∀ k, slotCheck b.deviceId b.slotB = some k → d.boot.phase = .halted ∧ d.boot.failCode = k)))

/-- The identity key derived after the dictionary is served: attestation is ready when it matches the record, and never while it
does not (R456); an attestation report in progress becomes the value of its entry: its head and 8,660 signature bytes (R457). -/
def Obligations.AttestationReports : Prop :=
  (∀ (s : State) (ok : Bool), s.dev.boot.phase = .up ∨ s.dev.boot.phase = .tripped → s.trust.attestReady = false →
     s.trust.idMismatch = false → s.trust.secretsZeroed = false →
     exec (.rsaIdentityDerived ok) s = .next { s with trust := { s.trust with attestReady := ok, idMismatch := !ok } })
    ∧ (∀ (s : State) (h : Bytes), s.trust.signing = some h →
         ∃ t, exec .attestReportReady s = .next t ∧ t.trust.signing = none ∧ t.trust.report.take h.length = h
           ∧ t.trust.report.length = h.length + 8660 ∧ t.trust.attestReady = s.trust.attestReady
           ∧ t.dev = { s.dev with free := s.dev.free + 1 } ∧ t.pending = s.pending)

/-- The test port: IDCODE and BYPASS select their registers and change nothing else; boundary scan with `SCAN_ALLOW` zeroes the
secrets first and makes attestation unavailable, and without it acts as BYPASS (R459, R496). A unit of a self-test is recorded, one
that failed twice leaves service, and the last unit or a cancel ends the test with its result; for a test of one unit that changes no
memory it reads PASSED, PASSED with a transient, or FAILED, with the test's number and mask (R473, R474, R477, R479, R480). -/
def Obligations.TestPortAndSelfTest : Prop :=
  (∀ s : State,
     exec .idcode s = .next { s with trust := { s.trust with scanInstr := 1, scanData := idcode } }
       ∧ idcode % 2 ^ 28 = 0x088164F3 % 2 ^ 28
       ∧ exec .bypass s = .next { s with trust := { s.trust with scanInstr := 0, scanData := 0 } }
       ∧ (scanAllow s.dev = true → exec .boundaryScan s = .next { s with trust := { s.trust with
             secretsZeroed := true, attestReady := false, signing := none, scanEnabled := true, scanInstr := 2, scanData := 0 } })
       ∧ (scanAllow s.dev = false → exec .boundaryScan s = exec .bypass s))
    ∧ (∀ (s : State) (r : TestRun) (t : TestSt), r.chanFail = [] → s.dev.test.running = some t → t.test = 1 → t.mask = 1 → t.done = 0 →
         t.failed = 0 → t.transient = 0 → t.cancel = false →
         let x := stRecord s.dev t 0 r
         let status := if r.pass then 2 else if r.retest then 3 else 4
         Does (.selftestUnitComplete r) s
           { s.dev with test := { running := none, results := lset s.dev.test.results 0 (testResult x status s.dev.time.ticks) } })
    ∧ (∀ (s : State) (r : TestRun), (∀ c ∈ r.chanFail, c < 8) →
         (s.dev.test.running = none → Does (.selftestUnitComplete r) s s.dev)
           ∧ (∀ t n, s.dev.test.running = some t → (firstBelow 16 fun k => bitAt t.mask k && !bitAt t.done k) = some n →
             let x := stRecord s.dev t n r
             let d := { s.dev with test := { s.dev.test with running := some x } }
             let d := if stOut s.dev t.test n = false ∧ r.pass = false ∧ r.retest = false then stRetire d t.test n r.domain else d
             let z := stZeroed d t.test t.mask
             let status := if t.cancel then 5 else if x.failed ≠ 0 then 4 else if x.transient ≠ 0 then 3 else 2
             let past := x.done = t.mask ∨ t.cancel = true
             (¬ past → Does (.selftestUnitComplete r) s d)
               ∧ (past → t.test ≠ 0x0E → Does (.selftestUnitComplete r) s (testEnd z x status))
               ∧ (past → t.test = 0x0E → exec (.selftestUnitComplete r) s = .next { s with
                 dev := settle (testEnd (r.chanFail.foldl chanRetire z) x status),
                 trust := { s.trust with scanEnabled := s.trust.scanInstr == 2 } })))

/-- What the trust rules promise holds in the state after reset. -/
def Obligations.ResetSafe : Prop := Safe State.reset

/-- No step breaks what the trust rules promise: no attestation once the secrets are overwritten, none while the identity key does
not match the record, and no scan before the secrets are overwritten (R456, R459). -/
def Obligations.StepKeepsSafe : Prop := ∀ s t : State, Safe s → step s = .next t → Safe t

/-! ### Power -/

/-- A trip gates every domain register that serves but the management Ethernet and always-on ones, drives the thermal-trip output,
sets `TRIPPED`, and loses the contexts' work with no event posted, but leaves the registers of channels and lanes as they are (R8); while
the device has tripped the dictionary serves only indices 0x1000 to 0x10FF, 0x6000 to 0x6FFF and 0x8000 to 0x8FFF, and every other access comes to `BUSY` (R467). -/
def Obligations.ThermalTrips : Prop :=
  (∀ s : State, s.dev.boot.phase = .up →
     ∃ t, exec .thermalTrip s = .next t ∧ t.dev.boot.phase = .tripped ∧ t.dev.boot.tripped = true ∧ t.dev.boot.thermTrip = true
       ∧ (∀ k, k < s.dev.pwr.domains.length → (lget ⟨0, 1⟩ t.dev.pwr.domains k) =
             if k = 7 ∨ k = 15 then lget ⟨0, 1⟩ s.dev.pwr.domains k
             else
               let g := lget ⟨0, 1⟩ s.dev.pwr.domains k
               if g.st = 1 ∨ g.st = 2 then ⟨(g.gen + 1) % 65536, 0⟩ else g)
       ∧ t.dev.disp = DispSt.reset
       ∧ t.dev.mem = { s.dev.mem with cells := [], spoil := [], tensors := [], pages := [], clamping := [] } ∧ t.dev.fe.lanes = s.dev.fe.lanes
       ∧ t.dev.haul.lanes = s.dev.haul.lanes ∧ 11500 ≤ t.dev.pwr.temp ∧ t.trust = s.trust ∧ t.pending = s.pending)
    ∧ (∀ (s : State) (f : DictFrame) (w : Bool), s.dev.boot.phase = .tripped →
         ¬ (0x1000 ≤ f.index ∧ f.index ≤ 0x10FF) → ¬ (0x6000 ≤ f.index ∧ f.index ≤ 0x6FFF) → ¬ (0x8000 ≤ f.index ∧ f.index ≤ 0x8FFF) →
         dictAccess s f w = .error abBusy)

/-- The hold at 105.00 °C begins with one THERMAL_THROTTLE to every ACTIVE context and is counted; it ends at or below 100.00 °C.
A power estimate above `P_CEIL` holds best-effort work back and one at or below `P_CEIL` − 5 W releases it; between the two the
hold stays (R466). An estimate whose transaction is not acknowledged leaves the current as it was, and the third in a row the target at
the last one acknowledged (R487). -/
def Obligations.HeatAndPowerHolds : Prop :=
  (∀ (s : State) (temp : Int), s.dev.boot.phase = .up →
     let d := { s.dev with pwr := { s.dev.pwr with temp := temp } }
     let note (d : Dev) (k : Nat) : Dev := postActive d 0x0040 (leBytes 2 (wrapBits 16 temp) ++ leBytes 1 k)
     (s.dev.pwr.heatHold = false → 10500 ≤ temp → Does (.thermalThrottle temp) s
         (note { d with pwr := { d.pwr with heatHold := true, throttles := satAdd 32 d.pwr.throttles 1 } } 1))
       ∧ (s.dev.pwr.heatHold = true → temp ≤ 10000 → Does (.thermalThrottle temp) s
         (note { d with pwr := { d.pwr with heatHold := false } } 2))
       ∧ (s.dev.pwr.heatHold = true → 10000 < temp → Does (.thermalThrottle temp) s d)
       ∧ (s.dev.pwr.heatHold = false → temp < 10500 → Does (.thermalThrottle temp) s d))
    ∧ (∀ (s : State) (w ma : Nat) (ack : Bool), s.dev.boot.phase = .up →
         let p := s.dev.pwr
         ∃ t, exec (.powerEstimate w ma ack) s = .next t
           ∧ (t.dev.pwr = { p with
                 current := if ack then ma else p.current, noAck := if ack then 0 else p.noAck + 1,
                 target := if ack = false ∧ 2 ≤ p.noAck then p.acked else p.target,
                 powerHold := if pCeil s.dev < w then true else if w + 5 ≤ pCeil s.dev then false else s.dev.pwr.powerHold })
           ∧ t.trust = s.trust ∧ t.pending = s.pending)

/-- One pass of the voltage loop: the rail as sensed is held; a target that is neither pinned nor frozen moves towards the choice by at
most 10 mV in steps of 5 mV and stays in the envelope, one that is pinned is `V_PIN`, one that is frozen stays, and under undervoltage
it is `V_CEIL`; after three transactions without an acknowledgement the loop holds its last acknowledged target (R464, R465, R468,
R487). Supply undervoltage gates every READY bench, its generation counted, sets the target to `V_CEIL` and remembers the benches so
gated; at recovery, the rail at or above `V_FLOOR`, every bench so gated is asked to power up again and SUPPLY_OVERRIDE is posted (R462,
R468). -/
def Obligations.VoltageAndSupply : Prop :=
  (∀ (s : State) (choice sensed : Nat) (ack : Bool), s.dev.boot.phase = .up →
     let p := s.dev.pwr
     ∃ t, exec (.avsLoopUpdate choice sensed ack) s = .next t ∧ t.trust = s.trust ∧ t.pending = s.pending
       ∧ t.dev.pwr.sensed = sensed ∧ t.dev.pwr.noAck = (if ack then 0 else p.noAck + 1)
       ∧ t.dev.pwr.acked = (if ack then t.dev.pwr.target else p.acked)
       ∧ (ack = false → 2 ≤ p.noAck → t.dev.pwr.target = p.acked)
       ∧ (ack = true ∨ p.noAck < 2 →
         (p.uv = true → t.dev.pwr.target = vCeil s.dev)
           ∧ (p.uv = false → avsPin s.dev = true → t.dev.pwr.target = vPin s.dev)
           ∧ (p.uv = false → avsPin s.dev = false → avsFreeze s.dev = true → t.dev.pwr.target = p.target)
           ∧ (p.uv = false → avsPin s.dev = false → avsFreeze s.dev = false → vFloor s.dev ≤ vCeil s.dev →
             vFloor s.dev ≤ t.dev.pwr.target ∧ t.dev.pwr.target ≤ vCeil s.dev
               ∧ (vFloor s.dev ≤ p.target → p.target ≤ vCeil s.dev →
                 t.dev.pwr.target ≤ p.target + 10 ∧ p.target ≤ t.dev.pwr.target + 10))))
    ∧ (∀ (s : State) (mv : Nat), s.dev.boot.phase = .up → mv < 680 → s.dev.pwr.uv = false →
         ∃ t, exec (.supplyUndervoltage mv) s = .next t ∧ t.dev.pwr.uv = true ∧ t.dev.pwr.target = vCeil s.dev
           ∧ t.dev.pwr.sensed = mv
           ∧ (∀ b, b < 16 → (benchReg s.dev b).st = 1 →
               benchReg t.dev b = ⟨((benchReg s.dev b).gen + 1) % 65536, 0⟩ ∧ bitAt t.dev.pwr.uvBenches b = true)
           ∧ (∀ b, (benchReg s.dev b).st ≠ 1 → benchReg t.dev b = benchReg s.dev b)
           ∧ t.trust = s.trust ∧ t.pending = s.pending)
    ∧ (∀ (s : State) (mv : Nat), s.dev.boot.phase = .up →
         (mv < 680 → s.dev.pwr.uv = true →
             Does (.supplyUndervoltage mv) s { s.dev with pwr := { s.dev.pwr with sensed := mv } })
           ∧ (s.dev.pwr.uv = true → vFloor s.dev ≤ mv →
             let bs := (List.range 16).filter fun b => bitAt s.dev.pwr.uvBenches b
             let asked := (bs.filter fun b => (benchReg s.dev b).st == 0).foldl (fun d b => askPower d (.bench b)) s.dev
             Does (.supplyRecovery mv) s
                 (postActive { asked with pwr := { asked.pwr with uv := false, uvBenches := 0, sensed := mv } }
                   0x0041 (leBytes 2 mv ++ leBytes 1 2 ++ leBytes 1 bs.length))
               ∧ ∀ b, b < 16 → bitAt s.dev.pwr.uvBenches b = true → (benchReg s.dev b).st = 0 → .bench b ∈ asked.pwr.powering))

/-- Units power up one at a time in the order of their requests: a GATED pair or domain then reads READY with its memories zero,
and a GATED bench takes its logical benches back, at once or as their contexts complete their next LAYER; the request of a unit that is
no longer GATED is dropped, and with no request nothing changes (R96, R348, R462). -/
def Obligations.PowerUp : Prop :=
  ∀ (s : State), s.dev.boot.phase = .up →
    (s.dev.pwr.powering = [] → Does .powerUpComplete s s.dev)
      ∧ (∀ rest, let d := { s.dev with pwr := { s.dev.pwr with powering := rest } }
        (∀ b, s.dev.pwr.powering = .bench b :: rest → (benchReg s.dev b).st = 0 →
            let up := benchTo d b 1
            let back := (logicals d).filter fun l => homeOf d l == b && hostOf d l != b && d.comp.returning.all fun x => x.1 != l
            Does .powerUpComplete s
              (checkReturn { up with comp := { up.comp with returning := up.comp.returning ++ back.map fun l => (l, []) } }))
          ∧ (∀ p, s.dev.pwr.powering = .pair p :: rest → (pairReg s.dev p).st = 0 →
            Does .powerUpComplete s (pairTo (clearPair d p) p 1))
          ∧ (∀ k, s.dev.pwr.powering = .domain k :: rest → (lget ⟨0, 1⟩ s.dev.pwr.domains k).st = 0 →
            Does .powerUpComplete s (domainTo (zeroDomain d k) k 1))
          ∧ (∀ u, s.dev.pwr.powering = u :: rest →
            (match u with
              | .bench b => (benchReg s.dev b).st
              | .pair p => (pairReg s.dev p).st
              | .domain k => (lget ⟨0, 1⟩ s.dev.pwr.domains k).st) ≠ 0 →
            Does .powerUpComplete s d))

/-! ### The object dictionary -/

/-- An OPEN of the dictionary protocol is accepted when the SHA-384 of its token equals `DICT_TOKEN_HASH`, and with an all-zero
`DICT_TOKEN_HASH` only the all-zero token is; any other is refused with `NO_SESSION` (R458). An accepted one takes a free place under a new
number with sequence number 0, and with 16 sessions open it is refused (R434); the number itself is free (log entry 1). -/
def Obligations.DictOpens : Prop :=
  ∀ (s : State) (f : DictFrame) (r : Dev), dictFrameOk f = true → badFrame f = false → f.type = 1 → f.seq = 0 →
    receive s.dev f.eth (dictMine s.dev f.eth) = (true, r) →
    let d := dictCrcPassed r f.eth.port
    let hash := slice d.boot.body 144 48
    let n := sessionNumber d
    let b := dictBytes f 0x80 n 0 0 0 []
    let good := (hash = zeros 48 → f.payload = zeros 16) ∧ (hash ≠ zeros 48 → sha384 f.payload = hash)
    (good → d.dict.sessions.length < 16 → Does (.dictOpen f) s
        (dictSend { d with free := d.free + 1,
                           dict := { d.dict with sessions := tset d.dict.sessions n ⟨0, b, none, none, d.time.ticks⟩,
                                                 requests := satAdd 64 d.dict.requests 1 } } f.eth b))
      ∧ (¬ good → Does (.dictOpen f) s (dictRefuse d f abNoSession))
      ∧ (good → 16 ≤ d.dict.sessions.length → Does (.dictOpen f) s (dictRefuse d f abNoResource))

/-- The next request of a session: CLOSE ends the session; READ answers a scalar's whole value, or the part asked of a snapshot of
a DOMAIN, across the haul road where the unit is on the tensor die (R16); a segment that is not the last is staged (R434, R437, R438).
The answer kept for a session is sent again for a request that repeats its last sequence number, with no second effect; a sequence
number that is neither is refused with `BAD_SEQUENCE` and changes no entry (R435). A session not heard of for `DICT_SESSION_TIMEOUT`
seconds ends (R434); a dictionary frame that fails its CRC is counted and is transient until its port fails again (R441). -/
def Obligations.DictRequests : Prop :=
  (∀ (s : State) (f : DictFrame) (d : Dev) (x : Session), Turn s f d x →
     (f.type = 2 → exec (.dictClose f) s = .next (answered f ⟨none, 0, 0, [], none, { s with dev := d }⟩))
       ∧ (∀ e, f.type = 0x10 → dictAccess { s with dev := d } f false = .ok e → e.ty ≠ .domain → f.total = 0 → f.offset = 0 →
           let m := { s with dev := mgmtCross d f }
           let v := readEntry m e f.sub
           exec (.dictRead f) s = .next (answered f ⟨none, 0, v.length, v, some { x with snap := none }, m⟩))
       ∧ (∀ e, f.type = 0x10 → dictAccess { s with dev := d } f false = .ok e → e.ty = .domain → 0 < f.total → f.total ≤ 1024 →
           f.offset = 0 →
           let m := { s with dev := mgmtCross d f }
           let v := readEntry m e f.sub
           dictHeld m.dev f.session + stagedSize x + v.length ≤ 8388608 →
           exec (.dictRead f) s = .next (answered f
             ⟨none, 0, v.length, v.take f.total, some { x with snap := some (f.index, f.sub, v) }, m⟩))
       ∧ (∀ e, f.type = 0x11 → f.first = true → f.last = false → f.offset = 0 → 1024 < f.total → f.payload.length ≤ f.total →
           dictHeld d f.session + f.total ≤ 8388608 → dictAccess { s with dev := d } f true = .ok e →
           exec (.dictWriteSegment f) s = .next (answered f (servedOk
             { x with staged := some (f.index, f.sub, f.total, f.payload), snap := none } { s with dev := d }))))
    ∧ (∀ (s : State) (f : DictFrame) (r : Dev) (y : Session), dictFrameOk f = true → badFrame f = false → f.type = 0x11 → f.last = true →
         f.index = 0x3001 → receive s.dev f.eth (dictMine s.dev f.eth) = (true, r) →
         tfind (dictCrcPassed r f.eth.port).dict.sessions f.session = some y →
         let d := dictCrcPassed r f.eth.port
         let d' := { d with dict := { d.dict with sessions := tset d.dict.sessions f.session { y with heard := d.time.ticks } } }
         (f.seq = y.seq → Does (.tbIncrementWrite f) s (dictSend d' f.eth y.last))
           ∧ (f.seq ≠ y.seq → f.seq ≠ (y.seq + 1) % 2 ^ 32 →
               Does (.tbIncrementWrite f) s (dictSend (noteAbort d' f abBadSequence) f.eth (dictBytes f 0x81 f.session 0 0 abBadSequence []))))
    ∧ ((∀ (s : State) (n : Nat) (x : Session), tfind s.dev.dict.sessions n = some x →
           (x.heard + s.dev.dict.timeout * 800000000 < s.dev.time.ticks →
               DoesJust (.dictSessionTimeout n) s { s.dev with dict := { s.dev.dict with sessions := tdel s.dev.dict.sessions n } })
             ∧ (s.dev.time.ticks ≤ x.heard + s.dev.dict.timeout * 800000000 → DoesJust (.dictSessionTimeout n) s s.dev))
         ∧ (∀ (s : State) (p : Nat), p < 5 →
           let serves := portUp s.dev p = true ∧ (p = 4 ∨ bitAt (leAt (portOf s.dev p).cfg 8 1) 0 = true)
           let c := { s.dev with dict := { s.dev.dict with crcErrors := satAdd 32 s.dev.dict.crcErrors 1 } }
           (serves → (portOf s.dev p).dictFailed = false → Does (.dictCrcError p) s (modPort c p fun x => { x with dictFailed := true }))
             ∧ (serves → (portOf s.dev p).dictFailed = true → Does (.dictCrcError p) s (crcPermanent c p))
             ∧ (¬ serves → Does (.dictCrcError p) s s.dev)))

/-- A write of an entry without a row of its own replaces its value after the entry's checks, across the haul road where its unit is on
the tensor die (R16); a failed check leaves it unchanged and is answered with its code (R432, R438, R439). A request to a state register that names another generation than the current one
is refused with abort code 0x0800_0024, whatever else it asks, and changes no register (R442). -/
def Obligations.EntryWrites : Prop :=
  (∀ (s : State) (f : DictFrame) (d : Dev) (x : Session) (n : Nat), Writes s f d x f.index n → ownRow f.index f.sub = false →
     let r := entryRule f.index f.sub
     let s1 := { s with dev := d }
     (r.check s1 n f.payload = none →
         exec (.entryWrite f) s = .next (done f x (r.apply { s with dev := mgmtCross d f } n f.payload)))
       ∧ (∀ c, r.check s1 n f.payload = some c →
           exec (.entryWrite f) s = .next (answered f (served c { x with staged := none } s1))))
    ∧ (∀ (s : State) (f : DictFrame) (d : Dev) (x : Session) (n : Nat),
         let refused : State := answered f (served 0x08000024 { x with staged := none } { s with dev := d })
         (Writes s f d x 0x5100 n → beNat f.payload / 65536 ≠ (benchReg d n).gen →
             (requested f.payload ≠ 1 → exec (.benchGateRequest f) s = .next refused)
               ∧ (requested f.payload = 1 → exec (.benchReadyRequest f) s = .next refused))
           ∧ (Writes s f d x 0x5501 n → beNat f.payload / 65536 ≠ (chanReg d n).gen → exec (.channelDrainRequest f) s = .next refused)
           ∧ (Writes s f d x 0x5602 n → beNat f.payload / 65536 ≠ (ctxOf d n).reg.gen → requested f.payload = 2 →
             exec (.contextActivate f) s = .next refused))

/-- Requests for benches, pairs, power domains and channels that change state (R95, R96, R215, R348, R461, R462): GATED drains a
READY bench whose logical benches are remapped, and a pair that runs nothing is GATED with its memories cleared while one that runs
drains; READY asks for power; a READY channel whose pages fit elsewhere drains. A request for the state a bench already has changes
nothing. Benches and channels are units of the tensor die (R16). -/
def Obligations.UnitRequests : Prop :=
  ∀ (s : State) (f : DictFrame) (d : Dev) (x : Session) (n : Nat), d.test.running = none →
    let m := mgmtCross d f
    let g := lget ⟨0, 1⟩ d.pwr.domains n
    (Writes s f d x 0x5100 n → asks f (benchReg d n) 0 →
        ((benchReg d n).st = 1 → WriteDoes (.benchGateRequest f) s f x (benchLeave m n 2))
          ∧ ((benchReg d n).st = 0 ∨ (benchReg d n).st = 2 → WriteDoes (.benchGateRequest f) s f x m))
      ∧ (Writes s f d x 0x5100 n → asks f (benchReg d n) 1 →
        ((benchReg d n).st = 0 → WriteDoes (.benchReadyRequest f) s f x (askPower m (.bench n)))
          ∧ ((benchReg d n).st = 1 → WriteDoes (.benchReadyRequest f) s f x m))
      ∧ (Writes s f d x 0x4400 n → asks f (pairReg d n) 0 → (pairReg d n).st = 0 ∨ (pairReg d n).st = 2 →
        WriteDoes (.pairGateRequest f) s f x d)
      ∧ (Writes s f d x 0x4400 n → asks f (pairReg d n) 1 → (pairReg d n).st = 1 → WriteDoes (.pairReadyRequest f) s f x d)
      ∧ (Writes s f d x 0x6000 n → asks f g 0 → g.st = 0 → WriteDoes (.domainGateRequest f) s f x d)
      ∧ (Writes s f d x 0x6000 n → asks f g 1 → g.st = 1 → WriteDoes (.domainReadyRequest f) s f x d)
      ∧ (Writes s f d x 0x5501 n → asks f (chanReg d n) 2 → (chanReg d n).st = 2 → WriteDoes (.channelDrainRequest f) s f x m)
      ∧ (Writes s f d x 0x4400 n → asks f (pairReg d n) 0 → (pairReg d n).st = 1 →
        (running d (2 * n) = none → running d (2 * n + 1) = none →
            let c := clearPair (pairTo d n 0) n
            WriteDoes (.pairGateRequest f) s f x (readmit c c.sc.pairs))
          ∧ (running d (2 * n) ≠ none ∨ running d (2 * n + 1) ≠ none →
            WriteDoes (.pairGateRequest f) s f x (pairTo d n 2)))
      ∧ (Writes s f d x 0x4400 n → asks f (pairReg d n) 1 → (pairReg d n).st = 0 →
        WriteDoes (.pairReadyRequest f) s f x (askPower d (.pair n)))
      ∧ (Writes s f d x 0x6000 n → asks f g 0 → g.st = 1 → n ≠ 0 → n ≠ 1 → n ≠ 7 → n ≠ 15 → domainBusy d n = false →
        WriteDoes (.domainGateRequest f) s f x (domainTo d n 0))
      ∧ (Writes s f d x 0x6000 n → asks f g 1 → g.st = 0 →
        WriteDoes (.domainReadyRequest f) s f x (askPower d (.domain n)))
      ∧ (Writes s f d x 0x5501 n → asks f (chanReg d n) 2 → (chanReg d n).st = 1 → chanUsed d n ≤ freePages d - chanFree d n →
        WriteDoes (.channelDrainRequest f) s f x (chanTo m n 2))

/-- Requests for links, streams, listeners and ports that change state, and those for the state held, which change nothing (R291, R311,
R363, R406, R443). -/
def Obligations.LinkRequests : Prop :=
  ∀ (s : State) (f : DictFrame) (d : Dev) (x : Session) (n : Nat), d.test.running = none →
    (Writes s f d x 0x4012 n → asks f (linkOf d n).reg 2 → (linkOf d n).reg.st = 0 → lkL (linkOf d n).rcd ≠ 0 →
        linkValid d.fe.laneRate (4 ≤ n) (linkOf d n).rcd = true → linkPowered d n = true →
        WriteDoes (.linkStartRequest f) s f x (linkStart d n))
      ∧ (Writes s f d x 0x4012 n → asks f (linkOf d n).reg 0 → (linkOf d n).reg.st ≠ 0 →
        WriteDoes (.linkStopRequest f) s f x (linkStop d n))
      ∧ (Writes s f d x 0x4102 n → asks f (feRxOf d n).reg 0 → (feRxOf d n).reg.st ≠ 0 →
        WriteDoes (.streamStopRequest f) s f x (requestStop d false n))
      ∧ (Writes s f d x 0x4103 n → asks f (feTxOf d n).reg 0 → (feTxOf d n).reg.st ≠ 0 →
        WriteDoes (.streamStopRequest f) s f x (requestStop d true n))
      ∧ (Writes s f d x 0x4501 n → asks f (lsnOf d n).reg 0 → (lsnOf d n).reg.st = 1 →
        WriteDoes (.listenerStopRequest f) s f x (stopListener { d with free := d.free + 1 } n ((Config.freeBits d.free).toNat % 256)))
      ∧ (Writes s f d x 0x1100 n → asks f (portOf d n).reg 0 → (portOf d n).reg.st = 1 ∨ (portOf d n).reg.st = 2 →
        WriteDoes (.portDownRequest f) s f x (movePorts (portTo d n 0) n))
      ∧ (Writes s f d x 0x1100 n → asks f (portOf d n).reg 1 → (portOf d n).reg.st = 0 → portPowered d n = true →
        WriteDoes (.portReadyRequest f) s f x (portTo d n (if (portOf d n).lock then 1 else 2)))
      ∧ (Writes s f d x 0x4012 n → asks f (linkOf d n).reg 2 → (linkOf d n).reg.st = 2 → WriteDoes (.linkStartRequest f) s f x d)
      ∧ (Writes s f d x 0x4012 n → asks f (linkOf d n).reg 0 → (linkOf d n).reg.st = 0 → WriteDoes (.linkStopRequest f) s f x d)
      ∧ (Writes s f d x 0x4102 n → asks f (feRxOf d n).reg 0 → (feRxOf d n).reg.st = 0 → WriteDoes (.streamStopRequest f) s f x d)
      ∧ (Writes s f d x 0x4103 n → asks f (feTxOf d n).reg 0 → (feTxOf d n).reg.st = 0 → WriteDoes (.streamStopRequest f) s f x d)
      ∧ (Writes s f d x 0x4501 n → asks f (lsnOf d n).reg 0 → (lsnOf d n).reg.st = 0 → WriteDoes (.listenerStopRequest f) s f x d)
      ∧ (Writes s f d x 0x1100 n → asks f (portOf d n).reg 0 → (portOf d n).reg.st = 0 → WriteDoes (.portDownRequest f) s f x d)
      ∧ (Writes s f d x 0x1100 n → asks f (portOf d n).reg 1 → (portOf d n).reg.st = 1 → WriteDoes (.portReadyRequest f) s f x d)

/-- Writes to the time unit within their ranges (R383 to R390): the increment holds from the next tick; a slew starts where none
runs, and one of no duration is over at once; a step waits for the next tick and ends a slew; a new time of day does too and replaces a
step; the base changes state with its generation counted while links and contexts are still, and a request for its state changes
nothing. -/
def Obligations.TimeWrites : Prop :=
  ∀ (s : State) (f : DictFrame) (d : Dev) (x : Session) (n : Nat),
    (Writes s f d x 0x3001 n → 0x13FAE147B ≤ beNat f.payload → beNat f.payload ≤ 0x14051EB85 →
        WriteDoes (.tbIncrementWrite f) s f x { d with time := { d.time with inc := beNat f.payload } })
      ∧ (Writes s f d x 0x3002 n → f.payload.length = 16 → leAt f.payload 12 4 = 0 → leAt f.payload 8 4 ≠ 0 →
        (slewOffset f.payload).natAbs ≤ leAt f.payload 8 4 * 0x51EB85 → d.time.slew = none →
        WriteDoes (.tbSlewWrite f) s f x
          { d with time := { d.time with slewRcd := f.payload, slew := some (slewOffset f.payload, leAt f.payload 8 4, 0) } })
      ∧ (Writes s f d x 0x3002 n → f.payload.length = 16 → leAt f.payload 12 4 = 0 → leAt f.payload 8 4 = 0 →
        slewOffset f.payload = 0 → d.time.slew = none →
        WriteDoes (.tbSlewWrite f) s f x { d with time := { d.time with slewRcd := f.payload } })
      ∧ (Writes s f d x 0x3004 n →
        WriteDoes (.tbStepWrite f) s f x
          { d with time := { d.time with step := some (d.time.step.getD 0 + sext 32 (beNat f.payload)), slew := none } })
      ∧ (Writes s f d x 0x3005 n → f.payload.length = 12 → leAt f.payload 6 4 < 1000000000 →
        WriteDoes (.tbTodSetWrite f) s f x
          { d with time := { d.time with set := some (leAt f.payload 0 6, leAt f.payload 6 4 * 2 ^ 32 + leAt f.payload 10 2 * 65536),
                                         step := none, slew := none } })
      ∧ (Writes s f d x 0x3000 n → linksStopped d (List.range 8) = true → (ctxsWhere d fun c => c.reg.st == ctxActive) = [] →
        anyAdmitted d = false → (d.time.trigs.any fun e => e.2.armed) = false →
        (asks f d.time.base 1 → d.time.base.st = 0 →
            WriteDoes (.timebaseAlign f) s f x { d with time := { d.time with base := genTo d.time.base 1, align := some 2 } })
          ∧ (asks f d.time.base 0 → d.time.base.st = 1 →
            WriteDoes (.timebaseFreeRun f) s f x { d with time := { d.time with base := genTo d.time.base 0 } }))
      ∧ (Writes s f d x 0x3000 n → (asks f d.time.base 1 → d.time.base.st = 1 → WriteDoes (.timebaseAlign f) s f x d)
        ∧ (asks f d.time.base 0 → d.time.base.st = 0 → WriteDoes (.timebaseFreeRun f) s f x d))

/-- The transitions of a context (R229 to R232): FREE to STOPPED with empty queues, flags and events; STOPPED to ACTIVE; ACTIVE to
STOPPING, and to STOPPED once nothing of it is issued or parked; STOPPED to FREE with everything it owned given up; an
armed lock-step context begins to number its LAYERs as it becomes ACTIVE (R277). A request for the state held changes nothing (R95). -/
def Obligations.ContextStates : Prop :=
  (∀ (s : State) (f : DictFrame) (d : Dev) (x : Session) (n : Nat), d.test.running = none → f.sub - 1 = n →
     (ctxOf s.dev n).reg = (ctxOf d n).reg → Writes s f d x 0x5602 n →
     let m := mgmtCross d f
     (asks f (ctxOf d n).reg ctxStopped → (ctxOf d n).reg.st = ctxFree →
         queuesOverlap d n (ctxOf d n).qbase (ctxOf d n).qcount = false →
         WriteDoes (.contextCreate f) s f x
           (setCtx (dropQueues m (ctxOf d n).qbase (ctxOf d n).qcount) n
             { ctxOf d n with reg := genTo (ctxOf d n).reg ctxStopped, flags := 0#32, evs := [], evFirst := 0, evLost := false,
                              evqDropped := 0 }))
       ∧ (asks f (ctxOf d n).reg ctxActive → (ctxOf d n).reg.st = ctxStopped → inLockstep d n = false ∨ d.ls.state < 3 →
         let a := setCtx m n { ctxOf d n with reg := genTo (ctxOf d n).reg ctxActive }
         WriteDoes (.contextActivate f) s f x
           (if inLockstep d n = true ∧ d.ls.state = 1 then { a with ls := { d.ls with state := 2, lseq := 0 } } else a))
       ∧ (asks f (ctxOf d n).reg ctxStopped → (ctxOf d n).reg.st = ctxActive →
         WriteDoes (.contextStop f) s f x (setCtx m n { ctxOf d n with reg := genTo (ctxOf d n).reg ctxStopping }))
       ∧ (asks f (ctxOf d n).reg ctxFree → (ctxOf d n).reg.st = ctxStopped →
         WriteDoes (.contextDestroy f) s f x (ctxDestroy m n))
       ∧ (asks f (ctxOf d n).reg ctxStopped → (ctxOf d n).reg.st = ctxStopped → WriteDoes (.contextStop f) s f x m)
       ∧ (asks f (ctxOf d n).reg ctxActive → (ctxOf d n).reg.st = ctxActive → WriteDoes (.contextActivate f) s f x m)
       ∧ (asks f (ctxOf d n).reg ctxFree → (ctxOf d n).reg.st = ctxFree → WriteDoes (.contextDestroy f) s f x m))
    ∧ (∀ (s : State) (n : Nat), n < 64 → (ctxOf s.dev n).reg.st = ctxStopping → (∀ o ∈ s.dev.disp.ops, o.2.ctx ≠ n) →
         Does (.contextStopped n) s (setCtx s.dev n { ctxOf s.dev n with reg := genTo (ctxOf s.dev n).reg ctxStopped }))
    ∧ (∀ (s : State) (n : Nat), n < 64 → (ctxOf s.dev n).reg.st ≠ ctxStopping ∨ (∃ o ∈ s.dev.disp.ops, o.2.ctx = n) →
         Does (.contextStopped n) s s.dev)

/-- Writes that act on flags, queues, graphs, tag peaks and lock-step (R61, R191, R228, R239, R240, R244, R276, R277): a flag is cleared
by a one; RESUME skips the head of a halted queue and RESET empties the queue of a STOPPED context; a graph's record is admitted or
its slot withdrawn. -/
def Obligations.DispatcherWrites : Prop :=
  ∀ (s : State) (f : DictFrame) (d : Dev) (x : Session) (n : Nat), d.test.running = none →
    let q := beNat f.payload % 16384
    let m := mgmtCross d f
    (Writes s f d x 0x2101 n → beNat f.payload < 512 →
        WriteDoes (.flagClear f) s f x (setCtx m n { ctxOf d n with flags := flagClear (ctxOf d n).flags (beNat f.payload) }))
      ∧ (Writes s f d x 0x5620 n → beNat f.payload = 2 ^ 30 + q → (queueOf d q).halted = true →
        WriteDoes (.queueResume f) s f x (modQueue (advance m q) q fun y => { y with halted := false }))
      ∧ (∀ c, Writes s f d x 0x5620 n → beNat f.payload = 2 ^ 31 + q → ownerOf d q = some c → (ctxOf d c).reg.st = ctxStopped →
        WriteDoes (.queueReset f) s f x (setQueue m q
          { queueOf d q with descs := [], tail := (queueOf d q).head, halted := false, cover := none, boosted := false, mark := none }))
      ∧ (Writes s f d x 0x5610 n → f.payload.length = 72 → graphRanges f.payload = true → gAdmit f.payload = true →
        (graphOf d n).st ≠ 1 →
        WriteDoes (.graphAdmit f) s f x (graphAdmit (dropGraphParts m n) m.sc.pairs n f.payload))
      ∧ (Writes s f d x 0x5610 n → f.payload.length = 72 → graphRanges f.payload = true → gAdmit f.payload = false →
        WriteDoes (.graphWithdraw f) s f x (graphWithdraw m n))
      ∧ (Writes s f d x 0x5401 n →
        WriteDoes (.haulTagsPeakReset f) s f x { m with haul := { m.haul with tagsPeak := lset m.haul.tagsPeak n 0 } })
      ∧ (Writes s f d x 0x2400 n → f.sub = 1 → beNat f.payload = 1 → lsStopped d = true → d.ls.peer ≤ 63 →
        epKind (epOf d d.ls.peer) = 2 →
        WriteDoes (.lockstepArm f) s f x { m with ls := { d.ls with
          enable := true, state := 1, first := zeros 32, lseq := 0, mine := [], theirs := [], compared := [], mismatch := [] } })
      ∧ (Writes s f d x 0x2400 n → f.sub = 1 → beNat f.payload = 0 → lsStopped d = true →
        WriteDoes (.lockstepDisable f) s f x { m with ls := { d.ls with
          enable := false, state := 0, lseq := 0, mine := [], theirs := [], compared := [], mismatch := [] } })

/-- Writes that act on masks, pre-distortion, attestation and self-tests (R299, R301, R457, R473 to R476): rearming ends MUTE; a swap
is requested at this tick, or keeps the tick of one that waits; a nonce starts a report where attestation is ready; a self-test that
passes its checks starts, the boot self-test where none runs, and a running test but the logic scan is cancelled. -/
def Obligations.UnitWrites : Prop :=
  ∀ (s : State) (f : DictFrame) (d : Dev) (x : Session) (n : Nat),
    let s1 := { s with dev := d }
    (Writes s f d x 0x7000 n → stTest f.payload ≠ 0 → stStartCheck d f.payload = none →
        exec (.selftestStart f) s = .next (done f x (stStart s1 (stTest f.payload) (stMask f.payload))))
      ∧ (Writes s f d x 0x4112 n → beNat f.payload = 1 →
        WriteDoes (.maskRearm f) s f x (setFeTx d n { feTxOf d n with muted := none }))
      ∧ (Writes s f d x 0x4203 n → beNat f.payload = 1 →
        WriteDoes (.dpdSwap f) s f x (setDpd d n { dpdOf d n with swap := some ((dpdOf d n).swap.getD d.time.ticks) }))
      ∧ (Writes s f d x 0x8010 n → f.payload.length = 32 → s.trust.idMismatch = false → s.trust.attestReady = true →
        s.trust.signing = none →
        exec (.attestRequest f) s =
          .next (done f x { s1 with trust := { s.trust with signing := some (reportHead s1 f.payload) } }))
      ∧ (Writes s f d x 0x7000 n → beNat f.payload = 0x010001 → d.test.running = none →
        let t : TestSt := { test := 1, mask := 1, done := 0, failed := 0, transient := 0, detail := 0, start := d.time.ticks, cancel := false }
        WriteDoes (.selftestStart f) s f x { d with test := { d.test with running := some t } })
      ∧ (∀ t, Writes s f d x 0x7000 n → beNat f.payload = 0 → d.test.running = some t → t.test ≠ 0x0E →
        WriteDoes (.selftestCancel f) s f x { d with test := { d.test with running := some { t with cancel := true } } })

/-! ### The time unit -/

/-- TB_SLEW (R385): a write names an offset O and a duration D; on tick i the time of day receives ⌊O(i + 1) / D⌋ − ⌊O·i / D⌋ beside
the increment, over D ticks exactly O; the write is refused when |O| exceeds D × 0x0051_EB85 or while an earlier slew has ticks
remaining. -/
def Obligations.SlewWrites : Prop :=
  (∀ (o : Int) (n : Nat), 0 < n →
      (∀ i : Nat, slewShare o n i = Rat.floor (((o * (i + 1) : Int) : Rat) / (n : Rat)) - Rat.floor (((o * i : Int) : Rat) / (n : Rat)))
        ∧ ((List.range n).map (slewShare o n)).sum = o)
    ∧ (∀ (s : State) (f : DictFrame) (d : Dev) (x : Session) (n : Nat), Writes s f d x 0x3002 n → f.payload.length = 16 →
      leAt f.payload 12 4 = 0 →
      let o := slewOffset f.payload
      let m := leAt f.payload 8 4
      let refused (code : Nat) : State := answered f (served code { x with staged := none } { s with dev := d })
      (o.natAbs ≤ m * 0x51EB85 → d.time.slew = none → 0 < m → WriteDoes (.tbSlewWrite f) s f x
          { d with time := { d.time with slewRcd := f.payload, slew := some (o, m, 0) } })
        ∧ (m * 0x51EB85 < o.natAbs → exec (.tbSlewWrite f) s = .next (refused abRange))
        ∧ (o.natAbs ≤ m * 0x51EB85 → d.time.slew ≠ none → exec (.tbSlewWrite f) s = .next (refused abBusy)))
    ∧ (∀ (s : State) (o : Int) (n i : Nat), s.pending = [] → s.dev.boot.phase = .up → s.dev.time.slew = some (o, n, i) →
      s.dev.time.set = none → s.dev.time.step = none →
      let t := s.dev.time
      let tod := ((t.sec * secondUnits + t.nano + t.inc : Nat) : Int) + slewShare o n i
      0 ≤ tod → tod < 2 ^ 48 * secondUnits →
      ∃ e, step s = .next e ∧ ((e.dev.time.sec * secondUnits + e.dev.time.nano : Nat) : Int) = tod
        ∧ e.dev.time.slew = if i + 1 < n then some (o, n, i + 1) else none)

/-- A timebase descriptor whose fixed latency has passed sets the tensor die's count to the time unit's (R19, R174); a SYSREF edge
at least four ticks after the last one is timestamped, and every edge fixes the grid of every ALIGNING link that has none and is counted
where it is off the grid of a link (R288, R401). The protocol engine on its port: a two-step Sync is kept with its receive time until its Follow_Up, a one-step Sync gives the offset
from master, rounded to 2^-8 ns, a delay request is kept for its answer by a master, an Announce is heard; a one-step Sync and a delay
request are sent with their numbers and corrections (R391 to R394). A pulse whose width has passed ends and the others go on; an edge
on a capture ball is counted and recorded with the time record unless the last recorded one was fewer than four ticks before (R387,
R397, R401). -/
def Obligations.TimeMessages : Prop :=
  (∀ s : State, let d := s.dev
     (∀ f n, roadRuns d = true → nextFlit (roadOf d .st) = some f → f.pay = .timebase n → n + d.haul.roadLatency ≤ d.time.ticks →
         let a := acceptFlit d .st f
         Does .timebaseDescriptor s { a with time := { a.time with replica := a.time.ticks } })
       ∧ (∀ f, nextFlit (roadOf d .st) = some f → roadRuns d = false ∨ timebaseDue d f.pay = false → Does .timebaseDescriptor s d)
       ∧ (nextFlit (roadOf d .st) = none → Does .timebaseDescriptor s d)
       ∧ ((∀ l, l < 8 → offGrid d (linkOf d l) = false) →
         let grid (e : Dev) : Dev := { e with fe := { d.fe with links := d.fe.links.map fun k =>
             if k.reg.st = 1 && k.lemc.isNone then { k with lemc := some (d.time.ticks + d.fe.sysrefOffset) } else k } }
         ((∀ t, d.time.sysrefSeen = some t → t + 4 ≤ d.time.ticks) → Does .sysrefEdge s
             (grid { d with time := { d.time with sysrefLast := d.time.ticks, sysrefSeen := some d.time.ticks } }))
           ∧ (∀ t, d.time.sysrefSeen = some t → d.time.ticks < t + 4 → Does .sysrefEdge s (grid d)))
       ∧ (∀ l, l < 8 → offGrid d (linkOf d l) = true → ∃ e, Does .sysrefEdge s e ∧ e.fe.drifts = satAdd 32 d.fe.drifts 1))
    ∧ (∀ (s : State) (m : PtpMsg) (r : Dev), ethOk m.eth = true → receive s.dev m.eth true = (true, r) → ptpMine r m = true →
         let p := r.time.ptp
         let at_ := rawStamp r - (lget 0 r.time.rxLat m.eth.port : Nat)
         let asym : Int := (lget 0 r.time.asym m.eth.port)
         let keeps (q : PtpSt) : Prop := DoesJust (.ptpMessageReceived m) s { r with time := { r.time with ptp := q } }
         DoesJust (.ptpMessageReceived m) s (ptpReceive r m) ∧ (m.kind = .sync → m.twoStep = true → keeps { p with syncSeq := m.seqId, syncT2 := some at_, syncCorr := m.corr + asym })
           ∧ (m.kind = .sync → m.twoStep = false → ∃ t v, exec (.ptpMessageReceived m) s = .next t
             ∧ t.dev.time.ptp.updates = satAdd 32 p.updates 1 ∧ t.dev.time.ptp.offset = satInt 32 v
             ∧ (p.profile ≠ 1 → (v * 256 - (at_ - msgTime m - (m.corr + asym) - p.mean)).natAbs < 256)
             ∧ t.trust = s.trust ∧ t.pending = s.pending)
           ∧ (m.kind = .delayReq → p.profile = 1 → ptpMaster r = true →
             keeps { p with answer := p.answer ++ [(.delayResp, m.seqId, at_, m.corr)] })
           ∧ (m.kind = .announce → liveMaster r = none → keeps { p with best := some m.ann, heard := r.time.ticks }))
    ∧ (∀ (s : State) (m : PtpMsg) (a : Bool) (r : Dev), ethOk m.eth = true → receive s.dev m.eth true = (a, r) →
         a = false ∨ ptpMine r m = false → DoesJust (.ptpMessageReceived m) s r)
    ∧ (∀ (s : State) (k : PtpKind),
         DoesJust (.ptpMessageTransmit k) s (if ptpRuns s.dev then ptpTransmit s.dev k else s.dev))
    ∧ (∀ s : State, ptpRuns s.dev = true →
         let d := s.dev
         let p := d.time.ptp
         let out := rawStamp d + (lget 0 d.time.txLat p.port : Nat)
         (∀ g, ptpMaster d = true → p.oneStep = true → ptpSend d .sync p.txSeq false out 0 = g →
             DoesJust (.ptpMessageTransmit .sync) s
               { g with time := { g.time with ptp := { g.time.ptp with txSeq := (p.txSeq + 1) % 65536 } } })
           ∧ (∀ g, p.profile = 1 → ptpSend d .delayReq p.txSeq false 0 (-(lget 0 d.time.asym p.port)) = g →
             DoesJust (.ptpMessageTransmit .delayReq) s { g with time := { g.time with ptp := { g.time.ptp with
               txSeq := (p.txSeq + 1) % 65536, reqSeq := p.txSeq, reqT := some out } } }))
    ∧ (∀ s : State, let d := s.dev
         (∀ o, o < 3 → ∃ t, exec (.pulseEnd o) s = .next t
             ∧ (∀ p, p ∈ t.dev.time.pulses ↔ p ∈ d.time.pulses ∧ (p.out = o → d.time.ticks < p.till))
             ∧ t.dev = { d with time := { d.time with pulses := t.dev.time.pulses } } ∧ t.trust = s.trust ∧ t.pending = s.pending)
           ∧ (∀ (c : Nat) (x : Capture), c < 2 → d.boot.phase = .up → d.time.caps[c]? = some x →
             let put (y : Capture) : Dev := { d with time := { d.time with caps := d.time.caps.set c y } }
             ((∀ t, x.last = some t → t + 4 ≤ d.time.ticks) → DoesJust (.captureEdge c) s
                 (put { x with edges := satAdd 32 x.edges 1, rcd := timeRecord d, last := some d.time.ticks }))
               ∧ (∀ t, x.last = some t → d.time.ticks < t + 4 →
                 DoesJust (.captureEdge c) s (put { x with edges := satAdd 32 x.edges 1 }))))

/-- TU_ARM arms a trigger whose first firing is still to come, and fires one whose first tick has passed late; TU_DISARM ends one
and withdraws its later increments, after its firing where it fires now (R395, R396, R398, R399). A trigger's increment is sent 64
ticks ahead; on its tick the trigger fires: counted, its event posted, its output pulsed six ticks later, and the next firing stands
one period on (R396, R397, R402, R403). -/
def Obligations.TriggerFirings : Prop :=
  (∀ (s : State) (q : Nat) (h : Head), HeadReady s.dev q h 0x0E01 →
     let d := s.dev
     let n := tuTrig h.desc
     let e := sendDesc d h
     (hOpcode h.desc = 0xC0 → tuArmReason d h = none →
         let a := setTrig e n (trigOfDesc d h)
         (d.time.ticks ≤ tuFirst h.desc → Does (.tuArm q) s (completeHead a h))
           ∧ (tuFirst h.desc < d.time.ticks → Does (.tuArm q) s (completeHead (fireLate a h) h)))
       ∧ (hOpcode h.desc = 0xC1 → tuDisarmReason d h = none →
         (fires d n = false →
             Does (.tuDisarm q) s (completeHead (withdrawIncs (setTrig e n { trigOf d n with armed := false }) n) h))
           ∧ (fires d n = true →
             Does (.tuDisarm q) s
               (completeHead (withdrawIncs (setTrig (fire e n) n { trigOf (fire e n) n with armed := false }) n) h))))
    ∧ (∀ (s : State) (n : Nat), n < 64 →
         let d := s.dev
         let t := trigOf d n
         t.armed = true →
         (t.objEn = true → t.sent = false → d.time.ticks + 64 = t.first + t.k * t.period → roadDown d = false →
             Does (.triggerIncrementSend n) s
               (setTrig (setRoad d .st { roadOf d .st with
                   wait := (roadOf d .st).wait ++ [⟨true, .trigInc ⟨n, t.obj, t.inc, t.ctx, d.time.ticks + 64⟩, []⟩] }) n
                 { t with sent := true }))
           ∧ (t.objEn = true → t.sent = false → d.time.ticks + 64 = t.first + t.k * t.period → roadDown d = true →
             Does (.triggerIncrementSend n) s (setTrig d n { t with sent := true }))
           ∧ (d.time.ticks = t.first + t.k * t.period → Does (.triggerFiring n) s (fire d n))
           ∧ (d.time.ticks = t.first + t.k * t.period → t.objEn = false → t.sent = false → t.out = 0 → d.time.heldIncs = [] →
             let counted := setTrig d n { t with firings := satAdd 32 t.firings 1 }
             let posted := if t.event then
                 postAt counted d.time.ticks t.ctx 0x0030 ⟨t.tag, t.queue⟩ (leBytes 1 n ++ zeros 3 ++ leBytes 4 t.k ++ leBytes 8 d.time.ticks)
               else counted
             Does (.triggerFiring n) s
               (setTrig posted n { t with firings := satAdd 32 t.firings 1, k := t.k + 1, sent := false,
                                          armed := t.period ≠ 0 && (t.repeats = 0 || t.k + 1 < t.repeats) })))
    ∧ (∀ (s : State) (n : Nat), n < 64 →
         let t := trigOf s.dev n
         (t.armed = false ∨ s.dev.time.ticks ≠ t.first + t.k * t.period → Does (.triggerFiring n) s s.dev)
           ∧ (t.armed = false ∨ t.objEn = false ∨ t.sent = true ∨ s.dev.time.ticks + 64 ≠ t.first + t.k * t.period →
             Does (.triggerIncrementSend n) s s.dev))

/-! ### The dispatcher -/

/-- The SYNC descriptors, their checks passed: DECLARE, SET, HOLD, RELEASE and UNDECLARE set the object so, a WAIT whose value is
reached passes, and each completes (R248 to R253, R510); a WAIT past its deadline posts SYNC_TIMEOUT, adds its timeout increment where it
has one, and its queue goes on without SIGNAL (R252). A FENCE whose covered operations have completed, and a LAUNCH_AT on its count, complete and change nothing else; a
LAUNCH_AT whose count has passed first posts LATE_LAUNCH and is counted (R255, R256). -/
def Obligations.SyncObjects : Prop :=
  (∀ (s : State) (q : Nat) (h : Head), HeadReady s.dev q h 0x0801 → hOpcode h.desc = 0x01 → syReserved h.desc = false →
     let d := s.dev
     let x := h.desc
     let o := syObj x
     let obj := syncOf d o
     let ends (v : Sync) : Dev := completeHead (setSync d o v) h
     (syOp x = 1 → syClass x ≠ 3 → obj.declared = false →
         Does (.syncDeclare q) s (ends ⟨true, syClass x, h.ctx, syValue x, none, false⟩))
       ∧ (syOp x = 2 → objReason d o h.lc = none → Does (.syncSet q) s (ends { obj with value := syValue x }))
       ∧ (syOp x = 3 → waitReason d h = none → (queueOf d q).mark = none → syValue x ≤ obj.value →
         Does (.syncWait q) s (completeHead d h))
       ∧ (syOp x = 4 → objReason d o h.lc = none → obj.holder = none ∨ obj.holder = some h.ctx →
         Does (.syncHold q) s (ends { obj with holder := some h.ctx, holderLc := h.lc }))
       ∧ (syOp x = 5 → objReason d o h.lc = none → obj.holder = some h.ctx →
         Does (.syncRelease q) s (ends { obj with holder := none }))
       ∧ (syOp x = 5 → objReason d o h.lc = none → obj.holder ≠ some h.ctx → Does (.syncRelease q) s (completeHead d h))
       ∧ (syOp x = 6 → obj.declared = true → obj.owner = h.ctx → objInUse d o q = false →
         Does (.syncUndeclare q) s (ends syncDefault))
       ∧ (syOp x = 3 → waitReason d h = none → syDeadline x ≠ 0 →
         (queueOf d q).mark ≠ none ∨ (syDeadline x < now d ∧ obj.value < syValue x) →
         let noted := post (advance d q) h.ctx 0x000C ⟨hTag x, q⟩ (leBytes 2 o ++ zeros 6 ++ leBytes 8 (syDeadline x))
         (syToEn x = false → Does (.waitTimeout q) s noted)
           ∧ (syToEn x = true → Does (.waitTimeout q) s
             (syncAdd noted (syToObj x) (syToInc x) h.ctx h.ctx ⟨hTag x, q⟩ (hOpcode x) h.idx))))
    ∧ (∀ (s : State) (q : Nat) (h : Head), HeadReady s.dev q h 0x0801 →
         let d := s.dev
         let x := h.desc
         (hOpcode x = 0x02 → dfield x 24 0 8 = 1 ∨ dfield x 24 0 8 = 2 → dfield x 25 0 312 = 0 → (queueOf d q).cover = some [] →
             Does (.fence q) s (completeHead d h))
           ∧ (hOpcode x = 0x03 → dfield x 32 0 256 = 0 → dfield x 24 0 64 = now d → Does (.launchAt q) s (completeHead d h))
           ∧ (hOpcode x = 0x03 → dfield x 32 0 256 = 0 → dfield x 24 0 64 < now d → inLockstep d h.ctx = false →
             let noted := post d h.ctx 0x000D ⟨hTag x, q⟩ (zeros 8 ++ leBytes 8 (dfield x 24 0 64))
             Does (.launchAt q) s
               (completeHead { noted with disp := { noted.disp with lateLaunches := satAdd 32 d.disp.lateLaunches 1 } } h)))

/-- A completion adds the SIGNAL increment to a declared object and posts the COMPLETE event asked for, and the head moves past its
descriptor (R225, R227, R251, R259). The end of a descriptor of an engine on the signal die returns across the haul road first: while
it cannot cross it waits there as a flit, and neither has happened yet (R16, R170). -/
def Obligations.CompletionSignals : Prop :=
  ∀ (d : Dev) (h : Head), let x := h.desc
    let e := completeHead d h
    let lc := hClass x == 1
    let comes := onSignalDie d x = false ∨ canCross d .st lc = true
    e.mem = d.mem ∧ e.haul.rings = d.haul.rings ∧ e.time = d.time
      ∧ (queueOf e h.q).head = ((queueOf d h.q).head + 1) % 2 ^ 32
      ∧ (∀ k, k ≠ h.q → queueOf e k = queueOf d k)
      ∧ (onSignalDie d x = true → canCross d .st lc = false →
          e = enqueue (advance d h.q) .st lc (.complete h.ctx h.q h.idx x) ∧ e.disp = (advance d h.q).disp
            ∧ (roadDown d = false → roadOf e .st = { roadOf d .st with
              wait := (roadOf d .st).wait ++ [⟨lc, .complete h.ctx h.q h.idx x, []⟩] }))
      ∧ (onSignalDie d x = false → e.haul = d.haul)
      ∧ (comes →
        (hSignalEn x = true → (syncOf d (hSignalObj x)).declared = true →
            (syncOf e (hSignalObj x)).value = min ((syncOf d (hSignalObj x)).value + hSignalInc x) (2 ^ 64 - 1))
          ∧ (∀ o, ¬ (hSignalEn x = true ∧ o = hSignalObj x) → syncOf e o = syncOf d o)
          ∧ (hSignalEn x = false → hEvent x = true → (ctxOf d h.ctx).evs.length < (ctxOf d h.ctx).evqDepth →
            (ctxOf e h.ctx).evs = (ctxOf d h.ctx).evs ++ [eventRecord 0x0001 h.ctx (ctxOf d h.ctx).evLost ⟨hTag x, h.q⟩ (now d)
              (leBytes 2 (hOpcode x) ++ zeros 2 ++ leBytes 4 h.idx)])
          ∧ (hSignalEn x = false → hEvent x = false → ctxOf e h.ctx = ctxOf d h.ctx))
      ∧ (∀ p, descriptorArrive d p = match p with
          | .complete c q i y => endDesc d c q i y
          | .syncInc o n c t k op i => syncAdd d o n c c ⟨t, k⟩ op i
          | .ringInc r o => ringAdd d r o
          | .trigInc i => trigArrive d i
          | _ => d)

/-- Operations: one that has done its work, and whose outputs have arrived, completes, and a compute operation at a cursor first works to
its end; a best-effort one that is asked for its engines is parked with its state and counted; a parked one resumes where engines are
free, its array state put back, and a signal-core program whose own cores are free on those; the boost of a holder ends after 16,000
ticks with one event for each wait it served; usage ratios halve once in 2^20 ticks (R92, R225, R235, R243, R245, R246, R254, R345,
R346). -/
def Obligations.OperationsEnd : Prop :=
  ∀ s : State, let d := s.dev
    (∀ id o, opOf d id = some o → o.parked = false →
        (o.phase = .done → outsIn d o = true → Does (.descriptorComplete id) s
            (checkReturn (finishDesc (retireOp (countUsage d o) id) o.ctx o.queue o.idx o.desc)))
          ∧ (o.phase = .done → outsIn d o = false → Does (.descriptorComplete id) s d)
          ∧ (∀ p, o.phase = .running → opOf (runOp d id { o with run := .whole }) id = some p → p.phase = .done → p.parked = false →
            outsIn (runOp d id { o with run := .whole }) p = true →
            Does (.descriptorComplete id) s (completeOp (runOp d id { o with run := .whole }) id))
          ∧ (o.phase = .stalled ∨ o.phase = .moving → Does (.descriptorComplete id) s d))
      ∧ (∀ id o, opOf d id = some o → o.parked = true → Does (.descriptorComplete id) s d)
      ∧ (∀ id run, workRunOk run = true → opOf d id = none → Does (.descriptorComplete id) s d ∧ Does (.preemptComplete id) s d
        ∧ Does (.operationResume ⟨id, run⟩) s d)
      ∧ (∀ id o run, workRunOk run = true → opOf d id = some o → o.parked = false → Does (.operationResume ⟨id, run⟩) s d)
      ∧ (∀ id o, opOf d id = some o → mustLeave d o = true →
        let p := setOp d id (if o.kind = .core then { o with parked := true, away := o.away ++ asked d o } else
          { o with parked := true, units := [],
                   pes := if o.kind = .bench then o.units.map (fun u => lget ⟨none, none, false⟩ d.comp.pe u) else [] })
        Does (.preemptComplete id) s { p with disp := { p.disp with preemptions := satAdd 64 d.disp.preemptions 1 } })
      ∧ (∀ id o, opOf d id = some o → mustLeave d o = false → Does (.preemptComplete id) s d)
      ∧ (∀ id o run, workRunOk run = true → opOf d id = some o → o.parked = true →
        (o.kind = .core → Does (.operationResume ⟨id, run⟩) s (resumeProgram d id o (resumeMoves d o)))
          ∧ (o.kind = .core → o.lc = false → beTurn d o = true → (∀ c ∈ o.away, ownCore d c = true) →
            Does (.operationResume ⟨id, run⟩) s (setOp d id { o with parked := false, away := [] }))
          ∧ (∀ us, o.kind ≠ .core → (if o.lc then resumeLc d o else resumeBe d o) = some us →
            o.phase = .stalled ∨ o.phase = .running → Does (.operationResume ⟨id, run⟩) s
              (beginOp (restorePe d o us) id { o with
                parked := false, units := us, pes := [], scratch := scratchFor o.kind us, needs := [], run := run }))
          ∧ (o.kind ≠ .core → (if o.lc then resumeLc d o else resumeBe d o) = none → Does (.operationResume ⟨id, run⟩) s d))
      ∧ (∀ (b : Sys2Proof.Machine.Boost), b.obj < 8192 →
        d.disp.boosts.find? (fun x => x.obj == b.obj && x.start + 16000 ≤ now d) = some b →
        let hs := (b.waiters.filter (queueWaitsFor d b.holder)).filterMap fun w => headOf d w.1
        let told := hs.foldl (fun e h => modQueue e h.q fun x => { x with boosted := true }) d
        let told := (hs.map fun h => (h.ctx, (⟨hTag h.desc, h.q⟩ : Cause))).foldl
          (fun e c => post e c.1 0x000B c.2 (leBytes 2 b.obj ++ leBytes 1 b.holder)) told
        Does (.boostExhausted b.obj) s { told with disp := { told.disp with
          boosts := told.disp.boosts.filter (fun x => x != b), boostsExhausted := satAdd 32 told.disp.boostsExhausted hs.length } })
      ∧ (∀ k, k < 8192 → d.disp.boosts.find? (fun x => x.obj == k && x.start + 16000 ≤ now d) = none → Does (.boostExhausted k) s d)
      ∧ (d.disp.halvedAt / 2 ^ 20 < now d / 2 ^ 20 →
        Does .usageRatioHalving s { d with disp := { d.disp with
          ctxs := d.disp.ctxs.map (fun e => (e.1, { e.2 with usage := e.2.usage.map (· / 2) })), halvedAt := now d } })
      ∧ (now d / 2 ^ 20 ≤ d.disp.halvedAt / 2 ^ 20 → Does .usageRatioHalving s d)

/-- Reservations: the one of a window opens at its start on those of the engines placed for that window that are in service, once, and
the programs on its cores are asked to leave; it ends at its length, its operations that still run are parked with an overrun event for
each engine, and a graph that is leaving goes with its last one; a revoked graph's event is posted at its next opening, and its parked
work goes on as best effort; where nothing of this is due nothing changes (R240, R243 to R245, R345). -/
def Obligations.ReservationsOpen : Prop :=
  ∀ (s : State) (g k : Nat), g < 64 → k < 4 →
    let d := s.dev
    let x := graphOf d g
    (∀ t, x.st = 1 ∨ (x.st = 3 ∧ ∃ r, x.revokedIn = some r ∧ windowAt x.rcd r = some t) → 0 < gCount x.rcd k →
        windowAt x.rcd t = some t → x.admitAt + 8000 < t → now d = t + gStart x.rcd k →
        (∀ r ∈ d.disp.resv, ¬ (r.graph = g ∧ r.kind = k ∧ r.window = t)) →
        let es := (lget [] (placeIn x t) k).filter (engineReady d.comp.bench d.sc.pairs k)
        let opened := { d with disp := { d.disp with resv := d.disp.resv ++ [⟨g, k, t, now d + gRho x.rcd k, es⟩] } }
        Does (.reservationOpen g k) s (sendPreempts opened k es) ∧ (k ≠ 3 → sendPreempts opened k es = opened))
      ∧ ((∀ t, openingNow d g k = some t → ∃ r ∈ d.disp.resv, r.graph = g ∧ r.kind = k ∧ r.window = t) →
        Does (.reservationOpen g k) s d)
      ∧ (∀ r, d.disp.resv.find? (fun r => r.graph == g && r.kind == k && r.till ≤ now d) = some r →
        let late := d.disp.ops.filter fun o =>
          o.2.lc && o.2.graph == g && kindNo o.2.kind == some k && !(inPlace o.2).isEmpty
        let past := (late.foldl (overrunOp g k) (d, [])).1
        let ended := { past with disp := { past.disp with resv := past.disp.resv.filter fun y => y != r } }
        (x.leaving = false ∨ now d < r.window + gSpan x.rcd → Does (.reservationEnd g k) s ended)
          ∧ (x.leaving = true → r.window + gSpan x.rcd ≤ now d → Does (.reservationEnd g k) s (graphEmpty ended g))
          ∧ (late = [] → past = d))
      ∧ (d.disp.resv.find? (fun r => r.graph == g && r.kind == k && r.till ≤ now d) = none → Does (.reservationEnd g k) s d)
      ∧ (∀ r, x.revokedIn = some r → x.st = 3 → nextOpening x.rcd r ≤ now d →
        Does (.admissionRevoked g) s
          (post (parkedToBe (setGraph d g { x with revokedIn := none, place := [] }) g) (gCtx x.rcd) 0x0009 noCause
            (leBytes 1 g ++ leBytes 1 x.reason)))
      ∧ (x.st ≠ 3 ∨ (∀ r, x.revokedIn = some r → now d < nextOpening x.rcd r) → Does (.admissionRevoked g) s d)

/-! ### Compute -/

/-- The compute operations, their checks passed and their engine free. With its pages resident an operation works to its end or to the
place that the command names: the outputs of that work are stored with their spoil marks, its flags raised, SPOIL_READ posted where it
first reads spoil, its cycles and transient mismatches counted, and it waits for its completion or holds its cursor; a second mismatch
ends it with its FAULT and works the bench out. Where a page it touches is on no bench it runs on, it stalls on the pages it lacks and
stores nothing; a VOP whose table is not wholly held waits for that at its head (R58, R82, R83, R92, R94, R97, R117, R127 to R130, R148
to R151, R206, R207, R227). Operands that another operation still writes read as free values (R24, log entry 1). -/
def Obligations.ComputeRuns : Prop :=
  ∀ (s : State) (q : Nat) (h : Head) (run : WorkRun) (c : Instr) (op inv : Nat) (check : Dev → Head → Option Nat),
    (c, op, inv, check) ∈ ([(.matmul q run, 0x10, 0x0301, benchReason), (.convolve q run, 0x11, 0x0301, benchReason),
      (.vop q run, 0x20, 0x0401, vecHeadReason), (.quant q run, 0x30, 0x0501, quantReason)] : List _) →
    workRunOk run = true → HeadReady s.dev q h inv → hOpcode h.desc = op → check s.dev h = none → mayIssue s.dev h = true →
    (op = 0x20 → tableAbsent s.dev h ≠ [] → Does c s (touchAll s.dev (tableAbsent s.dev h) (some (freshOp s.dev h))))
      ∧ ((op = 0x20 → tableAbsent s.dev h = []) →
        let o := computeOp s.dev h run
        let id := s.dev.disp.nextOp
        let d := (issue s.dev h o).2
        let w := opWork d id o (runTill d o)
        let here (b : Nat) : Bool := (opBenches o).contains b
        (opNeeds d o = [] → readsHot d id o = false → (op = 0x20 → tableValid d o.ctx (vecJob o.desc) id = true) →
            let counted := countActive d id o w.cur
            let counted := if op = 0x10 ∨ op = 0x11 then peWork counted id o w.cur else counted
            let p := opAfter d id o w
            let worked := (run.transients.filter here).foldl (countTransient o.kind) (setOp (deliver counted o w) id p)
            (run.failed.filter here = none → Does c s (grantScratch worked p))
              ∧ (∀ b, run.failed.filter here = some b → Does c s (benchRetire (abortOp worked id (hwReason o.kind)) b))
              ∧ p.phase = (if w.cur = opTotals d o then .done else .running) ∧ p.cur = w.cur ∧ p.held = w.held)
          ∧ (opNeeds d o ≠ [] →
            let p := { o with phase := .stalled, needs := opNeeds d o }
            Does c s (touchAll (setOp d id p) (opNeeds d o) (some p))
              ∧ ((∀ n ∈ opNeeds d o, servable d n = true) → Does c s (setOp d id p))))

/-- An integer dot product whose partial sums all fit 32 bits is the exact sum with no flag raised, whether it is split over logical
benches or not, and however many there are (R48, R65, R66, R68). -/
def Obligations.IntegerSplit : Prop :=
  ∀ (split : Bool) (benches perK : Nat) (start : Int) (terms : List Int), 0 < benches → 0 < perK → terms ≠ [] →
    start.natAbs + (terms.map Int.natAbs).sum < 2 ^ 31 → dotInt split benches perK start terms = (start + terms.sum, fNone)

/-- A LAYER whose covered operations have completed outside lock-step: one CORE_SAMPLE for each of its tensors in order, then its
completion (R265 to R270). In lock-step one that waits for the layer before it completes once every pair of that layer has been
compared and matches, and a mismatch halts its context (R280). A LAYER of the lock-step context that has waited past its time:
LOCKSTEP_TIMEOUT is posted, the state reads 4 and the context goes to STOPPING (R276, R281). -/
def Obligations.LayerCompletes : Prop :=
  (∀ (s : State) (q : Nat) (h : Head), HeadReady s.dev q h 0x0901 → hOpcode h.desc = 0x08 → layerReason s.dev h = none →
     mayIssue s.dev h = true → (queueOf s.dev q).cover = some [] →
     let d := s.dev
     (∀ t, (queueOf d q).mark = none → inLockstep d h.ctx = false → lyCount h.desc = 1 → tensorOf d h.ctx (lyId h.desc 0) = some t →
         sampleOpen d h.ctx t = false →
         let e := post d h.ctx 0x0010 ⟨hTag h.desc, q⟩
           (leBytes 8 (crc64 ((List.range t.size).map (sampleByte d h.ctx t))) ++ leBytes 2 (dfield h.desc 24 0 16)
             ++ leBytes 2 (min (spoilBlocks d h.ctx t) 0xFFFF) ++ leBytes 4 (lyId h.desc 0))
         Does (.layer q) s (layerSeen (completeHead (modQueue e q fun x => { x with mark := some (now e) }) h) h.ctx))
       ∧ ((queueOf d q).mark = none → inLockstep d h.ctx = false →
         let e := (lyIds h.desc).zipIdx.foldl (fun d e => layerSample h d e.2 e.1) d
         Does (.layer q) s (layerSeen (completeHead (modQueue e q fun x => { x with mark := some (now e) }) h) h.ctx))
       ∧ ((queueOf d q).mark ≠ none → inLockstep d h.ctx = false ∨ d.ls.state ≠ 2 ∨ d.ls.lseq ≤ 1 →
         Does (.layer q) s (layerSeen (completeHead d h) h.ctx))
       ∧ ((queueOf d q).mark ≠ none → inLockstep d h.ctx = true → d.ls.state = 2 → 2 ≤ d.ls.lseq →
         (lsAll d (d.ls.lseq - 2) = false → Does (.layer q) s d)
           ∧ (lsAll d (d.ls.lseq - 2) = true → d.ls.mismatch.contains (d.ls.lseq - 2) = false →
             Does (.layer q) s (layerSeen (completeHead d h) h.ctx))
           ∧ (lsAll d (d.ls.lseq - 2) = true → d.ls.mismatch.contains (d.ls.lseq - 2) = true →
             Does (.layer q) s (lsHalt d 3))))
    ∧ (∀ s : State, let d := s.dev
         d.ls.enable = true → d.ls.state = 2 → 2 ≤ d.ls.lseq → lsAll d (d.ls.lseq - 2) = false →
         (layerAt d).any (fun w => w.2 + 800 * d.ls.timeout < now d) = true → (ctxOf d d.ls.ctx).reg.st = ctxActive →
         Does .lockstepTimeout s (lsHalt (postLs d 0x0012 (zeros 4 ++ leBytes 4 (d.ls.lseq - 2))) 4)
           ∧ ∃ t, exec .lockstepTimeout s = .next t ∧ t.dev.ls.state = 4
             ∧ (ctxOf t.dev d.ls.ctx).reg = genTo (ctxOf d d.ls.ctx).reg ctxStopping ∧ t.trust = s.trust ∧ t.pending = s.pending)
    ∧ (∀ s : State, let d := s.dev
         d.ls.enable = false ∨ d.ls.state ≠ 2 ∨ d.ls.lseq < 2 ∨ lsAll d (d.ls.lseq - 2) = true
           ∨ (∀ w, layerAt d = some w → now d ≤ w.2 + 800 * d.ls.timeout) → Does .lockstepTimeout s d)

/-! ### The haul road -/

/-- MOVE and RING, their checks passed: a MOVE issues, one of the signal die's engine across the haul road, and one between two tensors
copies them as far as their pages are at hand; CREATE makes an empty ring of the descriptor's geometry, its frames taken, DESTROY frees
it, the MOVEs that still wait for it ending as invalid, RESET empties it and keeps its ends (R152, R155, R157, R161, R165, R166, R170).
-/
def Obligations.MovesAndRings : Prop :=
  ∀ (s : State) (q : Nat) (h : Head), HeadReady s.dev q h 0x0601 →
    let d := s.dev
    let x := h.desc
    let r := rgId x
    let o := freshMove d h
    (hOpcode x = 0x40 → moveReason d h = none → moveReady d h = true → Does (.move q) s (startMove (sendDesc d h) h))
      ∧ (hOpcode x = 0x40 → moveReason d h = none → mvRemote x = false → mvConvey x = false → sideIsTensor (mvFrom x) = true →
        sideIsTensor (mvTo x) = true → Does (.move q) s (copyTensor (issue d h o).2 d.disp.nextOp o))
      ∧ (hOpcode x = 0x41 → rgOp x = 1 → createReason d h = none → (rgNew h).consDie ≠ 1 ∨ hostReady d (rgBench x) = true →
        Does (.ringCreate q) s
            (completeHead (pinLimits (setRing (ringClear (ringRoom d (rgNew h)).1 r 64) r (rgNew h))) h)
          ∧ ((rgNew h).consDie ≠ 1 → (ringRoom d (rgNew h)).1 = d)
          ∧ (rgNew h).count = 0 ∧ (rgNew h).head = 0 ∧ (rgNew h).tail = 0 ∧ (∀ i, slotStOf (rgNew h) i = .empty))
      ∧ (hOpcode x = 0x41 → rgOp x = 2 → ringReason d h = none →
        Does (.ringDestroy q) s (completeHead (destroyRing d r) h) ∧ ringOf (destroyRing d r) r = none
          ∧ ((∀ e ∈ d.disp.ops, e.2.phase ≠ .moving) → destroyRing d r = pinLimits (ringDrop d r)))
      ∧ (∀ y, hOpcode x = 0x41 → rgOp x = 3 → ringReason d h = none → ringOf d r = some y →
        Does (.ringReset q) s (completeHead
          (setRing (ringUnsend (ringClear d r y.slots) r) r { ringFresh y with prod := y.prod, cons := y.cons }) h))

/-- Ring slots (R162 to R168): the MOVE that fills a ring's tail slot writes and posts it, the one that takes its head slot gives it
back, the last flit of a slot that crosses the road completes it; a complete slot is FULL, or SPOIL where a block of it is spoil, the
tail advances and the count rises, and a slot given back is EMPTY and the head advances. The conveyor fetches its next slot while every
attached receiver has a skew below 2 and detaches the late ones with CONVEYOR_MISS where another has room; a receiver accepts a staged
slot, or once detached reads it itself, into its destination pages; a page that is missing stalls it (R178 to R182). -/
def Obligations.RingSlots : Prop :=
  (∀ (s : State) (r : Nat), r < 4096 → ringOf s.dev r = none → Does (.ringSlotFull r) s s.dev ∧ Does (.ringSlotEmpty r) s s.dev)
    ∧ (∀ (s : State) (r : Nat) (x : Ring), r < 4096 → ringOf s.dev r = some x →
     let d := s.dev
     (∀ id o, ringDir x = none → ringMover d r true = some (id, o) → tailOpen x = true → x.prod = none → mvRemote o.desc = false →
         haulRuns d o = true →
         (sideRing (mvFrom o.desc) = none → o.needs = [] → o.pos < moveTotal d o →
             Does (.ringSlotFull r) s (fillFromTensor d id r x o))
           ∧ (∀ k y, sideRing (mvFrom o.desc) = some k → ringOf d k = some y →
             Does (.ringSlotFull r) s (fillFromRing d id k r y x o)))
       ∧ (ringDir x = none → ringMover d r true = none → Does (.ringSlotFull r) s d)
       ∧ (∀ dir f, ringDir x = some dir → nextFlit (roadOf d dir) = some f → roadRuns d = true → lastOf r f = true →
         Does (.ringSlotFull r) s (slotLand (acceptFlit d dir f) f.pay))
       ∧ (∀ id o, ringMover d r false = some (id, o) → headOpen x = true → x.cons = none → haulRuns d o = true →
         (mvRemote o.desc = true → Does (.ringSlotEmpty r) s (emptyToPeer d id r x o))
           ∧ (∀ k y, mvRemote o.desc = false → sideRing (mvTo o.desc) = some k → ringOf d k = some y →
             Does (.ringSlotEmpty r) s (emptyToRing d id r k x y o))
           ∧ (mvRemote o.desc = false → sideRing (mvTo o.desc) = none → o.needs = [] →
             Does (.ringSlotEmpty r) s (emptyToTensor d id r x o)))
       ∧ (ringMover d r false = none → Does (.ringSlotEmpty r) s d)
       ∧ (x.fullEn = false → x.rt = false →
         let n := x.count % x.slots
         slotFull d r = setRing d r { x with
           slotSt := lset x.slotSt n (if slotSpoil d r n then .spoil else .full), fullAt := lset x.fullAt n (now d),
           tail := (n + 1) % x.slots, posted := false, staged := [], sent := [], count := x.count + 1 })
       ∧ (∀ n, slotStOf x n = .draining → x.emptyEn = false →
         slotRelease d r n = modRing (slotClear (slotClear d r n) r (64 + n)) r fun y =>
           { y with slotSt := lset y.slotSt n .empty, head := (n + 1) % y.slots, given := false, taken := y.taken + 1 }))
    ∧ (∀ (s : State) (id : Nat) (crc : List BlockFail) (c : Conv) (o : Op), failsOk crc = true → convOf s.dev id = some c →
         opOf s.dev id = some o → haulRuns s.dev o = true →
         let d := s.dev
         let on := (c.accepted.map fun a => a.1).filter (convAttached c)
         let late := on.filter fun l => 2 ≤ convSkew c l
         (c.fetched < c.total → convLack d o c.fetched ≠ [] →
             Does (.conveyorFetch ⟨id, crc⟩) s (convStall d id o (convLack d o c.fetched)))
           ∧ (c.fetched < c.total → convLack d o c.fetched = [] →
             (late = [] → Does (.conveyorFetch ⟨id, crc⟩) s (convStage d id c o crc))
               ∧ (late ≠ [] → (∃ l ∈ on, convSkew c l = 0 ∧ (convRoom d o l c.fetched).2 = true) →
                 Does (.conveyorFetch ⟨id, crc⟩) s (convStage (convDetach d o c late) id (convWithout c late) o crc))
               ∧ (late ≠ [] → (∀ l ∈ on, convSkew c l ≠ 0 ∨ (convRoom d o l c.fetched).2 = false) →
                 Does (.conveyorFetch ⟨id, crc⟩) s d))
           ∧ (c.total ≤ c.fetched → Does (.conveyorFetch ⟨id, crc⟩) s d)
           ∧ (∀ l, l < 16 → thas c.accepted l = true → convAccepted c l < c.total →
             let k := convAccepted c l
             let r := convRoom d o l k
             let need (own : Bool) : List (Nat × Nat) := convTargets d o l k ++ if own then convLack d o k else []
             (∀ bs, convAttached c l = true → tfind c.staged k = some bs →
                 (need false ≠ [] → Does (.conveyorSlotAccept id ⟨l, crc⟩) s (convStall d id o (need false)))
                   ∧ (need false = [] → r.2 = true →
                     Does (.conveyorSlotAccept id ⟨l, crc⟩) s (convTaken (convWrite r.1 o l k bs) id l c o))
                   ∧ (need false = [] → r.2 = false → Does (.conveyorSlotAccept id ⟨l, crc⟩) s r.1))
               ∧ (convAttached c l = true → tfind c.staged k = none → Does (.conveyorSlotAccept id ⟨l, crc⟩) s d)
               ∧ (convAttached c l = false →
                 (need true ≠ [] → Does (.conveyorSlotAccept id ⟨l, crc⟩) s (convStall d id o (need true)))
                   ∧ (need true = [] → r.2 = true →
                     let p := convCursor r.1 o k
                     Does (.conveyorSlotAccept id ⟨l, crc⟩) s (readPages r.1 p.ctx (convSource r.1 p k) crc fun e =>
                       convTaken (convWrite e p l k (convBytes e id p k)) id l c p)))))

/-- The next flit of a direction of a road that runs: slot data land in their slot, a release empties one, a descriptor adds its
increment or brings a completion, and a trigger's increment is held for its tick; a link flit acknowledges the other direction, a bad
flit is refused and a second failure starts a retrain; with no flit, or while the road does not run, nothing happens (R164, R169 to
R172, R397). A retrain works out the halves of failing lanes: it ends with the lanes that are left, a changed count re-admitting the
graphs and sending the timebase, or the road is worked out (R19, R27, R173, R176). -/
def Obligations.RoadFlits : Prop :=
  ∀ (s : State) (dir : Dir),
    let d := s.dev
    let x := roadOf d dir
    (∀ f, roadRuns d = true → nextFlit x = some f →
        let a := acceptFlit d dir f
        (∀ r k i l sp bs, f.pay = .slotData r k i l sp bs → Does (.slotData dir) s (landMove (slotArrive a f.pay) r bs.length))
          ∧ (∀ out lc n i, f.pay = .sysData out lc n i → Does (.slotData dir) s (sysArrive a out lc n))
          ∧ (∀ r k, f.pay = .slotRelease r k → Does (.slotRelease dir) s (slotRelease a r k))
          ∧ (∀ out lc n, f.pay = .sysRelease out lc n → Does (.slotRelease dir) s (sysReleased a out lc n))
          ∧ (∀ o n c t k op i, f.pay = .syncInc o n c t k op i → Does (.descriptorFlit dir) s (syncAdd a o n c c ⟨t, k⟩ op i))
          ∧ (∀ r o, f.pay = .ringInc r o → Does (.descriptorFlit dir) s (ringAdd a r o))
          ∧ (∀ c k i y, f.pay = .complete c k i y → Does (.descriptorFlit dir) s (endDesc a c k i y))
          ∧ (∀ c t, f.pay = .preempt c t → Does (.descriptorFlit dir) s a)
          ∧ (∀ i, f.pay = .trigInc i → i.inc ≠ 0 → now a < i.tick →
            Does (.descriptorFlit dir) s { a with time := { a.time with heldIncs := a.time.heldIncs ++ [i] } })
          ∧ (∀ i, f.pay = .trigInc i → i.inc ≠ 0 → now a = i.tick → Does (.descriptorFlit dir) s (trigApply a i))
          ∧ (x.refused = none →
            Does (.flitCrcError dir) s (setRoad d dir { sendFlit d dir f with refused := some x.seq, failed := true }))
          ∧ (x.refused ≠ none → Does (.flitCrcError dir) s (setRoad d dir { x with failed := false, retrain := true })))
      ∧ (roadRuns d = false ∨ nextFlit x = none → Does (.slotData dir) s d ∧ Does (.slotRelease dir) s d ∧ Does (.descriptorFlit dir) s d
        ∧ Does (.flitCrcError dir) s d)
      ∧ (roadRuns d = true → let y := roadOf d (otherDir dir)
        (y.refused = none → Does (.linkFlit dir) s (setRoad d (otherDir dir) { y with replay := [] }))
          ∧ (∀ n, y.refused = some n →
            Does (.linkFlit dir) s (setRoad d (otherDir dir) { y with replay := y.replay.filter fun e => e.1 == n })))
      ∧ (roadRuns d = false → Does (.linkFlit dir) s d)
      ∧ (∀ failing : List Nat, (∀ l ∈ failing, l < 64) →
        let g := failing.foldl halfOut d
        let n := lanesLeft g
        let ended := { g with haul := { g.haul with st := { g.haul.st with retrain := false }, ts := { g.haul.ts with retrain := false },
                                                    retrains := satAdd 32 g.haul.retrains 1, roadLanes := n,
                                                    roadLatency := if n = 32 then 48 else 50 } }
        (retraining d = false → Does (.roadRetrainComplete failing) s d)
          ∧ (retraining d = true → n ≠ 0 → n = d.haul.roadLanes → Does (.roadRetrainComplete failing) s ended)
          ∧ (retraining d = true → n ≠ 0 → n ≠ d.haul.roadLanes →
            Does (.roadRetrainComplete failing) s (readmit (sendTimebase ended) (sendTimebase ended).sc.pairs))
          ∧ (retraining d = true → n = 0 → Does (.roadRetrainComplete failing) s
            (roadWorkedOut { g with haul := { g.haul with retrains := satAdd 32 g.haul.retrains 1 } })))

/-! ### Memory -/

/-- ALLOC and FREE, their checks passed: an unpinned tensor is placed and completes at once, a pinned one waits for its pages; a
tensor is released with its pages, and an operation that still uses it without an order ends with MEM_NOT_ALLOCATED (R198, R200, R201).
The place of a new tensor never holds page 0 and meets no tensor of its context, and no lower place would do (R198). -/
def Obligations.AllocFree : Prop :=
  (∀ (s : State) (q : Nat) (h : Head), HeadReady s.dev q h 0x0701 →
     let d := s.dev
     let id := alId h.desc
     (∀ t, hOpcode h.desc = 0x50 → allocReason d h = none → allocReady d h = true → alTensor d h.ctx h.desc = some t →
         (t.pinMask = 0 → Does (.alloc q) s (completeHead (placeTensor d h.ctx id t) h))
           ∧ (t.pinMask ≠ 0 →
             let p := placeTensor d h.ctx id t
             let ns := (hostsOf p t.pinMask).flatMap fun b =>
               (List.range t.pages).map fun i => (ckey h.ctx (placeFor d h.ctx t.pages + i), b)
             let o := { freshOp p h with phase := .stalled, needs := ns }
             Does (.alloc q) s (touchAll (issue p h o).2 ns (some o))))
       ∧ (∀ t, hOpcode h.desc = 0x51 → freeReason d h = none → tensorOf d h.ctx id = some t →
         let late := d.disp.ops.filter fun o => usesTensor h.ctx id t o.2
         let e := late.foldl (fun d o => abortOp d o.1 0x0704) d
         Does (.free q) s (completeHead (checkReturn (pinLimits (releaseTensor e h.ctx id t))) h)
           ∧ tensorOf (releaseTensor e h.ctx id t) h.ctx id = none))
    ∧ (∀ (d : Dev) (ctx n : Nat), 0 < n →
         let apart (p : Nat) : Prop := 1 ≤ p ∧ ∀ e ∈ d.mem.tensors, e.1 / 2 ^ 32 = ctx → p + n ≤ e.2.base ∨ e.2.base + e.2.pages ≤ p
         apart (placeFor d ctx n)
           ∧ ∀ p, apart p → placeFor d ctx n ≤ p)

/-- Pages and drains: a page that an operation waits for comes in, read from LPDDR6 with the failures of its blocks, and after the last
one the operation goes on; a page whose host is late is spoiled with its FAULT; a page migrates inside the envelope, to a channel or a
bench, or leaves a DRAINING channel, which is worked out after the last; drained benches and pairs are GATED (R96, R196, R205 to R211,
R216, R348). -/
def Obligations.PageMoves : Prop :=
  ∀ s : State, let d := s.dev
    (∀ id crc o n, failsOk crc = true → opOf d id = some o → o.lc = true ∨ lcWaits d = false → o.needs.find? (servable d) = some n →
        let r := servePage d (n.1 / 2 ^ 32) (n.1 % 2 ^ 32) (if n.2 = 16 then benchFor d else some n.2) o.lc crc
        (r.2 = false → Does (.pageInComplete id crc) s r.1)
          ∧ (∀ p, r.2 = true → servable r.1 n = true → opOf r.1 id = some p →
            let rest := dropNeed n p.needs
            (rest = [] → p.parked = false → p.phase ≠ .done →
                Does (.pageInComplete id crc) s (goOn r.1 id { p with needs := [] }))
              ∧ (rest ≠ [] ∨ p.parked = true ∨ p.phase = .done →
                Does (.pageInComplete id crc) s (setOp r.1 id { p with needs := rest }))))
      ∧ (∀ c p, c < 64 → p < 2 ^ 32 →
        (hostLate d c p = true → Does (.hostPageTimeout c p) s (pageUnserved d c p (waitingOp d c p)))
          ∧ (hostLate d c p = false → Does (.hostPageTimeout c p) s d))
      ∧ (∀ c p k crc a t, c < 64 → p < 2 ^ 32 → k < 8 → failsOk crc = true → tensorAt d c p = some t → t.2.freeze = false →
        (pageOf d c p).chan = some a → a ≠ k → (chanReg d k).st = 1 → chanFree d k ≠ 0 → d.mem.migrateFreeze = false →
        chanFull d k = false →
        Does (.pageMigration c p ⟨k, crc⟩) s (readPages (unclampCtx (unclampCtx d c 0x5503 0) c 0x5502 (k + 1)) c [p] crc fun d =>
          modPage d c p fun x => { x with chan := some k }))
      ∧ (∀ c p b crc a, c < 64 → p < 2 ^ 32 → b < 16 → failsOk crc = true → (tensorAt d c p).isSome = true →
        lowBit (pageOf d c p).copies = some a → bitAt (pageOf d c p).copies b = false → benchTakes d b = true →
        pagePinned d a (ckey c p) = false →
        let lc := bitAt (pageOf d c p).lcFrames a
        let r := roomFor d c p b lc
        (r.2 = true → Does (.pageMigration c p ⟨8 + b, crc⟩) s (modPage r.1 c p fun x =>
            let y := pageJoin b (pageLeave a x)
            if lc then { y with lcFrames := y.lcFrames ||| 2 ^ b } else y))
          ∧ (r.2 = false → Does (.pageMigration c p ⟨8 + b, crc⟩) s r.1))
      ∧ (∀ c k crc e, c < 8 → k < 8 → failsOk crc = true → (chanReg d c).st = 2 → pageOn d c = some e → (chanReg d k).st = 1 →
        chanFree d k ≠ 0 → chanTakes d k = true →
        let m := readPages d (e / 2 ^ 32) [e % 2 ^ 32] crc fun d =>
          modPage d (e / 2 ^ 32) (e % 2 ^ 32) fun x => { x with chan := some k }
        ((chanReg m c).st = 2 → pageOn m c = none → Does (.pageMoveComplete c ⟨k, crc⟩) s (chanDrained m c))
          ∧ ((chanReg m c).st ≠ 2 ∨ pageOn m c ≠ none → Does (.pageMoveComplete c ⟨k, crc⟩) s m))
      ∧ (∀ c k crc, c < 8 → k < 8 → failsOk crc = true → (chanReg d c).st = 2 → pageOn d c = none →
        Does (.pageMoveComplete c ⟨k, crc⟩) s (chanDrained d c))
      ∧ (∀ b, b < 16 → (benchReg d b).st = 2 → (∀ o ∈ d.disp.ops, opOnBench o.2 b = false ∨ o.2.phase = .done) →
        let g := benchTo (evacuate d b (logicals d)) b 0
        Does (.benchDrainComplete b) s (readmit (pinLimits (moveScratch g b ((newHost g b).getD b))) g.sc.pairs))
      ∧ (∀ p, p < 16 → (pairReg d p).st = 2 → unitBusy d .core (2 * p) = false → unitBusy d .core (2 * p + 1) = false →
        let g := clearPair (pairTo d p 0) p
        Does (.pairDrainComplete p) s (readmit g g.sc.pairs))

/-- In a memory of canonical form (the model's list of the bytes that are not zero), bytes written through a context's space read back
with the mark of their write, every other byte and the mark of every 64-byte block they do not touch is as before, and the form is
kept (R197). -/
def Obligations.MemoryWrites : Prop :=
  ∀ (d : Dev) (ctx va : Nat) (bs : Bytes) (spoil : Bool), Memory.wf d.mem.cells = true →
    let w := memWrite d ctx va bs spoil
    Memory.wf w.mem.cells = true ∧ (∀ i, i < bs.length → memByte w ctx (va + i) = bs.getD i 0 ∧ memSpoil w ctx (va + i) = spoil)
      ∧ (∀ c a, vkey c a < vkey ctx va ∨ vkey ctx va + bs.length ≤ vkey c a → memByte w c a = memByte d c a)
      ∧ (∀ c a, vkey c a / 64 < vkey ctx va / 64 ∨ (vkey ctx va + bs.length + 63) / 64 ≤ vkey c a / 64 →
          memSpoil w c a = memSpoil d c a)

/-! ### The radio front end -/

/-- JESD204C lanes and links (R288, R291 to R294): a lane that locks joins its link, and one that had lost its lock there marks the
multiblocks in between; one that fails its attempt or loses its lock has one further attempt, and then is worked out; a link whose lanes
are locked runs from its boundary, or is in ERROR where a lane is late; a bad multiblock is spoil and a second one in a row works its
lane out. A lane that no link uses, and a transmit lane, has no lock to gain or lose. -/
def Obligations.JesdLinks : Prop :=
  ∀ s : State, let d := s.dev
    (∀ p l, p < 16 → linkOfLane d p = some l →
        let k := linkOf d l
        let x := laneOf d p
        (x.reg.st ≠ 3 → laneLocked d l p = false →
            let g := modLane (modLink d l fun k => { k with locked := insSorted k.locked p, since := max k.since d.time.ticks }) p
              fun x => { x with second := false }
            (k.reg.st ≠ 2 → Does (.laneLock p) s g)
              ∧ (k.reg.st = 2 →
                let n := max x.mb (nextMultiblock d l)
                Does (.laneLock p) s (modLane (modLink g l fun k => { k with
                    badMb := ((List.range (n - x.mb)).map fun i => x.mb + i).foldl insSorted k.badMb }) p
                  fun x => { x with mb := n, bad := false })))
          ∧ (x.reg.st = 3 ∨ laneLocked d l p = true → Does (.laneLock p) s d)
          ∧ (lockOver d p = true → x.second = false →
            Does (.laneLockTimeout p) s (modLane d p fun x => { x with second := true, since := d.time.ticks }))
          ∧ (lockOver d p = true → x.second = true → Does (.laneLockTimeout p) s (jesdLaneOut d p))
          ∧ (laneLocked d l p = true →
            let lost := modLink d l fun k => { k with locked := delSorted k.locked p }
            (x.second = false → Does (.laneLockLoss p) s (modLane lost p fun x => { x with second := true, since := d.time.ticks }))
              ∧ (x.second = true → Does (.laneLockLoss p) s (jesdLaneOut lost p)))
          ∧ (laneLocked d l p = false → Does (.laneLockLoss p) s d)
          ∧ (k.reg.st = 2 → laneLocked d l p = true → multiblockEnd k x.mb ≤ d.time.ticks →
            let failed := modLane (modLink d l fun k => { k with badMb := insSorted k.badMb x.mb }) p
              fun x => { x with mb := x.mb + 1, bad := true }
            Does (.jesdMultiblock p true) s (modLane d p fun x => { x with
                mb := x.mb + 1, bad := false, transients := if x.bad then satAdd 32 x.transients 1 else x.transients })
              ∧ (x.bad = false → Does (.jesdMultiblock p false) s failed)
              ∧ (x.bad = true → Does (.jesdMultiblock p false) s (jesdLaneOut failed p)))
          ∧ (∀ ok, k.reg.st ≠ 2 ∨ laneLocked d l p = false ∨ d.time.ticks < multiblockEnd k x.mb →
            Does (.jesdMultiblock p ok) s d))
      ∧ (∀ p, p < 32 → lockOver d p = false ∨ 16 ≤ p → Does (.laneLockTimeout p) s d)
      ∧ (∀ p ok, p < 32 → linkOfLane d p = none ∨ 16 ≤ p →
        Does (.laneLock p) s d ∧ Does (.laneLockLoss p) s d ∧ Does (.jesdMultiblock p ok) s d)
      ∧ (∀ l b, l < 8 → (linkOf d l).reg.st = 1 → releaseBoundary (linkOf d l) = some b → allLocked d l = true →
        b + (if l < 4 then lkRelease (linkOf d l).rcd else 0) ≤ d.time.ticks →
        (∀ late, (∀ p, late = some p → 4 ≤ l ∨ p ∉ lkLanes (linkOf d l).rcd) →
            Does (.lemcRelease l late) s (linkBegins (modLink (linkTo d l 2) l fun k => { k with base := b, badMb := [] }) l))
          ∧ (∀ p, l < 4 → p ∈ lkLanes (linkOf d l).rcd → Does (.lemcRelease l (some p)) s (linkFail d l p 2)))
      ∧ (∀ l late, l < 8 → (linkOf d l).reg.st ≠ 1 ∨ allLocked d l = false ∨ releaseBoundary (linkOf d l) = none →
        Does (.lemcRelease l late) s d)

/-- FE_START and FE_STOP, their checks passed, cross the haul road to the front end (R170): a stream is ARMED on its ring from the
first sample its count gives; a stop count is kept, and one for a STOPPED stream has come (R309 to R311). -/
def Obligations.StreamsBind : Prop :=
  ∀ (s : State) (q : Nat) (h : Head), HeadReady s.dev q h 0x0A01 →
    let d := s.dev
    let x := h.desc
    let n := feUnit x
    let e := sendDesc d h
    let i := issue e h (freshOp e h)
    let r := feRxOf d n
    let t := feTxOf d n
    (∀ l, hOpcode x = 0x80 → feStartReason d h = none → feDir x = false → linkFor d 0 n = some l →
        Does (.feStart q) s (bindProd (setFeRx i.2 n { r with
          reg := genTo r.reg 1, bind := bindFor i.2 h l (max 1 (rxDec r.cfg)) i.1, dropped := 0, half := [[], [], []], chan := [],
          line := [] }) (feRing x) (.rx n)))
      ∧ (∀ l, hOpcode x = 0x80 → feStartReason d h = none → feDir x = true → linkFor d 1 n = some l →
        Does (.feStart q) s (mixArm (bindCons (setFeTx i.2 n { t with
          reg := genTo t.reg 1, bind := bindFor i.2 h l 1 i.1, zeros := 0, starved := false, shape := [], half := [[], [], []],
          block := [], muted := none, last := none }) (feRing x) (.tx n)) n (feRing x)))
      ∧ (hOpcode x = 0x81 → feReserved x = false → feState d (feDir x) n = 0 → Does (.feStop q) s (completeHead e h))
      ∧ (hOpcode x = 0x81 → feReserved x = false → feDir x = false → r.reg.st ≠ 0 →
        Does (.feStop q) s (setFeRx i.2 n { r with bind := { r.bind with stops := r.bind.stops ++ [(feCount x, i.1)] } }))
      ∧ (hOpcode x = 0x81 → feReserved x = false → feDir x = true → t.reg.st ≠ 0 →
        Does (.feStop q) s (setFeTx i.2 n { t with bind := { t.bind with stops := t.bind.stops ++ [(feCount x, i.1)] } }))

/-- Streams on their ticks: a receive stream starts with its first sample in its slot, a transmit stream on its first tick, and FE_START
completes; one that has reached its stop count stops; a receive sample passes the stream's chain and waits for `JESD_RX_LATENCY`, a
transmit sample leaves the ring through the chain, the monitor and pre-distortion (R289, R290, R295, R297 to R302, R310 to R312). -/
def Obligations.StreamsRun : Prop :=
  ∀ (s : State) (n : Nat), n < 64 →
    let d := s.dev
    let r := feRxOf d n
    let t := feTxOf d n
    (∀ l y, linkFor d 0 n = some l → r.line = [y] → latencyOver d l y.1 = true → r.bind.stops = [] →
        let a := setFeRx d n { r with line := [] }
        (r.reg.st = 1 → r.bind.late = false →
            let b := setFeRx a n { r with line := [], reg := genTo r.reg 2 }
            Does (.streamStart n) s (rxWrite (endUnitOp b r.bind.op) n y.2.1 y.2.2 y.1))
          ∧ (r.reg.st = 1 → r.bind.late = true →
            let b := setFeRx a n { r with line := [], reg := genTo r.reg 2 }
            let c := postLate b r.bind.ctx ⟨r.bind.tag, r.bind.queue⟩ r.bind.count (sampleTick d l r.bind.start)
            Does (.streamStart n) s (rxWrite (endUnitOp c r.bind.op) n y.2.1 y.2.2 y.1))
          ∧ (r.reg.st = 2 → Does (.streamStart n) s (rxWrite a n y.2.1 y.2.2 y.1)))
      ∧ (∀ l, linkFor d 0 n = some l → r.line = [] →
        (r.reg.st ≠ 0 → stopDue d l r.bind = true → Does (.streamStop n) s (stopRx d n))
          ∧ (r.reg.st = 0 ∨ stopDue d l r.bind = false → Does (.streamStop n) s d ∧ Does (.streamStart n) s d))
      ∧ (∀ l, linkFor d 1 n = some l → t.reg.st = 1 → linkKeepsTime d l = true → sampleTick d l t.bind.start ≤ d.time.ticks →
        stopped d l { t.bind with n := 0 } = false →
        let a := setFeTx d n { t with reg := genTo t.reg 2 }
        let a := if t.bind.late then
            postLate a t.bind.ctx ⟨t.bind.tag, t.bind.queue⟩ t.bind.count (sampleTick d l t.bind.start) else a
        Does (.streamStart (64 + n)) s (endUnitOp a t.bind.op))
      ∧ (t.reg.st ≠ 1 → Does (.streamStart (64 + n)) s d)
      ∧ (∀ l, linkFor d 1 n = some l → t.reg.st ≠ 0 → stopDue d l t.bind = true → Does (.streamStop (64 + n)) s (stopTx d n))
      ∧ (∀ l, linkFor d 1 n = some l → t.reg.st = 0 ∨ stopDue d l t.bind = false → Does (.streamStop (64 + n)) s d)
      ∧ (∀ l (i v : Int), linkFor d 0 n = some l → r.reg.st = 2 → r.bind.stops = [] → r.line = [] → detIdle (detOf d n) →
        linkKeepsTime d l = true → nextTick d l r.bind ≤ d.time.ticks → released d l (r.bind.start + r.bind.n) = true →
        sampleHere d l (r.bind.start + r.bind.n) = true →
        (∀ k, k < max 1 (rxDec r.cfg) → sampleBad d l (r.bind.start + r.bind.n - k) = false) →
        let o := rxChain r (satInt 16 i, satInt 16 v)
        let c := nextTick d l r.bind
        (o.2 = none → Does (.rxSample n i v) s (setFeRx d n o.1))
          ∧ (∀ y, o.2 = some y → Does (.rxSample n i v) s
            (rxDue (hear (setFeRx d n { o.1 with line := o.1.line ++ [(c, y, false)] }) n c y) n)))
      ∧ (∀ (i v : Int), r.reg.st = 0 → detIdle (detOf d n) → Does (.rxSample n i v) s d)
      ∧ (∀ l, linkFor d 1 n = some l → t.reg.st = 2 → t.bind.stops = [] → t.block.length < 512 → t.bind.halt = false →
        (∀ k, dpdFor d n = some k → (dpdOf d k).swap = none) → linkKeepsTime d l = true →
        nextTick d l t.bind ≤ d.time.ticks + txLead d →
        let c := nextTick d l t.bind
        let take := t.bind.n % max 1 (txInterp t.cfg) = 0
        let g := if take then (txTake d n).1 else d
        let o := txChain (feTxOf g n) (if take then some (txTake d n).2 else none)
        let a := setFeTx g n o.1
        let p := txPredistort (if monitored a n then a else maskSample a n o.2) n c o.2
        let muted := match (feTxOf p.1 n).muted with | some m => decide (m ≤ c) | none => false
        Does (.txSampleDue n) s (setFeTx p.1 n { feTxOf p.1 n with
          last := if (linkOf d l).reg.st = 3 then none else some (if muted then (0, 0) else p.2) }))
      ∧ (t.reg.st = 0 → t.block.length < 512 → (∀ k, dpdFor d n = some k → (dpdOf d k).swap = none) →
        Does (.txSampleDue n) s d)

/-- Detectors and correlators (R305 to R308): FE_DETECT, across the haul road, binds one with its correlator and frees it; a noise floor
that is due starts at P and then moves towards it; a detection without a correlator is a record of energy alone, one with an idle
correlator starts its search, and one with a busy correlator is a record of that; hold-off ends; a threshold the hardware forms lies in
its envelope; a search without an alignment that passes ends in a record of that. -/
def Obligations.DetectorRuns : Prop :=
  (∀ (s : State) (q : Nat) (h : Head), HeadReady s.dev q h 0x0A01 → hOpcode h.desc = 0x82 →
      let e := sendDesc s.dev h
      let n := feUnit h.desc
      (feEnable h.desc = true → feDetectReason s.dev h = none → Does (.feDetectStart q) s (startDetect e h)
          ∧ detOf (startDetect e h) n = { detOf s.dev n with
            on := true, ctx := h.ctx, lc := h.lc, ring := feRing h.desc,
            corr := if feCorr h.desc < 16 then some (feCorr h.desc) else none, filled := false, phase := .idle, win := [],
            seen := 0, run := 0, first := (0, 0), held := 0, noiseDue := false, detDue := false, endDue := false })
        ∧ (feEnable h.desc = false → feReserved h.desc = false → feDir h.desc = false → feCorr h.desc ≤ 15 ∨ feCorr h.desc = 0xFF →
          Does (.feDetectStop q) s (completeHead (stopDetect e n) h)))
    ∧ (∀ (s : State) (n : Nat), n < 64 →
      let d := s.dev
      let x := detOf d n
      let set (y : DetSt) : Dev := setDet d n y
      (x.noiseDue = true → x.seen = 0 → Does (.noiseFloorUpdate n) s
          (formThreshold (set { x with noiseDue := false, noise := max x.p 1, seen := 0 }) n))
        ∧ (x.noiseDue = true → x.seen ≠ 0 → Does (.noiseFloorUpdate n) s (formThreshold (set { x with
          noiseDue := false, noise := ((x.noise : Int) + rna ((x.p : Int) - x.noise) (2 ^ dtShift x.cfg)).toNat, seen := 0 }) n))
        ∧ (x.noiseDue = false → Does (.noiseFloorUpdate n) s d)
        ∧ (x.detDue = true → x.corr = none → Does (.detection n) s
          (detRecord (set { x with detDue := false }) n 1 0 x.first.2 0 x.power x.thresh x.noise))
        ∧ (∀ c, x.detDue = true → x.corr = some c → (corrOf d c).search = none → Does (.detection n) s
          (setCorr (set { x with detDue := false }) c { corrOf d c with
            search := some (x.first.1, x.first.2, x.power, x.thresh, x.noise) }))
        ∧ (∀ c, x.detDue = true → x.corr = some c → (corrOf d c).search ≠ none → Does (.detection n) s
          (detRecord (set { x with detDue := false }) n 4 0 x.first.2 0 x.power x.thresh x.noise))
        ∧ (x.detDue = false → Does (.detection n) s d)
        ∧ (x.endDue = true → Does (.holdoffEnd n) s (set { x with endDue := false, phase := .idle }))
        ∧ (x.endDue = false → Does (.holdoffEnd n) s d)
        ∧ (dePin x.env = false → leAt x.env 8 4 ≤ leAt x.env 12 4 →
          leAt x.env 8 4 ≤ (detOf (formThreshold d n) n).thresh ∧ (detOf (formThreshold d n) n).thresh ≤ leAt x.env 12 4))
    ∧ (∀ (s : State) (c : Nat), c < 16 →
      let d := s.dev
      let y := corrOf d c
      (searchOver d c = true → Does (.correlatorSearchEnd c) s (searchEnd d c))
        ∧ (searchOver d c = false → Does (.correlatorSearchEnd c) s d)
        ∧ (∀ f tick p t nf n, y.search = some (f, tick, p, t, nf) → y.det = some n →
          let rs := (List.range (crLen y.cfg)).map (refSmp y.ref)
          bestAlignment (crTh y.cfg) (energies rs)
            ((List.range (crSearch y.cfg + 1)).filterMap fun i => alignmentAt y rs (f + i)) = none →
          searchEnd d c = detRecord (setCorr d c { y with search := none }) n 3 0 tick 0 p t nf))

/-- The mask monitor and pre-distortion (R298 to R304): a block of zero samples, or one whose worst segment keeps its limit, violates
nothing; a violation is posted and counted, and mutes the stream from the next boundary where the mask says so; a capture begins at a
boundary, takes the observation samples, is discarded with its reason, or fills the shadow bank and asks for a swap; a swap exchanges
the banks. The monitor's window, the solver and the error estimate are open values (log entry 1). -/
def Obligations.MaskAndDpd : Prop :=
  (∀ (s : State) (n : Nat), n < 64 →
      let d := s.dev
      let t := feTxOf d n
      let fresh := { t with block := [], mask := t.maskNew.getD t.mask, maskNew := none }
      let w := worstSegment t.block.reverse t.mask
      let mute := match linkFor d 1 n with
        | some l => some (boundaryFrom d l (sampleTick d l (t.bind.start + t.bind.n - 1) + 1))
        | none => none
      (t.block.length < 512 → Does (.maskBlock n) s d)
        ∧ (512 ≤ t.block.length → Does (.maskBlock n) s (if silent t.block = true ∨ w.2 ≤ 0 then setFeTx d n fresh else
          setFeTx (post d t.bind.ctx 0x0023 ⟨t.bind.tag, t.bind.queue⟩
              (leBytes 1 n ++ leBytes 1 w.1 ++ leBytes 2 (wrapBits 16 (satInt 16 w.2)) ++ leBytes 1 (mkAction t.mask))) n
            { fresh with violations := satAdd 32 t.violations 1,
                         muted := if mkAction t.mask = 1 ∧ t.muted = none then mute else t.muted })))
    ∧ (∀ (s : State) (n w : Nat), n < 16 →
      let d := s.dev
      let e := dpdOf d n
      let x := dpStream e.cfg
      (∀ l, linkFor d 2 n = some l → dpPin e.env = false → dpFreeze e.env = false → x < 64 → (feTxOf d x).reg.st = 2 → e.cap = none →
          e.swap = none → (linkOf d l).reg.st = 2 → Does (.dpdCaptureStart n) s (setDpd d n { e with
            cap := some (boundaryFrom d l d.time.ticks), ins := [], obs := [], obsBad := false, ended := false }))
        ∧ (dpPin e.env = true ∨ dpFreeze e.env = true ∨ e.cap ≠ none ∨ e.swap ≠ none → Does (.dpdCaptureStart n) s d)
        ∧ (∀ l c (i v : Int), linkFor d 2 n = some l → tget 0 d.fe.obs n = c → linkKeepsTime d l = true →
          sampleTick d l c ≤ d.time.ticks → sampleHere d l c = true → monitored d x = false ∨ 64 ≤ x →
          let bad := sampleBad d l c
          let on := { d with fe := { d.fe with obs := tset d.fe.obs n (c + 1) } }
          (e.cap = none → Does (.rxSample (64 + n) i v) s on)
            ∧ (∀ b, e.cap = some b → b ≤ sampleTick d l c → e.obs.length < dpLen e.cfg → e.ended = false →
              Does (.rxSample (64 + n) i v) s (setDpd on n { e with
                obs := (if bad then (0, 0) else (satInt 16 i, satInt 16 v)) :: e.obs, obsBad := e.obsBad || bad })))
        ∧ (e.cap = none → Does (.dpdCaptureComplete n w) s d)
        ∧ (e.cap ≠ none → e.ended = true → Does (.dpdCaptureComplete n w) s (setDpd d n { e with cap := none, ended := false }))
        ∧ (e.cap ≠ none → e.ended = false → captured e = false → Does (.dpdCaptureComplete n w) s d)
        ∧ (∀ r, e.cap ≠ none → e.ended = false → captured e = true → skipReason e = some r →
          let none_ := setDpd d n { e with cap := none }
          ((feTxOf d x).reg.st = 2 → Does (.dpdCaptureComplete n w) s
              (post none_ (feTxOf d x).bind.ctx 0x0024 noCause (leBytes 1 n ++ leBytes 1 r)))
            ∧ ((feTxOf d x).reg.st ≠ 2 → Does (.dpdCaptureComplete n w) s none_))
        ∧ (e.cap ≠ none → e.ended = false → captured e = true → skipReason e = none →
          let u := dpdUpdate e w
          let c := (feTxOf d x).bind.ctx
          let put := setDpd d n { e with cap := none, shadow := u.1, swap := some d.time.ticks }
          Does (.dpdCaptureComplete n w) s (feClamp (feClamp put u.2.2 c 0x4204 (n + 1)) u.2.1 c 0x4204 (n + 1 + 256)))
        ∧ (∀ g, swapTick d e = some g →
          (nextFrom d x g = true → Does (.dpdBankSwap n) s (setDpd d n { e with active := e.shadow, shadow := e.active, swap := none }))
            ∧ (nextFrom d x g = false → Does (.dpdBankSwap n) s d))
        ∧ (e.swap = none → Does (.dpdBankSwap n) s d))

/-! ### Signal cores -/

/-- SC_RUN, its checks passed, crosses the haul road and places an instance on each core it takes, and the memory words that it is to
read are checked (R340, R347); an instance that has reached its cycle limit faults before its next instruction (R342); a HALT ends an
instance, and one with a slot still mapped is a fault (R343); an expired loop ends (R331); a word beyond the code or an illegal one
faults, whichever instruction was expected (R328). A word that reads right the second time counts as transient, one that fails again
faults the instance and its pair is worked out (R347). -/
def Obligations.ProgramsRun : Prop :=
  (∀ (s : State) (q : Nat) (cs : List CoreFail) (h : Head) (im : Bytes), HeadReady s.dev q h 0x0B01 → hOpcode h.desc = 0x90 →
      scReason s.dev h = none → mayIssue s.dev h = true → imageOf s.dev h.ctx (srProgram h.desc) = some im →
      let e := sendDesc s.dev h
      let o := freshOp e h
      Does (.scRun q cs) s (o.units.foldl memoryCheck ((o.units.zipIdx).foldl (placeInst h im cs e.disp.nextOp) (issue e h o).2)))
    ∧ (∀ (s : State) (n : Nat), n < 32 →
      (running s.dev n = none → Does (.cycleLimitReached n) s s.dev ∧ Does (.loopExit n) s s.dev)
        ∧ (∀ i, running s.dev n = some i →
          (limitReached i = true → Does (.cycleLimitReached n) s (instFault s.dev n i 0x0B07))
            ∧ (limitReached i = false → Does (.cycleLimitReached n) s s.dev)
            ∧ (loopOver i = true → Does (.loopExit n) s (putInst s.dev n (loopExit i)))
            ∧ (loopOver i = false → Does (.loopExit n) s s.dev)))
    ∧ (∀ (s : State) (n : Nat) (i : Inst) (o : Op) (w : Nat), NextWord s.dev n i o w → wClass w = 2 → wOp w = 5 →
      let j := { i with cycles := i.cycles + 1 }
      let d := modCore (putInst s.dev n j) n fun c => { c with active := satAdd 64 c.active 1 }
      ((∀ x ∈ i.windows, x = none) → Does (.halt n) s (instEnd d n j))
        ∧ ((∃ x ∈ i.windows, x ≠ none) → Does (.halt n) s (instFault d n j 0x0B08)))
    ∧ (∀ (s : State) (n : Nat) (j : Inst) (o : Op), n < 32 → running s.dev n = some j → (∀ e ∈ j.fails, j.cycles < e.1) →
      opOf s.dev (flushLoops 5 j).op = some o → limitReached (flushLoops 5 j) = false →
      fetchWord (flushLoops 5 j) = none ∨ (∃ w, fetchWord (flushLoops 5 j) = some w ∧ illegal (flushLoops 5 j) w = true) →
      ∀ c ∈ [Instr.nop n, .vmov n, .cadd n, .csub n, .conj n, .perm n, .bfly n, .widen n, .cmul n, .cmulc n, .cmac n, .cmacc n, .mag2 n,
          .hadd n, .rnds n, .cls n, .bexp n, .bshl n, .bshr n, .cfadd n, .cfmul n, .cfmac n, .cfmacc n, .rndf n, .cvtf n, .ldi n,
          .addi n, .add n, .sub n, .and n, .shli n, .controlNop n, .loop n, .br n, .bz n, .bnz n, .halt n, .rclaim n, .rpost n, .rtake n,
          .rgive n, .sig n],
        Does c s (instFault s.dev n (flushLoops 5 j) 0x0B04))
    ∧ (∀ (d : Dev) (n : Nat) (j : Inst), running d n = some j →
      let i (fails : List (Nat × Bool)) : Inst := { j with fails := fails }
      let count (g : Nat) (fails : List (Nat × Bool)) : Dev :=
        modCore (putInst d n (i fails)) n fun c => { c with transients := satAdd 32 c.transients g }
      ((∀ e ∈ j.fails, j.cycles < e.1) → memoryCheck d n = d)
        ∧ (∀ k, j.fails = [(k, false)] → k ≤ j.cycles → memoryCheck d n = count 1 [])
        ∧ (∀ k, j.fails = [(k, true)] → k ≤ j.cycles →
          memoryCheck d n = pairRetire (instFault (count 0 []) n (i []) 0x0B09) (n / 2)))

/-- Every command of class 0 whose word has no moves and no stages: its compute operation reads the registers as they stood, writes VD,
the second destination of a BFLY and the address register of a BEXP, raises its flags on the context and moves on. With moves, the
command does what its operation and moves do, or faults as the first of them that fails (R327, R328, R336). -/
def Obligations.VectorInstructions : Prop :=
  ∀ (s : State) (n : Nat) (i : Inst) (o : Op) (w : Nat) (c : Instr) (op : Nat),
    (c, op) ∈ ([(.nop n, 0x00), (.vmov n, 0x01), (.cadd n, 0x02), (.csub n, 0x03), (.conj n, 0x04), (.perm n, 0x05), (.bfly n, 0x06),
      (.widen n, 0x07), (.cmul n, 0x08), (.cmulc n, 0x09), (.cmac n, 0x0A), (.cmacc n, 0x0B), (.mag2 n, 0x0C), (.hadd n, 0x0D),
      (.rnds n, 0x0E), (.cls n, 0x10), (.bexp n, 0x11), (.bshl n, 0x12), (.bshr n, 0x13), (.cfadd n, 0x18), (.cfmul n, 0x19),
      (.cfmac n, 0x1A), (.cfmacc n, 0x1B), (.rndf n, 0x1C), (.cvtf n, 0x1D)] : List (Instr × Nat)) →
    NextWord s.dev n i o w → wClass w = 0 → wOp w = op →
    let d := s.dev
    ((wX w).en = false → (wY w).en = false → wMstage w = 0 → wCstage w = 0 → stagedLoop i = none →
        let r := computeOf d i (ftzOf d o.ctx) w
        let j := match r.vd with | some v => setV i (wVd w) v | none => i
        let j := match r.vd1 with | some v => setV j (wVd w + 1) v | none => j
        let j := match r.an with | some e => setA j (bitsAt w 43 4) e.1 e.2 | none => j
        Does c s (instDone (raise { d with free := d.free + 8 } o.ctx r.f) n o i
          (passed { j with cycles := j.cycles + issueCycles w } i.pc) w))
      ∧ (∀ e j, runClass0 d i o.ctx w = .ok (e, j) → Does c s (instDone e n o i j w))
      ∧ (∀ r, runClass0 d i o.ctx w = .error r → Does c s (instFault d n i r))

/-- The scalar and control instructions: address arithmetic wraps at 32 bits and carries spoil, a loop of count zero skips its body, a
loop sets its counter, a branch that is taken costs 3 cycles more (R322, R328, R330, R331, R342). -/
def Obligations.ScalarInstructions : Prop :=
  ∀ (s : State) (n : Nat) (i : Inst) (o : Op) (w : Nat), NextWord s.dev n i o w →
    let d := s.dev
    let dst := wDst w
    let a := aReg i (wSrc w)
    let b := aReg i dst
    let x := aBad i (wSrc w)
    let y := aBad i dst
    let on (c : Instr) (op : Nat) (j : Inst) : Prop := wClass w = 1 → wOp w = op →
      Does c s (instDone d n o i (passed { j with cycles := i.cycles + 1 } i.pc) w)
    let go (c : Instr) (op : Nat) (j : Inst) : Prop := wClass w = 2 → wOp w = op → Does c s (instDone d n o i j w)
    let next : Inst := passed { i with cycles := i.cycles + 1 } i.pc
    let there : Inst := { i with pc := wImm w, cycles := i.cycles + 4 }
    let count := if bitAt w 53 then aReg i (bitsAt w 0 4) else wImm w
    on (.ldi n) 1 (setA i dst (wImm w) false) ∧ on (.addi n) 2 (setA i dst (a + wImm w) x) ∧ on (.add n) 3 (setA i dst (b + a) (x || y))
      ∧ on (.sub n) 4 (setA i dst (b + 2 ^ 32 - a) (x || y)) ∧ on (.and n) 5 (setA i dst (b &&& a) (x || y))
      ∧ on (.shli n) 6 (setA i dst (if 32 ≤ wImm w then 0 else a * 2 ^ wImm w) x)
      ∧ go (.controlNop n) 0 next ∧ go (.br n) 2 there ∧ (b = 0 → go (.bz n) 3 there) ∧ (b ≠ 0 → go (.bz n) 3 next)
      ∧ (b ≠ 0 → go (.bnz n) 4 there) ∧ (b = 0 → go (.bnz n) 4 next)
      ∧ (count = 0 ∨ wBody w = 0 → go (.loop n) 1 (passed { i with cycles := i.cycles + 1 } (i.pc + wBody w)))
      ∧ (count ≠ 0 → wBody w ≠ 0 → go (.loop n) 1 { i with
          pc := i.pc + 1, cycles := i.cycles + 1, lc := lset i.lc (wLc w) (BitVec.ofNat 32 count),
          loops := ⟨wLc w, i.pc + 1, i.pc + wBody w, count, wStages w, rotSize (wRot w), 0⟩ :: i.loops,
          rrb := if wRot w = 0 then i.rrb else 0, cached := if wBody w ≤ 64 then some (i.pc + 1) else i.cached })

/-- The ring instructions: a RCLAIM of an EMPTY tail slot binds the producer's side and maps the slot FILLING, a RTAKE of a FULL or
SPOIL head slot binds the consumer's and maps it DRAINING, and each, its side bound, waits while there is none; RPOST and RGIVE pass the
slot on; a ring that is absent, of another context, class or die or bound by another, and a window already or not mapped, is a fault
(R334, R335). A SIG sends its increment after the slots, unless the object's class forbids it, which is reported (R250, R337). -/
def Obligations.RingInstructions : Prop :=
  ∀ (s : State) (n : Nat) (i : Inst) (o : Op) (w : Nat), NextWord s.dev n i o w → wClass w = 3 →
    let d := s.dev
    let r := wRing w
    let k := wWin w
    let me : Agent := .core (instKey i)
    let mapped (slot : Nat) (fill : Bool) : Inst := passed (setA { i with
      windows := lset i.windows k (some ⟨r, slot, fill, []⟩), cycles := i.cycles + 1 } (wDst w) (0x100000 + 0x10000 * k) false) i.pc
    let left : Inst := passed { i with windows := lset i.windows k none, cycles := i.cycles + 1 } i.pc
    (∀ x, ringOf d r = some x →
        let own := x.ctx = o.ctx ∧ x.lc = o.lc ∧ lget none i.windows k = none
        let b := bindProd d r me
        let c := bindCons d r me
        (wOp w = 1 → own → x.prodDie = 0 → sideTaken d r x.prod true (instKey i) = false →
            (slotStOf x x.tail = .empty → Does (.rclaim n) s (instDone
                (setSlot (slotClear (slotClear b r x.tail) r (stageSlot x x.tail)) r x.tail .filling) n o i
                (mapped (stageSlot x x.tail) true) w))
              ∧ (slotStOf x x.tail ≠ .empty → Does (.rclaim n) s b))
          ∧ (wOp w = 3 → own → x.consDie = 0 → sideTaken d r x.cons false (instKey i) = false →
            (slotStOf x x.head = .full ∨ slotStOf x x.head = .spoil → Does (.rtake n) s
                (instDone (setSlot c r x.head .draining) n o i (mapped x.head false) w))
              ∧ (slotStOf x x.head = .empty ∨ slotStOf x x.head = .filling ∨ slotStOf x x.head = .draining → Does (.rtake n) s c))
          ∧ (wOp w = 1 → ¬ own ∨ x.prodDie ≠ 0 ∨ sideTaken d r x.prod true (instKey i) = true →
            Does (.rclaim n) s (instFault d n i 0x0B06))
          ∧ (wOp w = 3 → ¬ own ∨ x.consDie ≠ 0 ∨ sideTaken d r x.cons false (instKey i) = true →
            Does (.rtake n) s (instFault d n i 0x0B06)))
      ∧ (ringOf d r = none → (wOp w = 1 → Does (.rclaim n) s (instFault d n i 0x0B06))
        ∧ (wOp w = 3 → Does (.rtake n) s (instFault d n i 0x0B06)))
      ∧ (∀ y, lget none i.windows k = some y →
        (wOp w = 2 → y.filling = true → Does (.rpost n) s (instDone (addOut (slotPost d y.ring) i.op y.ring) n o i left w))
          ∧ (wOp w = 4 → y.filling = false → Does (.rgive n) s (instDone (slotGive d y.ring) n o i left w))
          ∧ (wOp w = 2 → y.filling = false → Does (.rpost n) s (instFault d n i 0x0B06))
          ∧ (wOp w = 4 → y.filling = true → Does (.rgive n) s (instFault d n i 0x0B06)))
      ∧ (lget none i.windows k = none → (wOp w = 2 → Does (.rpost n) s (instFault d n i 0x0B06))
        ∧ (wOp w = 4 → Does (.rgive n) s (instFault d n i 0x0B06)))
      ∧ (wOp w = 5 →
        let next := passed { i with cycles := i.cycles + 1 } i.pc
        ((syncOf d (wObj w)).declared = false ∨ syncClassOk (syncOf d (wObj w)) o.lc = true → Does (.sig n) s
            (instDone (enqueue d .st o.lc (.syncInc (wObj w) (wImm w) o.ctx (hTag o.desc) o.queue (hOpcode o.desc) o.idx)) n o i next w))
          ∧ ((syncOf d (wObj w)).declared = true → syncClassOk (syncOf d (wObj w)) o.lc = false →
            Does (.sig n) s (instDone (postOpFault d o 0x0803 0) n o i next w)))

/-- Lane arithmetic (R323, R324, R326): sums and differences of samples saturate at 16 bits, products are exact in 40 bits, a conjugate
negates Q, WIDEN keeps the value, MAG2 is the energy, and a result carries the spoil bit of its sources. -/
def Obligations.LaneArithmetic : Prop :=
  ∀ (a b d : Vec) (k : Nat) (half ftz : Bool), k < 8 → a.length = 8 → b.length = 8 → d.length = 8 →
    let x := laneSmp (laneAt a k)
    let y := laneSmp (laneAt b k)
    let c := laneAcc (laneAt d k)
    let out (op : Nat) (h : Bool) : Lane := laneAt ((simd op h 0 ftz a b d).vd.getD vecZero) k
    let bad := (laneAt a k).spoil || (laneAt b k).spoil
    laneSmp (out 0x02 false) = (satInt 16 (x.1 + y.1), satInt 16 (x.2 + y.2))
      ∧ laneSmp (out 0x03 false) = (satInt 16 (x.1 - y.1), satInt 16 (x.2 - y.2))
      ∧ laneSmp (out 0x04 half) = (x.1, satInt 16 (-x.2))
      ∧ laneAcc (out 0x08 half) = (x.1 * y.1 - x.2 * y.2, x.1 * y.2 + x.2 * y.1)
      ∧ laneAcc (out 0x09 half) = (x.1 * y.1 + x.2 * y.2, x.2 * y.1 - x.1 * y.2)
      ∧ laneAcc (out 0x0A half) = (satInt 40 (c.1 + (x.1 * y.1 - x.2 * y.2)), satInt 40 (c.2 + (x.1 * y.2 + x.2 * y.1)))
      ∧ laneAcc (out 0x07 half) = x ∧ laneAcc (out 0x0C half) = (x.1 * x.1 + x.2 * x.2, 0)
      ∧ (out 0x02 half).spoil = bad ∧ (out 0x08 half).spoil = bad ∧ (out 0x0A half).spoil = ((laneAt d k).spoil || bad)

/-! ### The chirp modem -/

/-- LR_TX and LR_MIX, their checks passed, cross the haul road: an LR_TX takes the lowest-numbered modulator that is free, a mix is
bound and waits, or stops with its frames cut off. A frame begins at its count or, late, at the first sample not yet written, and waits
while its first sample lies beyond the next slot; a mix fills an EMPTY slot of its ring with the sum of its frames; a memory word that
fails twice ends its frame (R357 to R359, R373). -/
def Obligations.ChirpTransmit : Prop :=
  (∀ (s : State) (q : Nat) (h : Head), HeadReady s.dev q h 0x0C01 →
      let d := s.dev
      let x := h.desc
      let e := sendDesc d h
      let m := mixOf d (lrMix x)
      (∀ n, hOpcode x = 0xA0 → lrTxReason d h = none → freeModulator d = some n →
          Does (.lrTx q) s (modTake (setModulator (issue e h (freshOp e h)).2 n
            { op := d.disp.nextOp, mix := lrMix x, taken := false, values := [], begun := none, m := 0, phase := 0 }) n))
        ∧ (hOpcode x = 0xA0 → lrTxReason d h = none → freeModulator d = none → Does (.lrTx q) s d)
        ∧ (hOpcode x = 0xA2 → lrEnable x = true → lrMixReason d h = none → Does (.lrMixEnable q) s
          (completeHead (bindProd (setMix e (lrMix x) { m with
            reg := genTo m.reg 1, stream := lrStream x, ring := lrRing x, ctx := h.ctx, lc := h.lc, written := 0 })
            (lrRing x) (.mix (lrMix x))) h))
        ∧ (hOpcode x = 0xA2 → lrEnable x = false → lrReserved x = false → dfield x 24 4 2 = 0 →
          (m.reg.st = 0 → Does (.lrMixDisable q) s (completeHead e h))
            ∧ (m.reg.st ≠ 0 →
              let c := cutFrames e (lrMix x)
              Does (.lrMixDisable q) s
                (completeHead (mixTo (freeProd c (mixOf c (lrMix x)).ring (.mix (lrMix x))) (lrMix x) 0) h))))
    ∧ (∀ (s : State) (n : Nat) (x : ModSt) (o : Op) (hw : HwOutcome), n < 64 → modulatorOf s.dev n = some x → opOf s.dev x.op = some o →
      let d := trTransient s.dev hw
      let m := mixOf d x.mix
      let c := mixFirst d m (lrCount o.desc)
      (hw ≠ .permanent → x.taken = true → x.begun = none → m.reg.st = 2 →
          (m.written ≤ c → c < m.written + mixSlotSamples d m →
              Does (.lrFrameStart n hw) s (setModulator d n { x with begun := some c }))
            ∧ (c < m.written →
              Does (.lrFrameStart n hw) s (postLate (setModulator d n { x with begun := some m.written }) o.ctx
                ⟨hTag o.desc, o.queue⟩ (lrCount o.desc) (mixTick d m m.written)))
            ∧ (m.written + mixSlotSamples d m ≤ c → Does (.lrFrameStart n hw) s d))
        ∧ (hw ≠ .permanent → x.taken = true → x.begun ≠ none ∨ m.reg.st ≠ 2 → Does (.lrFrameStart n hw) s d)
        ∧ Does (.lrFrameStart n .permanent) s (endUnitOp (dropModulator (postOpFault s.dev o 0x0C04 0) n) (some x.op)))
    ∧ (∀ (s : State) (n : Nat) (hw : HwOutcome), n < 64 → modulatorOf s.dev n = none → Does (.lrFrameStart n hw) s s.dev)
    ∧ (∀ (s : State) (mix : Nat), mix < 16 →
      let d := s.dev
      let m := mixOf d mix
      (∀ x, m.reg.st = 2 → ringOf d m.ring = some x →
          (slotStOf x x.tail = .empty →
            let a := setSlot (slotClear (slotClear d m.ring x.tail) m.ring (stageSlot x x.tail)) m.ring x.tail .filling
            let n := mixSlotSamples a m
            let b := (List.range n).foldl (mixSample mix x.tail) ((modsOf a mix).foldl frameStart a)
            Does (.mixSlotFill mix) s (slotPost (setMix b mix { mixOf b mix with written := m.written + n }) m.ring))
            ∧ (slotStOf x x.tail ≠ .empty → Does (.mixSlotFill mix) s d))
        ∧ (m.reg.st ≠ 2 → Does (.mixSlotFill mix) s d))

/-- LR_LISTEN and the receiver (R360 to R363, R373): a listener starts and stops; a preamble that the search of a spreading factor sees
takes the lowest-numbered demodulation context or is refused, one seen already is not taken again, and without one nothing happens; once
its frame is located the first two symbols give the network identity, a wrong one ends the demodulation, a later symbol gives soft
values; a memory word that fails twice ends it. -/
def Obligations.ChirpReceive : Prop :=
  (∀ (s : State) (q : Nat) (h : Head), HeadReady s.dev q h 0x0C01 → hOpcode h.desc = 0xA1 →
      let d := s.dev
      let n := lrUnit h.desc
      let l := lsnOf d n
      let e := sendDesc d h
      (lrEnable h.desc = true → lrListenReason d h = none → Does (.lrListenStart q) s (completeHead (bindProd (setLsn e n { l with
          reg := genTo l.reg 1, ctx := h.ctx, lc := h.lc, ring := lrRing h.desc, heard := [] }) (lrRing h.desc) (.listener n)) h))
        ∧ (lrEnable h.desc = false → lrReserved h.desc = false → l.reg.st ≠ 1 → Does (.lrListenStop q) s (completeHead e h))
        ∧ (lrEnable h.desc = false → lrReserved h.desc = false → l.reg.st = 1 →
          let g := (demsOf d n).foldl dropDem e
          Does (.lrListenStop q) s (completeHead
            (post (freeProd (setLsn g n { l with reg := genTo l.reg 0, heard := [] }) l.ring (.listener n))
              l.ctx 0x0028 noCause (leBytes 1 n ++ leBytes 1 1 ++ zeros 2 ++ leBytes 4 (demsOf d n).length)) h)))
    ∧ (∀ (s : State) (n sf : Nat), n < 64 → 6 ≤ sf → sf ≤ 12 →
      let d := s.dev
      let l := lsnOf d n
      let t := symbolTicks sf (lnBw l.cfg)
      Does (.preambleDeclared n sf) s (match (if l.reg.st = 1 ∧ bitAt (lnMask l.cfg) (sf - 6) = true then preambleSeen d l sf else none) with
        | none => d
        | some start =>
          if ∀ e ∈ d.lr.dems, e.2.lsn = n → e.2.sf = sf → timingApart start e.2.frameTick t = true then
            match firstBelow 256 fun k => !thas d.lr.dems k with
            | some k => setDem d k
                { lsn := n, sf := sf, found := false, frameTick := start, place := 0, cfo := 0, snr := 0, peak := 0, symbols := 0,
                  netId := 0, header := none, soft := [], waiting := false, badTicks := [], spoil := false }
            | none => { d with lr := { d.lr with refused := satAdd 32 d.lr.refused 1 } }
          else d))
    ∧ (∀ (s : State) (n : Nat) (x : DemSt) (hw : HwOutcome), n < 256 → tfind s.dev.lr.dems n = some x →
      let d := trTransient s.dev hw
      let l := lsnOf d x.lsn
      let t := symbolTicks x.sf (lnBw l.cfg)
      let y := located d x
      let till := y.frameTick + y.symbols * t - t
      let m := demodMetrics d y till
      let bad := y.badTicks.any fun k => till ≤ k + t && k < till
      let z := { y with spoil := y.spoil || bad }
      let id := z.netId + identityValue y.sf m
      (hw ≠ .permanent → y.found = false → Does (.demodSymbol n hw) s d)
        ∧ (hw ≠ .permanent → y.found = true → y.waiting = true ∨ d.time.ticks < till → Does (.demodSymbol n hw) s (setDem d n y))
        ∧ (hw ≠ .permanent → y.found = true → y.waiting = false → till ≤ d.time.ticks →
          (y.symbols = 0 → Does (.demodSymbol n hw) s (setDem d n { z with symbols := 1, netId := 64 * identityValue y.sf m }))
            ∧ (y.symbols = 1 → Does (.demodSymbol n hw) s (if id ≠ leAt l.cfg 8 2 ∧ leAt l.cfg 3 1 = 0 then
                setLsn (dropDem d n) y.lsn { l with netRejects := satAdd 32 l.netRejects 1 }
              else setDem d n { z with symbols := 2, netId := id }))
            ∧ (1 < y.symbols → Does (.demodSymbol n hw) s (softSymbol d n z bad m)))
        ∧ Does (.demodSymbol n .permanent) s (postFault (dropDem s.dev n) (lsnOf s.dev x.lsn).ctx noCause 0x0C04 0 0 0))
    ∧ (∀ (s : State) (n : Nat) (hw : HwOutcome), n < 256 → tfind s.dev.lr.dems n = none → Does (.demodSymbol n hw) s s.dev)

/-! ### The trellis unit -/

/-- TR_ENC and TR_DEC cross the haul road and become jobs; an engine starts the codeword of the job that is next, its input slot
DRAINING and its output slot FILLING; a codeword over is written, or its slot is SPOIL where its input held spoil or a memory word failed
twice, and its slots are passed on; after the last one the descriptor is done; a decode for a demodulation delivers its bits there (R362,
R368, R369, R371 to R373). -/
def Obligations.TrellisRuns : Prop :=
  (∀ (s : State) (q : Nat) (h : Head), HeadReady s.dev q h 0x0D01 → trReason s.dev h = none →
      let d := s.dev
      let x := h.desc
      let c := sendDesc d h
      let e := (issue c h (freshOp c h)).2
      let j : TrJob := { op := some d.disp.nextOp, dem := none, lc := h.lc, enc := tEnc x, code := codeOf d (tCode x),
                         soft := tSoft x && !tEnc x, tail := tTail x, len := tLen x, left := tCount x, input := [],
                         avail := d.time.ticks, running := false }
      let done := { e with tr := { e.tr with jobs := tset e.tr.jobs e.tr.nextJob j, nextJob := e.tr.nextJob + 1 } }
      (hOpcode x = 0xB0 → Does (.trEnc q) s done) ∧ (hOpcode x = 0xB1 → Does (.trDec q) s done))
    ∧ (∀ (s : State) (e : Nat), e < 5 →
      (nextJob s.dev e = none → Does (.trellisCodewordStart e) s s.dev)
        ∧ (∀ id j, nextJob s.dev e = some id → tfind s.dev.tr.jobs id = some j →
          let d := setJob { s.dev with tr := { s.dev.tr with engines := lset s.dev.tr.engines e (some id) } } id { j with running := true }
          (j.op = none → Does (.trellisCodewordStart e) s d)
            ∧ (∀ x r w, jobDesc d j = some x → ringOf d (tIn x) = some r → ringOf d (tOut x) = some w → tIn x ≠ tOut x →
              let b := setSlot (bindProd (bindCons d (tIn x) (.job id)) (tOut x) (.job id)) (tIn x) r.head .draining
              Does (.trellisCodewordStart e) s
                (setSlot (slotClear (slotClear b (tOut x) w.tail) (tOut x) (stageSlot w w.tail)) (tOut x) w.tail .filling)))
        ∧ (lget none s.dev.tr.engines e = none → ∀ hw, Does (.trellisCodewordComplete e hw) s s.dev))
    ∧ (∀ (s : State) (e id op : Nat) (j : TrJob) (x : Desc) (o : Op) (r w : Ring) (hw : HwOutcome), e < 5 →
      lget none s.dev.tr.engines e = some id → tfind s.dev.tr.jobs id = some j → j.running = true → j.op = some op →
      jobDesc s.dev j = some x → opOf s.dev op = some o → ringOf s.dev (tIn x) = some r → ringOf s.dev (tOut x) = some w →
      let d := trTransient s.dev hw
      let bad := slotSpoil d (tIn x) r.head
      let out := codewordOut j (slotRead d (tIn x) r.head 0 (codewordBytes j.code x).1)
      let lost := countCodeword (slotSpoilRest d (tOut x) (stageSlot w w.tail) 0 (slotBytes w)) e j 0
      let noted := if bad then jobSpoilRead lost op else lost
      let next (b : Dev) : Dev :=
        let b := slotPost (slotGive b (tIn x)) (tOut x)
        if j.left ≤ 1 then jobDone b e id op x else setJob b id { j with left := j.left - 1, running := false }
      (bad = false → hw ≠ .permanent → Does (.trellisCodewordComplete e hw) s
          (next (countCodeword (slotWrite d (tOut x) (stageSlot w w.tail) 0 out.1 false) e j out.2)))
        ∧ (bad = true → hw ≠ .permanent → Does (.trellisCodewordComplete e hw) s (next noted))
        ∧ (hw = .permanent → Does (.trellisCodewordComplete e hw) s (next (postOpFault noted o 0x0D03 0))))
    ∧ (∀ (s : State) (e id n : Nat) (j : TrJob) (x : DemSt) (hw : HwOutcome), e < 5 → lget none s.dev.tr.engines e = some id →
      tfind s.dev.tr.jobs id = some j → j.running = true → j.op = none → j.dem = some n → tfind s.dev.lr.dems n = some x →
      let d := countCodeword (jobEnd (trTransient s.dev hw) e id) e j 0
      (hw ≠ .permanent → Does (.trellisCodewordComplete e hw) s (demDecoded d n (viterbi j.code j.tail j.len j.input)))
        ∧ (hw = .permanent → Does (.trellisCodewordComplete e hw) s
          (postFault (dropDem d n) (lsnOf d x.lsn).ctx noCause 0x0C04 0 0 0)))

/-! ### The network -/

/-- Ports (R405, R406, R416): a READY port that loses PCS lock is NO_LINK and its endpoints move, one that regains it is READY; address
requests for the port itself and echo requests are answered, a frame for another address is discarded; FCS errors are counted; a
second CRC failure in a row works a data port out and is counted on port 4; a port without power or not READY does none of it. -/
def Obligations.PortLinks : Prop :=
  (∀ (s : State) (p : Nat), p < 5 →
      let d := s.dev
      let lock (b : Bool) : Dev := modPort d p fun x => { x with lock := b }
      let failed := (portOf d p).crcFailed = true ∨ (portOf d p).dictFailed = true
      (portPowered d p = true →
          ((portOf d p).reg.st = 1 → Does (.pcsLockLoss p) s (movePorts (portTo (lock false) p 2) p))
            ∧ ((portOf d p).reg.st ≠ 1 → Does (.pcsLockLoss p) s (lock false))
            ∧ ((portOf d p).reg.st = 2 → Does (.pcsLockRegain p) s (portTo (lock true) p 1))
            ∧ ((portOf d p).reg.st ≠ 2 → Does (.pcsLockRegain p) s (lock true)))
        ∧ (portPowered d p = false → Does (.pcsLockLoss p) s d ∧ Does (.pcsLockRegain p) s d)
        ∧ (portUp d p = true → Does (.fcsError p) s (modPort d p fun x => { x with fcs := satAdd 32 x.fcs 1 })
          ∧ (¬ failed → Does (.wtCrcError p) s (modPort d p fun x => { x with crcFailed := true }))
          ∧ (failed → p < 4 → Does (.wtCrcError p) s
            (portWorkedOut (modPort d p fun x => { x with crcFailed := false, dictFailed := false }) p))
          ∧ (failed → p = 4 → Does (.wtCrcError p) s (modPort d p fun x => { x with wtTransients := satAdd 32 x.wtTransients 1 })))
        ∧ (portUp d p = false → Does (.fcsError p) s d ∧ Does (.wtCrcError p) s d))
    ∧ (∀ (s : State) (m : EthMeta) (bs : Bytes), ethOk m = true →
      let x := portOf s.dev m.port
      let asked (ver : Nat) : Prop :=
        m.ipVer = ver ∧ leAt x.cfg 33 1 = ver ∧ m.dstIp = beAt x.cfg 16 16 ∧ m.vlan = leAt x.cfg 2 2 % 4096
      (∀ r, receive s.dev m true = (true, r) →
          (asked 4 → Does (.arpRequest m) s (answer r m 1 (ownAddresses r m.port)))
            ∧ (asked 6 → Does (.neighborDiscovery m) s (answer r m 2 (ownAddresses r m.port)))
            ∧ (addressed s.dev m = true → Does (.icmpEcho m bs) s (answer r m 3 bs)))
        ∧ (∀ r, receive s.dev m true = (false, r) →
          (asked 4 → Does (.arpRequest m) s r) ∧ (asked 6 → Does (.neighborDiscovery m) s r)
            ∧ (addressed s.dev m = true → Does (.icmpEcho m bs) s r))
        ∧ (∀ a r, receive s.dev m false = (a, r) →
          a = false ∧ (¬ asked 4 → Does (.arpRequest m) s r) ∧ (¬ asked 6 → Does (.neighborDiscovery m) s r)
            ∧ (addressed s.dev m = false → Does (.icmpEcho m bs) s r) ∧ Does (.unaddressedFrame m) s r))

/-- Frames for tensor-die memory (R417, R419 to R423): one for a context or queue that its endpoint may not address is refused with
code 2, one that arrives while the tensor die is down with code 9, one that finds no EMPTY slot or an earlier frame of its stream
still waiting waits, and any other is posted into the inbound ring of its class. -/
def Obligations.HostFrames : Prop :=
  ∀ (s : State) (f : WtFrame) (n : Nat) (d : Dev) (c : Instr) (ty : Nat) (queue : Bool),
    (c, ty, queue) ∈ ([(.queueWrite f, 0x01, true), (.doorbell f, 0x02, true), (.tensorWrite f, 0x03, false),
      (.tensorRead f, 0x04, false), (.signal f, 0x06, false), (.eventRead f, 0x07, false), (.eventAck f, 0x08, false)]
      : List (Instr × Nat × Bool)) →
    FrameTurn s f n d → f.type = ty →
    let ctx := f.ctx % 64
    let may := epMay (epOf d n) ctx = true ∧ (queue = true → queueAllowed d f.arg0 ctx f.lc = true)
    let r := rxOf (epOf d n) f.lc
    let room := r.held = [] ∧ r.asks = [] ∧ sysRoom d false f.lc = true
    (¬ may → Does c s (refusedWith f n d 2))
      ∧ (may → tensorDown d = true → Does c s (refusedWith f n d 9))
      ∧ (may → tensorDown d = false → room → Does c s (ackUp (sysPost d false f.lc
          { type := ty, ctx := ctx, ep := n, last := f.last, seq := f.seq, arg0 := f.arg0, arg1 := f.arg1, spoil := f.spoil,
            box := f.box, payload := f.payload, op := none }) n f.lc false))
      ∧ (may → tensorDown d = false → ¬ room → Does c s s.dev)

/-- Frames between peers (R278, R413, R417, R424 to R427): a put segment takes a receive buffer of its class and is refused where none
is free, its box is out of range or its ring cannot take it; a get of a tensor goes through the inbound ring and one of a ring waits
for its turn there; data for no get in flight have no effect, data of a wrong length are refused and those of a get land in its ring
or go through the inbound ring; a lock-step sample reaches the comparator. -/
def Obligations.PeerFrames : Prop :=
  ∀ (s : State) (f : WtFrame) (n : Nat) (d : Dev), FrameTurn s f n d →
    let ctx := f.ctx % 64
    let may := epMay (epOf d n) ctx = true
    let r := rxOf (epOf d n) f.lc
    let full := epCredits (epOf d n) f.lc ≤ r.puts - r.freed
    let count (free : Nat) (b : Dev) : Dev := modRx b n f.lc fun x => { x with puts := x.puts + 1, freed := x.freed + free }
    let seg : PutSeg := ⟨f.arg0, ctx, f.seq, frameIndex f, f.last, f.spoil, f.box, f.payload, 0⟩
    let held (b : Dev) : Dev := ackUp (count 0 (modRx b n f.lc fun x => { x with
      held := x.held ++ [seg],
      broken := if frameIndex f = 0 then x.broken.filter fun y => y != (f.arg0, f.box) else x.broken })) n f.lc false
    let bad (code : Nat) : Dev := refusedWith f n (markBroken (count 1 d) n f.lc f.arg0 f.box) code
    let inbound (op : Option (Nat × Nat)) : Dev := ackUp (sysPost d false f.lc
      { type := f.type, ctx := ctx, ep := n, last := f.last, seq := f.seq, arg0 := f.arg0, arg1 := f.arg1, spoil := f.spoil,
        box := f.box, payload := f.payload, op := op }) n f.lc false
    let room := r.held = [] ∧ r.asks = [] ∧ sysRoom d false f.lc = true
    let k := ringIdOf f.arg0
    (f.type = 0x10 →
        (¬ may → Does (.peerPut f) s (bad 2))
          ∧ (may → full → Does (.peerPut f) s (bad 7))
          ∧ (may → ¬ full → wbTotal f.box = none → Does (.peerPut f) s (bad 5))
          ∧ (∀ t, may → ¬ full → wbTotal f.box = some t →
            (t < frameIndex f + f.payload.length → Does (.peerPut f) s (bad 5))
              ∧ (frameIndex f + f.payload.length ≤ t → isRingId f.arg0 = false →
                (tensorDown d = true → Does (.peerPut f) s (bad 9)) ∧ (tensorDown d = false → Does (.peerPut f) s (held d)))
              ∧ (frameIndex f + f.payload.length ≤ t → isRingId f.arg0 = true →
                (∀ c, ringPutReason d n f k = some c → Does (.peerPut f) s (bad c))
                  ∧ (ringPutReason d n f k = none → Does (.peerPut f) s (held (modRx d n f.lc fun x =>
                    { x with fills := tset x.fills k (frameIndex f + f.payload.length, (tget (0, 0) r.fills k).2) }))))))
      ∧ (f.type = 0x11 →
        let len := getLen f.arg1
        (¬ may → Does (.peerGet f) s (refusedWith f n d 2))
          ∧ (may → wbTotal f.box = none → Does (.peerGet f) s (refusedWith f n d 5))
          ∧ (∀ t, may → wbTotal f.box = some t →
            let inside := len ≠ 0 ∧ frameIndex f + len ≤ t ∧ len ≤ payloadLimit d n false
            (¬ inside → Does (.peerGet f) s (refusedWith f n d 5))
              ∧ (inside → isRingId f.arg0 = false → tensorDown d = true → Does (.peerGet f) s (refusedWith f n d 9))
              ∧ (inside → isRingId f.arg0 = false → tensorDown d = false →
                (room → Does (.peerGet f) s (inbound none)) ∧ (¬ room → Does (.peerGet f) s s.dev))
              ∧ (inside → isRingId f.arg0 = true →
                (ringOf d k = none → Does (.peerGet f) s (refusedWith f n d 8))
                  ∧ (∀ x, ringOf d k = some x →
                    let own := x.ctx = ctx ∧ x.lc = f.lc
                    let free := x.prodDie = 0 ∧ x.consDie = 0 ∧ (x.cons = none ∨ x.cons = some (.get n f.lc)) ∧ ringMover d k false = none
                    let clear := r.held = [] ∧ ∀ y ∈ sysOpen d false f.lc, y.ep ≠ n
                    (¬ own → Does (.peerGet f) s (refusedWith f n d 2))
                      ∧ (own → ¬ free → Does (.peerGet f) s (refusedWith f n d 8))
                      ∧ (own → free → ¬ clear → Does (.peerGet f) s s.dev)
                      ∧ (own → free → clear → Does (.peerGet f) s (ackUp (modRx d n f.lc fun y =>
                        { y with asks := y.asks ++ [⟨k, ctx, f.seq, frameIndex f, len, []⟩] }) n f.lc false))))))
      ∧ (f.type = 0x12 →
        (getOf d n f.lc f.arg0 = none → Does (.peerData f) s (ackUp d n f.lc false))
          ∧ (∀ g, getOf d n f.lc f.arg0 = some g →
            (opOf d g.op = none → Does (.peerData f) s (ackUp (dropGet d g) n f.lc false))
              ∧ (∀ o, opOf d g.op = some o →
                let fits := f.payload.length = g.len ∧ f.arg1 = g.lo
                (¬ fits → Does (.peerData f) s (refusedWith f n d 5))
                  ∧ (fits → sideRing (mvTo o.desc) = none →
                    (tensorDown d = true → Does (.peerData f) s (refusedWith f n d 9))
                      ∧ (tensorDown d = false → room → Does (.peerData f) s (inbound (some (g.op, g.lo + g.len))))
                      ∧ (tensorDown d = false → ¬ room → Does (.peerData f) s s.dev))
                  ∧ (∀ q, fits → sideRing (mvTo o.desc) = some q →
                    (streamClear d n f.lc = false → Does (.peerData f) s s.dev)
                      ∧ (∀ x, streamClear d n f.lc = true → ringOf d q = some x → Does (.peerData f) s
                        (ackUp (landRing (dropGet d g) g.op q x (withSpoil f.spoil f.payload) o) n f.lc false))
                      ∧ (streamClear d n f.lc = true → ringOf d q = none → Does (.peerData f) s
                        (ackUp (dropGet d g) n f.lc false))))))
      ∧ (f.type = 0x14 →
        let mine := d.ls.enable = true ∧ d.ls.peer = n ∧ ctx = d.ls.ctx
        (¬ may → Does (.lockstepSample f) s (refusedWith f n d 2))
          ∧ (may → streamClear d n f.lc = false → Does (.lockstepSample f) s s.dev)
          ∧ (may → streamClear d n f.lc = true → mine → Does (.lockstepSample f) s (ackUp (lsArrive d f.payload) n f.lc false))
          ∧ (may → streamClear d n f.lc = true → ¬ mine → Does (.lockstepSample f) s (ackUp d n f.lc false)))

/-- Frames of the transport itself (R411, R413 to R415, R417, R427): an OPEN with a new session and sequence number 0 ends the old one
and starts the stream at sequence number 1, with the credits it grants on a peer's, whose own stream the device opens; the OPEN of the
present session is acknowledged again; an ACK releases what it acknowledges; a peer's STATUS ends the transfer it names with
REMOTE_REFUSED, and a host's is refused; what has no acknowledgement in time is sent again, or its endpoint is UNREACHABLE. -/
def Obligations.StreamFrames : Prop :=
  (∀ (s : State) (f : WtFrame) (n : Nat) (d : Dev), FrameFrom s f n d →
      let a := acked f n d
      let e := modRx (closeRx a n f.lc) n f.lc fun _ => { rxDefault with session := some f.arg0, next := 1 }
      let x := epOf e n
      let opened := setEp e n { x with
        st := 1, port := if x.st = 1 && portUp e x.port then x.port else (readyPort e x).getD f.eth.port }
      let again := (rxOf (epOf a n) f.lc).session = some f.arg0
      (f.type = 0x20 →
          (again → Does (.wtOpen f) s (ackUp a n f.lc true))
            ∧ (¬ again → f.seq ≠ 0 → Does (.wtOpen f) s (sendStatus a n f.lc f.seq 1))
            ∧ (¬ again → f.seq = 0 → epKind x ≠ 2 → Does (.wtOpen f) s (ackUp opened n f.lc false))
            ∧ (¬ again → f.seq = 0 → epKind x = 2 → Does (.wtOpen f) s
              (ackUp (openTx (modTx opened n f.lc fun t => { t with credit := f.arg1 }) n f.lc) n f.lc false)))
        ∧ (f.type = 0x21 → Does (.wtAck f) s a)
        ∧ (f.type = 0x22 →
          (epKind (epOf d n) ≠ 2 → Does (.wtStatus f) s (acked f n (sendStatus d n f.lc f.seq 2)))
            ∧ (∀ id, epKind (epOf d n) = 2 → refusedOp d n f.lc f.arg0 = some id →
              Does (.wtStatus f) s (acked f n (giveUp d 0x0F01 id)))
            ∧ (epKind (epOf d n) = 2 → refusedOp d n f.lc f.arg0 = none → Does (.wtStatus f) s a)))
    ∧ (∀ (s : State) (n : Nat) (lc : Bool), n < 64 →
      ((txOf (epOf s.dev n) lc).unacked = [] → Does (.resendTimeout n lc) s s.dev)
        ∧ (∀ u t, (txOf (epOf s.dev n) lc).unacked = u :: t →
          let due := u.tick + 800 * s.dev.net.resendUs ≤ s.dev.time.ticks
          (¬ due → Does (.resendTimeout n lc) s s.dev)
            ∧ (due → u.resends < s.dev.net.resendLimit → Does (.resendTimeout n lc) s (resend s.dev n lc))
            ∧ (due → s.dev.net.resendLimit ≤ u.resends → Does (.resendTimeout n lc) s (epDown s.dev n 1))))

/-- System-ring slots (R176, R196, R415, R420 to R423, R425): an inbound slot that is there whole is applied or refused and given back
once its answers have room, a doorbell moves its queue's tail; an outbound slot is sent in a frame, a put segment with a credit of its
class; where the road is down an inbound slot is refused and an outbound one is lost. -/
def Obligations.SystemRingSlots : Prop :=
  ∀ (s : State) (lc : Bool) (crc : List BlockFail), failsOk crc = true →
    let d := s.dev
    let out := (sysRing d true lc).length
    let apply (e : Dev) : Prop := Does (.systemRingSlotApply ⟨lc, crc⟩) s e
    let send (e : Dev) : Prop := Does (.systemRingSlotSend lc) s e
    (sysOpen d false lc = [] → apply d)
      ∧ (sysOpen d true lc = [] → send d)
      ∧ (∀ x t, sysOpen d false lc = x :: t →
        (roadDown d = true → apply (ackUp (slotRefused (sysDrop d false lc x.num) lc x 9) x.ep lc false))
          ∧ (roadDown d = false → x.left ≠ 0 → apply d)
          ∧ (roadDown d = false → x.left = 0 → d.mem.down = true →
            (out < 32 → apply (sysGive (slotRefused d lc x 9) false lc x.num)) ∧ (32 ≤ out → apply d))
          ∧ (roadDown d = false → x.left = 0 → d.mem.down = false →
            (applySlot d x lc crc = none → apply (slotTouch d x))
              ∧ (∀ e os, applySlot d x lc crc = some ⟨none, e, os⟩ →
                (out + os.length ≤ 32 → apply (sysGive (os.foldl (fun b y => sysPost b true lc y) e) false lc x.num))
                  ∧ (32 < out + os.length → apply d))
              ∧ (∀ e k, applySlot d x lc crc = some ⟨some k, e, []⟩ →
                (out < 32 → apply (sysGive (slotRefused e lc x k) false lc x.num)) ∧ (32 ≤ out → apply d))
              ∧ (x.type = 0x02 → queueAllowed d x.arg0 x.ctx lc = true → out ≤ 32 →
                let y := queueOf d x.arg0
                let tail := x.arg1 % 2 ^ 32
                upTo y.head y.tail ≤ upTo y.head tail → upTo y.head tail ≤ (ctxOf d x.ctx).depth →
                apply (sysGive (modQueue d x.arg0 fun y => { y with tail := tail }) false lc x.num))))
      ∧ (∀ x t, sysOpen d true lc = x :: t →
        let g := sysGive d true lc x.num
        let can := canSend d x.ep lc = true
        (roadDown d = true → send (sysDrop d true lc x.num))
          ∧ (roadDown d = false → x.left ≠ 0 → send d)
          ∧ (roadDown d = false → x.left = 0 →
            (x.type = 0x22 → send (sendStatus g x.ep lc x.seq x.arg0))
              ∧ (x.type = 0x10 → (txOf (epOf d x.ep) lc).session = none → send (openTx d x.ep lc))
              ∧ (x.type = 0x10 → (txOf (epOf d x.ep) lc).session ≠ none →
                (can → hasCredit d x.ep lc = true → send (sendFrame g (slotFrame x lc x.ctx) x.op))
                  ∧ (¬ can ∨ hasCredit d x.ep lc = false → send d))
              ∧ (x.type ≠ 0x22 → x.type ≠ 0x10 →
                (can → send (sendFrame g (slotFrame x lc (if x.type = 0x12 then epRemoteCtx (epOf d x.ep) else x.ctx)) none))
                  ∧ (¬ can → send d))))

/-- Time-sensitive networking (R408, R503, R504): a list that waits becomes operational at its cycle start, and until then the operational
one goes on; an interval's end opens the gates of the next entry, after the last one they hold to the cycle's end, and that begins the
next cycle; a recovery record that has accepted nothing for RESET_US forgets its history; where neither is due nothing changes. -/
def Obligations.TimedGates : Prop :=
  (∀ (s : State) (p k : Nat), p < 4 → k < 64 →
      let d := s.dev
      let now := d.time.ticks
      let port (r : GateRun) : Prop := DoesJust (.gateIntervalEnd p) s (modPort d p fun x => { x with run := r })
      let gate (r : GateRun) : Prop :=
        DoesJust (.streamGateIntervalEnd k) s { d with net := { d.net with psfpGates := lmod d.net.psfpGates k fun _ => r } }
      let one (parse : Bytes → GateList) (r : GateRun) (is : GateRun → Prop) : Prop :=
        let l := parse r.oper
        let waits := ∀ b st, r.admin = some (b, st) → now < st
        (∀ b st, r.admin = some (b, st) → st ≤ now → is (gateBegin parse b st))
          ∧ (∀ g n, waits → l.on = true → r.till ≤ now → r.till < r.start + l.cycle → l.entries[r.idx + 1]? = some (g, n) →
            is { r with idx := r.idx + 1, till := min (r.till + n) (r.start + l.cycle), gates := g })
          ∧ (waits → l.on = true → r.till ≤ now → r.till < r.start + l.cycle → l.entries[r.idx + 1]? = none →
            is { r with idx := l.entries.length, till := r.start + l.cycle })
          ∧ (waits → l.on = true → r.till ≤ now → r.start + l.cycle ≤ r.till →
            is { gateBegin parse r.oper (r.start + l.cycle) with admin := r.admin })
          ∧ (waits → l.on = false ∨ now < r.till → is r)
      one tasList (portOf d p).run port ∧ one psfpList (lget gateDefault d.net.psfpGates k) gate)
    ∧ (∀ (s : State) (i : Nat), i < 128 →
      let due := (cbRunOf s.dev i).newest ≠ none ∧ leAt (cbRecord s.dev i) 0 1 = 2
        ∧ (cbRunOf s.dev i).tick + 800 * beAt (cbRecord s.dev i) 28 4 ≤ s.dev.time.ticks
      (due → DoesJust (.cbHistoryReset i) s (modCb s.dev i fun c => { c with newest := none, hist := [] }))
        ∧ (¬ due → DoesJust (.cbHistoryReset i) s s.dev))

/-! ### Descriptors that do not run, and what follows by itself -/

/-- The head of an ACTIVE queue that cannot run: an unassigned opcode, a bad header, an engine out of service or a check of its own
halts the queue with its FAULT, and one whose wait is not met, that cannot cross the road or that cannot issue yet is left as it is;
a FENCE or LAYER that has become the head covers first what is outstanding (R170, R223, R224, R227, R228, R255, R270). -/
def Obligations.HeadHalts : Prop :=
  ∀ (s : State) (q : Nat) (run : WorkRun) (cs : List CoreFail) (h : Head) (c : Instr) (f : Family) (d : Dev), workRunOk run = true →
    ((c, f) ∈ ([(.syncDeclare q, famDeclare), (.syncSet q, famSet), (.syncWait q, famWait), (.syncHold q, famHold),
        (.syncRelease q, famRelease), (.syncUndeclare q, famUndeclare), (.waitTimeout q, famTimeout),
        (.launchAt q, famLaunch), (.tuArm q, famTuArm), (.tuDisarm q, famTuDisarm), (.matmul q run, famMatmul run),
        (.convolve q run, famConv run), (.vop q run, famVop run), (.quant q run, famQuant run), (.move q, famMove),
        (.ringCreate q, famRingCreate), (.ringDestroy q, famRingDestroy), (.ringReset q, famRingReset), (.alloc q, famAlloc),
        (.free q, famFree), (.feStart q, famFeStart), (.feStop q, famFeStop), (.feDetectStart q, famDetectOn),
        (.feDetectStop q, famDetectOff), (.scRun q cs, famScRun cs), (.lrTx q, famLrTx), (.lrMixEnable q, famMixOn),
        (.lrMixDisable q, famMixOff), (.lrListenStart q, famListenOn), (.lrListenStop q, famListenOff), (.trEnc q, famTrEnc),
        (.trDec q, famTrDec)] : List (Instr × Family)) ∧ d = s.dev
      ∨ (c, f) ∈ ([(.fence q, famFence), (.layer q, famLayer)] : List (Instr × Family)) ∧ d = armCover s.dev q) →
    q < 16384 → headOf d q = some h → (ctxOf d h.ctx).reg.st = ctxActive → layerHolds d h.ctx q = false →
    let mine := hOpcode h.desc = f.op ∧ f.sub h.desc = true
    let held := waitMet d h.desc = false ∨ (onSignalDie d h.desc = true ∧ canCross d .ts h.lc = false)
    (opcodes.contains (hOpcode h.desc) = false → Does c s (haltHead d h 0x0801))
      ∧ (∀ r, mine → headerReason d h f.invalid = some r → Does c s (haltHead d h r))
      ∧ (mine → headerReason d h f.invalid = none → held → Does c s d)
      ∧ (∀ r, mine → headerReason d h f.invalid = none → ¬ held → gateReason d h.desc = some r → Does c s (haltHead d h r))
      ∧ (∀ r, mine → headerReason d h f.invalid = none → ¬ held → gateReason d h.desc = none → f.check d h = some r →
        Does c s (haltHead d h r))
      ∧ (mine → headerReason d h f.invalid = none → ¬ held → gateReason d h.desc = none → f.check d h = none → f.ready d h = false →
        Does c s d)
      ∧ (queueOf (haltHead d h 0x0801) q).halted = true ∧ (queueOf (haltHead d h 0x0801) q).head = (queueOf d q).head

/-- A descriptor for an engine whose domain is GATED is not executed, and it faults with `PWR_DOMAIN_GATED` (0x1002); gated benches and
pairs never cause this fault (R463). -/
def Obligations.GatedEngines : Prop :=
  (∀ (s : State) (q : Nat) (h : Head) (c : Instr) (f : Family) (k : Nat),
      (c, f) ∈ ([(.feStart q, famFeStart), (.feStop q, famFeStop), (.feDetectStart q, famDetectOn), (.feDetectStop q, famDetectOff),
        (.lrTx q, famLrTx), (.lrMixEnable q, famMixOn), (.lrMixDisable q, famMixOff), (.lrListenStart q, famListenOn),
        (.lrListenStop q, famListenOff), (.trEnc q, famTrEnc), (.trDec q, famTrDec)] : List (Instr × Family)) →
      q < 16384 → headOf s.dev q = some h → (ctxOf s.dev h.ctx).reg.st = ctxActive → layerHolds s.dev h.ctx q = false →
      hOpcode h.desc = f.op → f.sub h.desc = true → headerReason s.dev h f.invalid = none → waitMet s.dev h.desc = true →
      canCross s.dev .ts h.lc = true → domainOf h.desc = some k → (lget ⟨0, 1⟩ s.dev.pwr.domains k).st = 0 →
      Does c s (haltHead s.dev h 0x1002))
    ∧ (∀ (d : Dev) (x : Desc), hOpcode x ∈ [0x08, 0x10, 0x11, 0x20, 0x30, 0x90] → gateReason d x ≠ some 0x1002)

/-- What follows by itself after a command touches neither start-up, time, power, the lock-step comparator, the signal cores, the
front end, the chirp modem, the trellis unit, the dictionary nor the self-test unit. -/
def Obligations.SettleFrame : Prop :=
  ∀ d : Dev, let t := settle d
    t.boot = d.boot ∧ t.time = d.time ∧ t.ls = d.ls ∧ t.sc = d.sc ∧ t.fe = d.fe ∧ t.lr = d.lr ∧ t.tr = d.tr ∧ t.dict = d.dict
      ∧ t.test = d.test ∧ t.pwr = d.pwr
end

