-- ==== Sys2Proof/Laws/Tables.lean ====
section
/-!
SUPPORT. Laws/Tables.lean: what tables and lists read after a change.
-/
namespace Sys2Proof.Machine
open Sys2Proof

@[simp] theorem tget_tset_same {α : Type} (d : α) (t : Tab α) (k : Nat) (a : α) : tget d (tset t k a) k = a := by
  induction t with
  | nil => simp [tset, tget]
  | cons e t ih =>
    simp only [tset]
    split
    · simp [tget]
    · split
      · simp [tget]
      · have : ¬ e.1 = k := fun h => by omega
        simp [tget, this, ih]

theorem tget_tset_ne {α : Type} (d : α) (t : Tab α) {j k : Nat} (a : α) (h : j ≠ k) : tget d (tset t k a) j = tget d t j := by
  have hk : ¬ k = j := fun e => h e.symm
  induction t with
  | nil => simp [tset, tget, hk]
  | cons e t ih =>
    simp only [tset]
    split
    · simp [tget, hk]
    · split
      · rename_i _ h2
        have : ¬ e.1 = j := fun e => by omega
        simp [tget, hk, this]
      · simp [tget, ih]

@[simp] theorem tfind_tset_same {α : Type} (t : Tab α) (k : Nat) (a : α) : tfind (tset t k a) k = some a := by
  induction t with
  | nil => simp [tset, tfind]
  | cons e t ih =>
    simp only [tset]
    split
    · simp [tfind]
    · split
      · simp [tfind]
      · have : ¬ e.1 = k := fun h => by omega
        simp [tfind, this, ih]

theorem tfind_tset_ne {α : Type} (t : Tab α) {j k : Nat} (a : α) (h : j ≠ k) : tfind (tset t k a) j = tfind t j := by
  have hk : ¬ k = j := fun e => h e.symm
  induction t with
  | nil => simp [tset, tfind, hk]
  | cons e t ih =>
    simp only [tset]
    split
    · simp [tfind, hk]
    · split
      · have : ¬ e.1 = j := fun e => by omega
        simp [tfind, hk, this]
      · simp [tfind, ih]

@[simp] theorem tfind_tdel_same {α : Type} (t : Tab α) (k : Nat) : tfind (tdel t k) k = none := by
  induction t with
  | nil => rfl
  | cons e t ih =>
    simp only [tdel]
    split
    · exact ih
    · rename_i h; simp [tfind, h, ih]

theorem tfind_tdel_ne {α : Type} (t : Tab α) {j k : Nat} (h : j ≠ k) : tfind (tdel t k) j = tfind t j := by
  induction t with
  | nil => rfl
  | cons e t ih =>
    simp only [tdel]
    split
    · have : ¬ e.1 = j := fun e => by omega
      simp [tfind, this, ih]
    · simp [tfind, ih]

/-- A table lists a unit where it finds one. -/
theorem thas_eq_tfind {α : Type} (t : Tab α) (k : Nat) : thas t k = (tfind t k).isSome := by
  induction t with
  | nil => rfl
  | cons e t ih =>
    simp only [thas, tfind]
    split <;> simp_all

/-- The record of a unit is what the table finds, or the default. -/
theorem tget_eq_tfind {α : Type} (d : α) (t : Tab α) (k : Nat) : tget d t k = (tfind t k).getD d := by
  induction t with
  | nil => rfl
  | cons e t ih =>
    simp only [tget, tfind]
    split <;> simp_all

@[simp] theorem length_lset {α : Type} (l : List α) (k : Nat) (a : α) : (lset l k a).length = l.length := by simp [lset]
@[simp] theorem length_lmod {α : Type} (l : List α) (k : Nat) (f : α → α) : (lmod l k f).length = l.length := by simp [lmod]

theorem lget_lmod_same {α : Type} (d : α) (l : List α) (k : Nat) (f : α → α) (h : k < l.length) :
    lget d (lmod l k f) k = f (lget d l k) := by
  simp [lget, lmod, List.getD, h]

theorem lget_lmod_ne {α : Type} (d : α) (l : List α) {j k : Nat} (f : α → α) (h : j ≠ k) :
    lget d (lmod l k f) j = lget d l j := by
  have : ¬ k = j := fun e => h e.symm
  simp [lget, lmod, List.getD, this]

theorem lget_lset_same {α : Type} (d : α) (l : List α) (k : Nat) (a : α) (h : k < l.length) : lget d (lset l k a) k = a := by
  simp [lget, lset, List.getD, h]

theorem lget_lset_ne {α : Type} (d : α) (l : List α) {j k : Nat} (a : α) (h : j ≠ k) : lget d (lset l k a) j = lget d l j := by
  have : ¬ k = j := fun e => h e.symm
  simp [lget, lset, List.getD, this]

end Sys2Proof.Machine
end

