-- ==== Sys2Proof/Laws/State.lean ====
section
/-!
SUPPORT. Laws/State.lean: what each update of the device leaves, and what the unit it changes reads afterwards.
-/
namespace Sys2Proof.Machine
open Sys2Proof


/-! `setCtx` -/
@[simp] theorem setCtx_boot (d : Dev) (n : Nat) (c : Ctx) : (setCtx d n c).boot = d.boot := rfl
@[simp] theorem setCtx_time (d : Dev) (n : Nat) (c : Ctx) : (setCtx d n c).time = d.time := rfl
@[simp] theorem setCtx_comp (d : Dev) (n : Nat) (c : Ctx) : (setCtx d n c).comp = d.comp := rfl
@[simp] theorem setCtx_mem (d : Dev) (n : Nat) (c : Ctx) : (setCtx d n c).mem = d.mem := rfl
@[simp] theorem setCtx_haul (d : Dev) (n : Nat) (c : Ctx) : (setCtx d n c).haul = d.haul := rfl
@[simp] theorem setCtx_ls (d : Dev) (n : Nat) (c : Ctx) : (setCtx d n c).ls = d.ls := rfl
@[simp] theorem setCtx_pwr (d : Dev) (n : Nat) (c : Ctx) : (setCtx d n c).pwr = d.pwr := rfl
@[simp] theorem setCtx_sc (d : Dev) (n : Nat) (c : Ctx) : (setCtx d n c).sc = d.sc := rfl
@[simp] theorem setCtx_fe (d : Dev) (n : Nat) (c : Ctx) : (setCtx d n c).fe = d.fe := rfl
@[simp] theorem setCtx_lr (d : Dev) (n : Nat) (c : Ctx) : (setCtx d n c).lr = d.lr := rfl
@[simp] theorem setCtx_tr (d : Dev) (n : Nat) (c : Ctx) : (setCtx d n c).tr = d.tr := rfl
@[simp] theorem setCtx_net (d : Dev) (n : Nat) (c : Ctx) : (setCtx d n c).net = d.net := rfl
@[simp] theorem setCtx_dict (d : Dev) (n : Nat) (c : Ctx) : (setCtx d n c).dict = d.dict := rfl
@[simp] theorem setCtx_test (d : Dev) (n : Nat) (c : Ctx) : (setCtx d n c).test = d.test := rfl
@[simp] theorem setCtx_free (d : Dev) (n : Nat) (c : Ctx) : (setCtx d n c).free = d.free := rfl

/-! `setQueue` -/
@[simp] theorem setQueue_boot (d : Dev) (q : Nat) (x : Queue) : (setQueue d q x).boot = d.boot := rfl
@[simp] theorem setQueue_time (d : Dev) (q : Nat) (x : Queue) : (setQueue d q x).time = d.time := rfl
@[simp] theorem setQueue_comp (d : Dev) (q : Nat) (x : Queue) : (setQueue d q x).comp = d.comp := rfl
@[simp] theorem setQueue_mem (d : Dev) (q : Nat) (x : Queue) : (setQueue d q x).mem = d.mem := rfl
@[simp] theorem setQueue_haul (d : Dev) (q : Nat) (x : Queue) : (setQueue d q x).haul = d.haul := rfl
@[simp] theorem setQueue_ls (d : Dev) (q : Nat) (x : Queue) : (setQueue d q x).ls = d.ls := rfl
@[simp] theorem setQueue_pwr (d : Dev) (q : Nat) (x : Queue) : (setQueue d q x).pwr = d.pwr := rfl
@[simp] theorem setQueue_sc (d : Dev) (q : Nat) (x : Queue) : (setQueue d q x).sc = d.sc := rfl
@[simp] theorem setQueue_fe (d : Dev) (q : Nat) (x : Queue) : (setQueue d q x).fe = d.fe := rfl
@[simp] theorem setQueue_lr (d : Dev) (q : Nat) (x : Queue) : (setQueue d q x).lr = d.lr := rfl
@[simp] theorem setQueue_tr (d : Dev) (q : Nat) (x : Queue) : (setQueue d q x).tr = d.tr := rfl
@[simp] theorem setQueue_net (d : Dev) (q : Nat) (x : Queue) : (setQueue d q x).net = d.net := rfl
@[simp] theorem setQueue_dict (d : Dev) (q : Nat) (x : Queue) : (setQueue d q x).dict = d.dict := rfl
@[simp] theorem setQueue_test (d : Dev) (q : Nat) (x : Queue) : (setQueue d q x).test = d.test := rfl
@[simp] theorem setQueue_free (d : Dev) (q : Nat) (x : Queue) : (setQueue d q x).free = d.free := rfl

/-! `modQueue` -/
@[simp] theorem modQueue_boot (d : Dev) (q : Nat) (f : Queue → Queue) : (modQueue d q f).boot = d.boot := rfl
@[simp] theorem modQueue_time (d : Dev) (q : Nat) (f : Queue → Queue) : (modQueue d q f).time = d.time := rfl
@[simp] theorem modQueue_comp (d : Dev) (q : Nat) (f : Queue → Queue) : (modQueue d q f).comp = d.comp := rfl
@[simp] theorem modQueue_mem (d : Dev) (q : Nat) (f : Queue → Queue) : (modQueue d q f).mem = d.mem := rfl
@[simp] theorem modQueue_haul (d : Dev) (q : Nat) (f : Queue → Queue) : (modQueue d q f).haul = d.haul := rfl
@[simp] theorem modQueue_ls (d : Dev) (q : Nat) (f : Queue → Queue) : (modQueue d q f).ls = d.ls := rfl
@[simp] theorem modQueue_pwr (d : Dev) (q : Nat) (f : Queue → Queue) : (modQueue d q f).pwr = d.pwr := rfl
@[simp] theorem modQueue_sc (d : Dev) (q : Nat) (f : Queue → Queue) : (modQueue d q f).sc = d.sc := rfl
@[simp] theorem modQueue_fe (d : Dev) (q : Nat) (f : Queue → Queue) : (modQueue d q f).fe = d.fe := rfl
@[simp] theorem modQueue_lr (d : Dev) (q : Nat) (f : Queue → Queue) : (modQueue d q f).lr = d.lr := rfl
@[simp] theorem modQueue_tr (d : Dev) (q : Nat) (f : Queue → Queue) : (modQueue d q f).tr = d.tr := rfl
@[simp] theorem modQueue_net (d : Dev) (q : Nat) (f : Queue → Queue) : (modQueue d q f).net = d.net := rfl
@[simp] theorem modQueue_dict (d : Dev) (q : Nat) (f : Queue → Queue) : (modQueue d q f).dict = d.dict := rfl
@[simp] theorem modQueue_test (d : Dev) (q : Nat) (f : Queue → Queue) : (modQueue d q f).test = d.test := rfl
@[simp] theorem modQueue_free (d : Dev) (q : Nat) (f : Queue → Queue) : (modQueue d q f).free = d.free := rfl

/-! `setSync` -/
@[simp] theorem setSync_boot (d : Dev) (o : Nat) (x : Sync) : (setSync d o x).boot = d.boot := rfl
@[simp] theorem setSync_time (d : Dev) (o : Nat) (x : Sync) : (setSync d o x).time = d.time := rfl
@[simp] theorem setSync_comp (d : Dev) (o : Nat) (x : Sync) : (setSync d o x).comp = d.comp := rfl
@[simp] theorem setSync_mem (d : Dev) (o : Nat) (x : Sync) : (setSync d o x).mem = d.mem := rfl
@[simp] theorem setSync_haul (d : Dev) (o : Nat) (x : Sync) : (setSync d o x).haul = d.haul := rfl
@[simp] theorem setSync_ls (d : Dev) (o : Nat) (x : Sync) : (setSync d o x).ls = d.ls := rfl
@[simp] theorem setSync_pwr (d : Dev) (o : Nat) (x : Sync) : (setSync d o x).pwr = d.pwr := rfl
@[simp] theorem setSync_sc (d : Dev) (o : Nat) (x : Sync) : (setSync d o x).sc = d.sc := rfl
@[simp] theorem setSync_fe (d : Dev) (o : Nat) (x : Sync) : (setSync d o x).fe = d.fe := rfl
@[simp] theorem setSync_lr (d : Dev) (o : Nat) (x : Sync) : (setSync d o x).lr = d.lr := rfl
@[simp] theorem setSync_tr (d : Dev) (o : Nat) (x : Sync) : (setSync d o x).tr = d.tr := rfl
@[simp] theorem setSync_net (d : Dev) (o : Nat) (x : Sync) : (setSync d o x).net = d.net := rfl
@[simp] theorem setSync_dict (d : Dev) (o : Nat) (x : Sync) : (setSync d o x).dict = d.dict := rfl
@[simp] theorem setSync_test (d : Dev) (o : Nat) (x : Sync) : (setSync d o x).test = d.test := rfl
@[simp] theorem setSync_free (d : Dev) (o : Nat) (x : Sync) : (setSync d o x).free = d.free := rfl

/-! `setGraph` -/
@[simp] theorem setGraph_boot (d : Dev) (g : Nat) (x : Graph) : (setGraph d g x).boot = d.boot := rfl
@[simp] theorem setGraph_time (d : Dev) (g : Nat) (x : Graph) : (setGraph d g x).time = d.time := rfl
@[simp] theorem setGraph_comp (d : Dev) (g : Nat) (x : Graph) : (setGraph d g x).comp = d.comp := rfl
@[simp] theorem setGraph_mem (d : Dev) (g : Nat) (x : Graph) : (setGraph d g x).mem = d.mem := rfl
@[simp] theorem setGraph_haul (d : Dev) (g : Nat) (x : Graph) : (setGraph d g x).haul = d.haul := rfl
@[simp] theorem setGraph_ls (d : Dev) (g : Nat) (x : Graph) : (setGraph d g x).ls = d.ls := rfl
@[simp] theorem setGraph_pwr (d : Dev) (g : Nat) (x : Graph) : (setGraph d g x).pwr = d.pwr := rfl
@[simp] theorem setGraph_sc (d : Dev) (g : Nat) (x : Graph) : (setGraph d g x).sc = d.sc := rfl
@[simp] theorem setGraph_fe (d : Dev) (g : Nat) (x : Graph) : (setGraph d g x).fe = d.fe := rfl
@[simp] theorem setGraph_lr (d : Dev) (g : Nat) (x : Graph) : (setGraph d g x).lr = d.lr := rfl
@[simp] theorem setGraph_tr (d : Dev) (g : Nat) (x : Graph) : (setGraph d g x).tr = d.tr := rfl
@[simp] theorem setGraph_net (d : Dev) (g : Nat) (x : Graph) : (setGraph d g x).net = d.net := rfl
@[simp] theorem setGraph_dict (d : Dev) (g : Nat) (x : Graph) : (setGraph d g x).dict = d.dict := rfl
@[simp] theorem setGraph_test (d : Dev) (g : Nat) (x : Graph) : (setGraph d g x).test = d.test := rfl
@[simp] theorem setGraph_free (d : Dev) (g : Nat) (x : Graph) : (setGraph d g x).free = d.free := rfl

/-! `setOp` -/
@[simp] theorem setOp_boot (d : Dev) (id : Nat) (o : Op) : (setOp d id o).boot = d.boot := rfl
@[simp] theorem setOp_time (d : Dev) (id : Nat) (o : Op) : (setOp d id o).time = d.time := rfl
@[simp] theorem setOp_comp (d : Dev) (id : Nat) (o : Op) : (setOp d id o).comp = d.comp := rfl
@[simp] theorem setOp_mem (d : Dev) (id : Nat) (o : Op) : (setOp d id o).mem = d.mem := rfl
@[simp] theorem setOp_haul (d : Dev) (id : Nat) (o : Op) : (setOp d id o).haul = d.haul := rfl
@[simp] theorem setOp_ls (d : Dev) (id : Nat) (o : Op) : (setOp d id o).ls = d.ls := rfl
@[simp] theorem setOp_pwr (d : Dev) (id : Nat) (o : Op) : (setOp d id o).pwr = d.pwr := rfl
@[simp] theorem setOp_sc (d : Dev) (id : Nat) (o : Op) : (setOp d id o).sc = d.sc := rfl
@[simp] theorem setOp_fe (d : Dev) (id : Nat) (o : Op) : (setOp d id o).fe = d.fe := rfl
@[simp] theorem setOp_lr (d : Dev) (id : Nat) (o : Op) : (setOp d id o).lr = d.lr := rfl
@[simp] theorem setOp_tr (d : Dev) (id : Nat) (o : Op) : (setOp d id o).tr = d.tr := rfl
@[simp] theorem setOp_net (d : Dev) (id : Nat) (o : Op) : (setOp d id o).net = d.net := rfl
@[simp] theorem setOp_dict (d : Dev) (id : Nat) (o : Op) : (setOp d id o).dict = d.dict := rfl
@[simp] theorem setOp_test (d : Dev) (id : Nat) (o : Op) : (setOp d id o).test = d.test := rfl
@[simp] theorem setOp_free (d : Dev) (id : Nat) (o : Op) : (setOp d id o).free = d.free := rfl

/-! `dropOp` -/
@[simp] theorem dropOp_boot (d : Dev) (id : Nat) : (dropOp d id).boot = d.boot := rfl
@[simp] theorem dropOp_time (d : Dev) (id : Nat) : (dropOp d id).time = d.time := rfl
@[simp] theorem dropOp_comp (d : Dev) (id : Nat) : (dropOp d id).comp = d.comp := rfl
@[simp] theorem dropOp_mem (d : Dev) (id : Nat) : (dropOp d id).mem = d.mem := rfl
@[simp] theorem dropOp_haul (d : Dev) (id : Nat) : (dropOp d id).haul = d.haul := rfl
@[simp] theorem dropOp_ls (d : Dev) (id : Nat) : (dropOp d id).ls = d.ls := rfl
@[simp] theorem dropOp_pwr (d : Dev) (id : Nat) : (dropOp d id).pwr = d.pwr := rfl
@[simp] theorem dropOp_sc (d : Dev) (id : Nat) : (dropOp d id).sc = d.sc := rfl
@[simp] theorem dropOp_fe (d : Dev) (id : Nat) : (dropOp d id).fe = d.fe := rfl
@[simp] theorem dropOp_lr (d : Dev) (id : Nat) : (dropOp d id).lr = d.lr := rfl
@[simp] theorem dropOp_tr (d : Dev) (id : Nat) : (dropOp d id).tr = d.tr := rfl
@[simp] theorem dropOp_net (d : Dev) (id : Nat) : (dropOp d id).net = d.net := rfl
@[simp] theorem dropOp_dict (d : Dev) (id : Nat) : (dropOp d id).dict = d.dict := rfl
@[simp] theorem dropOp_test (d : Dev) (id : Nat) : (dropOp d id).test = d.test := rfl
@[simp] theorem dropOp_free (d : Dev) (id : Nat) : (dropOp d id).free = d.free := rfl

/-! `setRing` -/
@[simp] theorem setRing_boot (d : Dev) (r : Nat) (x : Ring) : (setRing d r x).boot = d.boot := rfl
@[simp] theorem setRing_time (d : Dev) (r : Nat) (x : Ring) : (setRing d r x).time = d.time := rfl
@[simp] theorem setRing_comp (d : Dev) (r : Nat) (x : Ring) : (setRing d r x).comp = d.comp := rfl
@[simp] theorem setRing_mem (d : Dev) (r : Nat) (x : Ring) : (setRing d r x).mem = d.mem := rfl
@[simp] theorem setRing_disp (d : Dev) (r : Nat) (x : Ring) : (setRing d r x).disp = d.disp := rfl
@[simp] theorem setRing_ls (d : Dev) (r : Nat) (x : Ring) : (setRing d r x).ls = d.ls := rfl
@[simp] theorem setRing_pwr (d : Dev) (r : Nat) (x : Ring) : (setRing d r x).pwr = d.pwr := rfl
@[simp] theorem setRing_sc (d : Dev) (r : Nat) (x : Ring) : (setRing d r x).sc = d.sc := rfl
@[simp] theorem setRing_fe (d : Dev) (r : Nat) (x : Ring) : (setRing d r x).fe = d.fe := rfl
@[simp] theorem setRing_lr (d : Dev) (r : Nat) (x : Ring) : (setRing d r x).lr = d.lr := rfl
@[simp] theorem setRing_tr (d : Dev) (r : Nat) (x : Ring) : (setRing d r x).tr = d.tr := rfl
@[simp] theorem setRing_net (d : Dev) (r : Nat) (x : Ring) : (setRing d r x).net = d.net := rfl
@[simp] theorem setRing_dict (d : Dev) (r : Nat) (x : Ring) : (setRing d r x).dict = d.dict := rfl
@[simp] theorem setRing_test (d : Dev) (r : Nat) (x : Ring) : (setRing d r x).test = d.test := rfl
@[simp] theorem setRing_free (d : Dev) (r : Nat) (x : Ring) : (setRing d r x).free = d.free := rfl

/-! `setConv` -/
@[simp] theorem setConv_boot (d : Dev) (c : Conv) : (setConv d c).boot = d.boot := rfl
@[simp] theorem setConv_time (d : Dev) (c : Conv) : (setConv d c).time = d.time := rfl
@[simp] theorem setConv_comp (d : Dev) (c : Conv) : (setConv d c).comp = d.comp := rfl
@[simp] theorem setConv_mem (d : Dev) (c : Conv) : (setConv d c).mem = d.mem := rfl
@[simp] theorem setConv_disp (d : Dev) (c : Conv) : (setConv d c).disp = d.disp := rfl
@[simp] theorem setConv_ls (d : Dev) (c : Conv) : (setConv d c).ls = d.ls := rfl
@[simp] theorem setConv_pwr (d : Dev) (c : Conv) : (setConv d c).pwr = d.pwr := rfl
@[simp] theorem setConv_sc (d : Dev) (c : Conv) : (setConv d c).sc = d.sc := rfl
@[simp] theorem setConv_fe (d : Dev) (c : Conv) : (setConv d c).fe = d.fe := rfl
@[simp] theorem setConv_lr (d : Dev) (c : Conv) : (setConv d c).lr = d.lr := rfl
@[simp] theorem setConv_tr (d : Dev) (c : Conv) : (setConv d c).tr = d.tr := rfl
@[simp] theorem setConv_net (d : Dev) (c : Conv) : (setConv d c).net = d.net := rfl
@[simp] theorem setConv_dict (d : Dev) (c : Conv) : (setConv d c).dict = d.dict := rfl
@[simp] theorem setConv_test (d : Dev) (c : Conv) : (setConv d c).test = d.test := rfl
@[simp] theorem setConv_free (d : Dev) (c : Conv) : (setConv d c).free = d.free := rfl

/-! `slotWrite` -/
@[simp] theorem slotWrite_boot (d : Dev) (r k off : Nat) (bs : Bytes) (spoil : Bool) : (slotWrite d r k off bs spoil).boot = d.boot := rfl
@[simp] theorem slotWrite_time (d : Dev) (r k off : Nat) (bs : Bytes) (spoil : Bool) : (slotWrite d r k off bs spoil).time = d.time := rfl
@[simp] theorem slotWrite_comp (d : Dev) (r k off : Nat) (bs : Bytes) (spoil : Bool) : (slotWrite d r k off bs spoil).comp = d.comp := rfl
@[simp] theorem slotWrite_mem (d : Dev) (r k off : Nat) (bs : Bytes) (spoil : Bool) : (slotWrite d r k off bs spoil).mem = d.mem := rfl
@[simp] theorem slotWrite_disp (d : Dev) (r k off : Nat) (bs : Bytes) (spoil : Bool) : (slotWrite d r k off bs spoil).disp = d.disp := rfl
@[simp] theorem slotWrite_ls (d : Dev) (r k off : Nat) (bs : Bytes) (spoil : Bool) : (slotWrite d r k off bs spoil).ls = d.ls := rfl
@[simp] theorem slotWrite_pwr (d : Dev) (r k off : Nat) (bs : Bytes) (spoil : Bool) : (slotWrite d r k off bs spoil).pwr = d.pwr := rfl
@[simp] theorem slotWrite_sc (d : Dev) (r k off : Nat) (bs : Bytes) (spoil : Bool) : (slotWrite d r k off bs spoil).sc = d.sc := rfl
@[simp] theorem slotWrite_fe (d : Dev) (r k off : Nat) (bs : Bytes) (spoil : Bool) : (slotWrite d r k off bs spoil).fe = d.fe := rfl
@[simp] theorem slotWrite_lr (d : Dev) (r k off : Nat) (bs : Bytes) (spoil : Bool) : (slotWrite d r k off bs spoil).lr = d.lr := rfl
@[simp] theorem slotWrite_tr (d : Dev) (r k off : Nat) (bs : Bytes) (spoil : Bool) : (slotWrite d r k off bs spoil).tr = d.tr := rfl
@[simp] theorem slotWrite_net (d : Dev) (r k off : Nat) (bs : Bytes) (spoil : Bool) : (slotWrite d r k off bs spoil).net = d.net := rfl
@[simp] theorem slotWrite_dict (d : Dev) (r k off : Nat) (bs : Bytes) (spoil : Bool) : (slotWrite d r k off bs spoil).dict = d.dict := rfl
@[simp] theorem slotWrite_test (d : Dev) (r k off : Nat) (bs : Bytes) (spoil : Bool) : (slotWrite d r k off bs spoil).test = d.test := rfl
@[simp] theorem slotWrite_free (d : Dev) (r k off : Nat) (bs : Bytes) (spoil : Bool) : (slotWrite d r k off bs spoil).free = d.free := rfl

/-! `slotClear` -/
@[simp] theorem slotClear_boot (d : Dev) (r k : Nat) : (slotClear d r k).boot = d.boot := rfl
@[simp] theorem slotClear_time (d : Dev) (r k : Nat) : (slotClear d r k).time = d.time := rfl
@[simp] theorem slotClear_comp (d : Dev) (r k : Nat) : (slotClear d r k).comp = d.comp := rfl
@[simp] theorem slotClear_mem (d : Dev) (r k : Nat) : (slotClear d r k).mem = d.mem := rfl
@[simp] theorem slotClear_disp (d : Dev) (r k : Nat) : (slotClear d r k).disp = d.disp := rfl
@[simp] theorem slotClear_ls (d : Dev) (r k : Nat) : (slotClear d r k).ls = d.ls := rfl
@[simp] theorem slotClear_pwr (d : Dev) (r k : Nat) : (slotClear d r k).pwr = d.pwr := rfl
@[simp] theorem slotClear_sc (d : Dev) (r k : Nat) : (slotClear d r k).sc = d.sc := rfl
@[simp] theorem slotClear_fe (d : Dev) (r k : Nat) : (slotClear d r k).fe = d.fe := rfl
@[simp] theorem slotClear_lr (d : Dev) (r k : Nat) : (slotClear d r k).lr = d.lr := rfl
@[simp] theorem slotClear_tr (d : Dev) (r k : Nat) : (slotClear d r k).tr = d.tr := rfl
@[simp] theorem slotClear_net (d : Dev) (r k : Nat) : (slotClear d r k).net = d.net := rfl
@[simp] theorem slotClear_dict (d : Dev) (r k : Nat) : (slotClear d r k).dict = d.dict := rfl
@[simp] theorem slotClear_test (d : Dev) (r k : Nat) : (slotClear d r k).test = d.test := rfl
@[simp] theorem slotClear_free (d : Dev) (r k : Nat) : (slotClear d r k).free = d.free := rfl

/-! `setPage` -/
@[simp] theorem setPage_boot (d : Dev) (ctx p : Nat) (x : Page) : (setPage d ctx p x).boot = d.boot := rfl
@[simp] theorem setPage_time (d : Dev) (ctx p : Nat) (x : Page) : (setPage d ctx p x).time = d.time := rfl
@[simp] theorem setPage_comp (d : Dev) (ctx p : Nat) (x : Page) : (setPage d ctx p x).comp = d.comp := rfl
@[simp] theorem setPage_disp (d : Dev) (ctx p : Nat) (x : Page) : (setPage d ctx p x).disp = d.disp := rfl
@[simp] theorem setPage_haul (d : Dev) (ctx p : Nat) (x : Page) : (setPage d ctx p x).haul = d.haul := rfl
@[simp] theorem setPage_ls (d : Dev) (ctx p : Nat) (x : Page) : (setPage d ctx p x).ls = d.ls := rfl
@[simp] theorem setPage_pwr (d : Dev) (ctx p : Nat) (x : Page) : (setPage d ctx p x).pwr = d.pwr := rfl
@[simp] theorem setPage_sc (d : Dev) (ctx p : Nat) (x : Page) : (setPage d ctx p x).sc = d.sc := rfl
@[simp] theorem setPage_fe (d : Dev) (ctx p : Nat) (x : Page) : (setPage d ctx p x).fe = d.fe := rfl
@[simp] theorem setPage_lr (d : Dev) (ctx p : Nat) (x : Page) : (setPage d ctx p x).lr = d.lr := rfl
@[simp] theorem setPage_tr (d : Dev) (ctx p : Nat) (x : Page) : (setPage d ctx p x).tr = d.tr := rfl
@[simp] theorem setPage_net (d : Dev) (ctx p : Nat) (x : Page) : (setPage d ctx p x).net = d.net := rfl
@[simp] theorem setPage_dict (d : Dev) (ctx p : Nat) (x : Page) : (setPage d ctx p x).dict = d.dict := rfl
@[simp] theorem setPage_test (d : Dev) (ctx p : Nat) (x : Page) : (setPage d ctx p x).test = d.test := rfl
@[simp] theorem setPage_free (d : Dev) (ctx p : Nat) (x : Page) : (setPage d ctx p x).free = d.free := rfl

/-! `memWrite` -/
@[simp] theorem memWrite_boot (d : Dev) (ctx va : Nat) (bs : Bytes) (spoil : Bool) : (memWrite d ctx va bs spoil).boot = d.boot := rfl
@[simp] theorem memWrite_time (d : Dev) (ctx va : Nat) (bs : Bytes) (spoil : Bool) : (memWrite d ctx va bs spoil).time = d.time := rfl
@[simp] theorem memWrite_comp (d : Dev) (ctx va : Nat) (bs : Bytes) (spoil : Bool) : (memWrite d ctx va bs spoil).comp = d.comp := rfl
@[simp] theorem memWrite_disp (d : Dev) (ctx va : Nat) (bs : Bytes) (spoil : Bool) : (memWrite d ctx va bs spoil).disp = d.disp := rfl
@[simp] theorem memWrite_haul (d : Dev) (ctx va : Nat) (bs : Bytes) (spoil : Bool) : (memWrite d ctx va bs spoil).haul = d.haul := rfl
@[simp] theorem memWrite_ls (d : Dev) (ctx va : Nat) (bs : Bytes) (spoil : Bool) : (memWrite d ctx va bs spoil).ls = d.ls := rfl
@[simp] theorem memWrite_pwr (d : Dev) (ctx va : Nat) (bs : Bytes) (spoil : Bool) : (memWrite d ctx va bs spoil).pwr = d.pwr := rfl
@[simp] theorem memWrite_sc (d : Dev) (ctx va : Nat) (bs : Bytes) (spoil : Bool) : (memWrite d ctx va bs spoil).sc = d.sc := rfl
@[simp] theorem memWrite_fe (d : Dev) (ctx va : Nat) (bs : Bytes) (spoil : Bool) : (memWrite d ctx va bs spoil).fe = d.fe := rfl
@[simp] theorem memWrite_lr (d : Dev) (ctx va : Nat) (bs : Bytes) (spoil : Bool) : (memWrite d ctx va bs spoil).lr = d.lr := rfl
@[simp] theorem memWrite_tr (d : Dev) (ctx va : Nat) (bs : Bytes) (spoil : Bool) : (memWrite d ctx va bs spoil).tr = d.tr := rfl
@[simp] theorem memWrite_net (d : Dev) (ctx va : Nat) (bs : Bytes) (spoil : Bool) : (memWrite d ctx va bs spoil).net = d.net := rfl
@[simp] theorem memWrite_dict (d : Dev) (ctx va : Nat) (bs : Bytes) (spoil : Bool) : (memWrite d ctx va bs spoil).dict = d.dict := rfl
@[simp] theorem memWrite_test (d : Dev) (ctx va : Nat) (bs : Bytes) (spoil : Bool) : (memWrite d ctx va bs spoil).test = d.test := rfl
@[simp] theorem memWrite_free (d : Dev) (ctx va : Nat) (bs : Bytes) (spoil : Bool) : (memWrite d ctx va bs spoil).free = d.free := rfl

/-! `chanTo` -/
@[simp] theorem chanTo_boot (d : Dev) (c st : Nat) : (chanTo d c st).boot = d.boot := rfl
@[simp] theorem chanTo_time (d : Dev) (c st : Nat) : (chanTo d c st).time = d.time := rfl
@[simp] theorem chanTo_comp (d : Dev) (c st : Nat) : (chanTo d c st).comp = d.comp := rfl
@[simp] theorem chanTo_disp (d : Dev) (c st : Nat) : (chanTo d c st).disp = d.disp := rfl
@[simp] theorem chanTo_haul (d : Dev) (c st : Nat) : (chanTo d c st).haul = d.haul := rfl
@[simp] theorem chanTo_ls (d : Dev) (c st : Nat) : (chanTo d c st).ls = d.ls := rfl
@[simp] theorem chanTo_pwr (d : Dev) (c st : Nat) : (chanTo d c st).pwr = d.pwr := rfl
@[simp] theorem chanTo_sc (d : Dev) (c st : Nat) : (chanTo d c st).sc = d.sc := rfl
@[simp] theorem chanTo_fe (d : Dev) (c st : Nat) : (chanTo d c st).fe = d.fe := rfl
@[simp] theorem chanTo_lr (d : Dev) (c st : Nat) : (chanTo d c st).lr = d.lr := rfl
@[simp] theorem chanTo_tr (d : Dev) (c st : Nat) : (chanTo d c st).tr = d.tr := rfl
@[simp] theorem chanTo_net (d : Dev) (c st : Nat) : (chanTo d c st).net = d.net := rfl
@[simp] theorem chanTo_dict (d : Dev) (c st : Nat) : (chanTo d c st).dict = d.dict := rfl
@[simp] theorem chanTo_test (d : Dev) (c st : Nat) : (chanTo d c st).test = d.test := rfl
@[simp] theorem chanTo_free (d : Dev) (c st : Nat) : (chanTo d c st).free = d.free := rfl

/-! `benchTo` -/
@[simp] theorem benchTo_boot (d : Dev) (b st : Nat) : (benchTo d b st).boot = d.boot := rfl
@[simp] theorem benchTo_time (d : Dev) (b st : Nat) : (benchTo d b st).time = d.time := rfl
@[simp] theorem benchTo_mem (d : Dev) (b st : Nat) : (benchTo d b st).mem = d.mem := rfl
@[simp] theorem benchTo_disp (d : Dev) (b st : Nat) : (benchTo d b st).disp = d.disp := rfl
@[simp] theorem benchTo_haul (d : Dev) (b st : Nat) : (benchTo d b st).haul = d.haul := rfl
@[simp] theorem benchTo_ls (d : Dev) (b st : Nat) : (benchTo d b st).ls = d.ls := rfl
@[simp] theorem benchTo_pwr (d : Dev) (b st : Nat) : (benchTo d b st).pwr = d.pwr := rfl
@[simp] theorem benchTo_sc (d : Dev) (b st : Nat) : (benchTo d b st).sc = d.sc := rfl
@[simp] theorem benchTo_fe (d : Dev) (b st : Nat) : (benchTo d b st).fe = d.fe := rfl
@[simp] theorem benchTo_lr (d : Dev) (b st : Nat) : (benchTo d b st).lr = d.lr := rfl
@[simp] theorem benchTo_tr (d : Dev) (b st : Nat) : (benchTo d b st).tr = d.tr := rfl
@[simp] theorem benchTo_net (d : Dev) (b st : Nat) : (benchTo d b st).net = d.net := rfl
@[simp] theorem benchTo_dict (d : Dev) (b st : Nat) : (benchTo d b st).dict = d.dict := rfl
@[simp] theorem benchTo_test (d : Dev) (b st : Nat) : (benchTo d b st).test = d.test := rfl
@[simp] theorem benchTo_free (d : Dev) (b st : Nat) : (benchTo d b st).free = d.free := rfl

/-! `domainTo` -/
@[simp] theorem domainTo_boot (d : Dev) (k st : Nat) : (domainTo d k st).boot = d.boot := rfl
@[simp] theorem domainTo_time (d : Dev) (k st : Nat) : (domainTo d k st).time = d.time := rfl
@[simp] theorem domainTo_comp (d : Dev) (k st : Nat) : (domainTo d k st).comp = d.comp := rfl
@[simp] theorem domainTo_mem (d : Dev) (k st : Nat) : (domainTo d k st).mem = d.mem := rfl
@[simp] theorem domainTo_disp (d : Dev) (k st : Nat) : (domainTo d k st).disp = d.disp := rfl
@[simp] theorem domainTo_haul (d : Dev) (k st : Nat) : (domainTo d k st).haul = d.haul := rfl
@[simp] theorem domainTo_ls (d : Dev) (k st : Nat) : (domainTo d k st).ls = d.ls := rfl
@[simp] theorem domainTo_sc (d : Dev) (k st : Nat) : (domainTo d k st).sc = d.sc := rfl
@[simp] theorem domainTo_fe (d : Dev) (k st : Nat) : (domainTo d k st).fe = d.fe := rfl
@[simp] theorem domainTo_lr (d : Dev) (k st : Nat) : (domainTo d k st).lr = d.lr := rfl
@[simp] theorem domainTo_tr (d : Dev) (k st : Nat) : (domainTo d k st).tr = d.tr := rfl
@[simp] theorem domainTo_net (d : Dev) (k st : Nat) : (domainTo d k st).net = d.net := rfl
@[simp] theorem domainTo_dict (d : Dev) (k st : Nat) : (domainTo d k st).dict = d.dict := rfl
@[simp] theorem domainTo_test (d : Dev) (k st : Nat) : (domainTo d k st).test = d.test := rfl
@[simp] theorem domainTo_free (d : Dev) (k st : Nat) : (domainTo d k st).free = d.free := rfl

/-! `setTrig` -/
@[simp] theorem setTrig_boot (d : Dev) (n : Nat) (x : Trigger) : (setTrig d n x).boot = d.boot := rfl
@[simp] theorem setTrig_comp (d : Dev) (n : Nat) (x : Trigger) : (setTrig d n x).comp = d.comp := rfl
@[simp] theorem setTrig_mem (d : Dev) (n : Nat) (x : Trigger) : (setTrig d n x).mem = d.mem := rfl
@[simp] theorem setTrig_disp (d : Dev) (n : Nat) (x : Trigger) : (setTrig d n x).disp = d.disp := rfl
@[simp] theorem setTrig_haul (d : Dev) (n : Nat) (x : Trigger) : (setTrig d n x).haul = d.haul := rfl
@[simp] theorem setTrig_ls (d : Dev) (n : Nat) (x : Trigger) : (setTrig d n x).ls = d.ls := rfl
@[simp] theorem setTrig_pwr (d : Dev) (n : Nat) (x : Trigger) : (setTrig d n x).pwr = d.pwr := rfl
@[simp] theorem setTrig_sc (d : Dev) (n : Nat) (x : Trigger) : (setTrig d n x).sc = d.sc := rfl
@[simp] theorem setTrig_fe (d : Dev) (n : Nat) (x : Trigger) : (setTrig d n x).fe = d.fe := rfl
@[simp] theorem setTrig_lr (d : Dev) (n : Nat) (x : Trigger) : (setTrig d n x).lr = d.lr := rfl
@[simp] theorem setTrig_tr (d : Dev) (n : Nat) (x : Trigger) : (setTrig d n x).tr = d.tr := rfl
@[simp] theorem setTrig_net (d : Dev) (n : Nat) (x : Trigger) : (setTrig d n x).net = d.net := rfl
@[simp] theorem setTrig_dict (d : Dev) (n : Nat) (x : Trigger) : (setTrig d n x).dict = d.dict := rfl
@[simp] theorem setTrig_test (d : Dev) (n : Nat) (x : Trigger) : (setTrig d n x).test = d.test := rfl
@[simp] theorem setTrig_free (d : Dev) (n : Nat) (x : Trigger) : (setTrig d n x).free = d.free := rfl

/-! `setCore` -/
@[simp] theorem setCore_boot (d : Dev) (n : Nat) (c : CoreSt) : (setCore d n c).boot = d.boot := rfl
@[simp] theorem setCore_time (d : Dev) (n : Nat) (c : CoreSt) : (setCore d n c).time = d.time := rfl
@[simp] theorem setCore_comp (d : Dev) (n : Nat) (c : CoreSt) : (setCore d n c).comp = d.comp := rfl
@[simp] theorem setCore_mem (d : Dev) (n : Nat) (c : CoreSt) : (setCore d n c).mem = d.mem := rfl
@[simp] theorem setCore_disp (d : Dev) (n : Nat) (c : CoreSt) : (setCore d n c).disp = d.disp := rfl
@[simp] theorem setCore_haul (d : Dev) (n : Nat) (c : CoreSt) : (setCore d n c).haul = d.haul := rfl
@[simp] theorem setCore_ls (d : Dev) (n : Nat) (c : CoreSt) : (setCore d n c).ls = d.ls := rfl
@[simp] theorem setCore_pwr (d : Dev) (n : Nat) (c : CoreSt) : (setCore d n c).pwr = d.pwr := rfl
@[simp] theorem setCore_fe (d : Dev) (n : Nat) (c : CoreSt) : (setCore d n c).fe = d.fe := rfl
@[simp] theorem setCore_lr (d : Dev) (n : Nat) (c : CoreSt) : (setCore d n c).lr = d.lr := rfl
@[simp] theorem setCore_tr (d : Dev) (n : Nat) (c : CoreSt) : (setCore d n c).tr = d.tr := rfl
@[simp] theorem setCore_net (d : Dev) (n : Nat) (c : CoreSt) : (setCore d n c).net = d.net := rfl
@[simp] theorem setCore_dict (d : Dev) (n : Nat) (c : CoreSt) : (setCore d n c).dict = d.dict := rfl
@[simp] theorem setCore_test (d : Dev) (n : Nat) (c : CoreSt) : (setCore d n c).test = d.test := rfl
@[simp] theorem setCore_free (d : Dev) (n : Nat) (c : CoreSt) : (setCore d n c).free = d.free := rfl

/-! `pairTo` -/
@[simp] theorem pairTo_boot (d : Dev) (p st : Nat) : (pairTo d p st).boot = d.boot := rfl
@[simp] theorem pairTo_time (d : Dev) (p st : Nat) : (pairTo d p st).time = d.time := rfl
@[simp] theorem pairTo_comp (d : Dev) (p st : Nat) : (pairTo d p st).comp = d.comp := rfl
@[simp] theorem pairTo_mem (d : Dev) (p st : Nat) : (pairTo d p st).mem = d.mem := rfl
@[simp] theorem pairTo_disp (d : Dev) (p st : Nat) : (pairTo d p st).disp = d.disp := rfl
@[simp] theorem pairTo_haul (d : Dev) (p st : Nat) : (pairTo d p st).haul = d.haul := rfl
@[simp] theorem pairTo_ls (d : Dev) (p st : Nat) : (pairTo d p st).ls = d.ls := rfl
@[simp] theorem pairTo_pwr (d : Dev) (p st : Nat) : (pairTo d p st).pwr = d.pwr := rfl
@[simp] theorem pairTo_fe (d : Dev) (p st : Nat) : (pairTo d p st).fe = d.fe := rfl
@[simp] theorem pairTo_lr (d : Dev) (p st : Nat) : (pairTo d p st).lr = d.lr := rfl
@[simp] theorem pairTo_tr (d : Dev) (p st : Nat) : (pairTo d p st).tr = d.tr := rfl
@[simp] theorem pairTo_net (d : Dev) (p st : Nat) : (pairTo d p st).net = d.net := rfl
@[simp] theorem pairTo_dict (d : Dev) (p st : Nat) : (pairTo d p st).dict = d.dict := rfl
@[simp] theorem pairTo_test (d : Dev) (p st : Nat) : (pairTo d p st).test = d.test := rfl
@[simp] theorem pairTo_free (d : Dev) (p st : Nat) : (pairTo d p st).free = d.free := rfl

/-! `modLink` -/
@[simp] theorem modLink_boot (d : Dev) (l : Nat) (f : LinkSt → LinkSt) : (modLink d l f).boot = d.boot := rfl
@[simp] theorem modLink_time (d : Dev) (l : Nat) (f : LinkSt → LinkSt) : (modLink d l f).time = d.time := rfl
@[simp] theorem modLink_comp (d : Dev) (l : Nat) (f : LinkSt → LinkSt) : (modLink d l f).comp = d.comp := rfl
@[simp] theorem modLink_mem (d : Dev) (l : Nat) (f : LinkSt → LinkSt) : (modLink d l f).mem = d.mem := rfl
@[simp] theorem modLink_disp (d : Dev) (l : Nat) (f : LinkSt → LinkSt) : (modLink d l f).disp = d.disp := rfl
@[simp] theorem modLink_haul (d : Dev) (l : Nat) (f : LinkSt → LinkSt) : (modLink d l f).haul = d.haul := rfl
@[simp] theorem modLink_ls (d : Dev) (l : Nat) (f : LinkSt → LinkSt) : (modLink d l f).ls = d.ls := rfl
@[simp] theorem modLink_pwr (d : Dev) (l : Nat) (f : LinkSt → LinkSt) : (modLink d l f).pwr = d.pwr := rfl
@[simp] theorem modLink_sc (d : Dev) (l : Nat) (f : LinkSt → LinkSt) : (modLink d l f).sc = d.sc := rfl
@[simp] theorem modLink_lr (d : Dev) (l : Nat) (f : LinkSt → LinkSt) : (modLink d l f).lr = d.lr := rfl
@[simp] theorem modLink_tr (d : Dev) (l : Nat) (f : LinkSt → LinkSt) : (modLink d l f).tr = d.tr := rfl
@[simp] theorem modLink_net (d : Dev) (l : Nat) (f : LinkSt → LinkSt) : (modLink d l f).net = d.net := rfl
@[simp] theorem modLink_dict (d : Dev) (l : Nat) (f : LinkSt → LinkSt) : (modLink d l f).dict = d.dict := rfl
@[simp] theorem modLink_test (d : Dev) (l : Nat) (f : LinkSt → LinkSt) : (modLink d l f).test = d.test := rfl
@[simp] theorem modLink_free (d : Dev) (l : Nat) (f : LinkSt → LinkSt) : (modLink d l f).free = d.free := rfl

/-! `modLane` -/
@[simp] theorem modLane_boot (d : Dev) (l : Nat) (f : LaneSt → LaneSt) : (modLane d l f).boot = d.boot := rfl
@[simp] theorem modLane_time (d : Dev) (l : Nat) (f : LaneSt → LaneSt) : (modLane d l f).time = d.time := rfl
@[simp] theorem modLane_comp (d : Dev) (l : Nat) (f : LaneSt → LaneSt) : (modLane d l f).comp = d.comp := rfl
@[simp] theorem modLane_mem (d : Dev) (l : Nat) (f : LaneSt → LaneSt) : (modLane d l f).mem = d.mem := rfl
@[simp] theorem modLane_disp (d : Dev) (l : Nat) (f : LaneSt → LaneSt) : (modLane d l f).disp = d.disp := rfl
@[simp] theorem modLane_haul (d : Dev) (l : Nat) (f : LaneSt → LaneSt) : (modLane d l f).haul = d.haul := rfl
@[simp] theorem modLane_ls (d : Dev) (l : Nat) (f : LaneSt → LaneSt) : (modLane d l f).ls = d.ls := rfl
@[simp] theorem modLane_pwr (d : Dev) (l : Nat) (f : LaneSt → LaneSt) : (modLane d l f).pwr = d.pwr := rfl
@[simp] theorem modLane_sc (d : Dev) (l : Nat) (f : LaneSt → LaneSt) : (modLane d l f).sc = d.sc := rfl
@[simp] theorem modLane_lr (d : Dev) (l : Nat) (f : LaneSt → LaneSt) : (modLane d l f).lr = d.lr := rfl
@[simp] theorem modLane_tr (d : Dev) (l : Nat) (f : LaneSt → LaneSt) : (modLane d l f).tr = d.tr := rfl
@[simp] theorem modLane_net (d : Dev) (l : Nat) (f : LaneSt → LaneSt) : (modLane d l f).net = d.net := rfl
@[simp] theorem modLane_dict (d : Dev) (l : Nat) (f : LaneSt → LaneSt) : (modLane d l f).dict = d.dict := rfl
@[simp] theorem modLane_test (d : Dev) (l : Nat) (f : LaneSt → LaneSt) : (modLane d l f).test = d.test := rfl
@[simp] theorem modLane_free (d : Dev) (l : Nat) (f : LaneSt → LaneSt) : (modLane d l f).free = d.free := rfl

/-! `setFeRx` -/
@[simp] theorem setFeRx_boot (d : Dev) (n : Nat) (x : FeRx) : (setFeRx d n x).boot = d.boot := rfl
@[simp] theorem setFeRx_time (d : Dev) (n : Nat) (x : FeRx) : (setFeRx d n x).time = d.time := rfl
@[simp] theorem setFeRx_comp (d : Dev) (n : Nat) (x : FeRx) : (setFeRx d n x).comp = d.comp := rfl
@[simp] theorem setFeRx_mem (d : Dev) (n : Nat) (x : FeRx) : (setFeRx d n x).mem = d.mem := rfl
@[simp] theorem setFeRx_disp (d : Dev) (n : Nat) (x : FeRx) : (setFeRx d n x).disp = d.disp := rfl
@[simp] theorem setFeRx_haul (d : Dev) (n : Nat) (x : FeRx) : (setFeRx d n x).haul = d.haul := rfl
@[simp] theorem setFeRx_ls (d : Dev) (n : Nat) (x : FeRx) : (setFeRx d n x).ls = d.ls := rfl
@[simp] theorem setFeRx_pwr (d : Dev) (n : Nat) (x : FeRx) : (setFeRx d n x).pwr = d.pwr := rfl
@[simp] theorem setFeRx_sc (d : Dev) (n : Nat) (x : FeRx) : (setFeRx d n x).sc = d.sc := rfl
@[simp] theorem setFeRx_lr (d : Dev) (n : Nat) (x : FeRx) : (setFeRx d n x).lr = d.lr := rfl
@[simp] theorem setFeRx_tr (d : Dev) (n : Nat) (x : FeRx) : (setFeRx d n x).tr = d.tr := rfl
@[simp] theorem setFeRx_net (d : Dev) (n : Nat) (x : FeRx) : (setFeRx d n x).net = d.net := rfl
@[simp] theorem setFeRx_dict (d : Dev) (n : Nat) (x : FeRx) : (setFeRx d n x).dict = d.dict := rfl
@[simp] theorem setFeRx_test (d : Dev) (n : Nat) (x : FeRx) : (setFeRx d n x).test = d.test := rfl
@[simp] theorem setFeRx_free (d : Dev) (n : Nat) (x : FeRx) : (setFeRx d n x).free = d.free := rfl

/-! `setFeTx` -/
@[simp] theorem setFeTx_boot (d : Dev) (n : Nat) (x : FeTx) : (setFeTx d n x).boot = d.boot := rfl
@[simp] theorem setFeTx_time (d : Dev) (n : Nat) (x : FeTx) : (setFeTx d n x).time = d.time := rfl
@[simp] theorem setFeTx_comp (d : Dev) (n : Nat) (x : FeTx) : (setFeTx d n x).comp = d.comp := rfl
@[simp] theorem setFeTx_mem (d : Dev) (n : Nat) (x : FeTx) : (setFeTx d n x).mem = d.mem := rfl
@[simp] theorem setFeTx_disp (d : Dev) (n : Nat) (x : FeTx) : (setFeTx d n x).disp = d.disp := rfl
@[simp] theorem setFeTx_haul (d : Dev) (n : Nat) (x : FeTx) : (setFeTx d n x).haul = d.haul := rfl
@[simp] theorem setFeTx_ls (d : Dev) (n : Nat) (x : FeTx) : (setFeTx d n x).ls = d.ls := rfl
@[simp] theorem setFeTx_pwr (d : Dev) (n : Nat) (x : FeTx) : (setFeTx d n x).pwr = d.pwr := rfl
@[simp] theorem setFeTx_sc (d : Dev) (n : Nat) (x : FeTx) : (setFeTx d n x).sc = d.sc := rfl
@[simp] theorem setFeTx_lr (d : Dev) (n : Nat) (x : FeTx) : (setFeTx d n x).lr = d.lr := rfl
@[simp] theorem setFeTx_tr (d : Dev) (n : Nat) (x : FeTx) : (setFeTx d n x).tr = d.tr := rfl
@[simp] theorem setFeTx_net (d : Dev) (n : Nat) (x : FeTx) : (setFeTx d n x).net = d.net := rfl
@[simp] theorem setFeTx_dict (d : Dev) (n : Nat) (x : FeTx) : (setFeTx d n x).dict = d.dict := rfl
@[simp] theorem setFeTx_test (d : Dev) (n : Nat) (x : FeTx) : (setFeTx d n x).test = d.test := rfl
@[simp] theorem setFeTx_free (d : Dev) (n : Nat) (x : FeTx) : (setFeTx d n x).free = d.free := rfl

/-! `setDpd` -/
@[simp] theorem setDpd_boot (d : Dev) (n : Nat) (x : DpdSt) : (setDpd d n x).boot = d.boot := rfl
@[simp] theorem setDpd_time (d : Dev) (n : Nat) (x : DpdSt) : (setDpd d n x).time = d.time := rfl
@[simp] theorem setDpd_comp (d : Dev) (n : Nat) (x : DpdSt) : (setDpd d n x).comp = d.comp := rfl
@[simp] theorem setDpd_mem (d : Dev) (n : Nat) (x : DpdSt) : (setDpd d n x).mem = d.mem := rfl
@[simp] theorem setDpd_disp (d : Dev) (n : Nat) (x : DpdSt) : (setDpd d n x).disp = d.disp := rfl
@[simp] theorem setDpd_haul (d : Dev) (n : Nat) (x : DpdSt) : (setDpd d n x).haul = d.haul := rfl
@[simp] theorem setDpd_ls (d : Dev) (n : Nat) (x : DpdSt) : (setDpd d n x).ls = d.ls := rfl
@[simp] theorem setDpd_pwr (d : Dev) (n : Nat) (x : DpdSt) : (setDpd d n x).pwr = d.pwr := rfl
@[simp] theorem setDpd_sc (d : Dev) (n : Nat) (x : DpdSt) : (setDpd d n x).sc = d.sc := rfl
@[simp] theorem setDpd_lr (d : Dev) (n : Nat) (x : DpdSt) : (setDpd d n x).lr = d.lr := rfl
@[simp] theorem setDpd_tr (d : Dev) (n : Nat) (x : DpdSt) : (setDpd d n x).tr = d.tr := rfl
@[simp] theorem setDpd_net (d : Dev) (n : Nat) (x : DpdSt) : (setDpd d n x).net = d.net := rfl
@[simp] theorem setDpd_dict (d : Dev) (n : Nat) (x : DpdSt) : (setDpd d n x).dict = d.dict := rfl
@[simp] theorem setDpd_test (d : Dev) (n : Nat) (x : DpdSt) : (setDpd d n x).test = d.test := rfl
@[simp] theorem setDpd_free (d : Dev) (n : Nat) (x : DpdSt) : (setDpd d n x).free = d.free := rfl

/-! `setDet` -/
@[simp] theorem setDet_boot (d : Dev) (n : Nat) (x : DetSt) : (setDet d n x).boot = d.boot := rfl
@[simp] theorem setDet_time (d : Dev) (n : Nat) (x : DetSt) : (setDet d n x).time = d.time := rfl
@[simp] theorem setDet_comp (d : Dev) (n : Nat) (x : DetSt) : (setDet d n x).comp = d.comp := rfl
@[simp] theorem setDet_mem (d : Dev) (n : Nat) (x : DetSt) : (setDet d n x).mem = d.mem := rfl
@[simp] theorem setDet_disp (d : Dev) (n : Nat) (x : DetSt) : (setDet d n x).disp = d.disp := rfl
@[simp] theorem setDet_haul (d : Dev) (n : Nat) (x : DetSt) : (setDet d n x).haul = d.haul := rfl
@[simp] theorem setDet_ls (d : Dev) (n : Nat) (x : DetSt) : (setDet d n x).ls = d.ls := rfl
@[simp] theorem setDet_pwr (d : Dev) (n : Nat) (x : DetSt) : (setDet d n x).pwr = d.pwr := rfl
@[simp] theorem setDet_sc (d : Dev) (n : Nat) (x : DetSt) : (setDet d n x).sc = d.sc := rfl
@[simp] theorem setDet_lr (d : Dev) (n : Nat) (x : DetSt) : (setDet d n x).lr = d.lr := rfl
@[simp] theorem setDet_tr (d : Dev) (n : Nat) (x : DetSt) : (setDet d n x).tr = d.tr := rfl
@[simp] theorem setDet_net (d : Dev) (n : Nat) (x : DetSt) : (setDet d n x).net = d.net := rfl
@[simp] theorem setDet_dict (d : Dev) (n : Nat) (x : DetSt) : (setDet d n x).dict = d.dict := rfl
@[simp] theorem setDet_test (d : Dev) (n : Nat) (x : DetSt) : (setDet d n x).test = d.test := rfl
@[simp] theorem setDet_free (d : Dev) (n : Nat) (x : DetSt) : (setDet d n x).free = d.free := rfl

/-! `setCorr` -/
@[simp] theorem setCorr_boot (d : Dev) (n : Nat) (x : CorrSt) : (setCorr d n x).boot = d.boot := rfl
@[simp] theorem setCorr_time (d : Dev) (n : Nat) (x : CorrSt) : (setCorr d n x).time = d.time := rfl
@[simp] theorem setCorr_comp (d : Dev) (n : Nat) (x : CorrSt) : (setCorr d n x).comp = d.comp := rfl
@[simp] theorem setCorr_mem (d : Dev) (n : Nat) (x : CorrSt) : (setCorr d n x).mem = d.mem := rfl
@[simp] theorem setCorr_disp (d : Dev) (n : Nat) (x : CorrSt) : (setCorr d n x).disp = d.disp := rfl
@[simp] theorem setCorr_haul (d : Dev) (n : Nat) (x : CorrSt) : (setCorr d n x).haul = d.haul := rfl
@[simp] theorem setCorr_ls (d : Dev) (n : Nat) (x : CorrSt) : (setCorr d n x).ls = d.ls := rfl
@[simp] theorem setCorr_pwr (d : Dev) (n : Nat) (x : CorrSt) : (setCorr d n x).pwr = d.pwr := rfl
@[simp] theorem setCorr_sc (d : Dev) (n : Nat) (x : CorrSt) : (setCorr d n x).sc = d.sc := rfl
@[simp] theorem setCorr_lr (d : Dev) (n : Nat) (x : CorrSt) : (setCorr d n x).lr = d.lr := rfl
@[simp] theorem setCorr_tr (d : Dev) (n : Nat) (x : CorrSt) : (setCorr d n x).tr = d.tr := rfl
@[simp] theorem setCorr_net (d : Dev) (n : Nat) (x : CorrSt) : (setCorr d n x).net = d.net := rfl
@[simp] theorem setCorr_dict (d : Dev) (n : Nat) (x : CorrSt) : (setCorr d n x).dict = d.dict := rfl
@[simp] theorem setCorr_test (d : Dev) (n : Nat) (x : CorrSt) : (setCorr d n x).test = d.test := rfl
@[simp] theorem setCorr_free (d : Dev) (n : Nat) (x : CorrSt) : (setCorr d n x).free = d.free := rfl

/-! `setMix` -/
@[simp] theorem setMix_boot (d : Dev) (n : Nat) (x : MixSt) : (setMix d n x).boot = d.boot := rfl
@[simp] theorem setMix_time (d : Dev) (n : Nat) (x : MixSt) : (setMix d n x).time = d.time := rfl
@[simp] theorem setMix_comp (d : Dev) (n : Nat) (x : MixSt) : (setMix d n x).comp = d.comp := rfl
@[simp] theorem setMix_mem (d : Dev) (n : Nat) (x : MixSt) : (setMix d n x).mem = d.mem := rfl
@[simp] theorem setMix_disp (d : Dev) (n : Nat) (x : MixSt) : (setMix d n x).disp = d.disp := rfl
@[simp] theorem setMix_haul (d : Dev) (n : Nat) (x : MixSt) : (setMix d n x).haul = d.haul := rfl
@[simp] theorem setMix_ls (d : Dev) (n : Nat) (x : MixSt) : (setMix d n x).ls = d.ls := rfl
@[simp] theorem setMix_pwr (d : Dev) (n : Nat) (x : MixSt) : (setMix d n x).pwr = d.pwr := rfl
@[simp] theorem setMix_sc (d : Dev) (n : Nat) (x : MixSt) : (setMix d n x).sc = d.sc := rfl
@[simp] theorem setMix_fe (d : Dev) (n : Nat) (x : MixSt) : (setMix d n x).fe = d.fe := rfl
@[simp] theorem setMix_tr (d : Dev) (n : Nat) (x : MixSt) : (setMix d n x).tr = d.tr := rfl
@[simp] theorem setMix_net (d : Dev) (n : Nat) (x : MixSt) : (setMix d n x).net = d.net := rfl
@[simp] theorem setMix_dict (d : Dev) (n : Nat) (x : MixSt) : (setMix d n x).dict = d.dict := rfl
@[simp] theorem setMix_test (d : Dev) (n : Nat) (x : MixSt) : (setMix d n x).test = d.test := rfl
@[simp] theorem setMix_free (d : Dev) (n : Nat) (x : MixSt) : (setMix d n x).free = d.free := rfl

/-! `setModulator` -/
@[simp] theorem setModulator_boot (d : Dev) (n : Nat) (x : ModSt) : (setModulator d n x).boot = d.boot := rfl
@[simp] theorem setModulator_time (d : Dev) (n : Nat) (x : ModSt) : (setModulator d n x).time = d.time := rfl
@[simp] theorem setModulator_comp (d : Dev) (n : Nat) (x : ModSt) : (setModulator d n x).comp = d.comp := rfl
@[simp] theorem setModulator_mem (d : Dev) (n : Nat) (x : ModSt) : (setModulator d n x).mem = d.mem := rfl
@[simp] theorem setModulator_disp (d : Dev) (n : Nat) (x : ModSt) : (setModulator d n x).disp = d.disp := rfl
@[simp] theorem setModulator_haul (d : Dev) (n : Nat) (x : ModSt) : (setModulator d n x).haul = d.haul := rfl
@[simp] theorem setModulator_ls (d : Dev) (n : Nat) (x : ModSt) : (setModulator d n x).ls = d.ls := rfl
@[simp] theorem setModulator_pwr (d : Dev) (n : Nat) (x : ModSt) : (setModulator d n x).pwr = d.pwr := rfl
@[simp] theorem setModulator_sc (d : Dev) (n : Nat) (x : ModSt) : (setModulator d n x).sc = d.sc := rfl
@[simp] theorem setModulator_fe (d : Dev) (n : Nat) (x : ModSt) : (setModulator d n x).fe = d.fe := rfl
@[simp] theorem setModulator_tr (d : Dev) (n : Nat) (x : ModSt) : (setModulator d n x).tr = d.tr := rfl
@[simp] theorem setModulator_net (d : Dev) (n : Nat) (x : ModSt) : (setModulator d n x).net = d.net := rfl
@[simp] theorem setModulator_dict (d : Dev) (n : Nat) (x : ModSt) : (setModulator d n x).dict = d.dict := rfl
@[simp] theorem setModulator_test (d : Dev) (n : Nat) (x : ModSt) : (setModulator d n x).test = d.test := rfl
@[simp] theorem setModulator_free (d : Dev) (n : Nat) (x : ModSt) : (setModulator d n x).free = d.free := rfl

/-! `setLsn` -/
@[simp] theorem setLsn_boot (d : Dev) (n : Nat) (x : LsnSt) : (setLsn d n x).boot = d.boot := rfl
@[simp] theorem setLsn_time (d : Dev) (n : Nat) (x : LsnSt) : (setLsn d n x).time = d.time := rfl
@[simp] theorem setLsn_comp (d : Dev) (n : Nat) (x : LsnSt) : (setLsn d n x).comp = d.comp := rfl
@[simp] theorem setLsn_mem (d : Dev) (n : Nat) (x : LsnSt) : (setLsn d n x).mem = d.mem := rfl
@[simp] theorem setLsn_disp (d : Dev) (n : Nat) (x : LsnSt) : (setLsn d n x).disp = d.disp := rfl
@[simp] theorem setLsn_haul (d : Dev) (n : Nat) (x : LsnSt) : (setLsn d n x).haul = d.haul := rfl
@[simp] theorem setLsn_ls (d : Dev) (n : Nat) (x : LsnSt) : (setLsn d n x).ls = d.ls := rfl
@[simp] theorem setLsn_pwr (d : Dev) (n : Nat) (x : LsnSt) : (setLsn d n x).pwr = d.pwr := rfl
@[simp] theorem setLsn_sc (d : Dev) (n : Nat) (x : LsnSt) : (setLsn d n x).sc = d.sc := rfl
@[simp] theorem setLsn_fe (d : Dev) (n : Nat) (x : LsnSt) : (setLsn d n x).fe = d.fe := rfl
@[simp] theorem setLsn_tr (d : Dev) (n : Nat) (x : LsnSt) : (setLsn d n x).tr = d.tr := rfl
@[simp] theorem setLsn_net (d : Dev) (n : Nat) (x : LsnSt) : (setLsn d n x).net = d.net := rfl
@[simp] theorem setLsn_dict (d : Dev) (n : Nat) (x : LsnSt) : (setLsn d n x).dict = d.dict := rfl
@[simp] theorem setLsn_test (d : Dev) (n : Nat) (x : LsnSt) : (setLsn d n x).test = d.test := rfl
@[simp] theorem setLsn_free (d : Dev) (n : Nat) (x : LsnSt) : (setLsn d n x).free = d.free := rfl

/-! `setDem` -/
@[simp] theorem setDem_boot (d : Dev) (n : Nat) (x : DemSt) : (setDem d n x).boot = d.boot := rfl
@[simp] theorem setDem_time (d : Dev) (n : Nat) (x : DemSt) : (setDem d n x).time = d.time := rfl
@[simp] theorem setDem_comp (d : Dev) (n : Nat) (x : DemSt) : (setDem d n x).comp = d.comp := rfl
@[simp] theorem setDem_mem (d : Dev) (n : Nat) (x : DemSt) : (setDem d n x).mem = d.mem := rfl
@[simp] theorem setDem_disp (d : Dev) (n : Nat) (x : DemSt) : (setDem d n x).disp = d.disp := rfl
@[simp] theorem setDem_haul (d : Dev) (n : Nat) (x : DemSt) : (setDem d n x).haul = d.haul := rfl
@[simp] theorem setDem_ls (d : Dev) (n : Nat) (x : DemSt) : (setDem d n x).ls = d.ls := rfl
@[simp] theorem setDem_pwr (d : Dev) (n : Nat) (x : DemSt) : (setDem d n x).pwr = d.pwr := rfl
@[simp] theorem setDem_sc (d : Dev) (n : Nat) (x : DemSt) : (setDem d n x).sc = d.sc := rfl
@[simp] theorem setDem_fe (d : Dev) (n : Nat) (x : DemSt) : (setDem d n x).fe = d.fe := rfl
@[simp] theorem setDem_tr (d : Dev) (n : Nat) (x : DemSt) : (setDem d n x).tr = d.tr := rfl
@[simp] theorem setDem_net (d : Dev) (n : Nat) (x : DemSt) : (setDem d n x).net = d.net := rfl
@[simp] theorem setDem_dict (d : Dev) (n : Nat) (x : DemSt) : (setDem d n x).dict = d.dict := rfl
@[simp] theorem setDem_test (d : Dev) (n : Nat) (x : DemSt) : (setDem d n x).test = d.test := rfl
@[simp] theorem setDem_free (d : Dev) (n : Nat) (x : DemSt) : (setDem d n x).free = d.free := rfl

/-! `setJob` -/
@[simp] theorem setJob_boot (d : Dev) (id : Nat) (j : TrJob) : (setJob d id j).boot = d.boot := rfl
@[simp] theorem setJob_time (d : Dev) (id : Nat) (j : TrJob) : (setJob d id j).time = d.time := rfl
@[simp] theorem setJob_comp (d : Dev) (id : Nat) (j : TrJob) : (setJob d id j).comp = d.comp := rfl
@[simp] theorem setJob_mem (d : Dev) (id : Nat) (j : TrJob) : (setJob d id j).mem = d.mem := rfl
@[simp] theorem setJob_disp (d : Dev) (id : Nat) (j : TrJob) : (setJob d id j).disp = d.disp := rfl
@[simp] theorem setJob_haul (d : Dev) (id : Nat) (j : TrJob) : (setJob d id j).haul = d.haul := rfl
@[simp] theorem setJob_ls (d : Dev) (id : Nat) (j : TrJob) : (setJob d id j).ls = d.ls := rfl
@[simp] theorem setJob_pwr (d : Dev) (id : Nat) (j : TrJob) : (setJob d id j).pwr = d.pwr := rfl
@[simp] theorem setJob_sc (d : Dev) (id : Nat) (j : TrJob) : (setJob d id j).sc = d.sc := rfl
@[simp] theorem setJob_fe (d : Dev) (id : Nat) (j : TrJob) : (setJob d id j).fe = d.fe := rfl
@[simp] theorem setJob_lr (d : Dev) (id : Nat) (j : TrJob) : (setJob d id j).lr = d.lr := rfl
@[simp] theorem setJob_net (d : Dev) (id : Nat) (j : TrJob) : (setJob d id j).net = d.net := rfl
@[simp] theorem setJob_dict (d : Dev) (id : Nat) (j : TrJob) : (setJob d id j).dict = d.dict := rfl
@[simp] theorem setJob_test (d : Dev) (id : Nat) (j : TrJob) : (setJob d id j).test = d.test := rfl
@[simp] theorem setJob_free (d : Dev) (id : Nat) (j : TrJob) : (setJob d id j).free = d.free := rfl

/-! `setEp` -/
@[simp] theorem setEp_boot (d : Dev) (n : Nat) (x : Endpoint) : (setEp d n x).boot = d.boot := rfl
@[simp] theorem setEp_time (d : Dev) (n : Nat) (x : Endpoint) : (setEp d n x).time = d.time := rfl
@[simp] theorem setEp_comp (d : Dev) (n : Nat) (x : Endpoint) : (setEp d n x).comp = d.comp := rfl
@[simp] theorem setEp_mem (d : Dev) (n : Nat) (x : Endpoint) : (setEp d n x).mem = d.mem := rfl
@[simp] theorem setEp_disp (d : Dev) (n : Nat) (x : Endpoint) : (setEp d n x).disp = d.disp := rfl
@[simp] theorem setEp_haul (d : Dev) (n : Nat) (x : Endpoint) : (setEp d n x).haul = d.haul := rfl
@[simp] theorem setEp_ls (d : Dev) (n : Nat) (x : Endpoint) : (setEp d n x).ls = d.ls := rfl
@[simp] theorem setEp_pwr (d : Dev) (n : Nat) (x : Endpoint) : (setEp d n x).pwr = d.pwr := rfl
@[simp] theorem setEp_sc (d : Dev) (n : Nat) (x : Endpoint) : (setEp d n x).sc = d.sc := rfl
@[simp] theorem setEp_fe (d : Dev) (n : Nat) (x : Endpoint) : (setEp d n x).fe = d.fe := rfl
@[simp] theorem setEp_lr (d : Dev) (n : Nat) (x : Endpoint) : (setEp d n x).lr = d.lr := rfl
@[simp] theorem setEp_tr (d : Dev) (n : Nat) (x : Endpoint) : (setEp d n x).tr = d.tr := rfl
@[simp] theorem setEp_dict (d : Dev) (n : Nat) (x : Endpoint) : (setEp d n x).dict = d.dict := rfl
@[simp] theorem setEp_test (d : Dev) (n : Nat) (x : Endpoint) : (setEp d n x).test = d.test := rfl
@[simp] theorem setEp_free (d : Dev) (n : Nat) (x : Endpoint) : (setEp d n x).free = d.free := rfl

/-! `modPort` -/
@[simp] theorem modPort_boot (d : Dev) (p : Nat) (f : PortSt → PortSt) : (modPort d p f).boot = d.boot := rfl
@[simp] theorem modPort_time (d : Dev) (p : Nat) (f : PortSt → PortSt) : (modPort d p f).time = d.time := rfl
@[simp] theorem modPort_comp (d : Dev) (p : Nat) (f : PortSt → PortSt) : (modPort d p f).comp = d.comp := rfl
@[simp] theorem modPort_mem (d : Dev) (p : Nat) (f : PortSt → PortSt) : (modPort d p f).mem = d.mem := rfl
@[simp] theorem modPort_disp (d : Dev) (p : Nat) (f : PortSt → PortSt) : (modPort d p f).disp = d.disp := rfl
@[simp] theorem modPort_haul (d : Dev) (p : Nat) (f : PortSt → PortSt) : (modPort d p f).haul = d.haul := rfl
@[simp] theorem modPort_ls (d : Dev) (p : Nat) (f : PortSt → PortSt) : (modPort d p f).ls = d.ls := rfl
@[simp] theorem modPort_pwr (d : Dev) (p : Nat) (f : PortSt → PortSt) : (modPort d p f).pwr = d.pwr := rfl
@[simp] theorem modPort_sc (d : Dev) (p : Nat) (f : PortSt → PortSt) : (modPort d p f).sc = d.sc := rfl
@[simp] theorem modPort_fe (d : Dev) (p : Nat) (f : PortSt → PortSt) : (modPort d p f).fe = d.fe := rfl
@[simp] theorem modPort_lr (d : Dev) (p : Nat) (f : PortSt → PortSt) : (modPort d p f).lr = d.lr := rfl
@[simp] theorem modPort_tr (d : Dev) (p : Nat) (f : PortSt → PortSt) : (modPort d p f).tr = d.tr := rfl
@[simp] theorem modPort_dict (d : Dev) (p : Nat) (f : PortSt → PortSt) : (modPort d p f).dict = d.dict := rfl
@[simp] theorem modPort_test (d : Dev) (p : Nat) (f : PortSt → PortSt) : (modPort d p f).test = d.test := rfl
@[simp] theorem modPort_free (d : Dev) (p : Nat) (f : PortSt → PortSt) : (modPort d p f).free = d.free := rfl

/-! `modCb` -/
@[simp] theorem modCb_boot (d : Dev) (i : Nat) (f : CbRun → CbRun) : (modCb d i f).boot = d.boot := rfl
@[simp] theorem modCb_time (d : Dev) (i : Nat) (f : CbRun → CbRun) : (modCb d i f).time = d.time := rfl
@[simp] theorem modCb_comp (d : Dev) (i : Nat) (f : CbRun → CbRun) : (modCb d i f).comp = d.comp := rfl
@[simp] theorem modCb_mem (d : Dev) (i : Nat) (f : CbRun → CbRun) : (modCb d i f).mem = d.mem := rfl
@[simp] theorem modCb_disp (d : Dev) (i : Nat) (f : CbRun → CbRun) : (modCb d i f).disp = d.disp := rfl
@[simp] theorem modCb_haul (d : Dev) (i : Nat) (f : CbRun → CbRun) : (modCb d i f).haul = d.haul := rfl
@[simp] theorem modCb_ls (d : Dev) (i : Nat) (f : CbRun → CbRun) : (modCb d i f).ls = d.ls := rfl
@[simp] theorem modCb_pwr (d : Dev) (i : Nat) (f : CbRun → CbRun) : (modCb d i f).pwr = d.pwr := rfl
@[simp] theorem modCb_sc (d : Dev) (i : Nat) (f : CbRun → CbRun) : (modCb d i f).sc = d.sc := rfl
@[simp] theorem modCb_fe (d : Dev) (i : Nat) (f : CbRun → CbRun) : (modCb d i f).fe = d.fe := rfl
@[simp] theorem modCb_lr (d : Dev) (i : Nat) (f : CbRun → CbRun) : (modCb d i f).lr = d.lr := rfl
@[simp] theorem modCb_tr (d : Dev) (i : Nat) (f : CbRun → CbRun) : (modCb d i f).tr = d.tr := rfl
@[simp] theorem modCb_dict (d : Dev) (i : Nat) (f : CbRun → CbRun) : (modCb d i f).dict = d.dict := rfl
@[simp] theorem modCb_test (d : Dev) (i : Nat) (f : CbRun → CbRun) : (modCb d i f).test = d.test := rfl
@[simp] theorem modCb_free (d : Dev) (i : Nat) (f : CbRun → CbRun) : (modCb d i f).free = d.free := rfl

/-! Read back -/
@[simp] theorem ctxOf_setCtx (d : Dev) (n : Nat) (c : Ctx) : ctxOf (setCtx d n c) n = c := tget_tset_same _ _ _ _
theorem ctxOf_setCtx_ne (d : Dev) {j n : Nat} (c : Ctx) (h : j ≠ n) : ctxOf (setCtx d n c) j = ctxOf d j := tget_tset_ne _ _ _ h
@[simp] theorem queueOf_setQueue (d : Dev) (q : Nat) (x : Queue) : queueOf (setQueue d q x) q = x := tget_tset_same _ _ _ _
theorem queueOf_setQueue_ne (d : Dev) {j q : Nat} (x : Queue) (h : j ≠ q) : queueOf (setQueue d q x) j = queueOf d j := tget_tset_ne _ _ _ h
@[simp] theorem syncOf_setSync (d : Dev) (o : Nat) (x : Sync) : syncOf (setSync d o x) o = x := tget_tset_same _ _ _ _
theorem syncOf_setSync_ne (d : Dev) {j o : Nat} (x : Sync) (h : j ≠ o) : syncOf (setSync d o x) j = syncOf d j := tget_tset_ne _ _ _ h
@[simp] theorem graphOf_setGraph (d : Dev) (g : Nat) (x : Graph) : graphOf (setGraph d g x) g = x := tget_tset_same _ _ _ _
theorem graphOf_setGraph_ne (d : Dev) {j g : Nat} (x : Graph) (h : j ≠ g) : graphOf (setGraph d g x) j = graphOf d j := tget_tset_ne _ _ _ h
@[simp] theorem feRxOf_setFeRx (d : Dev) (n : Nat) (x : FeRx) : feRxOf (setFeRx d n x) n = x := tget_tset_same _ _ _ _
theorem feRxOf_setFeRx_ne (d : Dev) {j n : Nat} (x : FeRx) (h : j ≠ n) : feRxOf (setFeRx d n x) j = feRxOf d j := tget_tset_ne _ _ _ h
@[simp] theorem feTxOf_setFeTx (d : Dev) (n : Nat) (x : FeTx) : feTxOf (setFeTx d n x) n = x := tget_tset_same _ _ _ _
theorem feTxOf_setFeTx_ne (d : Dev) {j n : Nat} (x : FeTx) (h : j ≠ n) : feTxOf (setFeTx d n x) j = feTxOf d j := tget_tset_ne _ _ _ h
@[simp] theorem dpdOf_setDpd (d : Dev) (n : Nat) (x : DpdSt) : dpdOf (setDpd d n x) n = x := tget_tset_same _ _ _ _
theorem dpdOf_setDpd_ne (d : Dev) {j n : Nat} (x : DpdSt) (h : j ≠ n) : dpdOf (setDpd d n x) j = dpdOf d j := tget_tset_ne _ _ _ h
@[simp] theorem detOf_setDet (d : Dev) (n : Nat) (x : DetSt) : detOf (setDet d n x) n = x := tget_tset_same _ _ _ _
theorem detOf_setDet_ne (d : Dev) {j n : Nat} (x : DetSt) (h : j ≠ n) : detOf (setDet d n x) j = detOf d j := tget_tset_ne _ _ _ h
@[simp] theorem corrOf_setCorr (d : Dev) (n : Nat) (x : CorrSt) : corrOf (setCorr d n x) n = x := tget_tset_same _ _ _ _
theorem corrOf_setCorr_ne (d : Dev) {j n : Nat} (x : CorrSt) (h : j ≠ n) : corrOf (setCorr d n x) j = corrOf d j := tget_tset_ne _ _ _ h
@[simp] theorem coreOf_setCore (d : Dev) (n : Nat) (x : CoreSt) : coreOf (setCore d n x) n = x := tget_tset_same _ _ _ _
theorem coreOf_setCore_ne (d : Dev) {j n : Nat} (x : CoreSt) (h : j ≠ n) : coreOf (setCore d n x) j = coreOf d j := tget_tset_ne _ _ _ h
@[simp] theorem mixOf_setMix (d : Dev) (n : Nat) (x : MixSt) : mixOf (setMix d n x) n = x := tget_tset_same _ _ _ _
theorem mixOf_setMix_ne (d : Dev) {j n : Nat} (x : MixSt) (h : j ≠ n) : mixOf (setMix d n x) j = mixOf d j := tget_tset_ne _ _ _ h
@[simp] theorem lsnOf_setLsn (d : Dev) (n : Nat) (x : LsnSt) : lsnOf (setLsn d n x) n = x := tget_tset_same _ _ _ _
theorem lsnOf_setLsn_ne (d : Dev) {j n : Nat} (x : LsnSt) (h : j ≠ n) : lsnOf (setLsn d n x) j = lsnOf d j := tget_tset_ne _ _ _ h
@[simp] theorem epOf_setEp (d : Dev) (n : Nat) (x : Endpoint) : epOf (setEp d n x) n = x := tget_tset_same _ _ _ _
theorem epOf_setEp_ne (d : Dev) {j n : Nat} (x : Endpoint) (h : j ≠ n) : epOf (setEp d n x) j = epOf d j := tget_tset_ne _ _ _ h
@[simp] theorem opOf_setOp (d : Dev) (id : Nat) (o : Op) : opOf (setOp d id o) id = some o := tfind_tset_same _ _ _
theorem opOf_setOp_ne (d : Dev) {j id : Nat} (o : Op) (h : j ≠ id) : opOf (setOp d id o) j = opOf d j := tfind_tset_ne _ _ h
@[simp] theorem ringOf_setRing (d : Dev) (r : Nat) (x : Ring) : ringOf (setRing d r x) r = some x := tfind_tset_same _ _ _
theorem ringOf_setRing_ne (d : Dev) {j r : Nat} (x : Ring) (h : j ≠ r) : ringOf (setRing d r x) j = ringOf d j := tfind_tset_ne _ _ h
@[simp] theorem modulatorOf_setModulator (d : Dev) (n : Nat) (x : ModSt) : modulatorOf (setModulator d n x) n = some x := tfind_tset_same _ _ _
theorem modulatorOf_setModulator_ne (d : Dev) {j n : Nat} (x : ModSt) (h : j ≠ n) : modulatorOf (setModulator d n x) j = modulatorOf d j := tfind_tset_ne _ _ h

end Sys2Proof.Machine
end

