-- ==== Sys2Proof/Laws/Frames.lean ====
section
/-!
SUPPORT. Laws/Frames.lean: what posting, completing, binding and sending leave.
-/
namespace Sys2Proof.Machine
open Sys2Proof


/-! `modCtx` -/
@[simp] theorem modCtx_boot (d : Dev) (n : Nat) (f : Ctx → Ctx) : (modCtx d n f).boot = d.boot := rfl
@[simp] theorem modCtx_time (d : Dev) (n : Nat) (f : Ctx → Ctx) : (modCtx d n f).time = d.time := rfl
@[simp] theorem modCtx_comp (d : Dev) (n : Nat) (f : Ctx → Ctx) : (modCtx d n f).comp = d.comp := rfl
@[simp] theorem modCtx_mem (d : Dev) (n : Nat) (f : Ctx → Ctx) : (modCtx d n f).mem = d.mem := rfl
@[simp] theorem modCtx_haul (d : Dev) (n : Nat) (f : Ctx → Ctx) : (modCtx d n f).haul = d.haul := rfl
@[simp] theorem modCtx_ls (d : Dev) (n : Nat) (f : Ctx → Ctx) : (modCtx d n f).ls = d.ls := rfl
@[simp] theorem modCtx_pwr (d : Dev) (n : Nat) (f : Ctx → Ctx) : (modCtx d n f).pwr = d.pwr := rfl
@[simp] theorem modCtx_sc (d : Dev) (n : Nat) (f : Ctx → Ctx) : (modCtx d n f).sc = d.sc := rfl
@[simp] theorem modCtx_fe (d : Dev) (n : Nat) (f : Ctx → Ctx) : (modCtx d n f).fe = d.fe := rfl
@[simp] theorem modCtx_lr (d : Dev) (n : Nat) (f : Ctx → Ctx) : (modCtx d n f).lr = d.lr := rfl
@[simp] theorem modCtx_tr (d : Dev) (n : Nat) (f : Ctx → Ctx) : (modCtx d n f).tr = d.tr := rfl
@[simp] theorem modCtx_net (d : Dev) (n : Nat) (f : Ctx → Ctx) : (modCtx d n f).net = d.net := rfl
@[simp] theorem modCtx_dict (d : Dev) (n : Nat) (f : Ctx → Ctx) : (modCtx d n f).dict = d.dict := rfl
@[simp] theorem modCtx_test (d : Dev) (n : Nat) (f : Ctx → Ctx) : (modCtx d n f).test = d.test := rfl
@[simp] theorem modCtx_free (d : Dev) (n : Nat) (f : Ctx → Ctx) : (modCtx d n f).free = d.free := rfl

/-! `post` -/
@[simp] theorem post_boot (d : Dev) (ctx code : Nat) (c : Cause) (p : Bytes) : (post d ctx code c p).boot = d.boot := rfl
@[simp] theorem post_time (d : Dev) (ctx code : Nat) (c : Cause) (p : Bytes) : (post d ctx code c p).time = d.time := rfl
@[simp] theorem post_comp (d : Dev) (ctx code : Nat) (c : Cause) (p : Bytes) : (post d ctx code c p).comp = d.comp := rfl
@[simp] theorem post_mem (d : Dev) (ctx code : Nat) (c : Cause) (p : Bytes) : (post d ctx code c p).mem = d.mem := rfl
@[simp] theorem post_haul (d : Dev) (ctx code : Nat) (c : Cause) (p : Bytes) : (post d ctx code c p).haul = d.haul := rfl
@[simp] theorem post_ls (d : Dev) (ctx code : Nat) (c : Cause) (p : Bytes) : (post d ctx code c p).ls = d.ls := rfl
@[simp] theorem post_pwr (d : Dev) (ctx code : Nat) (c : Cause) (p : Bytes) : (post d ctx code c p).pwr = d.pwr := rfl
@[simp] theorem post_sc (d : Dev) (ctx code : Nat) (c : Cause) (p : Bytes) : (post d ctx code c p).sc = d.sc := rfl
@[simp] theorem post_fe (d : Dev) (ctx code : Nat) (c : Cause) (p : Bytes) : (post d ctx code c p).fe = d.fe := rfl
@[simp] theorem post_lr (d : Dev) (ctx code : Nat) (c : Cause) (p : Bytes) : (post d ctx code c p).lr = d.lr := rfl
@[simp] theorem post_tr (d : Dev) (ctx code : Nat) (c : Cause) (p : Bytes) : (post d ctx code c p).tr = d.tr := rfl
@[simp] theorem post_net (d : Dev) (ctx code : Nat) (c : Cause) (p : Bytes) : (post d ctx code c p).net = d.net := rfl
@[simp] theorem post_dict (d : Dev) (ctx code : Nat) (c : Cause) (p : Bytes) : (post d ctx code c p).dict = d.dict := rfl
@[simp] theorem post_test (d : Dev) (ctx code : Nat) (c : Cause) (p : Bytes) : (post d ctx code c p).test = d.test := rfl
@[simp] theorem post_free (d : Dev) (ctx code : Nat) (c : Cause) (p : Bytes) : (post d ctx code c p).free = d.free := rfl

/-! `postFault` -/
@[simp] theorem postFault_boot (d : Dev) (ctx : Nat) (c : Cause) (r op i va : Nat) : (postFault d ctx c r op i va).boot = d.boot := rfl
@[simp] theorem postFault_time (d : Dev) (ctx : Nat) (c : Cause) (r op i va : Nat) : (postFault d ctx c r op i va).time = d.time := rfl
@[simp] theorem postFault_comp (d : Dev) (ctx : Nat) (c : Cause) (r op i va : Nat) : (postFault d ctx c r op i va).comp = d.comp := rfl
@[simp] theorem postFault_mem (d : Dev) (ctx : Nat) (c : Cause) (r op i va : Nat) : (postFault d ctx c r op i va).mem = d.mem := rfl
@[simp] theorem postFault_haul (d : Dev) (ctx : Nat) (c : Cause) (r op i va : Nat) : (postFault d ctx c r op i va).haul = d.haul := rfl
@[simp] theorem postFault_ls (d : Dev) (ctx : Nat) (c : Cause) (r op i va : Nat) : (postFault d ctx c r op i va).ls = d.ls := rfl
@[simp] theorem postFault_pwr (d : Dev) (ctx : Nat) (c : Cause) (r op i va : Nat) : (postFault d ctx c r op i va).pwr = d.pwr := rfl
@[simp] theorem postFault_sc (d : Dev) (ctx : Nat) (c : Cause) (r op i va : Nat) : (postFault d ctx c r op i va).sc = d.sc := rfl
@[simp] theorem postFault_fe (d : Dev) (ctx : Nat) (c : Cause) (r op i va : Nat) : (postFault d ctx c r op i va).fe = d.fe := rfl
@[simp] theorem postFault_lr (d : Dev) (ctx : Nat) (c : Cause) (r op i va : Nat) : (postFault d ctx c r op i va).lr = d.lr := rfl
@[simp] theorem postFault_tr (d : Dev) (ctx : Nat) (c : Cause) (r op i va : Nat) : (postFault d ctx c r op i va).tr = d.tr := rfl
@[simp] theorem postFault_net (d : Dev) (ctx : Nat) (c : Cause) (r op i va : Nat) : (postFault d ctx c r op i va).net = d.net := rfl
@[simp] theorem postFault_dict (d : Dev) (ctx : Nat) (c : Cause) (r op i va : Nat) : (postFault d ctx c r op i va).dict = d.dict := rfl
@[simp] theorem postFault_test (d : Dev) (ctx : Nat) (c : Cause) (r op i va : Nat) : (postFault d ctx c r op i va).test = d.test := rfl
@[simp] theorem postFault_free (d : Dev) (ctx : Nat) (c : Cause) (r op i va : Nat) : (postFault d ctx c r op i va).free = d.free := rfl

/-! `postOpFault` -/
@[simp] theorem postOpFault_boot (d : Dev) (o : Op) (r va : Nat) : (postOpFault d o r va).boot = d.boot := rfl
@[simp] theorem postOpFault_time (d : Dev) (o : Op) (r va : Nat) : (postOpFault d o r va).time = d.time := rfl
@[simp] theorem postOpFault_comp (d : Dev) (o : Op) (r va : Nat) : (postOpFault d o r va).comp = d.comp := rfl
@[simp] theorem postOpFault_mem (d : Dev) (o : Op) (r va : Nat) : (postOpFault d o r va).mem = d.mem := rfl
@[simp] theorem postOpFault_haul (d : Dev) (o : Op) (r va : Nat) : (postOpFault d o r va).haul = d.haul := rfl
@[simp] theorem postOpFault_ls (d : Dev) (o : Op) (r va : Nat) : (postOpFault d o r va).ls = d.ls := rfl
@[simp] theorem postOpFault_pwr (d : Dev) (o : Op) (r va : Nat) : (postOpFault d o r va).pwr = d.pwr := rfl
@[simp] theorem postOpFault_sc (d : Dev) (o : Op) (r va : Nat) : (postOpFault d o r va).sc = d.sc := rfl
@[simp] theorem postOpFault_fe (d : Dev) (o : Op) (r va : Nat) : (postOpFault d o r va).fe = d.fe := rfl
@[simp] theorem postOpFault_lr (d : Dev) (o : Op) (r va : Nat) : (postOpFault d o r va).lr = d.lr := rfl
@[simp] theorem postOpFault_tr (d : Dev) (o : Op) (r va : Nat) : (postOpFault d o r va).tr = d.tr := rfl
@[simp] theorem postOpFault_net (d : Dev) (o : Op) (r va : Nat) : (postOpFault d o r va).net = d.net := rfl
@[simp] theorem postOpFault_dict (d : Dev) (o : Op) (r va : Nat) : (postOpFault d o r va).dict = d.dict := rfl
@[simp] theorem postOpFault_test (d : Dev) (o : Op) (r va : Nat) : (postOpFault d o r va).test = d.test := rfl
@[simp] theorem postOpFault_free (d : Dev) (o : Op) (r va : Nat) : (postOpFault d o r va).free = d.free := rfl

/-! `raise` -/
@[simp] theorem raise_boot (d : Dev) (ctx : Nat) (f : Flags) : (raise d ctx f).boot = d.boot := rfl
@[simp] theorem raise_time (d : Dev) (ctx : Nat) (f : Flags) : (raise d ctx f).time = d.time := rfl
@[simp] theorem raise_comp (d : Dev) (ctx : Nat) (f : Flags) : (raise d ctx f).comp = d.comp := rfl
@[simp] theorem raise_mem (d : Dev) (ctx : Nat) (f : Flags) : (raise d ctx f).mem = d.mem := rfl
@[simp] theorem raise_haul (d : Dev) (ctx : Nat) (f : Flags) : (raise d ctx f).haul = d.haul := rfl
@[simp] theorem raise_ls (d : Dev) (ctx : Nat) (f : Flags) : (raise d ctx f).ls = d.ls := rfl
@[simp] theorem raise_pwr (d : Dev) (ctx : Nat) (f : Flags) : (raise d ctx f).pwr = d.pwr := rfl
@[simp] theorem raise_sc (d : Dev) (ctx : Nat) (f : Flags) : (raise d ctx f).sc = d.sc := rfl
@[simp] theorem raise_fe (d : Dev) (ctx : Nat) (f : Flags) : (raise d ctx f).fe = d.fe := rfl
@[simp] theorem raise_lr (d : Dev) (ctx : Nat) (f : Flags) : (raise d ctx f).lr = d.lr := rfl
@[simp] theorem raise_tr (d : Dev) (ctx : Nat) (f : Flags) : (raise d ctx f).tr = d.tr := rfl
@[simp] theorem raise_net (d : Dev) (ctx : Nat) (f : Flags) : (raise d ctx f).net = d.net := rfl
@[simp] theorem raise_dict (d : Dev) (ctx : Nat) (f : Flags) : (raise d ctx f).dict = d.dict := rfl
@[simp] theorem raise_test (d : Dev) (ctx : Nat) (f : Flags) : (raise d ctx f).test = d.test := rfl
@[simp] theorem raise_free (d : Dev) (ctx : Nat) (f : Flags) : (raise d ctx f).free = d.free := rfl

/-! `advance` -/
@[simp] theorem advance_boot (d : Dev) (q : Nat) : (advance d q).boot = d.boot := rfl
@[simp] theorem advance_time (d : Dev) (q : Nat) : (advance d q).time = d.time := rfl
@[simp] theorem advance_comp (d : Dev) (q : Nat) : (advance d q).comp = d.comp := rfl
@[simp] theorem advance_mem (d : Dev) (q : Nat) : (advance d q).mem = d.mem := rfl
@[simp] theorem advance_haul (d : Dev) (q : Nat) : (advance d q).haul = d.haul := rfl
@[simp] theorem advance_ls (d : Dev) (q : Nat) : (advance d q).ls = d.ls := rfl
@[simp] theorem advance_pwr (d : Dev) (q : Nat) : (advance d q).pwr = d.pwr := rfl
@[simp] theorem advance_sc (d : Dev) (q : Nat) : (advance d q).sc = d.sc := rfl
@[simp] theorem advance_fe (d : Dev) (q : Nat) : (advance d q).fe = d.fe := rfl
@[simp] theorem advance_lr (d : Dev) (q : Nat) : (advance d q).lr = d.lr := rfl
@[simp] theorem advance_tr (d : Dev) (q : Nat) : (advance d q).tr = d.tr := rfl
@[simp] theorem advance_net (d : Dev) (q : Nat) : (advance d q).net = d.net := rfl
@[simp] theorem advance_dict (d : Dev) (q : Nat) : (advance d q).dict = d.dict := rfl
@[simp] theorem advance_test (d : Dev) (q : Nat) : (advance d q).test = d.test := rfl
@[simp] theorem advance_free (d : Dev) (q : Nat) : (advance d q).free = d.free := rfl

/-! `haltHead` -/
@[simp] theorem haltHead_boot (d : Dev) (h : Head) (r : Nat) : (haltHead d h r).boot = d.boot := rfl
@[simp] theorem haltHead_time (d : Dev) (h : Head) (r : Nat) : (haltHead d h r).time = d.time := rfl
@[simp] theorem haltHead_comp (d : Dev) (h : Head) (r : Nat) : (haltHead d h r).comp = d.comp := rfl
@[simp] theorem haltHead_mem (d : Dev) (h : Head) (r : Nat) : (haltHead d h r).mem = d.mem := rfl
@[simp] theorem haltHead_haul (d : Dev) (h : Head) (r : Nat) : (haltHead d h r).haul = d.haul := rfl
@[simp] theorem haltHead_ls (d : Dev) (h : Head) (r : Nat) : (haltHead d h r).ls = d.ls := rfl
@[simp] theorem haltHead_pwr (d : Dev) (h : Head) (r : Nat) : (haltHead d h r).pwr = d.pwr := rfl
@[simp] theorem haltHead_sc (d : Dev) (h : Head) (r : Nat) : (haltHead d h r).sc = d.sc := rfl
@[simp] theorem haltHead_fe (d : Dev) (h : Head) (r : Nat) : (haltHead d h r).fe = d.fe := rfl
@[simp] theorem haltHead_lr (d : Dev) (h : Head) (r : Nat) : (haltHead d h r).lr = d.lr := rfl
@[simp] theorem haltHead_tr (d : Dev) (h : Head) (r : Nat) : (haltHead d h r).tr = d.tr := rfl
@[simp] theorem haltHead_net (d : Dev) (h : Head) (r : Nat) : (haltHead d h r).net = d.net := rfl
@[simp] theorem haltHead_dict (d : Dev) (h : Head) (r : Nat) : (haltHead d h r).dict = d.dict := rfl
@[simp] theorem haltHead_test (d : Dev) (h : Head) (r : Nat) : (haltHead d h r).test = d.test := rfl
@[simp] theorem haltHead_free (d : Dev) (h : Head) (r : Nat) : (haltHead d h r).free = d.free := rfl

/-! `syncAdd` -/
@[simp] theorem syncAdd_boot (d : Dev) (o i ctx blame : Nat) (c : Cause) (op idx : Nat) : (syncAdd d o i ctx blame c op idx).boot = d.boot := by unfold syncAdd; simp only; split; rfl; split <;> rfl
@[simp] theorem syncAdd_time (d : Dev) (o i ctx blame : Nat) (c : Cause) (op idx : Nat) : (syncAdd d o i ctx blame c op idx).time = d.time := by unfold syncAdd; simp only; split; rfl; split <;> rfl
@[simp] theorem syncAdd_comp (d : Dev) (o i ctx blame : Nat) (c : Cause) (op idx : Nat) : (syncAdd d o i ctx blame c op idx).comp = d.comp := by unfold syncAdd; simp only; split; rfl; split <;> rfl
@[simp] theorem syncAdd_mem (d : Dev) (o i ctx blame : Nat) (c : Cause) (op idx : Nat) : (syncAdd d o i ctx blame c op idx).mem = d.mem := by unfold syncAdd; simp only; split; rfl; split <;> rfl
@[simp] theorem syncAdd_haul (d : Dev) (o i ctx blame : Nat) (c : Cause) (op idx : Nat) : (syncAdd d o i ctx blame c op idx).haul = d.haul := by unfold syncAdd; simp only; split; rfl; split <;> rfl
@[simp] theorem syncAdd_ls (d : Dev) (o i ctx blame : Nat) (c : Cause) (op idx : Nat) : (syncAdd d o i ctx blame c op idx).ls = d.ls := by unfold syncAdd; simp only; split; rfl; split <;> rfl
@[simp] theorem syncAdd_pwr (d : Dev) (o i ctx blame : Nat) (c : Cause) (op idx : Nat) : (syncAdd d o i ctx blame c op idx).pwr = d.pwr := by unfold syncAdd; simp only; split; rfl; split <;> rfl
@[simp] theorem syncAdd_sc (d : Dev) (o i ctx blame : Nat) (c : Cause) (op idx : Nat) : (syncAdd d o i ctx blame c op idx).sc = d.sc := by unfold syncAdd; simp only; split; rfl; split <;> rfl
@[simp] theorem syncAdd_fe (d : Dev) (o i ctx blame : Nat) (c : Cause) (op idx : Nat) : (syncAdd d o i ctx blame c op idx).fe = d.fe := by unfold syncAdd; simp only; split; rfl; split <;> rfl
@[simp] theorem syncAdd_lr (d : Dev) (o i ctx blame : Nat) (c : Cause) (op idx : Nat) : (syncAdd d o i ctx blame c op idx).lr = d.lr := by unfold syncAdd; simp only; split; rfl; split <;> rfl
@[simp] theorem syncAdd_tr (d : Dev) (o i ctx blame : Nat) (c : Cause) (op idx : Nat) : (syncAdd d o i ctx blame c op idx).tr = d.tr := by unfold syncAdd; simp only; split; rfl; split <;> rfl
@[simp] theorem syncAdd_net (d : Dev) (o i ctx blame : Nat) (c : Cause) (op idx : Nat) : (syncAdd d o i ctx blame c op idx).net = d.net := by unfold syncAdd; simp only; split; rfl; split <;> rfl
@[simp] theorem syncAdd_dict (d : Dev) (o i ctx blame : Nat) (c : Cause) (op idx : Nat) : (syncAdd d o i ctx blame c op idx).dict = d.dict := by unfold syncAdd; simp only; split; rfl; split <;> rfl
@[simp] theorem syncAdd_test (d : Dev) (o i ctx blame : Nat) (c : Cause) (op idx : Nat) : (syncAdd d o i ctx blame c op idx).test = d.test := by unfold syncAdd; simp only; split; rfl; split <;> rfl
@[simp] theorem syncAdd_free (d : Dev) (o i ctx blame : Nat) (c : Cause) (op idx : Nat) : (syncAdd d o i ctx blame c op idx).free = d.free := by unfold syncAdd; simp only; split; rfl; split <;> rfl

/-! `setRoad` -/
@[simp] theorem setRoad_boot (d : Dev) (dir : Dir) (x : RoadDir) : (setRoad d dir x).boot = d.boot := by cases dir <;> rfl
@[simp] theorem setRoad_time (d : Dev) (dir : Dir) (x : RoadDir) : (setRoad d dir x).time = d.time := by cases dir <;> rfl
@[simp] theorem setRoad_comp (d : Dev) (dir : Dir) (x : RoadDir) : (setRoad d dir x).comp = d.comp := by cases dir <;> rfl
@[simp] theorem setRoad_mem (d : Dev) (dir : Dir) (x : RoadDir) : (setRoad d dir x).mem = d.mem := by cases dir <;> rfl
@[simp] theorem setRoad_disp (d : Dev) (dir : Dir) (x : RoadDir) : (setRoad d dir x).disp = d.disp := by cases dir <;> rfl
@[simp] theorem setRoad_ls (d : Dev) (dir : Dir) (x : RoadDir) : (setRoad d dir x).ls = d.ls := by cases dir <;> rfl
@[simp] theorem setRoad_pwr (d : Dev) (dir : Dir) (x : RoadDir) : (setRoad d dir x).pwr = d.pwr := by cases dir <;> rfl
@[simp] theorem setRoad_sc (d : Dev) (dir : Dir) (x : RoadDir) : (setRoad d dir x).sc = d.sc := by cases dir <;> rfl
@[simp] theorem setRoad_fe (d : Dev) (dir : Dir) (x : RoadDir) : (setRoad d dir x).fe = d.fe := by cases dir <;> rfl
@[simp] theorem setRoad_lr (d : Dev) (dir : Dir) (x : RoadDir) : (setRoad d dir x).lr = d.lr := by cases dir <;> rfl
@[simp] theorem setRoad_tr (d : Dev) (dir : Dir) (x : RoadDir) : (setRoad d dir x).tr = d.tr := by cases dir <;> rfl
@[simp] theorem setRoad_net (d : Dev) (dir : Dir) (x : RoadDir) : (setRoad d dir x).net = d.net := by cases dir <;> rfl
@[simp] theorem setRoad_dict (d : Dev) (dir : Dir) (x : RoadDir) : (setRoad d dir x).dict = d.dict := by cases dir <;> rfl
@[simp] theorem setRoad_test (d : Dev) (dir : Dir) (x : RoadDir) : (setRoad d dir x).test = d.test := by cases dir <;> rfl
@[simp] theorem setRoad_free (d : Dev) (dir : Dir) (x : RoadDir) : (setRoad d dir x).free = d.free := by cases dir <;> rfl
@[simp] theorem setRoad_haul_rings (d : Dev) (dir : Dir) (x : RoadDir) : (setRoad d dir x).haul.rings = d.haul.rings := by cases dir <;> rfl

/-! `enqueue` -/
@[simp] theorem enqueue_boot (d : Dev) (dir : Dir) (lc : Bool) (p : Payload) : (enqueue d dir lc p).boot = d.boot := by unfold enqueue; split; rfl; cases dir <;> rfl
@[simp] theorem enqueue_time (d : Dev) (dir : Dir) (lc : Bool) (p : Payload) : (enqueue d dir lc p).time = d.time := by unfold enqueue; split; rfl; cases dir <;> rfl
@[simp] theorem enqueue_comp (d : Dev) (dir : Dir) (lc : Bool) (p : Payload) : (enqueue d dir lc p).comp = d.comp := by unfold enqueue; split; rfl; cases dir <;> rfl
@[simp] theorem enqueue_mem (d : Dev) (dir : Dir) (lc : Bool) (p : Payload) : (enqueue d dir lc p).mem = d.mem := by unfold enqueue; split; rfl; cases dir <;> rfl
@[simp] theorem enqueue_disp (d : Dev) (dir : Dir) (lc : Bool) (p : Payload) : (enqueue d dir lc p).disp = d.disp := by unfold enqueue; split; rfl; cases dir <;> rfl
@[simp] theorem enqueue_ls (d : Dev) (dir : Dir) (lc : Bool) (p : Payload) : (enqueue d dir lc p).ls = d.ls := by unfold enqueue; split; rfl; cases dir <;> rfl
@[simp] theorem enqueue_pwr (d : Dev) (dir : Dir) (lc : Bool) (p : Payload) : (enqueue d dir lc p).pwr = d.pwr := by unfold enqueue; split; rfl; cases dir <;> rfl
@[simp] theorem enqueue_sc (d : Dev) (dir : Dir) (lc : Bool) (p : Payload) : (enqueue d dir lc p).sc = d.sc := by unfold enqueue; split; rfl; cases dir <;> rfl
@[simp] theorem enqueue_fe (d : Dev) (dir : Dir) (lc : Bool) (p : Payload) : (enqueue d dir lc p).fe = d.fe := by unfold enqueue; split; rfl; cases dir <;> rfl
@[simp] theorem enqueue_lr (d : Dev) (dir : Dir) (lc : Bool) (p : Payload) : (enqueue d dir lc p).lr = d.lr := by unfold enqueue; split; rfl; cases dir <;> rfl
@[simp] theorem enqueue_tr (d : Dev) (dir : Dir) (lc : Bool) (p : Payload) : (enqueue d dir lc p).tr = d.tr := by unfold enqueue; split; rfl; cases dir <;> rfl
@[simp] theorem enqueue_net (d : Dev) (dir : Dir) (lc : Bool) (p : Payload) : (enqueue d dir lc p).net = d.net := by unfold enqueue; split; rfl; cases dir <;> rfl
@[simp] theorem enqueue_dict (d : Dev) (dir : Dir) (lc : Bool) (p : Payload) : (enqueue d dir lc p).dict = d.dict := by unfold enqueue; split; rfl; cases dir <;> rfl
@[simp] theorem enqueue_test (d : Dev) (dir : Dir) (lc : Bool) (p : Payload) : (enqueue d dir lc p).test = d.test := by unfold enqueue; split; rfl; cases dir <;> rfl
@[simp] theorem enqueue_free (d : Dev) (dir : Dir) (lc : Bool) (p : Payload) : (enqueue d dir lc p).free = d.free := by unfold enqueue; split; rfl; cases dir <;> rfl

/-! Several events at once -/

@[simp] theorem postActive_boot (d : Dev) (code : Nat) (p : Bytes) : (postActive d code p).boot = d.boot := by
  unfold postActive
  generalize ctxsWhere d _ = l
  induction l generalizing d with
  | nil => rfl
  | cons a l ih => rw [List.foldl_cons, ih]; rfl
@[simp] theorem postActive_time (d : Dev) (code : Nat) (p : Bytes) : (postActive d code p).time = d.time := by
  unfold postActive
  generalize ctxsWhere d _ = l
  induction l generalizing d with
  | nil => rfl
  | cons a l ih => rw [List.foldl_cons, ih]; rfl
@[simp] theorem postActive_comp (d : Dev) (code : Nat) (p : Bytes) : (postActive d code p).comp = d.comp := by
  unfold postActive
  generalize ctxsWhere d _ = l
  induction l generalizing d with
  | nil => rfl
  | cons a l ih => rw [List.foldl_cons, ih]; rfl
@[simp] theorem postActive_mem (d : Dev) (code : Nat) (p : Bytes) : (postActive d code p).mem = d.mem := by
  unfold postActive
  generalize ctxsWhere d _ = l
  induction l generalizing d with
  | nil => rfl
  | cons a l ih => rw [List.foldl_cons, ih]; rfl
@[simp] theorem postActive_haul (d : Dev) (code : Nat) (p : Bytes) : (postActive d code p).haul = d.haul := by
  unfold postActive
  generalize ctxsWhere d _ = l
  induction l generalizing d with
  | nil => rfl
  | cons a l ih => rw [List.foldl_cons, ih]; rfl
@[simp] theorem postActive_ls (d : Dev) (code : Nat) (p : Bytes) : (postActive d code p).ls = d.ls := by
  unfold postActive
  generalize ctxsWhere d _ = l
  induction l generalizing d with
  | nil => rfl
  | cons a l ih => rw [List.foldl_cons, ih]; rfl
@[simp] theorem postActive_pwr (d : Dev) (code : Nat) (p : Bytes) : (postActive d code p).pwr = d.pwr := by
  unfold postActive
  generalize ctxsWhere d _ = l
  induction l generalizing d with
  | nil => rfl
  | cons a l ih => rw [List.foldl_cons, ih]; rfl
@[simp] theorem postActive_sc (d : Dev) (code : Nat) (p : Bytes) : (postActive d code p).sc = d.sc := by
  unfold postActive
  generalize ctxsWhere d _ = l
  induction l generalizing d with
  | nil => rfl
  | cons a l ih => rw [List.foldl_cons, ih]; rfl
@[simp] theorem postActive_fe (d : Dev) (code : Nat) (p : Bytes) : (postActive d code p).fe = d.fe := by
  unfold postActive
  generalize ctxsWhere d _ = l
  induction l generalizing d with
  | nil => rfl
  | cons a l ih => rw [List.foldl_cons, ih]; rfl
@[simp] theorem postActive_lr (d : Dev) (code : Nat) (p : Bytes) : (postActive d code p).lr = d.lr := by
  unfold postActive
  generalize ctxsWhere d _ = l
  induction l generalizing d with
  | nil => rfl
  | cons a l ih => rw [List.foldl_cons, ih]; rfl
@[simp] theorem postActive_tr (d : Dev) (code : Nat) (p : Bytes) : (postActive d code p).tr = d.tr := by
  unfold postActive
  generalize ctxsWhere d _ = l
  induction l generalizing d with
  | nil => rfl
  | cons a l ih => rw [List.foldl_cons, ih]; rfl
@[simp] theorem postActive_net (d : Dev) (code : Nat) (p : Bytes) : (postActive d code p).net = d.net := by
  unfold postActive
  generalize ctxsWhere d _ = l
  induction l generalizing d with
  | nil => rfl
  | cons a l ih => rw [List.foldl_cons, ih]; rfl
@[simp] theorem postActive_dict (d : Dev) (code : Nat) (p : Bytes) : (postActive d code p).dict = d.dict := by
  unfold postActive
  generalize ctxsWhere d _ = l
  induction l generalizing d with
  | nil => rfl
  | cons a l ih => rw [List.foldl_cons, ih]; rfl
@[simp] theorem postActive_test (d : Dev) (code : Nat) (p : Bytes) : (postActive d code p).test = d.test := by
  unfold postActive
  generalize ctxsWhere d _ = l
  induction l generalizing d with
  | nil => rfl
  | cons a l ih => rw [List.foldl_cons, ih]; rfl
@[simp] theorem postActive_free (d : Dev) (code : Nat) (p : Bytes) : (postActive d code p).free = d.free := by
  unfold postActive
  generalize ctxsWhere d _ = l
  induction l generalizing d with
  | nil => rfl
  | cons a l ih => rw [List.foldl_cons, ih]; rfl
@[simp] theorem enqueue_haul_rings (d : Dev) (dir : Dir) (lc : Bool) (p : Payload) : (enqueue d dir lc p).haul.rings = d.haul.rings := by unfold enqueue; split <;> simp

/-! `acceptFlit` -/
@[simp] theorem acceptFlit_boot (d : Dev) (dir : Dir) (f : Flit) : (acceptFlit d dir f).boot = d.boot := by
  unfold acceptFlit; simp only [setRoad_boot]; split
  · split <;> simp
  · simp
@[simp] theorem acceptFlit_time (d : Dev) (dir : Dir) (f : Flit) : (acceptFlit d dir f).time = d.time := by
  unfold acceptFlit; simp only [setRoad_time]; split
  · split <;> simp
  · simp
@[simp] theorem acceptFlit_comp (d : Dev) (dir : Dir) (f : Flit) : (acceptFlit d dir f).comp = d.comp := by
  unfold acceptFlit; simp only [setRoad_comp]; split
  · split <;> simp
  · simp
@[simp] theorem acceptFlit_mem (d : Dev) (dir : Dir) (f : Flit) : (acceptFlit d dir f).mem = d.mem := by
  unfold acceptFlit; simp only [setRoad_mem]; split
  · split <;> simp
  · simp
@[simp] theorem acceptFlit_disp (d : Dev) (dir : Dir) (f : Flit) : (acceptFlit d dir f).disp = d.disp := by
  unfold acceptFlit; simp only [setRoad_disp]; split
  · split <;> simp
  · simp
@[simp] theorem acceptFlit_ls (d : Dev) (dir : Dir) (f : Flit) : (acceptFlit d dir f).ls = d.ls := by
  unfold acceptFlit; simp only [setRoad_ls]; split
  · split <;> simp
  · simp
@[simp] theorem acceptFlit_pwr (d : Dev) (dir : Dir) (f : Flit) : (acceptFlit d dir f).pwr = d.pwr := by
  unfold acceptFlit; simp only [setRoad_pwr]; split
  · split <;> simp
  · simp
@[simp] theorem acceptFlit_sc (d : Dev) (dir : Dir) (f : Flit) : (acceptFlit d dir f).sc = d.sc := by
  unfold acceptFlit; simp only [setRoad_sc]; split
  · split <;> simp
  · simp
@[simp] theorem acceptFlit_fe (d : Dev) (dir : Dir) (f : Flit) : (acceptFlit d dir f).fe = d.fe := by
  unfold acceptFlit; simp only [setRoad_fe]; split
  · split <;> simp
  · simp
@[simp] theorem acceptFlit_lr (d : Dev) (dir : Dir) (f : Flit) : (acceptFlit d dir f).lr = d.lr := by
  unfold acceptFlit; simp only [setRoad_lr]; split
  · split <;> simp
  · simp
@[simp] theorem acceptFlit_tr (d : Dev) (dir : Dir) (f : Flit) : (acceptFlit d dir f).tr = d.tr := by
  unfold acceptFlit; simp only [setRoad_tr]; split
  · split <;> simp
  · simp
@[simp] theorem acceptFlit_net (d : Dev) (dir : Dir) (f : Flit) : (acceptFlit d dir f).net = d.net := by
  unfold acceptFlit; simp only [setRoad_net]; split
  · split <;> simp
  · simp
@[simp] theorem acceptFlit_dict (d : Dev) (dir : Dir) (f : Flit) : (acceptFlit d dir f).dict = d.dict := by
  unfold acceptFlit; simp only [setRoad_dict]; split
  · split <;> simp
  · simp
@[simp] theorem acceptFlit_test (d : Dev) (dir : Dir) (f : Flit) : (acceptFlit d dir f).test = d.test := by
  unfold acceptFlit; simp only [setRoad_test]; split
  · split <;> simp
  · simp
@[simp] theorem acceptFlit_free (d : Dev) (dir : Dir) (f : Flit) : (acceptFlit d dir f).free = d.free := by
  unfold acceptFlit; simp only [setRoad_free]; split
  · split <;> simp
  · simp
@[simp] theorem acceptFlit_haul_rings (d : Dev) (dir : Dir) (f : Flit) : (acceptFlit d dir f).haul.rings = d.haul.rings := by
  unfold acceptFlit; simp only [setRoad_haul_rings]; split
  · split <;> simp
  · simp

/-! `crossFlit` -/
@[simp] theorem crossFlit_boot (d : Dev) (dir : Dir) (lc : Bool) (p : Payload) : (crossFlit d dir lc p).boot = d.boot := by simp [crossFlit]
@[simp] theorem crossFlit_time (d : Dev) (dir : Dir) (lc : Bool) (p : Payload) : (crossFlit d dir lc p).time = d.time := by simp [crossFlit]
@[simp] theorem crossFlit_comp (d : Dev) (dir : Dir) (lc : Bool) (p : Payload) : (crossFlit d dir lc p).comp = d.comp := by simp [crossFlit]
@[simp] theorem crossFlit_mem (d : Dev) (dir : Dir) (lc : Bool) (p : Payload) : (crossFlit d dir lc p).mem = d.mem := by simp [crossFlit]
@[simp] theorem crossFlit_disp (d : Dev) (dir : Dir) (lc : Bool) (p : Payload) : (crossFlit d dir lc p).disp = d.disp := by simp [crossFlit]
@[simp] theorem crossFlit_ls (d : Dev) (dir : Dir) (lc : Bool) (p : Payload) : (crossFlit d dir lc p).ls = d.ls := by simp [crossFlit]
@[simp] theorem crossFlit_pwr (d : Dev) (dir : Dir) (lc : Bool) (p : Payload) : (crossFlit d dir lc p).pwr = d.pwr := by simp [crossFlit]
@[simp] theorem crossFlit_sc (d : Dev) (dir : Dir) (lc : Bool) (p : Payload) : (crossFlit d dir lc p).sc = d.sc := by simp [crossFlit]
@[simp] theorem crossFlit_fe (d : Dev) (dir : Dir) (lc : Bool) (p : Payload) : (crossFlit d dir lc p).fe = d.fe := by simp [crossFlit]
@[simp] theorem crossFlit_lr (d : Dev) (dir : Dir) (lc : Bool) (p : Payload) : (crossFlit d dir lc p).lr = d.lr := by simp [crossFlit]
@[simp] theorem crossFlit_tr (d : Dev) (dir : Dir) (lc : Bool) (p : Payload) : (crossFlit d dir lc p).tr = d.tr := by simp [crossFlit]
@[simp] theorem crossFlit_net (d : Dev) (dir : Dir) (lc : Bool) (p : Payload) : (crossFlit d dir lc p).net = d.net := by simp [crossFlit]
@[simp] theorem crossFlit_dict (d : Dev) (dir : Dir) (lc : Bool) (p : Payload) : (crossFlit d dir lc p).dict = d.dict := by simp [crossFlit]
@[simp] theorem crossFlit_test (d : Dev) (dir : Dir) (lc : Bool) (p : Payload) : (crossFlit d dir lc p).test = d.test := by simp [crossFlit]
@[simp] theorem crossFlit_free (d : Dev) (dir : Dir) (lc : Bool) (p : Payload) : (crossFlit d dir lc p).free = d.free := by simp [crossFlit]
@[simp] theorem crossFlit_haul_rings (d : Dev) (dir : Dir) (lc : Bool) (p : Payload) : (crossFlit d dir lc p).haul.rings = d.haul.rings := by simp [crossFlit]

/-! `endDesc` -/
@[simp] theorem endDesc_boot (d : Dev) (ctx q i : Nat) (x : Desc) : (endDesc d ctx q i x).boot = d.boot := by unfold endDesc; simp only; split <;> split <;> simp
@[simp] theorem endDesc_time (d : Dev) (ctx q i : Nat) (x : Desc) : (endDesc d ctx q i x).time = d.time := by unfold endDesc; simp only; split <;> split <;> simp
@[simp] theorem endDesc_comp (d : Dev) (ctx q i : Nat) (x : Desc) : (endDesc d ctx q i x).comp = d.comp := by unfold endDesc; simp only; split <;> split <;> simp
@[simp] theorem endDesc_mem (d : Dev) (ctx q i : Nat) (x : Desc) : (endDesc d ctx q i x).mem = d.mem := by unfold endDesc; simp only; split <;> split <;> simp
@[simp] theorem endDesc_ls (d : Dev) (ctx q i : Nat) (x : Desc) : (endDesc d ctx q i x).ls = d.ls := by unfold endDesc; simp only; split <;> split <;> simp
@[simp] theorem endDesc_pwr (d : Dev) (ctx q i : Nat) (x : Desc) : (endDesc d ctx q i x).pwr = d.pwr := by unfold endDesc; simp only; split <;> split <;> simp
@[simp] theorem endDesc_sc (d : Dev) (ctx q i : Nat) (x : Desc) : (endDesc d ctx q i x).sc = d.sc := by unfold endDesc; simp only; split <;> split <;> simp
@[simp] theorem endDesc_fe (d : Dev) (ctx q i : Nat) (x : Desc) : (endDesc d ctx q i x).fe = d.fe := by unfold endDesc; simp only; split <;> split <;> simp
@[simp] theorem endDesc_lr (d : Dev) (ctx q i : Nat) (x : Desc) : (endDesc d ctx q i x).lr = d.lr := by unfold endDesc; simp only; split <;> split <;> simp
@[simp] theorem endDesc_tr (d : Dev) (ctx q i : Nat) (x : Desc) : (endDesc d ctx q i x).tr = d.tr := by unfold endDesc; simp only; split <;> split <;> simp
@[simp] theorem endDesc_net (d : Dev) (ctx q i : Nat) (x : Desc) : (endDesc d ctx q i x).net = d.net := by unfold endDesc; simp only; split <;> split <;> simp
@[simp] theorem endDesc_dict (d : Dev) (ctx q i : Nat) (x : Desc) : (endDesc d ctx q i x).dict = d.dict := by unfold endDesc; simp only; split <;> split <;> simp
@[simp] theorem endDesc_test (d : Dev) (ctx q i : Nat) (x : Desc) : (endDesc d ctx q i x).test = d.test := by unfold endDesc; simp only; split <;> split <;> simp
@[simp] theorem endDesc_free (d : Dev) (ctx q i : Nat) (x : Desc) : (endDesc d ctx q i x).free = d.free := by unfold endDesc; simp only; split <;> split <;> simp
@[simp] theorem endDesc_haul (d : Dev) (ctx q i : Nat) (x : Desc) : (endDesc d ctx q i x).haul = d.haul := by unfold endDesc; simp only; split <;> split <;> simp

/-! `finishDesc` -/
@[simp] theorem finishDesc_boot (d : Dev) (ctx q i : Nat) (x : Desc) : (finishDesc d ctx q i x).boot = d.boot := by
  unfold finishDesc; split
  · split <;> simp
  · simp
@[simp] theorem finishDesc_time (d : Dev) (ctx q i : Nat) (x : Desc) : (finishDesc d ctx q i x).time = d.time := by
  unfold finishDesc; split
  · split <;> simp
  · simp
@[simp] theorem finishDesc_comp (d : Dev) (ctx q i : Nat) (x : Desc) : (finishDesc d ctx q i x).comp = d.comp := by
  unfold finishDesc; split
  · split <;> simp
  · simp
@[simp] theorem finishDesc_mem (d : Dev) (ctx q i : Nat) (x : Desc) : (finishDesc d ctx q i x).mem = d.mem := by
  unfold finishDesc; split
  · split <;> simp
  · simp
@[simp] theorem finishDesc_ls (d : Dev) (ctx q i : Nat) (x : Desc) : (finishDesc d ctx q i x).ls = d.ls := by
  unfold finishDesc; split
  · split <;> simp
  · simp
@[simp] theorem finishDesc_pwr (d : Dev) (ctx q i : Nat) (x : Desc) : (finishDesc d ctx q i x).pwr = d.pwr := by
  unfold finishDesc; split
  · split <;> simp
  · simp
@[simp] theorem finishDesc_sc (d : Dev) (ctx q i : Nat) (x : Desc) : (finishDesc d ctx q i x).sc = d.sc := by
  unfold finishDesc; split
  · split <;> simp
  · simp
@[simp] theorem finishDesc_fe (d : Dev) (ctx q i : Nat) (x : Desc) : (finishDesc d ctx q i x).fe = d.fe := by
  unfold finishDesc; split
  · split <;> simp
  · simp
@[simp] theorem finishDesc_lr (d : Dev) (ctx q i : Nat) (x : Desc) : (finishDesc d ctx q i x).lr = d.lr := by
  unfold finishDesc; split
  · split <;> simp
  · simp
@[simp] theorem finishDesc_tr (d : Dev) (ctx q i : Nat) (x : Desc) : (finishDesc d ctx q i x).tr = d.tr := by
  unfold finishDesc; split
  · split <;> simp
  · simp
@[simp] theorem finishDesc_net (d : Dev) (ctx q i : Nat) (x : Desc) : (finishDesc d ctx q i x).net = d.net := by
  unfold finishDesc; split
  · split <;> simp
  · simp
@[simp] theorem finishDesc_dict (d : Dev) (ctx q i : Nat) (x : Desc) : (finishDesc d ctx q i x).dict = d.dict := by
  unfold finishDesc; split
  · split <;> simp
  · simp
@[simp] theorem finishDesc_test (d : Dev) (ctx q i : Nat) (x : Desc) : (finishDesc d ctx q i x).test = d.test := by
  unfold finishDesc; split
  · split <;> simp
  · simp
@[simp] theorem finishDesc_free (d : Dev) (ctx q i : Nat) (x : Desc) : (finishDesc d ctx q i x).free = d.free := by
  unfold finishDesc; split
  · split <;> simp
  · simp
@[simp] theorem finishDesc_haul_rings (d : Dev) (ctx q i : Nat) (x : Desc) : (finishDesc d ctx q i x).haul.rings = d.haul.rings := by
  unfold finishDesc; split
  · split <;> simp
  · simp

/-! `completeHead` -/
@[simp] theorem completeHead_boot (d : Dev) (h : Head) : (completeHead d h).boot = d.boot := by simp [completeHead]
@[simp] theorem completeHead_time (d : Dev) (h : Head) : (completeHead d h).time = d.time := by simp [completeHead]
@[simp] theorem completeHead_comp (d : Dev) (h : Head) : (completeHead d h).comp = d.comp := by simp [completeHead]
@[simp] theorem completeHead_mem (d : Dev) (h : Head) : (completeHead d h).mem = d.mem := by simp [completeHead]
@[simp] theorem completeHead_ls (d : Dev) (h : Head) : (completeHead d h).ls = d.ls := by simp [completeHead]
@[simp] theorem completeHead_pwr (d : Dev) (h : Head) : (completeHead d h).pwr = d.pwr := by simp [completeHead]
@[simp] theorem completeHead_sc (d : Dev) (h : Head) : (completeHead d h).sc = d.sc := by simp [completeHead]
@[simp] theorem completeHead_fe (d : Dev) (h : Head) : (completeHead d h).fe = d.fe := by simp [completeHead]
@[simp] theorem completeHead_lr (d : Dev) (h : Head) : (completeHead d h).lr = d.lr := by simp [completeHead]
@[simp] theorem completeHead_tr (d : Dev) (h : Head) : (completeHead d h).tr = d.tr := by simp [completeHead]
@[simp] theorem completeHead_net (d : Dev) (h : Head) : (completeHead d h).net = d.net := by simp [completeHead]
@[simp] theorem completeHead_dict (d : Dev) (h : Head) : (completeHead d h).dict = d.dict := by simp [completeHead]
@[simp] theorem completeHead_test (d : Dev) (h : Head) : (completeHead d h).test = d.test := by simp [completeHead]
@[simp] theorem completeHead_free (d : Dev) (h : Head) : (completeHead d h).free = d.free := by simp [completeHead]
@[simp] theorem completeHead_haul_rings (d : Dev) (h : Head) : (completeHead d h).haul.rings = d.haul.rings := by simp [completeHead]

/-! `modRing` -/
@[simp] theorem modRing_boot (d : Dev) (r : Nat) (f : Ring → Ring) : (modRing d r f).boot = d.boot := by unfold modRing; split <;> rfl
@[simp] theorem modRing_time (d : Dev) (r : Nat) (f : Ring → Ring) : (modRing d r f).time = d.time := by unfold modRing; split <;> rfl
@[simp] theorem modRing_comp (d : Dev) (r : Nat) (f : Ring → Ring) : (modRing d r f).comp = d.comp := by unfold modRing; split <;> rfl
@[simp] theorem modRing_mem (d : Dev) (r : Nat) (f : Ring → Ring) : (modRing d r f).mem = d.mem := by unfold modRing; split <;> rfl
@[simp] theorem modRing_disp (d : Dev) (r : Nat) (f : Ring → Ring) : (modRing d r f).disp = d.disp := by unfold modRing; split <;> rfl
@[simp] theorem modRing_ls (d : Dev) (r : Nat) (f : Ring → Ring) : (modRing d r f).ls = d.ls := by unfold modRing; split <;> rfl
@[simp] theorem modRing_pwr (d : Dev) (r : Nat) (f : Ring → Ring) : (modRing d r f).pwr = d.pwr := by unfold modRing; split <;> rfl
@[simp] theorem modRing_sc (d : Dev) (r : Nat) (f : Ring → Ring) : (modRing d r f).sc = d.sc := by unfold modRing; split <;> rfl
@[simp] theorem modRing_fe (d : Dev) (r : Nat) (f : Ring → Ring) : (modRing d r f).fe = d.fe := by unfold modRing; split <;> rfl
@[simp] theorem modRing_lr (d : Dev) (r : Nat) (f : Ring → Ring) : (modRing d r f).lr = d.lr := by unfold modRing; split <;> rfl
@[simp] theorem modRing_tr (d : Dev) (r : Nat) (f : Ring → Ring) : (modRing d r f).tr = d.tr := by unfold modRing; split <;> rfl
@[simp] theorem modRing_net (d : Dev) (r : Nat) (f : Ring → Ring) : (modRing d r f).net = d.net := by unfold modRing; split <;> rfl
@[simp] theorem modRing_dict (d : Dev) (r : Nat) (f : Ring → Ring) : (modRing d r f).dict = d.dict := by unfold modRing; split <;> rfl
@[simp] theorem modRing_test (d : Dev) (r : Nat) (f : Ring → Ring) : (modRing d r f).test = d.test := by unfold modRing; split <;> rfl
@[simp] theorem modRing_free (d : Dev) (r : Nat) (f : Ring → Ring) : (modRing d r f).free = d.free := by unfold modRing; split <;> rfl

/-! `setSlot` -/
@[simp] theorem setSlot_boot (d : Dev) (r k : Nat) (st : SlotSt) : (setSlot d r k st).boot = d.boot := by simp [setSlot]
@[simp] theorem setSlot_time (d : Dev) (r k : Nat) (st : SlotSt) : (setSlot d r k st).time = d.time := by simp [setSlot]
@[simp] theorem setSlot_comp (d : Dev) (r k : Nat) (st : SlotSt) : (setSlot d r k st).comp = d.comp := by simp [setSlot]
@[simp] theorem setSlot_mem (d : Dev) (r k : Nat) (st : SlotSt) : (setSlot d r k st).mem = d.mem := by simp [setSlot]
@[simp] theorem setSlot_disp (d : Dev) (r k : Nat) (st : SlotSt) : (setSlot d r k st).disp = d.disp := by simp [setSlot]
@[simp] theorem setSlot_ls (d : Dev) (r k : Nat) (st : SlotSt) : (setSlot d r k st).ls = d.ls := by simp [setSlot]
@[simp] theorem setSlot_pwr (d : Dev) (r k : Nat) (st : SlotSt) : (setSlot d r k st).pwr = d.pwr := by simp [setSlot]
@[simp] theorem setSlot_sc (d : Dev) (r k : Nat) (st : SlotSt) : (setSlot d r k st).sc = d.sc := by simp [setSlot]
@[simp] theorem setSlot_fe (d : Dev) (r k : Nat) (st : SlotSt) : (setSlot d r k st).fe = d.fe := by simp [setSlot]
@[simp] theorem setSlot_lr (d : Dev) (r k : Nat) (st : SlotSt) : (setSlot d r k st).lr = d.lr := by simp [setSlot]
@[simp] theorem setSlot_tr (d : Dev) (r k : Nat) (st : SlotSt) : (setSlot d r k st).tr = d.tr := by simp [setSlot]
@[simp] theorem setSlot_net (d : Dev) (r k : Nat) (st : SlotSt) : (setSlot d r k st).net = d.net := by simp [setSlot]
@[simp] theorem setSlot_dict (d : Dev) (r k : Nat) (st : SlotSt) : (setSlot d r k st).dict = d.dict := by simp [setSlot]
@[simp] theorem setSlot_test (d : Dev) (r k : Nat) (st : SlotSt) : (setSlot d r k st).test = d.test := by simp [setSlot]
@[simp] theorem setSlot_free (d : Dev) (r k : Nat) (st : SlotSt) : (setSlot d r k st).free = d.free := by simp [setSlot]

/-! `bindProd` -/
@[simp] theorem bindProd_boot (d : Dev) (r : Nat) (a : Agent) : (bindProd d r a).boot = d.boot := by simp [bindProd]
@[simp] theorem bindProd_time (d : Dev) (r : Nat) (a : Agent) : (bindProd d r a).time = d.time := by simp [bindProd]
@[simp] theorem bindProd_comp (d : Dev) (r : Nat) (a : Agent) : (bindProd d r a).comp = d.comp := by simp [bindProd]
@[simp] theorem bindProd_mem (d : Dev) (r : Nat) (a : Agent) : (bindProd d r a).mem = d.mem := by simp [bindProd]
@[simp] theorem bindProd_disp (d : Dev) (r : Nat) (a : Agent) : (bindProd d r a).disp = d.disp := by simp [bindProd]
@[simp] theorem bindProd_ls (d : Dev) (r : Nat) (a : Agent) : (bindProd d r a).ls = d.ls := by simp [bindProd]
@[simp] theorem bindProd_pwr (d : Dev) (r : Nat) (a : Agent) : (bindProd d r a).pwr = d.pwr := by simp [bindProd]
@[simp] theorem bindProd_sc (d : Dev) (r : Nat) (a : Agent) : (bindProd d r a).sc = d.sc := by simp [bindProd]
@[simp] theorem bindProd_fe (d : Dev) (r : Nat) (a : Agent) : (bindProd d r a).fe = d.fe := by simp [bindProd]
@[simp] theorem bindProd_lr (d : Dev) (r : Nat) (a : Agent) : (bindProd d r a).lr = d.lr := by simp [bindProd]
@[simp] theorem bindProd_tr (d : Dev) (r : Nat) (a : Agent) : (bindProd d r a).tr = d.tr := by simp [bindProd]
@[simp] theorem bindProd_net (d : Dev) (r : Nat) (a : Agent) : (bindProd d r a).net = d.net := by simp [bindProd]
@[simp] theorem bindProd_dict (d : Dev) (r : Nat) (a : Agent) : (bindProd d r a).dict = d.dict := by simp [bindProd]
@[simp] theorem bindProd_test (d : Dev) (r : Nat) (a : Agent) : (bindProd d r a).test = d.test := by simp [bindProd]
@[simp] theorem bindProd_free (d : Dev) (r : Nat) (a : Agent) : (bindProd d r a).free = d.free := by simp [bindProd]

/-! `bindCons` -/
@[simp] theorem bindCons_boot (d : Dev) (r : Nat) (a : Agent) : (bindCons d r a).boot = d.boot := by simp [bindCons]
@[simp] theorem bindCons_time (d : Dev) (r : Nat) (a : Agent) : (bindCons d r a).time = d.time := by simp [bindCons]
@[simp] theorem bindCons_comp (d : Dev) (r : Nat) (a : Agent) : (bindCons d r a).comp = d.comp := by simp [bindCons]
@[simp] theorem bindCons_mem (d : Dev) (r : Nat) (a : Agent) : (bindCons d r a).mem = d.mem := by simp [bindCons]
@[simp] theorem bindCons_disp (d : Dev) (r : Nat) (a : Agent) : (bindCons d r a).disp = d.disp := by simp [bindCons]
@[simp] theorem bindCons_ls (d : Dev) (r : Nat) (a : Agent) : (bindCons d r a).ls = d.ls := by simp [bindCons]
@[simp] theorem bindCons_pwr (d : Dev) (r : Nat) (a : Agent) : (bindCons d r a).pwr = d.pwr := by simp [bindCons]
@[simp] theorem bindCons_sc (d : Dev) (r : Nat) (a : Agent) : (bindCons d r a).sc = d.sc := by simp [bindCons]
@[simp] theorem bindCons_fe (d : Dev) (r : Nat) (a : Agent) : (bindCons d r a).fe = d.fe := by simp [bindCons]
@[simp] theorem bindCons_lr (d : Dev) (r : Nat) (a : Agent) : (bindCons d r a).lr = d.lr := by simp [bindCons]
@[simp] theorem bindCons_tr (d : Dev) (r : Nat) (a : Agent) : (bindCons d r a).tr = d.tr := by simp [bindCons]
@[simp] theorem bindCons_net (d : Dev) (r : Nat) (a : Agent) : (bindCons d r a).net = d.net := by simp [bindCons]
@[simp] theorem bindCons_dict (d : Dev) (r : Nat) (a : Agent) : (bindCons d r a).dict = d.dict := by simp [bindCons]
@[simp] theorem bindCons_test (d : Dev) (r : Nat) (a : Agent) : (bindCons d r a).test = d.test := by simp [bindCons]
@[simp] theorem bindCons_free (d : Dev) (r : Nat) (a : Agent) : (bindCons d r a).free = d.free := by simp [bindCons]

/-! `freeProd` -/
@[simp] theorem freeProd_boot (d : Dev) (r : Nat) (a : Agent) : (freeProd d r a).boot = d.boot := by simp [freeProd]
@[simp] theorem freeProd_time (d : Dev) (r : Nat) (a : Agent) : (freeProd d r a).time = d.time := by simp [freeProd]
@[simp] theorem freeProd_comp (d : Dev) (r : Nat) (a : Agent) : (freeProd d r a).comp = d.comp := by simp [freeProd]
@[simp] theorem freeProd_mem (d : Dev) (r : Nat) (a : Agent) : (freeProd d r a).mem = d.mem := by simp [freeProd]
@[simp] theorem freeProd_disp (d : Dev) (r : Nat) (a : Agent) : (freeProd d r a).disp = d.disp := by simp [freeProd]
@[simp] theorem freeProd_ls (d : Dev) (r : Nat) (a : Agent) : (freeProd d r a).ls = d.ls := by simp [freeProd]
@[simp] theorem freeProd_pwr (d : Dev) (r : Nat) (a : Agent) : (freeProd d r a).pwr = d.pwr := by simp [freeProd]
@[simp] theorem freeProd_sc (d : Dev) (r : Nat) (a : Agent) : (freeProd d r a).sc = d.sc := by simp [freeProd]
@[simp] theorem freeProd_fe (d : Dev) (r : Nat) (a : Agent) : (freeProd d r a).fe = d.fe := by simp [freeProd]
@[simp] theorem freeProd_lr (d : Dev) (r : Nat) (a : Agent) : (freeProd d r a).lr = d.lr := by simp [freeProd]
@[simp] theorem freeProd_tr (d : Dev) (r : Nat) (a : Agent) : (freeProd d r a).tr = d.tr := by simp [freeProd]
@[simp] theorem freeProd_net (d : Dev) (r : Nat) (a : Agent) : (freeProd d r a).net = d.net := by simp [freeProd]
@[simp] theorem freeProd_dict (d : Dev) (r : Nat) (a : Agent) : (freeProd d r a).dict = d.dict := by simp [freeProd]
@[simp] theorem freeProd_test (d : Dev) (r : Nat) (a : Agent) : (freeProd d r a).test = d.test := by simp [freeProd]
@[simp] theorem freeProd_free (d : Dev) (r : Nat) (a : Agent) : (freeProd d r a).free = d.free := by simp [freeProd]

/-! `freeCons` -/
@[simp] theorem freeCons_boot (d : Dev) (r : Nat) (a : Agent) : (freeCons d r a).boot = d.boot := by simp [freeCons]
@[simp] theorem freeCons_time (d : Dev) (r : Nat) (a : Agent) : (freeCons d r a).time = d.time := by simp [freeCons]
@[simp] theorem freeCons_comp (d : Dev) (r : Nat) (a : Agent) : (freeCons d r a).comp = d.comp := by simp [freeCons]
@[simp] theorem freeCons_mem (d : Dev) (r : Nat) (a : Agent) : (freeCons d r a).mem = d.mem := by simp [freeCons]
@[simp] theorem freeCons_disp (d : Dev) (r : Nat) (a : Agent) : (freeCons d r a).disp = d.disp := by simp [freeCons]
@[simp] theorem freeCons_ls (d : Dev) (r : Nat) (a : Agent) : (freeCons d r a).ls = d.ls := by simp [freeCons]
@[simp] theorem freeCons_pwr (d : Dev) (r : Nat) (a : Agent) : (freeCons d r a).pwr = d.pwr := by simp [freeCons]
@[simp] theorem freeCons_sc (d : Dev) (r : Nat) (a : Agent) : (freeCons d r a).sc = d.sc := by simp [freeCons]
@[simp] theorem freeCons_fe (d : Dev) (r : Nat) (a : Agent) : (freeCons d r a).fe = d.fe := by simp [freeCons]
@[simp] theorem freeCons_lr (d : Dev) (r : Nat) (a : Agent) : (freeCons d r a).lr = d.lr := by simp [freeCons]
@[simp] theorem freeCons_tr (d : Dev) (r : Nat) (a : Agent) : (freeCons d r a).tr = d.tr := by simp [freeCons]
@[simp] theorem freeCons_net (d : Dev) (r : Nat) (a : Agent) : (freeCons d r a).net = d.net := by simp [freeCons]
@[simp] theorem freeCons_dict (d : Dev) (r : Nat) (a : Agent) : (freeCons d r a).dict = d.dict := by simp [freeCons]
@[simp] theorem freeCons_test (d : Dev) (r : Nat) (a : Agent) : (freeCons d r a).test = d.test := by simp [freeCons]
@[simp] theorem freeCons_free (d : Dev) (r : Nat) (a : Agent) : (freeCons d r a).free = d.free := by simp [freeCons]

/-! `mgmtCross` -/
@[simp] theorem mgmtCross_boot (d : Dev) (f : DictFrame) : (mgmtCross d f).boot = d.boot := by unfold mgmtCross; split <;> simp
@[simp] theorem mgmtCross_time (d : Dev) (f : DictFrame) : (mgmtCross d f).time = d.time := by unfold mgmtCross; split <;> simp
@[simp] theorem mgmtCross_comp (d : Dev) (f : DictFrame) : (mgmtCross d f).comp = d.comp := by unfold mgmtCross; split <;> simp
@[simp] theorem mgmtCross_mem (d : Dev) (f : DictFrame) : (mgmtCross d f).mem = d.mem := by unfold mgmtCross; split <;> simp
@[simp] theorem mgmtCross_disp (d : Dev) (f : DictFrame) : (mgmtCross d f).disp = d.disp := by unfold mgmtCross; split <;> simp
@[simp] theorem mgmtCross_ls (d : Dev) (f : DictFrame) : (mgmtCross d f).ls = d.ls := by unfold mgmtCross; split <;> simp
@[simp] theorem mgmtCross_pwr (d : Dev) (f : DictFrame) : (mgmtCross d f).pwr = d.pwr := by unfold mgmtCross; split <;> simp
@[simp] theorem mgmtCross_sc (d : Dev) (f : DictFrame) : (mgmtCross d f).sc = d.sc := by unfold mgmtCross; split <;> simp
@[simp] theorem mgmtCross_fe (d : Dev) (f : DictFrame) : (mgmtCross d f).fe = d.fe := by unfold mgmtCross; split <;> simp
@[simp] theorem mgmtCross_lr (d : Dev) (f : DictFrame) : (mgmtCross d f).lr = d.lr := by unfold mgmtCross; split <;> simp
@[simp] theorem mgmtCross_tr (d : Dev) (f : DictFrame) : (mgmtCross d f).tr = d.tr := by unfold mgmtCross; split <;> simp
@[simp] theorem mgmtCross_dict (d : Dev) (f : DictFrame) : (mgmtCross d f).dict = d.dict := by unfold mgmtCross; split <;> simp
@[simp] theorem mgmtCross_test (d : Dev) (f : DictFrame) : (mgmtCross d f).test = d.test := by unfold mgmtCross; split <;> simp
@[simp] theorem mgmtCross_free (d : Dev) (f : DictFrame) : (mgmtCross d f).free = d.free := by unfold mgmtCross; split <;> simp
@[simp] theorem mgmtCross_net (d : Dev) (f : DictFrame) : (mgmtCross d f).net = d.net := by unfold mgmtCross; split <;> simp
@[simp] theorem mgmtCross_haul_rings (d : Dev) (f : DictFrame) : (mgmtCross d f).haul.rings = d.haul.rings := by unfold mgmtCross; split <;> simp

/-! `setSysRing` -/
@[simp] theorem setSysRing_boot (d : Dev) (out lc : Bool) (l : List SysSlot) : (setSysRing d out lc l).boot = d.boot := by cases out <;> cases lc <;> rfl
@[simp] theorem setSysRing_time (d : Dev) (out lc : Bool) (l : List SysSlot) : (setSysRing d out lc l).time = d.time := by cases out <;> cases lc <;> rfl
@[simp] theorem setSysRing_comp (d : Dev) (out lc : Bool) (l : List SysSlot) : (setSysRing d out lc l).comp = d.comp := by cases out <;> cases lc <;> rfl
@[simp] theorem setSysRing_mem (d : Dev) (out lc : Bool) (l : List SysSlot) : (setSysRing d out lc l).mem = d.mem := by cases out <;> cases lc <;> rfl
@[simp] theorem setSysRing_disp (d : Dev) (out lc : Bool) (l : List SysSlot) : (setSysRing d out lc l).disp = d.disp := by cases out <;> cases lc <;> rfl
@[simp] theorem setSysRing_ls (d : Dev) (out lc : Bool) (l : List SysSlot) : (setSysRing d out lc l).ls = d.ls := by cases out <;> cases lc <;> rfl
@[simp] theorem setSysRing_pwr (d : Dev) (out lc : Bool) (l : List SysSlot) : (setSysRing d out lc l).pwr = d.pwr := by cases out <;> cases lc <;> rfl
@[simp] theorem setSysRing_sc (d : Dev) (out lc : Bool) (l : List SysSlot) : (setSysRing d out lc l).sc = d.sc := by cases out <;> cases lc <;> rfl
@[simp] theorem setSysRing_fe (d : Dev) (out lc : Bool) (l : List SysSlot) : (setSysRing d out lc l).fe = d.fe := by cases out <;> cases lc <;> rfl
@[simp] theorem setSysRing_lr (d : Dev) (out lc : Bool) (l : List SysSlot) : (setSysRing d out lc l).lr = d.lr := by cases out <;> cases lc <;> rfl
@[simp] theorem setSysRing_tr (d : Dev) (out lc : Bool) (l : List SysSlot) : (setSysRing d out lc l).tr = d.tr := by cases out <;> cases lc <;> rfl
@[simp] theorem setSysRing_dict (d : Dev) (out lc : Bool) (l : List SysSlot) : (setSysRing d out lc l).dict = d.dict := by cases out <;> cases lc <;> rfl
@[simp] theorem setSysRing_test (d : Dev) (out lc : Bool) (l : List SysSlot) : (setSysRing d out lc l).test = d.test := by cases out <;> cases lc <;> rfl
@[simp] theorem setSysRing_free (d : Dev) (out lc : Bool) (l : List SysSlot) : (setSysRing d out lc l).free = d.free := by cases out <;> cases lc <;> rfl
@[simp] theorem setSysRing_haul (d : Dev) (out lc : Bool) (l : List SysSlot) : (setSysRing d out lc l).haul = d.haul := by cases out <;> cases lc <;> rfl

/-! `sysDrop` -/
@[simp] theorem sysDrop_boot (d : Dev) (out lc : Bool) (num : Nat) : (sysDrop d out lc num).boot = d.boot := by simp [sysDrop]
@[simp] theorem sysDrop_time (d : Dev) (out lc : Bool) (num : Nat) : (sysDrop d out lc num).time = d.time := by simp [sysDrop]
@[simp] theorem sysDrop_comp (d : Dev) (out lc : Bool) (num : Nat) : (sysDrop d out lc num).comp = d.comp := by simp [sysDrop]
@[simp] theorem sysDrop_mem (d : Dev) (out lc : Bool) (num : Nat) : (sysDrop d out lc num).mem = d.mem := by simp [sysDrop]
@[simp] theorem sysDrop_disp (d : Dev) (out lc : Bool) (num : Nat) : (sysDrop d out lc num).disp = d.disp := by simp [sysDrop]
@[simp] theorem sysDrop_ls (d : Dev) (out lc : Bool) (num : Nat) : (sysDrop d out lc num).ls = d.ls := by simp [sysDrop]
@[simp] theorem sysDrop_pwr (d : Dev) (out lc : Bool) (num : Nat) : (sysDrop d out lc num).pwr = d.pwr := by simp [sysDrop]
@[simp] theorem sysDrop_sc (d : Dev) (out lc : Bool) (num : Nat) : (sysDrop d out lc num).sc = d.sc := by simp [sysDrop]
@[simp] theorem sysDrop_fe (d : Dev) (out lc : Bool) (num : Nat) : (sysDrop d out lc num).fe = d.fe := by simp [sysDrop]
@[simp] theorem sysDrop_lr (d : Dev) (out lc : Bool) (num : Nat) : (sysDrop d out lc num).lr = d.lr := by simp [sysDrop]
@[simp] theorem sysDrop_tr (d : Dev) (out lc : Bool) (num : Nat) : (sysDrop d out lc num).tr = d.tr := by simp [sysDrop]
@[simp] theorem sysDrop_dict (d : Dev) (out lc : Bool) (num : Nat) : (sysDrop d out lc num).dict = d.dict := by simp [sysDrop]
@[simp] theorem sysDrop_test (d : Dev) (out lc : Bool) (num : Nat) : (sysDrop d out lc num).test = d.test := by simp [sysDrop]
@[simp] theorem sysDrop_free (d : Dev) (out lc : Bool) (num : Nat) : (sysDrop d out lc num).free = d.free := by simp [sysDrop]
@[simp] theorem sysDrop_haul (d : Dev) (out lc : Bool) (num : Nat) : (sysDrop d out lc num).haul = d.haul := by simp [sysDrop]

/-! `sysArrive` -/
@[simp] theorem sysArrive_boot (d : Dev) (out lc : Bool) (num : Nat) : (sysArrive d out lc num).boot = d.boot := by simp [sysArrive]
@[simp] theorem sysArrive_time (d : Dev) (out lc : Bool) (num : Nat) : (sysArrive d out lc num).time = d.time := by simp [sysArrive]
@[simp] theorem sysArrive_comp (d : Dev) (out lc : Bool) (num : Nat) : (sysArrive d out lc num).comp = d.comp := by simp [sysArrive]
@[simp] theorem sysArrive_mem (d : Dev) (out lc : Bool) (num : Nat) : (sysArrive d out lc num).mem = d.mem := by simp [sysArrive]
@[simp] theorem sysArrive_disp (d : Dev) (out lc : Bool) (num : Nat) : (sysArrive d out lc num).disp = d.disp := by simp [sysArrive]
@[simp] theorem sysArrive_ls (d : Dev) (out lc : Bool) (num : Nat) : (sysArrive d out lc num).ls = d.ls := by simp [sysArrive]
@[simp] theorem sysArrive_pwr (d : Dev) (out lc : Bool) (num : Nat) : (sysArrive d out lc num).pwr = d.pwr := by simp [sysArrive]
@[simp] theorem sysArrive_sc (d : Dev) (out lc : Bool) (num : Nat) : (sysArrive d out lc num).sc = d.sc := by simp [sysArrive]
@[simp] theorem sysArrive_fe (d : Dev) (out lc : Bool) (num : Nat) : (sysArrive d out lc num).fe = d.fe := by simp [sysArrive]
@[simp] theorem sysArrive_lr (d : Dev) (out lc : Bool) (num : Nat) : (sysArrive d out lc num).lr = d.lr := by simp [sysArrive]
@[simp] theorem sysArrive_tr (d : Dev) (out lc : Bool) (num : Nat) : (sysArrive d out lc num).tr = d.tr := by simp [sysArrive]
@[simp] theorem sysArrive_dict (d : Dev) (out lc : Bool) (num : Nat) : (sysArrive d out lc num).dict = d.dict := by simp [sysArrive]
@[simp] theorem sysArrive_test (d : Dev) (out lc : Bool) (num : Nat) : (sysArrive d out lc num).test = d.test := by simp [sysArrive]
@[simp] theorem sysArrive_free (d : Dev) (out lc : Bool) (num : Nat) : (sysArrive d out lc num).free = d.free := by simp [sysArrive]
@[simp] theorem sysArrive_haul (d : Dev) (out lc : Bool) (num : Nat) : (sysArrive d out lc num).haul = d.haul := by simp [sysArrive]

/-! `sysGive` -/
@[simp] theorem sysGive_boot (d : Dev) (out lc : Bool) (num : Nat) : (sysGive d out lc num).boot = d.boot := by simp [sysGive]
@[simp] theorem sysGive_time (d : Dev) (out lc : Bool) (num : Nat) : (sysGive d out lc num).time = d.time := by simp [sysGive]
@[simp] theorem sysGive_comp (d : Dev) (out lc : Bool) (num : Nat) : (sysGive d out lc num).comp = d.comp := by simp [sysGive]
@[simp] theorem sysGive_mem (d : Dev) (out lc : Bool) (num : Nat) : (sysGive d out lc num).mem = d.mem := by simp [sysGive]
@[simp] theorem sysGive_disp (d : Dev) (out lc : Bool) (num : Nat) : (sysGive d out lc num).disp = d.disp := by simp [sysGive]
@[simp] theorem sysGive_ls (d : Dev) (out lc : Bool) (num : Nat) : (sysGive d out lc num).ls = d.ls := by simp [sysGive]
@[simp] theorem sysGive_pwr (d : Dev) (out lc : Bool) (num : Nat) : (sysGive d out lc num).pwr = d.pwr := by simp [sysGive]
@[simp] theorem sysGive_sc (d : Dev) (out lc : Bool) (num : Nat) : (sysGive d out lc num).sc = d.sc := by simp [sysGive]
@[simp] theorem sysGive_fe (d : Dev) (out lc : Bool) (num : Nat) : (sysGive d out lc num).fe = d.fe := by simp [sysGive]
@[simp] theorem sysGive_lr (d : Dev) (out lc : Bool) (num : Nat) : (sysGive d out lc num).lr = d.lr := by simp [sysGive]
@[simp] theorem sysGive_tr (d : Dev) (out lc : Bool) (num : Nat) : (sysGive d out lc num).tr = d.tr := by simp [sysGive]
@[simp] theorem sysGive_dict (d : Dev) (out lc : Bool) (num : Nat) : (sysGive d out lc num).dict = d.dict := by simp [sysGive]
@[simp] theorem sysGive_test (d : Dev) (out lc : Bool) (num : Nat) : (sysGive d out lc num).test = d.test := by simp [sysGive]
@[simp] theorem sysGive_free (d : Dev) (out lc : Bool) (num : Nat) : (sysGive d out lc num).free = d.free := by simp [sysGive]

/-! `modRx` -/
@[simp] theorem modRx_boot (d : Dev) (n : Nat) (lc : Bool) (f : RxStream → RxStream) : (modRx d n lc f).boot = d.boot := rfl
@[simp] theorem modRx_time (d : Dev) (n : Nat) (lc : Bool) (f : RxStream → RxStream) : (modRx d n lc f).time = d.time := rfl
@[simp] theorem modRx_comp (d : Dev) (n : Nat) (lc : Bool) (f : RxStream → RxStream) : (modRx d n lc f).comp = d.comp := rfl
@[simp] theorem modRx_mem (d : Dev) (n : Nat) (lc : Bool) (f : RxStream → RxStream) : (modRx d n lc f).mem = d.mem := rfl
@[simp] theorem modRx_disp (d : Dev) (n : Nat) (lc : Bool) (f : RxStream → RxStream) : (modRx d n lc f).disp = d.disp := rfl
@[simp] theorem modRx_ls (d : Dev) (n : Nat) (lc : Bool) (f : RxStream → RxStream) : (modRx d n lc f).ls = d.ls := rfl
@[simp] theorem modRx_pwr (d : Dev) (n : Nat) (lc : Bool) (f : RxStream → RxStream) : (modRx d n lc f).pwr = d.pwr := rfl
@[simp] theorem modRx_sc (d : Dev) (n : Nat) (lc : Bool) (f : RxStream → RxStream) : (modRx d n lc f).sc = d.sc := rfl
@[simp] theorem modRx_fe (d : Dev) (n : Nat) (lc : Bool) (f : RxStream → RxStream) : (modRx d n lc f).fe = d.fe := rfl
@[simp] theorem modRx_lr (d : Dev) (n : Nat) (lc : Bool) (f : RxStream → RxStream) : (modRx d n lc f).lr = d.lr := rfl
@[simp] theorem modRx_tr (d : Dev) (n : Nat) (lc : Bool) (f : RxStream → RxStream) : (modRx d n lc f).tr = d.tr := rfl
@[simp] theorem modRx_dict (d : Dev) (n : Nat) (lc : Bool) (f : RxStream → RxStream) : (modRx d n lc f).dict = d.dict := rfl
@[simp] theorem modRx_test (d : Dev) (n : Nat) (lc : Bool) (f : RxStream → RxStream) : (modRx d n lc f).test = d.test := rfl
@[simp] theorem modRx_free (d : Dev) (n : Nat) (lc : Bool) (f : RxStream → RxStream) : (modRx d n lc f).free = d.free := rfl
@[simp] theorem modRx_haul (d : Dev) (n : Nat) (lc : Bool) (f : RxStream → RxStream) : (modRx d n lc f).haul = d.haul := rfl

/-! `modTx` -/
@[simp] theorem modTx_boot (d : Dev) (n : Nat) (lc : Bool) (f : TxStream → TxStream) : (modTx d n lc f).boot = d.boot := rfl
@[simp] theorem modTx_time (d : Dev) (n : Nat) (lc : Bool) (f : TxStream → TxStream) : (modTx d n lc f).time = d.time := rfl
@[simp] theorem modTx_comp (d : Dev) (n : Nat) (lc : Bool) (f : TxStream → TxStream) : (modTx d n lc f).comp = d.comp := rfl
@[simp] theorem modTx_mem (d : Dev) (n : Nat) (lc : Bool) (f : TxStream → TxStream) : (modTx d n lc f).mem = d.mem := rfl
@[simp] theorem modTx_disp (d : Dev) (n : Nat) (lc : Bool) (f : TxStream → TxStream) : (modTx d n lc f).disp = d.disp := rfl
@[simp] theorem modTx_ls (d : Dev) (n : Nat) (lc : Bool) (f : TxStream → TxStream) : (modTx d n lc f).ls = d.ls := rfl
@[simp] theorem modTx_pwr (d : Dev) (n : Nat) (lc : Bool) (f : TxStream → TxStream) : (modTx d n lc f).pwr = d.pwr := rfl
@[simp] theorem modTx_sc (d : Dev) (n : Nat) (lc : Bool) (f : TxStream → TxStream) : (modTx d n lc f).sc = d.sc := rfl
@[simp] theorem modTx_fe (d : Dev) (n : Nat) (lc : Bool) (f : TxStream → TxStream) : (modTx d n lc f).fe = d.fe := rfl
@[simp] theorem modTx_lr (d : Dev) (n : Nat) (lc : Bool) (f : TxStream → TxStream) : (modTx d n lc f).lr = d.lr := rfl
@[simp] theorem modTx_tr (d : Dev) (n : Nat) (lc : Bool) (f : TxStream → TxStream) : (modTx d n lc f).tr = d.tr := rfl
@[simp] theorem modTx_dict (d : Dev) (n : Nat) (lc : Bool) (f : TxStream → TxStream) : (modTx d n lc f).dict = d.dict := rfl
@[simp] theorem modTx_test (d : Dev) (n : Nat) (lc : Bool) (f : TxStream → TxStream) : (modTx d n lc f).test = d.test := rfl
@[simp] theorem modTx_free (d : Dev) (n : Nat) (lc : Bool) (f : TxStream → TxStream) : (modTx d n lc f).free = d.free := rfl
@[simp] theorem modTx_haul (d : Dev) (n : Nat) (lc : Bool) (f : TxStream → TxStream) : (modTx d n lc f).haul = d.haul := rfl

/-- What a system ring holds after it is replaced. -/
@[simp] theorem sysRing_setSysRing (d : Dev) (out lc : Bool) (l : List SysSlot) : sysRing (setSysRing d out lc l) out lc = l := by
  cases out <;> cases lc <;> rfl
/-- Replacing a system ring leaves the others. -/
theorem sysRing_setSysRing_ne (d : Dev) {out lc out' lc' : Bool} (l : List SysSlot) (h : (out, lc) ≠ (out', lc')) :
    sysRing (setSysRing d out lc l) out' lc' = sysRing d out' lc' := by
  cases out <;> cases lc <;> cases out' <;> cases lc' <;> first | rfl | exact absurd rfl h

end Sys2Proof.Machine
end

