-- ==== Sys2Proof/Laws/Memory.lean ====
section
/-!
SUPPORT. Laws/Memory.lean: every memory operation keeps the canonical form, and what bytes read after a store.
-/
namespace Sys2Proof.Machine
open Sys2Proof

/-- The canonical form: keys rise strictly, and no listed byte is zero. -/
theorem Memory.wf_iff (m : List Host.Cell) :
    Memory.wf m = true ↔ m.Pairwise (fun a b => a.1 < b.1) ∧ ∀ c ∈ m, c.2 ≠ 0 := by
  induction m with
  | nil => simp [Memory.wf]
  | cons a t ih =>
    cases t with
    | nil => simp [Memory.wf]
    | cons b u =>
      simp only [Memory.wf, Bool.and_eq_true, decide_eq_true_eq, bne_iff_ne, ih]
      constructor
      · rintro ⟨⟨h1, h2⟩, h3, h4⟩
        refine ⟨List.pairwise_cons.2 ⟨?_, h3⟩, ?_⟩
        · intro c hc
          rcases List.mem_cons.1 hc with rfl | hc
          · exact h1
          · exact Nat.lt_trans h1 ((List.pairwise_cons.1 h3).1 c hc)
        · intro c hc
          rcases List.mem_cons.1 hc with rfl | hc
          · exact h2
          · exact h4 c hc
      · rintro ⟨h1, h2⟩
        exact ⟨⟨(List.pairwise_cons.1 h1).1 b (by simp), h2 a (by simp)⟩, (List.pairwise_cons.1 h1).2,
          fun c hc => h2 c (by simp [hc])⟩

/-- A cell of the list after a store is the stored one or was there. -/
theorem mem_cellPut {m : List Host.Cell} {k : Nat} {v : BitVec 8} {c : Host.Cell} (h : c ∈ cellPut m k v) :
    (c = (k, v) ∧ v ≠ 0) ∨ c ∈ m := by
  induction m with
  | nil =>
    simp only [cellPut] at h
    split at h <;> simp_all
  | cons a t ih =>
    simp only [cellPut] at h
    split at h
    · split at h
      · exact .inr h
      · rcases List.mem_cons.1 h with rfl | h
        · exact .inl ⟨rfl, by assumption⟩
        · exact .inr h
    · split at h
      · split at h
        · exact .inr (by simp [h])
        · rcases List.mem_cons.1 h with rfl | h
          · exact .inl ⟨rfl, by assumption⟩
          · exact .inr (by simp [h])
      · rcases List.mem_cons.1 h with rfl | h
        · exact .inr (by simp)
        · rcases ih h with h | h
          · exact .inl h
          · exact .inr (by simp [h])

/-- A store keeps the canonical form. -/
theorem Memory.wf_cellPut {m : List Host.Cell} (k : Nat) (v : BitVec 8) (h : Memory.wf m = true) :
    Memory.wf (cellPut m k v) = true := by
  rw [Memory.wf_iff] at h ⊢
  refine ⟨?_, fun c hc => ?_⟩
  · obtain ⟨hp, -⟩ := h
    induction m with
    | nil => simp only [cellPut]; split <;> simp
    | cons a t ih =>
      obtain ⟨h1, h2⟩ := List.pairwise_cons.1 hp
      have below : ∀ {x : Nat}, x ≤ a.1 → ∀ c ∈ t, x < c.1 := fun hx c hc => Nat.lt_of_le_of_lt hx (h1 c hc)
      simp only [cellPut]
      split
      · split
        · exact hp
        · refine List.pairwise_cons.2 ⟨fun c hc => ?_, hp⟩
          rcases List.mem_cons.1 hc with rfl | hc
          · assumption
          · exact below (by omega) c hc
      · split
        · split
          · exact h2
          · exact List.pairwise_cons.2 ⟨fun c hc => below (by omega) c hc, h2⟩
        · refine List.pairwise_cons.2 ⟨fun c hc => ?_, ih h2⟩
          rcases mem_cellPut hc with ⟨rfl, -⟩ | hc
          · simp only; omega
          · exact h1 c hc
  · rcases mem_cellPut hc with ⟨rfl, hv⟩ | hc
    · exact hv
    · exact h.2 c hc

/-- Stores of bytes keep the canonical form. -/
theorem Memory.wf_cellsPut {m : List Host.Cell} (k : Nat) (bs : Bytes) (h : Memory.wf m = true) :
    Memory.wf (cellsPut m k bs) = true := by
  induction bs generalizing m k with
  | nil => exact h
  | cons b bs ih => exact ih _ (Memory.wf_cellPut k b h)

/-- Bytes dropped keep the canonical form. -/
theorem Memory.wf_cellsDrop {m : List Host.Cell} (lo hi : Nat) (h : Memory.wf m = true) :
    Memory.wf (cellsDrop m lo hi) = true := by
  rw [Memory.wf_iff] at h ⊢
  exact ⟨h.1.filter _, fun c hc => h.2 c (List.mem_filter.1 hc).1⟩

/-- A byte beyond the first key of the canonical form reads as zero before it. -/
theorem cellGet_below {m : List Host.Cell} {k : Nat} (h : ∀ c ∈ m, k < c.1) : cellGet m k = 0 := by
  induction m with
  | nil => rfl
  | cons a t ih =>
    have h1 : k < a.1 := h a (by simp)
    have : ¬ a.1 = k := by omega
    simp only [cellGet, this, if_false]
    exact ih fun c hc => h c (by simp [hc])

/-- What a byte reads after a store. -/
theorem cellGet_cellPut {m : List Host.Cell} (k : Nat) (v : BitVec 8) (j : Nat) (h : Memory.wf m = true) :
    cellGet (cellPut m k v) j = if j = k then v else cellGet m j := by
  obtain ⟨hp, -⟩ := (Memory.wf_iff m).1 h
  clear h
  induction m with
  | nil =>
    simp only [cellPut]
    split
    · rename_i hv; subst hv; simp [cellGet]
    · simp only [cellGet, @eq_comm _ k j]
  | cons a t ih =>
    obtain ⟨h1, h2⟩ := List.pairwise_cons.1 hp
    have e : (k = j) = (j = k) := propext eq_comm
    simp only [cellPut]
    split
    · rename_i hk
      have hz : cellGet ((a.1, a.2) :: t) k = 0 := cellGet_below fun c hc => by
        rcases List.mem_cons.1 hc with rfl | hc
        · exact hk
        · exact Nat.lt_trans hk (h1 c hc)
      split
      · rename_i hv
        split
        · rename_i hj; subst hj; rw [hv]; exact hz
        · rfl
      · simp only [cellGet, e]
    · split
      · rename_i hk
        subst hk
        have hz : cellGet t a.1 = 0 := cellGet_below h1
        split
        · rename_i hv
          split
          · rename_i hj; subst hj; rw [hv]; exact hz
          · rename_i hj
            have : ¬ a.1 = j := fun e => hj e.symm
            simp [cellGet, this]
        · by_cases hj : j = a.1
          · subst hj; simp [cellGet]
          · have : ¬ a.1 = j := fun e => hj e.symm
            simp [cellGet, hj, this]
      · by_cases ha : a.1 = j
        · have : ¬ j = k := by omega
          simp [cellGet, ha, this]
        · simp [cellGet, ha, ih h2]

/-- What a byte reads after bytes are stored from a key on. -/
theorem cellGet_cellsPut {m : List Host.Cell} (k : Nat) (bs : Bytes) (j : Nat) (h : Memory.wf m = true) :
    cellGet (cellsPut m k bs) j = if k ≤ j ∧ j < k + bs.length then bs.getD (j - k) 0 else cellGet m j := by
  induction bs generalizing m k with
  | nil =>
    have : ¬ (k ≤ j ∧ j < k + ([] : Bytes).length) := by simp only [List.length_nil]; omega
    rw [if_neg this]; rfl
  | cons b bs ih =>
    simp only [cellsPut, ih _ (Memory.wf_cellPut k b h), cellGet_cellPut k b j h, List.length_cons]
    by_cases e : j = k
    · subst e
      rw [if_neg (by omega), if_pos rfl, if_pos (by omega)]
      simp
    · by_cases r : k + 1 ≤ j ∧ j < k + 1 + bs.length
      · rw [if_pos r, if_pos (by omega)]
        have : j - k = (j - (k + 1)) + 1 := by omega
        rw [this]; simp
      · rw [if_neg r, if_neg e, if_neg (by omega)]

/-! ### The operations of the device -/

theorem memWrite_wf (d : Dev) (ctx va : Nat) (bs : Bytes) (spoil : Bool) (h : Memory.wf d.mem.cells = true) :
    Memory.wf (memWrite d ctx va bs spoil).mem.cells = true := Memory.wf_cellsPut _ _ h
theorem memSpoilBlock_wf (d : Dev) (ctx va : Nat) (h : Memory.wf d.mem.cells = true) :
    Memory.wf (memSpoilBlock d ctx va).mem.cells = true := Memory.wf_cellsDrop _ _ h
theorem memSpoilPage_wf (d : Dev) (ctx p : Nat) (h : Memory.wf d.mem.cells = true) :
    Memory.wf (memSpoilPage d ctx p).mem.cells = true := Memory.wf_cellsDrop _ _ h
theorem memClearPage_wf (d : Dev) (ctx p : Nat) (h : Memory.wf d.mem.cells = true) :
    Memory.wf (memClearPage d ctx p).mem.cells = true := Memory.wf_cellsDrop _ _ h
theorem slotWrite_wf (d : Dev) (r k off : Nat) (bs : Bytes) (spoil : Bool) (h : Memory.wf d.haul.cells = true) :
    Memory.wf (slotWrite d r k off bs spoil).haul.cells = true := Memory.wf_cellsPut _ _ h
theorem slotClear_wf (d : Dev) (r k : Nat) (h : Memory.wf d.haul.cells = true) :
    Memory.wf (slotClear d r k).haul.cells = true := Memory.wf_cellsDrop _ _ h
theorem slotSpoilRest_wf (d : Dev) (r k off size : Nat) (h : Memory.wf d.haul.cells = true) :
    Memory.wf (slotSpoilRest d r k off size).haul.cells = true := Memory.wf_cellsDrop _ _ h

/-- Reset memory has the canonical form. -/
theorem reset_memory_wf : Memory.wf State.reset.dev.mem.cells = true ∧ Memory.wf State.reset.dev.haul.cells = true := by
  decide

end Sys2Proof.Machine
end

