-- ==== Sys2Proof/Laws/Steps.lean ====
section
/-!
SUPPORT. Laws/Steps.lean: what the shared operations that carry out commands do: a command on the device, the head of a queue, a
request of a session, an instruction of a core.
-/
namespace Sys2Proof.Machine
open Sys2Proof

/-! ### Commands on the device -/

/-- A command on existing units answers the device it leaves, settled. -/
theorem runDev_next (s : State) (f : Dev → Dev) {ok : Bool} (h : ok = true) :
    runDev ok s f = .next { s with dev := settle (f s.dev) } := by simp [runDev, onDev, h]

/-- A command on units that do not exist faults. -/
theorem runDev_fault (s : State) (f : Dev → Dev) {ok : Bool} (h : ok = false) : runDev ok s f = .fault .noSuchUnit := by
  simp [runDev, onDev, h]

/-- Whatever a command on the device answers next, it leaves the waiting commands and the trust state. -/
theorem runDev_frame {s t : State} {f : Dev → Dev} {ok : Bool} (h : runDev ok s f = .next t) :
    t.pending = s.pending ∧ t.trust = s.trust := by
  cases ok with
  | true => simp only [runDev, onDev, if_true, Host.Outcome.next.injEq] at h; subst h; exact ⟨rfl, rfl⟩
  | false => simp [runDev, onDev] at h

/-! ### Heads -/

/-- A head that is ready and passes its family's checks is carried out. -/
theorem withHead_run {d : Dev} {q : Nat} {h : Head} (f : Family) (r : HeadReady d q h f.invalid) (op : hOpcode h.desc = f.op)
    (known : opcodes.contains f.op = true) (sub : f.sub h.desc = true) (check : f.check d h = none) (now : f.ready d h = true) :
    withHead d q f = f.run (sendDesc d h) h := by
  obtain ⟨-, h2, h3, h4, h5, h6, h7, h8⟩ := r
  have road : (onSignalDie d h.desc && !canCross d .ts h.lc) = false := by
    cases e : onSignalDie d h.desc
    · rfl
    · simp [h7 e]
  unfold withHead
  simp only [h2, h3, h4, op, known, sub, h5, h6, h8, check, now, road]
  simp

/-- The head of another descriptor leaves the device. -/
theorem withHead_other {d : Dev} {q : Nat} {h : Head} (f : Family) (head : headOf d q = some h)
    (known : opcodes.contains (hOpcode h.desc) = true) (other : hOpcode h.desc ≠ f.op ∨ f.sub h.desc = false) :
    withHead d q f = d := by
  unfold withHead
  simp only [head, known]
  split
  · rfl
  · rw [if_neg (by simp), if_pos]
    rcases other with h | h <;> simp [h]

/-! ### Requests of a session -/

/-- The next request of a session does what its row says. -/
theorem dictServe_turn {s : State} {f : DictFrame} {d : Dev} {x : Session} (h : Turn s f d x)
    (op : State → DictFrame → Session → Served) : dictServe s f op = dictFinish f (op { s with dev := d } f x) := by
  obtain ⟨-, hb, hn, ⟨r, y, hr, hy, hx, hd⟩, hseq⟩ := h
  have hs : f.seq = (y.seq + 1) % 2 ^ 32 := by rw [hseq, hx]
  have e1 : ¬ f.seq = y.seq := by rw [hs]; omega
  unfold dictServe
  rw [hr]
  simp only [hb, hn, if_true, if_false, hy, Bool.false_eq_true, Bool.not_true]
  rw [← hx, ← hd, if_neg e1, if_neg (by simpa using hs)]

/-- A row's next request answers what its effect comes to. -/
theorem dictRow_turn {s : State} {f : DictFrame} {d : Dev} {x : Session} (h : Turn s f d x)
    (op : State → DictFrame → Session → Served) {mine : Bool} (hm : mine = true) :
    dictRow s f mine op = .next (answered f (op { s with dev := d } f x)) := by
  unfold dictRow
  rw [h.frame, hm, dictServe_turn h]
  rfl

/-- One frame that writes a whole value: refused by the rule's check, or applied. -/
theorem opWrite_whole {s : State} {f : DictFrame} {d : Dev} {x : Session} {i n : Nat} (h : Writes s f d x i n)
    (rule : WriteRule) :
    opWrite rule { s with dev := d } f x = match rule.check { s with dev := d } n f.payload with
      | some c => served c { x with staged := none } { s with dev := d }
      | none => servedOk { x with staged := none } (rule.apply { s with dev := mgmtCross d f } n f.payload) := by
  obtain ⟨-, -, h1, h2, h3, h4, -, ⟨e, he1, he2, he3⟩⟩ := h
  have hs : segmentCode { s with dev := d } f x = none := by simp [segmentCode, h1, h2, h3]
  unfold opWrite
  rw [hs]
  simp only [he1, segmentValue, h1, if_true]
  cases hk : typeLen e.ty with
  | none => simp [h4, he2] <;> rfl
  | some k => simp [h4, he2, he3 k hk] <;> rfl

/-- A write that passes its rule's check. -/
theorem dictRow_write {s : State} {f : DictFrame} {d : Dev} {x : Session} {i n : Nat} (h : Writes s f d x i n)
    (rule : WriteRule) {mine : Bool} (hm : mine = true) (hc : rule.check { s with dev := d } n f.payload = none) :
    dictRow s f mine (opWrite rule) = .next (done f x (rule.apply { s with dev := mgmtCross d f } n f.payload)) := by
  rw [dictRow_turn h.toTurn _ hm, opWrite_whole h rule, hc]; rfl

/-- A write that its rule's check refuses. -/
theorem dictRow_refused {s : State} {f : DictFrame} {d : Dev} {x : Session} {i n c : Nat} (h : Writes s f d x i n)
    (rule : WriteRule) {mine : Bool} (hm : mine = true) (hc : rule.check { s with dev := d } n f.payload = some c) :
    dictRow s f mine (opWrite rule) = .next (answered f (served c { x with staged := none } { s with dev := d })) := by
  rw [dictRow_turn h.toTurn _ hm, opWrite_whole h rule, hc]

/-- A whole write to index `i` is the row's of that index. -/
theorem writesTo_of_writes {s : State} {f : DictFrame} {d : Dev} {x : Session} {i n : Nat} (h : Writes s f d x i n) :
    writesTo f i = true := by simp [writesTo, h.write, h.last, h.index]

/-! ### Instructions -/

/-- Moving past an instruction keeps the operation of an instance. -/
@[simp] theorem passed_op (i : Inst) (e : Nat) : (passed i e).op = i.op := by
  unfold passed bodyEnd
  split
  · split
    · split
      · rfl
      · simp only; split <;> rfl
    · rfl
  · rfl

@[simp] theorem loopExit_op (i : Inst) : (loopExit i).op = i.op := by
  unfold loopExit
  split <;> simp

@[simp] theorem flushLoops_op (n : Nat) (i : Inst) : (flushLoops n i).op = i.op := by
  induction n generalizing i with
  | zero => rfl
  | succ n ih => simp only [flushLoops]; split <;> simp [ih]

/-- No memory check is due at a core whose instance has come to none of its failing words (R347). -/
theorem memoryCheck_none {d : Dev} {n : Nat} {i : Inst} (h : running d n = some i) (hf : ∀ e ∈ i.fails, i.cycles < e.1) :
    memoryCheck d n = d := by
  have : i.fails.filter (fun e => e.1 ≤ i.cycles) = [] := by
    rw [List.filter_eq_nil_iff]
    intro e he
    simpa using hf e he
  simp [memoryCheck, h, this]

/-- A legal next word of a core's instance, when it is the one commanded, does what it says. -/
theorem runInstr_word {s : State} {n : Nat} {i : Inst} {o : Op} {w cls op : Nat} (h : NextWord s.dev n i o w)
    (hc : wClass w = cls) (ho : wOp w = op) (halt : ¬ (cls = 2 ∧ op = 5)) :
    runInstr s.dev n cls op = match runWord s.dev i o w with
      | .error r => instFault s.dev n i r
      | .ok (d, none) => d
      | .ok (d, some j) => instDone d n o i j w := by
  obtain ⟨-, ⟨j, hj, rfl, hm⟩, h3, h4, h5, h6⟩ := h
  simp only [flushLoops_op] at h3
  have hr : (wClass w != cls || wOp w != op) = false := by simp [hc, ho]
  have hh : (decide (wClass w = 2) && decide (wOp w = 5)) = false := by
    rw [hc, ho, ← Bool.decide_and]; exact decide_eq_false halt
  unfold runInstr
  rw [memoryCheck_none hj hm]
  simp only [hj, h3, h4, h5, h6, hr, hh, Bool.false_eq_true, if_false] <;> rfl

end Sys2Proof.Machine
end

