-- ==== Sys2Proof/Tests/Slice0.lean ====
section
/-!
SUPPORT. Tests/Slice0.lean: the model's own tests: ill-formed commands, small steps, and for the statements' hypotheses states and
operands that meet them.
-/
namespace Sys2Proof.Tests
set_option Elab.async false
open Sys2Proof Sys2Proof.Machine

/-! ### Small states -/

/-- A descriptor from fields given as first bit and value. -/
def dsc (fs : List (Nat × Nat)) : Desc := BitVec.ofNat 512 (fs.foldl (fun a e => a + e.2 * 2 ^ e.1) 0)

/-- A device in service with every bench READY and its logical benches at home. -/
def up : Dev :=
  { Dev.reset with
    boot := { BootSt.reset with phase := .up, step := 6, pllLocked := true, lbenches := 16 },
    comp := { CompSt.reset with bench := List.replicate 16 ⟨0, 1⟩, map := List.range 16 },
    mem := { MemSt.reset with chanPages := 65536 } }

/-- Queue 0 of the ACTIVE context 0 with a descriptor at its head. -/
def headed (d : Dev) (fs : List (Nat × Nat)) : Dev :=
  setQueue (setCtx d 0 { ctxDefault 0 with reg := ⟨1, 2⟩ }) 0 { queueDefault with descs := [(0, dsc fs)], tail := 1 }

/-- A state with no command waiting. -/
def st (d : Dev) : State := { pending := [], trust := Trust.reset, dev := d }

/-- The device a command leaves, if it answers a next state. -/
def after (c : Instr) (d : Dev) : Option Dev := match exec c (st d) with | .next t => some t.dev | _ => none

/-- A ring of context 0 with four slots of 2,048 bytes on the signal die. -/
def ring0 : Ring := rgNew ⟨0, 0, false, dsc [(8 * 28, 4), (8 * 30, 8)], 0⟩

/-! ### Finding what a statement's hypotheses ask for -/

/-- Whether the head of a queue is ready and satisfies `p`. -/
def readyB (d : Dev) (q inv : Nat) (p : Head → Bool) : Bool :=
  match headOf d q with
  | none => false
  | some h =>
    decide (q < 16384) && decide ((ctxOf d h.ctx).reg.st = ctxActive) && !layerHolds d h.ctx q && headerReason d h inv == none
      && waitMet d h.desc && !(onSignalDie d h.desc && !canCross d .ts h.lc) && gateReason d h.desc == none && p h

/-- A ready head that satisfies `p`. -/
def HasHead (d : Dev) (q inv : Nat) (p : Head → Bool) : Prop := ∃ h, HeadReady d q h inv ∧ p h = true
theorem ready_of {d : Dev} {q inv : Nat} {p : Head → Bool} (e : readyB d q inv p = true) : HasHead d q inv p := by
  unfold readyB at e
  cases hh : headOf d q with
  | none => rw [hh] at e; cases e
  | some h =>
    rw [hh] at e
    simp only [Bool.and_eq_true, decide_eq_true_eq, Bool.not_eq_true', beq_iff_eq] at e
    obtain ⟨⟨⟨⟨⟨⟨⟨h1, h2⟩, h3⟩, h4⟩, h5⟩, h6⟩, h7⟩, h8⟩ := e
    refine ⟨h, ⟨h1, hh, h2, h3, h4, h5, fun hs => ?_, h7⟩, h8⟩
    rw [hs, Bool.true_and, Bool.not_eq_false'] at h6; exact h6

/-- The device and session of a session's next request. -/
def turnOf (s : State) (f : DictFrame) : Option (Dev × Session) :=
  let r := receive s.dev f.eth (dictMine s.dev f.eth)
  if dictFrameOk f && !badFrame f && f.type != 1 && r.1 then
    let d := dictCrcPassed r.2 f.eth.port
    match tfind d.dict.sessions f.session with
    | none => none
    | some y =>
      let x := { y with heard := d.time.ticks }
      if f.seq = (x.seq + 1) % 2 ^ 32 then
        some ({ d with dict := { d.dict with sessions := tset d.dict.sessions f.session x } }, x)
      else none
  else none

theorem turn_of {s : State} {f : DictFrame} {d : Dev} {x : Session} (e : turnOf s f = some (d, x)) : Turn s f d x := by
  unfold turnOf at e
  simp only at e
  split at e
  · rename_i h
    simp only [Bool.and_eq_true, Bool.not_eq_true', bne_iff_ne, ne_eq] at h
    obtain ⟨⟨⟨h1, h2⟩, h3⟩, h4⟩ := h
    split at e
    · cases e
    · rename_i y hy
      split at e
      · rename_i hs
        simp only [Option.some.injEq, Prod.mk.injEq] at e
        obtain ⟨rfl, rfl⟩ := e
        exact ⟨h1, h2, h3, ⟨_, y, Prod.ext h4 rfl, hy, rfl, rfl⟩, hs⟩
      · cases e
  · cases e

/-- Whether a session's next request satisfies `p`. -/
def turnB (s : State) (f : DictFrame) (p : Dev → Session → Bool) : Bool :=
  match turnOf s f with
  | some e => p e.1 e.2
  | none => false

/-- A next request that satisfies `p`. -/
def HasTurn (s : State) (f : DictFrame) (p : Dev → Session → Bool) : Prop := ∃ d x, Turn s f d x ∧ p d x = true
theorem turn_ok {s : State} {f : DictFrame} {p : Dev → Session → Bool} (e : turnB s f p = true) : HasTurn s f p := by
  unfold turnB at e
  split at e
  · rename_i r h; exact ⟨r.1, r.2, turn_of h, e⟩
  · cases e

/-- Whether a frame writes a whole value to subindex `n`, counted from its entry's first, of index `i`. -/
def writesB (s : State) (f : DictFrame) (i n : Nat) (p : Dev → Session → Bool) : Bool :=
  turnB s f fun d x =>
    f.type == 0x11 && f.first && f.last && f.offset == 0 && f.total == f.payload.length && f.index == i
      && (match dictAccess { s with dev := d } f true with
        | .ok e => f.sub - e.lo == n && (match typeLen e.ty with | some k => f.payload.length == k | none => true)
        | .error _ => false)
      && p d x

/-- A whole write that satisfies `p`. -/
def HasWrite (s : State) (f : DictFrame) (i n : Nat) (p : Dev → Session → Bool) : Prop :=
  ∃ d x, Writes s f d x i n ∧ p d x = true
theorem writes_of {s : State} {f : DictFrame} {i n : Nat} {p : Dev → Session → Bool} (e : writesB s f i n p = true) :
    HasWrite s f i n p := by
  obtain ⟨d, x, ht, h⟩ := turn_ok e
  simp only [Bool.and_eq_true, beq_iff_eq] at h
  obtain ⟨⟨⟨⟨⟨⟨⟨h1, h2⟩, h3⟩, h4⟩, h5⟩, h6⟩, h7⟩, h8⟩ := h
  refine ⟨d, x, ⟨ht, h1, h2, h3, h4, h5, h6, ?_⟩, h8⟩
  split at h7
  · rename_i e he
    rw [Bool.and_eq_true, beq_iff_eq] at h7
    refine ⟨e, he, h7.1, fun k hk => ?_⟩
    have := h7.2
    rw [hk] at this
    simpa using this
  · cases h7

/-- Whether core `n` has a legal next word that satisfies `p`. -/
def nextB (d : Dev) (n : Nat) (p : Inst → Op → Nat → Bool) : Bool :=
  decide (n < 32) && match running d n with
  | none => false
  | some j =>
    match opOf d (flushLoops 5 j).op, fetchWord (flushLoops 5 j) with
    | some o, some w => !limitReached (flushLoops 5 j) && !illegal (flushLoops 5 j) w && (j.fails.all fun e => decide (j.cycles < e.1))
        && p (flushLoops 5 j) o w
    | _, _ => false

/-- A next word that satisfies `p`. -/
def HasNext (d : Dev) (n : Nat) (p : Inst → Op → Nat → Bool) : Prop := ∃ i o w, NextWord d n i o w ∧ p i o w = true
theorem next_of {d : Dev} {n : Nat} {p : Inst → Op → Nat → Bool} (e : nextB d n p = true) : HasNext d n p := by
  unfold nextB at e
  rw [Bool.and_eq_true, decide_eq_true_eq] at e
  obtain ⟨hn, e⟩ := e
  split at e
  · cases e
  · rename_i j hj
    split at e
    · rename_i o w ho hw
      simp only [Bool.and_eq_true, Bool.not_eq_true', List.all_eq_true, decide_eq_true_eq] at e
      exact ⟨_, o, w, ⟨hn, ⟨j, hj, rfl, e.1.2⟩, ho, e.1.1.1, hw, e.1.1.2⟩, e.2⟩
    · cases e

/-- The endpoint and device of a received version 1 frame. -/
def fromOf (s : State) (f : WtFrame) : Option (Nat × Dev) :=
  let r := receive s.dev f.eth (f.eth.port < 4 && f.eth.dstUdp == 50211 && addressed s.dev f.eth)
  if wtFrameOk f && f.version == 1 && r.1 then
    (epFrom (crcPassed r.2 f.eth.port) f.eth).map fun n => (n, crcPassed r.2 f.eth.port)
  else none

theorem from_of {s : State} {f : WtFrame} {n : Nat} {d : Dev} (e : fromOf s f = some (n, d)) : FrameFrom s f n d := by
  unfold fromOf at e
  simp only at e
  split at e
  · rename_i h
    simp only [Bool.and_eq_true, beq_iff_eq] at h
    rw [Option.map_eq_some_iff] at e
    obtain ⟨m, hm, he⟩ := e
    simp only [Prod.mk.injEq] at he
    obtain ⟨rfl, rfl⟩ := he
    exact ⟨h.1.1, h.1.2, ⟨_, Prod.ext h.2 rfl, rfl⟩, hm⟩
  · cases e

/-- Whether a frame of an endpoint satisfies `p`. -/
def fromB (s : State) (f : WtFrame) (p : Nat → Dev → Bool) : Bool :=
  match fromOf s f with
  | some e => p e.1 e.2
  | none => false

/-- A frame of an endpoint that satisfies `p`. -/
def HasFrom (s : State) (f : WtFrame) (p : Nat → Dev → Bool) : Prop := ∃ n d, FrameFrom s f n d ∧ p n d = true
theorem from_ok {s : State} {f : WtFrame} {p : Nat → Dev → Bool} (e : fromB s f p = true) : HasFrom s f p := by
  unfold fromB at e
  split at e
  · rename_i r h; exact ⟨r.1, r.2, from_of h, e⟩
  · cases e

/-- Whether a frame is next in its endpoint's stream and satisfies `p`. -/
def frameB (s : State) (f : WtFrame) (p : Nat → Dev → Bool) : Bool :=
  fromB s f fun n e =>
    let a := acked f n e
    let d := modRx a n f.lc fun x => { x with next := (x.next + 1) % 2 ^ 32 }
    (rxOf (epOf a n) f.lc).session == some f.session && (rxOf (epOf a n) f.lc).next == f.seq && typeKnown f.type
      && decide (f.type < 0x20) && decide (f.payload.length ≤ 4096) && typeAllowed (epKind (epOf d n)) f.type && p n d

/-- A frame that is next and satisfies `p`. -/
def HasFrame (s : State) (f : WtFrame) (p : Nat → Dev → Bool) : Prop := ∃ n d, FrameTurn s f n d ∧ p n d = true
theorem frame_ok {s : State} {f : WtFrame} {p : Nat → Dev → Bool} (e : frameB s f p = true) : HasFrame s f p := by
  obtain ⟨n, e, hf, h⟩ := from_ok e
  simp only [Bool.and_eq_true, beq_iff_eq, decide_eq_true_eq] at h
  obtain ⟨⟨⟨⟨⟨⟨h1, h2⟩, h3⟩, h4⟩, h5⟩, h6⟩, h7⟩ := h
  exact ⟨n, _, ⟨h3, h4, h5, ⟨e, hf, h1, h2, rfl⟩, h6⟩, h7⟩

/-! ### Witnesses: the dictionary -/

/-- A frame on a port to a UDP port, for addresses that read zero. -/
def ethTo (port udp : Nat) : EthMeta :=
  { port := port, srcMac := 0, dstMac := 0, vlan := 0, pcp := 0, dei := false, ipVer := 0, srcIp := 0, dstIp := 0, dscp := 0,
    srcUdp := 0, dstUdp := udp, size := 64, rtag := none }

/-- A request of session 1 in one frame. -/
def req (type index sub : Nat) (payload : Bytes) : DictFrame :=
  { eth := ethTo 4 50210, version := 1, resv0 := 0, type := type, len := payload.length, session := 1, seq := 1, index := index,
    sub := sub, resv15 := 0, last := true, first := true, offset := 0, total := payload.length, abort := 0, resv28 := 0,
    payload := payload }

/-- A state of a device with session 1 open. -/
def open1 (d : Dev) : State := st { d with dict := { d.dict with sessions := [(1, ⟨0, [], none, none, 0⟩)] } }

/-- A request to a state register at generation `g` for state `r`. -/
def ask (index sub g r : Nat) : DictFrame := req 0x11 index sub (beBytes 4 (g * 65536 + r))

/-- A write of a 4-byte value. -/
def write4 (index sub v : Nat) : DictFrame := req 0x11 index sub (beBytes 4 v)

/-- An OPEN with a token. -/
def opening (token : Bytes) : DictFrame := { req 1 0 0 token with session := 0, seq := 0 }

theorem test_has_dictOpen_good :
    dictFrameOk (opening (zeros 16)) = true ∧ badFrame (opening (zeros 16)) = false
      ∧ (receive up (opening (zeros 16)).eth (dictMine up (opening (zeros 16)).eth)).1 = true
      ∧ slice up.boot.body 144 48 = zeros 48 ∧ up.dict.sessions.length < 16 := by decide +kernel
theorem test_has_dictOpen_bad :
    dictFrameOk (opening (leBytes 16 1)) = true ∧ badFrame (opening (leBytes 16 1)) = false
      ∧ (receive up (opening (leBytes 16 1)).eth (dictMine up (opening (leBytes 16 1)).eth)).1 = true
      ∧ slice up.boot.body 144 48 = zeros 48 ∧ (opening (leBytes 16 1)).payload ≠ zeros 16 := by decide +kernel
theorem test_has_dictClose : HasTurn (open1 up) (req 2 0 0 []) (fun _ _ => true) := turn_ok (by decide +kernel)
theorem test_has_readScalar : HasTurn (open1 up) (req 0x10 0x3001 0 [])
    (fun d _ => match dictAccess { open1 up with dev := d } (req 0x10 0x3001 0 []) false with
      | .ok e => e.ty != .domain | .error _ => false) :=
  turn_ok (by decide +kernel)
/-- A READ of the first 16 bytes of `TB_SLEW`. -/
def readSlew : DictFrame := { req 0x10 0x3002 0 [] with total := 16 }
theorem test_has_readDomain : HasTurn (open1 up) readSlew
    (fun d _ => match dictAccess { open1 up with dev := d } readSlew false with | .ok e => e.ty == .domain | .error _ => false) :=
  turn_ok (by decide +kernel)
/-- The first segment of a long write. -/
def segment1 : DictFrame := { req 0x11 0x3002 0 [1] with last := false, total := 1025 }
theorem test_has_segment : HasTurn (open1 up) segment1
    (fun d _ => match dictAccess { open1 up with dev := d } segment1 true with | .ok _ => true | .error _ => false) :=
  turn_ok (by decide +kernel)
theorem test_has_repeat :
    let f := { write4 0x3001 0 0 with seq := 0 }
    dictFrameOk f = true ∧ badFrame f = false ∧ (receive (open1 up).dev f.eth (dictMine (open1 up).dev f.eth)).1 = true
      ∧ (tfind (open1 up).dev.dict.sessions f.session).map (fun y => y.seq) = some f.seq := by decide +kernel
theorem test_has_badSequence :
    let f := { write4 0x3001 0 0 with seq := 2 }
    dictFrameOk f = true ∧ badFrame f = false ∧ (tfind (open1 up).dev.dict.sessions f.session).map (fun y => y.seq) = some 0
      ∧ f.seq ≠ 1 := by decide +kernel
/-- A device with a number of sessions open. -/
def sessions (n : Nat) : Dev := { up with dict := { up.dict with sessions := (List.range n).map fun i => (i + 1, ⟨0, [], none, none, 0⟩) } }
theorem test_has_dictOpen_full :
    (receive (sessions 16) (opening (zeros 16)).eth (dictMine (sessions 16) (opening (zeros 16)).eth)).1 = true
      ∧ 16 ≤ (sessions 16).dict.sessions.length ∧ (sessions 15).dict.sessions.length < 16 := by decide +kernel
theorem test_has_sessionTimeout :
    let d (n : Nat) := { (open1 up).dev with time := { TimeSt.reset with ticks := 60 * 800000000 + n } }
    (tfind (d 1).dict.sessions 1).map (fun x => decide (x.heard + (d 1).dict.timeout * 800000000 < (d 1).time.ticks)) = some true
      ∧ (tfind (d 0).dict.sessions 1).map (fun x => decide ((d 0).time.ticks ≤ x.heard + (d 0).dict.timeout * 800000000)) = some true := by
  decide +kernel
theorem test_has_dictCrcError : portUp up 4 = true ∧ (portOf up 4).dictFailed = false
    ∧ (portOf (modPort up 4 fun x => { x with dictFailed := true }) 4).dictFailed = true
    ∧ bitAt (leAt (portOf up 3).cfg 8 1) 0 = false := by decide +kernel
theorem test_has_entryWrite : HasWrite (open1 up) (write4 0x1112 0 1000) 0x1112 0
    (fun d _ => !ownRow 0x1112 0 && (entryRule 0x1112 0).check { open1 up with dev := d } 0 (beBytes 4 1000) == none) :=
  writes_of (by decide +kernel)
theorem test_has_entryRefused : HasWrite (open1 up) (write4 0x1112 0 0) 0x1112 0
    (fun d _ => (entryRule 0x1112 0).check { open1 up with dev := d } 0 (beBytes 4 0) != none) := writes_of (by decide +kernel)
theorem test_has_staleBench : HasWrite (open1 up) (ask 0x5100 1 9 0) 0x5100 0
    (fun d _ => decide (9 ≠ (benchReg d 0).gen) && requested (ask 0x5100 1 9 0).payload == 0) := writes_of (by decide +kernel)
theorem test_has_staleChannel : HasWrite (open1 up) (ask 0x5501 8 1 2) 0x5501 7
    (fun d _ => decide (1 ≠ (chanReg d 7).gen)) := writes_of (by decide +kernel)
theorem test_has_staleContext : HasWrite (open1 up) (ask 0x5602 64 1 2) 0x5602 63
    (fun d _ => decide (1 ≠ (ctxOf d 63).reg.gen) && requested (ask 0x5602 64 1 2).payload == 2) := writes_of (by decide +kernel)

/-- A bench GATED, a pair GATED, a domain GATED. -/
def gated : Dev :=
  { benchTo up 15 0 with
    sc := { ScSt.reset with pairs := lset ScSt.reset.pairs 15 ⟨1, 0⟩ },
    pwr := { PwrSt.reset with domains := lset PwrSt.reset.domains 14 ⟨1, 0⟩ } }

theorem test_has_benchGate : HasWrite (open1 up) (ask 0x5100 16 0 0) 0x5100 15 (fun d _ => (benchReg d 15) == ⟨0, 1⟩) :=
  writes_of (by decide +kernel)
theorem test_has_benchReady : HasWrite (open1 gated) (ask 0x5100 16 1 1) 0x5100 15 (fun d _ => (benchReg d 15) == ⟨1, 0⟩) :=
  writes_of (by decide +kernel)
theorem test_has_pairGate : HasWrite (open1 up) (ask 0x4400 16 0 0) 0x4400 15
    (fun d _ => (pairReg d 15) == ⟨0, 1⟩ && (running d 30).isNone && (running d 31).isNone) := writes_of (by decide +kernel)
theorem test_has_pairReady : HasWrite (open1 gated) (ask 0x4400 16 1 1) 0x4400 15 (fun d _ => (pairReg d 15) == ⟨1, 0⟩) :=
  writes_of (by decide +kernel)
theorem test_has_domainGate : HasWrite (open1 up) (ask 0x6000 15 0 0) 0x6000 14
    (fun d _ => lget ⟨0, 1⟩ d.pwr.domains 14 == ⟨0, 1⟩ && !domainBusy d 14) := writes_of (by decide +kernel)
theorem test_has_domainReady : HasWrite (open1 gated) (ask 0x6000 15 1 1) 0x6000 14
    (fun d _ => lget ⟨0, 1⟩ d.pwr.domains 14 == ⟨1, 0⟩) := writes_of (by decide +kernel)
theorem test_has_channelDrain : HasWrite (open1 up) (ask 0x5501 8 0 2) 0x5501 7
    (fun d _ => (chanReg d 7) == ⟨0, 1⟩ && decide (chanUsed d 7 ≤ freePages d - chanFree d 7)) := writes_of (by decide +kernel)


/-- A device with channel 7 DRAINING. -/
def drains7 : Dev := chanTo up 7 2
/-- A device with pair 15 in use or DRAINING. -/
def pair15 (r : Nat) : Dev := pairTo up 15 r
theorem test_has_sameUnit :
    (HasWrite (open1 gated) (ask 0x5100 16 1 0) 0x5100 15 (fun d _ => d.test.running.isNone && benchReg d 15 == ⟨1, 0⟩)
      ∧ HasWrite (open1 up) (ask 0x5100 16 0 1) 0x5100 15 (fun d _ => benchReg d 15 == ⟨0, 1⟩)
      ∧ HasWrite (open1 gated) (ask 0x4400 16 1 0) 0x4400 15 (fun d _ => pairReg d 15 == ⟨1, 0⟩)
      ∧ HasWrite (open1 up) (ask 0x4400 16 0 1) 0x4400 15 (fun d _ => pairReg d 15 == ⟨0, 1⟩)
      ∧ HasWrite (open1 gated) (ask 0x6000 15 1 0) 0x6000 14 (fun d _ => lget ⟨0, 1⟩ d.pwr.domains 14 == ⟨1, 0⟩)
      ∧ HasWrite (open1 up) (ask 0x6000 15 0 1) 0x6000 14 (fun d _ => lget ⟨0, 1⟩ d.pwr.domains 14 == ⟨0, 1⟩)
      ∧ HasWrite (open1 drains7) (ask 0x5501 8 1 2) 0x5501 7 (fun d _ => chanReg d 7 == ⟨1, 2⟩)) :=
  ⟨writes_of (by decide +kernel), writes_of (by decide +kernel), writes_of (by decide +kernel), writes_of (by decide +kernel),
   writes_of (by decide +kernel), writes_of (by decide +kernel), writes_of (by decide +kernel)⟩
/-! ### Ill-formed commands: a term for each check -/

/-- Frame values whose one field is out of range. -/
def badFrames : List DictFrame :=
  let f := req 0x11 0x3001 0 []
  [{ f with eth := ethTo 5 50210 }, { f with version := 16 }, { f with resv0 := 16 }, { f with type := 256 }, { f with len := 65536 },
   { f with session := 2 ^ 32 }, { f with seq := 2 ^ 32 }, { f with index := 65536 }, { f with sub := 256 }, { f with resv15 := 64 },
   { f with offset := 2 ^ 32 }, { f with total := 2 ^ 32 }, { f with abort := 2 ^ 32 }, { f with resv28 := 2 ^ 32 }]
/-- Frame headers whose one field is out of range. -/
def badMeta : List EthMeta :=
  let m := ethTo 0 0
  [ethTo 5 0, { m with srcMac := 2 ^ 48 }, { m with dstMac := 2 ^ 48 }, { m with vlan := 4096 }, { m with pcp := 8 },
   { m with srcIp := 2 ^ 128 }, { m with dstIp := 2 ^ 128 }, { m with dscp := 64 }, { m with srcUdp := 65536 },
   { m with dstUdp := 65536 }, { m with size := 65536 }, { m with rtag := some 65536 }]
/-- A work-transport frame of endpoint 0 on port 0. -/
def wt (type ctx arg0 arg1 : Nat) (payload : Bytes) : WtFrame :=
  { eth := ethTo 0 50211, version := 1, resv0 := 0, type := type, session := 7, seq := 1, ackSeq := 0, lc := false,
    last := true, ackValid := false, resv16 := 0, ctx := ctx, freed := 0, arg0 := arg0, arg1 := arg1, spoil := 0,
    box := [], payload := payload }
/-- Work-transport frames whose one field is out of range. -/
def badWt : List WtFrame :=
  let f := wt 0x05 0 0 0 []
  [{ f with eth := ethTo 5 50211 }, { f with version := 16 }, { f with resv0 := 8 }, { f with type := 256 }, { f with session := 2 ^ 32 },
   { f with seq := 2 ^ 32 }, { f with ackSeq := 2 ^ 32 }, { f with resv16 := 64 }, { f with ctx := 256 }, { f with freed := 65536 },
   { f with arg0 := 2 ^ 32 }, { f with arg1 := 2 ^ 64 }, { f with spoil := 2 ^ 64 }, { f with box := zeros 33 }]

theorem test_ill_frames : badFrames.all (fun f => !wellFormed (.entryWrite f)) = true ∧ badMeta.all (fun m => !wellFormed (.arpRequest m)) = true
    ∧ badWt.all (fun f => !wellFormed (.doorbell f)) = true ∧ wellFormed (.entryWrite (req 0x11 0x3001 0 [])) = true
    ∧ wellFormed (.arpRequest (ethTo 0 0)) = true ∧ wellFormed (.doorbell (wt 0x02 0 0 0 [])) = true := by decide +kernel
theorem test_ill_units : ([.benchDrainComplete 16, .pairDrainComplete 16, .contextStopped 64, .triggerFiring 64, .pulseEnd 3,
    .captureEdge 2, .dictCrcError 5, .pageMoveComplete 8 ⟨0, []⟩, .pageMoveComplete 0 ⟨8, []⟩, .boostExhausted 8192, .reservationOpen 64 0,
    .reservationOpen 0 4, .matmul 16384 .whole, .ringSlotFull 4096, .conveyorSlotAccept 0 ⟨16, []⟩, .hostPageTimeout 64 0,
    .hostPageTimeout 0 (2 ^ 32), .pageMigration 0 0 ⟨24, []⟩, .roadRetrainComplete [64], .laneLock 32, .lemcRelease 8 none,
    .rxSample 80 0 0, .txSampleDue 64, .dpdBankSwap 16, .streamStart 128, .detection 64, .correlatorSearchEnd 16, .halt 32,
    .lrFrameStart 64 .ok, .mixSlotFill 16, .demodSymbol 256 .ok, .trellisCodewordStart 5, .pcsLockLoss 5, .resendTimeout 64 false,
    .gateIntervalEnd 4, .streamGateIntervalEnd 64, .cbHistoryReset 128, .pageInComplete 0 [⟨0, 1024, false⟩],
    .conveyorFetch ⟨0, [⟨2 ^ 32, 0, false⟩]⟩, .systemRingSlotApply ⟨false, [⟨0, 1024, false⟩]⟩, .preambleDeclared 0 13,
    .operationResume ⟨0, ⟨[], [16], none⟩⟩, .vop 0 ⟨[], [], some 16⟩, .preambleDeclared 64 6,
    .selftestUnitComplete ⟨true, false, 0, 0, [8]⟩] : List Instr).all (fun c => !wellFormed c) = true := by
  decide +kernel
theorem test_ill_faults : exec (.halt 32) (st up) = .fault .noSuchUnit := rfl

/-! ### Witnesses: reset, start-up, trust, power -/

/-- An image header of a kind and a body length. -/
def imageHeader (kind len : Nat) : Bytes := leBytes 4 0x4B56494D ++ leBytes 2 1 ++ leBytes 2 kind ++ leBytes 4 len ++ zeros 244
/-- A port's configuration. -/
def portCfg : Bytes := zeros 6 ++ leBytes 2 1500 ++ zeros 25 ++ leBytes 7 4
/-- A configuration record of the smallest grade. -/
def record4 : Bytes :=
  zeros 96 ++ ascii "KV-8816-B04" ++ zeros 5 ++ leBytes 1 4 ++ leBytes 1 1 ++ leBytes 2 0x33 ++ leBytes 2 9600 ++ zeros 2
    ++ [0, 1, 4, 5] ++ List.replicate 12 255 ++ zeros 56 ++ (List.replicate 5 portCfg).flatten ++ zeros 120
/-- A flash slot that passes every check, with the firmware's RSA check given. -/
def slotImage (rsa : Bool) : SlotImage :=
  { fwHeader := imageHeader 1 4, fwDigest := zeros 48, fwKeys := true, fwRsa := rsa, fwSlh := true, recHeader := imageHeader 2 512,
    recBody := record4, recSig := [], recKeys := true, recRsa := true, recSlh := true }
/-- A start-up with the RSA checks of the two slots given. -/
def bootWith (puf a b : Bool) : Boot :=
  { puf := puf, deviceId := zeros 48, slotA := slotImage a, slotB := slotImage b, laneFail := [], chanFail := [], portLock := [], testMode := false }
/-- Reset held, with the PLL locked or not. -/
def heldAt (pll : Bool) : State := st { Dev.reset with boot := { BootSt.reset with pllLocked := pll } }

theorem test_has_startUp : bootOk (bootWith true true true) = true ∧ slotCheck (zeros 48) (slotImage true) = none
    ∧ slotCheck (zeros 48) (slotImage false) = some 4 ∧ slotCheck (zeros 48) (bootWith true true true).slotB = none := by decide +kernel
theorem test_has_atReset : atReset (heldAt false) ∧ atReset (heldAt true) ∧ (heldAt true).dev.boot.pllLocked = true := ⟨rfl, rfl, rfl⟩
theorem test_startUp : (exec (.porstRelease (bootWith true false true)) (heldAt false) |> fun
    | .next t => t.dev.boot.failCode == 4 && t.dev.boot.slotB && t.dev.boot.fallback && t.dev.comp.map.take 5 == [0, 1, 4, 5, 255]
        && (benchReg t.dev 1).st == 1 && (benchReg t.dev 2).st == 4
    | _ => false) = true := by decide +kernel

/-- A state whose time reads `t`. -/
def timed (t : TimeSt) : State := st { up with time := t }
theorem test_has_ticks :
    let t := TimeSt.reset
    (∀ x ∈ [timed { t with nano := secondUnits - 1 }, timed { t with nano := secondUnits - 1, pps := [1, 0, 0, 0, 8, 0, 0, 0] },
        timed { t with slew := some (5, 1, 0) }],
      x.pending = [] ∧ x.dev.boot.phase = .up ∧ x.dev.time.set = none ∧ x.dev.time.step = none ∧ x.dev.time.align = none
        ∧ x.dev.time.nano < secondUnits ∧ x.dev.time.inc ≤ secondUnits)
      ∧ secondUnits ≤ secondUnits - 1 + t.inc ∧ leAt t.pps 0 1 = 0 ∧ leAt [1, 0, 0, 0, 8, 0, 0, 0] 0 1 = 1
      ∧ 0 ≤ (t.nano : Int) + t.inc + slewShare 5 1 0 ∧ (t.nano : Int) + t.inc + slewShare 5 1 0 < secondUnits ∧ t.sec < 2 ^ 48 := by
  decide +kernel

theorem test_has_attest :
    let t := { Trust.reset with signing := some (zeros 4) }
    (st up).dev.boot.phase = .up ∧ Trust.reset.attestReady = false ∧ Trust.reset.idMismatch = false ∧ Trust.reset.secretsZeroed = false
      ∧ t.signing = some (zeros 4) := by decide +kernel
theorem test_has_idleTicks :
    ¬ (up.boot.phase = .up ∧ rollsOver up.time = true)
      ∧ ¬ (up.boot.phase = .up ∧ up.time.slew ≠ none ∧ slewNext up.time = none)
      ∧ (let t := { TimeSt.reset with slew := some (5, 1, 0) }
        (timed t).dev.time.slew ≠ none ∧ slewNext t = none) := by decide +kernel
theorem test_has_held : (∀ t ∈ [true, false], bootOk { bootWith true true true with testMode := t } = true)
    ∧ (heldAt false).dev.boot.testHeld = false := by decide +kernel
theorem test_has_identity : ∀ s ∈ [st up, st { up with boot := { up.boot with phase := .tripped } }],
    (s.dev.boot.phase = .up ∨ s.dev.boot.phase = .tripped) ∧ s.trust.attestReady = false ∧ s.trust.idMismatch = false
      ∧ s.trust.secretsZeroed = false := by decide +kernel
theorem test_has_scan :
    scanAllow { up with boot := { up.boot with body := zeros 118 ++ [1] } } = true ∧ scanAllow up = false := by decide +kernel
theorem test_has_selftest :
    let r : TestRun := { pass := true, retest := false, detail := 0, domain := 0, chanFail := [] }
    let t : TestSt := { test := 1, mask := 1, done := 0, failed := 0, transient := 0, detail := 0, start := 0, cancel := false }
    r.chanFail = [] ∧ t.test = 1 ∧ t.mask = 1 ∧ t.done = 0 ∧ t.failed = 0 ∧ t.transient = 0 ∧ t.cancel = false := by decide +kernel
/-- A run of a test on units 0 and 3, the latter still to do. -/
def run2 (test : Nat) (cancel : Bool) : TestSt :=
  { test := test, mask := 9, done := 1, failed := 0, transient := 0, detail := 0, start := 0, cancel := cancel }
theorem test_has_selftestUnits :
    up.test.running = none ∧ (∀ c ∈ [true, false], ∀ k ∈ [1, 0x0E], (firstBelow 16 fun i => bitAt (run2 k c).mask i && !bitAt (run2 k c).done i) = some 3)
      ∧ (∀ c ∈ [0, 7], c < 8)
      ∧ (stRecord up (run2 1 false) 3 ⟨true, false, 0, 0, []⟩).done = (run2 1 false).mask
      ∧ (stRecord up { run2 1 false with mask := 25 } 3 ⟨true, false, 0, 0, []⟩).done ≠ 25 := by decide +kernel
theorem test_idcode : idcode % 2 ^ 28 = 0x088164F3 := by decide +kernel
theorem test_safe_reset : TrustSafe Trust.reset := ⟨nofun, nofun, nofun, nofun⟩
theorem test_has_safeStep : Safe State.reset ∧ step State.reset = .next State.reset := ⟨test_safe_reset, rfl⟩
theorem test_has_tripped :
    let s := st { up with boot := { up.boot with phase := .tripped } }
    (st up).dev.boot.phase = .up ∧ s.dev.boot.phase = .tripped
      ∧ ¬ (0x1000 ≤ 0x3001 ∧ 0x3001 ≤ 0x10FF) ∧ ¬ (0x6000 ≤ 0x3001 ∧ 0x3001 ≤ 0x6FFF) ∧ ¬ (0x8000 ≤ 0x3001 ∧ 0x3001 ≤ 0x8FFF) := by
  decide +kernel
theorem test_has_heat : ∀ hold ∈ [false, true], ({ up with pwr := { up.pwr with heatHold := hold } } : Dev).pwr.heatHold = hold
    ∧ (10500 : Int) ≤ 10500 ∧ (10000 : Int) ≤ 10000 ∧ (10000 : Int) < 10499 ∧ (10499 : Int) < 10500 := by decide +kernel
theorem test_has_estimates : ∀ n ∈ [1, 2], ∀ w ∈ [0, 5, 6],
    let d := { up with pwr := { up.pwr with noAck := n } }
    d.boot.phase = .up ∧ d.pwr.noAck = n ∧ w + 5 ≤ 11 := by decide +kernel
/-- A device whose envelope entry has bytes `bs` from `at` on. -/
def enveloped (pos : Nat) (bs : Bytes) : Dev := { up with pwr := { up.pwr with envelope := overlay up.pwr.envelope pos bs } }
theorem test_has_avs : up.boot.phase = .up ∧ up.pwr.uv = false ∧ avsPin up = false ∧ avsFreeze up = false ∧ vFloor up ≤ vCeil up
    ∧ vFloor up ≤ up.pwr.target ∧ up.pwr.target ≤ vCeil up
    ∧ ({ up with pwr := { up.pwr with noAck := 2, uv := true } } : Dev).pwr.noAck = 2
    ∧ avsPin (enveloped 0 [1]) = true ∧ avsFreeze (enveloped 0 [2]) = true ∧ avsPin (enveloped 0 [2]) = false := by
  decide +kernel
/-- The benches of an undervoltage: bench 3 GATED, at a tick of recovery. -/
def browned : Dev := { benchTo up 3 0 with pwr := { up.pwr with uv := true, uvBenches := 2 ^ 3 } }
theorem test_has_supply : up.boot.phase = .up ∧ (679 : Nat) < 680 ∧ up.pwr.uv = false ∧ (benchReg up 15).st = 1
    ∧ ({ up with pwr := { up.pwr with uv := true } } : Dev).pwr.uv = true ∧ browned.boot.phase = .up ∧ browned.pwr.uv = true ∧ vFloor browned ≤ vFloor browned ∧ (benchReg browned 3).st = 0 := by
  decide +kernel
/-- A device with a unit powering up. -/
def powering (d : Dev) (u : PowerUnit) : Dev := { d with pwr := { d.pwr with powering := [u] } }
theorem test_has_powerUp :
    let b := { benchTo up 15 0 with comp := { (benchTo up 15 0).comp with map := List.replicate 16 0 } }
    up.pwr.powering = [] ∧ (powering b (.bench 15)).boot.phase = .up ∧ (powering b (.bench 15)).pwr.powering = [.bench 15]
      ∧ (benchReg (powering b (.bench 15)) 15).st = 0
      ∧ (powering gated (.pair 15)).pwr.powering = [.pair 15] ∧ (pairReg (powering gated (.pair 15)) 15).st = 0
      ∧ (powering gated (.domain 14)).pwr.powering = [.domain 14] ∧ (lget ⟨0, 1⟩ (powering gated (.domain 14)).pwr.domains 14).st = 0
      ∧ (benchReg (powering up (.bench 15)) 15).st ≠ 0 ∧ (pairReg (powering up (.pair 15)) 15).st ≠ 0
      ∧ (lget ⟨0, 1⟩ (powering up (.domain 14)).pwr.domains 14).st ≠ 0 := by
  decide +kernel
theorem test_powerUp_bench :
    (exec .powerUpComplete (st (powering (benchTo up 15 0) (.bench 15))) |> fun
      | .next t => (benchReg t.dev 15).st == 1 && hostOf t.dev 15 == 15 | _ => false) = true := by decide +kernel

/-! ### Witnesses: links, time, contexts, queues and units -/

/-- A JESD204C link of one lane and eight streams at the default lane rate. -/
def link1 (first release lane : Nat) : Bytes := [1, 16, 1, 12, 0] ++ leBytes 1 first ++ leBytes 2 release ++ leBytes 1 lane ++ List.replicate 15 255
/-- A device with link `l` in state `r`, with what `f` gives it. -/
def linked (d : Dev) (l r : Nat) (f : LinkSt → LinkSt) : Dev :=
  modLink d l fun k => f { k with reg := ⟨0, r⟩, rcd := link1 0 0 15 }
/-- A device with port 3 in state `r`. -/
def ported (r : Nat) (lock : Bool) : Dev := modPort up 3 fun x => { x with reg := ⟨0, r⟩, lock := lock }
/-- A write of a value in `k` bytes. -/
def writeN (k index sub v : Nat) : DictFrame := req 0x11 index sub (beBytes k v)
/-- A write of bytes. -/
def writeB (index sub : Nat) (bs : Bytes) : DictFrame := req 0x11 index sub bs

theorem test_has_linkRequests :
    (HasWrite (open1 (linked up 7 0 id)) (ask 0x4012 8 0 2) 0x4012 7 (fun d _ =>
        d.test.running.isNone && (linkOf d 7).reg == ⟨0, 0⟩ && lkL (linkOf d 7).rcd != 0
          && linkValid d.fe.laneRate true (linkOf d 7).rcd && linkPowered d 7)
      ∧ HasWrite (open1 (linked up 7 2 id)) (ask 0x4012 8 0 0) 0x4012 7 (fun d _ => (linkOf d 7).reg == ⟨0, 2⟩)
      ∧ HasWrite (open1 (setFeRx up 63 { feRxDefault with reg := ⟨0, 2⟩ })) (ask 0x4102 64 0 0) 0x4102 63
        (fun d _ => (feRxOf d 63).reg == ⟨0, 2⟩)
      ∧ HasWrite (open1 (setFeTx up 63 { feTxDefault with reg := ⟨0, 1⟩ })) (ask 0x4103 64 0 0) 0x4103 63
        (fun d _ => (feTxOf d 63).reg == ⟨0, 1⟩)
      ∧ HasWrite (open1 (setLsn up 63 { lsnDefault with reg := ⟨0, 1⟩ })) (ask 0x4501 64 0 0) 0x4501 63
        (fun d _ => (lsnOf d 63).reg == ⟨0, 1⟩)
      ∧ HasWrite (open1 (ported 2 false)) (ask 0x1100 4 0 0) 0x1100 3 (fun d _ => (portOf d 3).reg == ⟨0, 2⟩)
      ∧ HasWrite (open1 (ported 0 true)) (ask 0x1100 4 0 1) 0x1100 3 (fun d _ => (portOf d 3).reg == ⟨0, 0⟩ && portPowered d 3)) :=
  ⟨writes_of (by decide +kernel), writes_of (by decide +kernel), writes_of (by decide +kernel), writes_of (by decide +kernel),
   writes_of (by decide +kernel), writes_of (by decide +kernel), writes_of (by decide +kernel)⟩

theorem test_has_sameLink :
    (HasWrite (open1 (linked up 7 2 id)) (ask 0x4012 8 0 2) 0x4012 7 (fun d _ => (linkOf d 7).reg == ⟨0, 2⟩)
      ∧ HasWrite (open1 up) (ask 0x4012 8 0 0) 0x4012 7 (fun d _ => (linkOf d 7).reg == ⟨0, 0⟩)
      ∧ HasWrite (open1 up) (ask 0x4102 64 0 0) 0x4102 63 (fun d _ => (feRxOf d 63).reg == ⟨0, 0⟩)
      ∧ HasWrite (open1 up) (ask 0x4103 64 0 0) 0x4103 63 (fun d _ => (feTxOf d 63).reg == ⟨0, 0⟩)
      ∧ HasWrite (open1 up) (ask 0x4501 64 0 0) 0x4501 63 (fun d _ => (lsnOf d 63).reg == ⟨0, 0⟩)
      ∧ HasWrite (open1 (ported 0 true)) (ask 0x1100 4 0 0) 0x1100 3 (fun d _ => (portOf d 3).reg == ⟨0, 0⟩)
      ∧ HasWrite (open1 (ported 1 true)) (ask 0x1100 4 0 1) 0x1100 3 (fun d _ => (portOf d 3).reg == ⟨0, 1⟩)) :=
  ⟨writes_of (by decide +kernel), writes_of (by decide +kernel), writes_of (by decide +kernel), writes_of (by decide +kernel),
   writes_of (by decide +kernel), writes_of (by decide +kernel), writes_of (by decide +kernel)⟩

/-- A slew record: offset and duration. -/
def slewRec (o m : Nat) : Bytes := leBytes 8 o ++ leBytes 4 m ++ zeros 4
theorem test_has_timeWrites :
    HasWrite (open1 up) (writeN 8 0x3001 0 0x14051EB85) 0x3001 0 (fun _ _ => true)
      ∧ HasWrite (open1 up) (writeB 0x3002 0 (slewRec 0x51EB85 1)) 0x3002 0 (fun d _ => d.time.slew.isNone
        && (slewOffset (slewRec 0x51EB85 1)).natAbs == 0x51EB85 && leAt (slewRec 0x51EB85 1) 8 4 == 1
        && leAt (slewRec 0x51EB85 1) 12 4 == 0 && (slewRec 0x51EB85 1).length == 16)
      ∧ HasWrite (open1 up) (writeN 4 0x3004 0 (2 ^ 32 - 1)) 0x3004 0 (fun _ _ => true)
      ∧ HasWrite (open1 up) (writeB 0x3005 0 (leBytes 6 5 ++ leBytes 4 999999999 ++ leBytes 2 1)) 0x3005 0 (fun _ _ => true)
      ∧ HasWrite (open1 up) (ask 0x3000 0 0 1) 0x3000 0 (fun d _ => linksStopped d (List.range 8) && d.time.base == ⟨0, 0⟩
        && (ctxsWhere d fun c => c.reg.st == ctxActive).isEmpty && !anyAdmitted d && !(d.time.trigs.any fun e => e.2.armed))
      ∧ HasWrite (open1 { up with time := { TimeSt.reset with base := ⟨1, 1⟩ } }) (ask 0x3000 0 1 0) 0x3000 0
        (fun d _ => d.time.base == ⟨1, 1⟩) :=
  ⟨writes_of (by decide +kernel), writes_of (by decide +kernel), writes_of (by decide +kernel), writes_of (by decide +kernel),
   writes_of (by decide +kernel), writes_of (by decide +kernel)⟩
theorem test_has_sameTime :
    HasWrite (open1 up) (writeB 0x3002 0 (slewRec 0 0)) 0x3002 0 (fun d _ => d.time.slew.isNone && slewOffset (slewRec 0 0) == 0)
      ∧ HasWrite (open1 up) (ask 0x3000 0 0 0) 0x3000 0 (fun d _ => d.time.base == ⟨0, 0⟩)
      ∧ HasWrite (open1 { up with time := { TimeSt.reset with base := ⟨1, 1⟩ } }) (ask 0x3000 0 1 1) 0x3000 0
        (fun d _ => d.time.base == ⟨1, 1⟩) :=
  ⟨writes_of (by decide +kernel), writes_of (by decide +kernel), writes_of (by decide +kernel)⟩
theorem test_has_slewRefused :
    HasWrite (open1 up) (writeB 0x3002 0 (slewRec (0x51EB85 + 1) 1)) 0x3002 0
        (fun _ _ => 0x51EB85 < (slewOffset (slewRec (0x51EB85 + 1) 1)).natAbs)
      ∧ HasWrite (open1 { up with time := { TimeSt.reset with slew := some (5, 2, 1) } }) (writeB 0x3002 0 (slewRec 0 0)) 0x3002 0
        (fun d _ => d.time.slew.isSome) :=
  ⟨writes_of (by decide +kernel), writes_of (by decide +kernel)⟩
theorem test_has_slewTick :
    let t := { TimeSt.reset with slew := some (-5, 3, 2) }
    (timed t).pending = [] ∧ (timed t).dev.boot.phase = .up ∧ t.set = none ∧ t.step = none
      ∧ 0 ≤ ((t.sec * secondUnits + t.nano + t.inc : Nat) : Int) + slewShare (-5) 3 2
      ∧ ((t.sec * secondUnits + t.nano + t.inc : Nat) : Int) + slewShare (-5) 3 2 < 2 ^ 48 * secondUnits := by decide +kernel
theorem test_slewShare : (List.range 3).map (slewShare (-5) 3) = [-2, -2, -1] := by decide +kernel

/-- A device whose context 63 is in state `r`. -/
def context63 (r : Nat) : Dev := setCtx up 63 { ctxDefault 63 with reg := ⟨0, r⟩ }
/-- What the statement on context states asks of `d`. -/
def ctxStill (s : State) (d : Dev) (r : Nat) : Bool :=
  d.test.running.isNone && !d.ls.enable && (ctxOf s.dev 63).reg == (ctxOf d 63).reg && (ctxOf d 63).reg == ⟨0, r⟩
theorem test_has_contextStates :
    HasWrite (open1 up) (ask 0x5602 64 0 ctxStopped) 0x5602 63 (fun d _ =>
        ctxStill (open1 up) d ctxFree && !queuesOverlap d 63 (ctxOf d 63).qbase (ctxOf d 63).qcount)
      ∧ HasWrite (open1 (context63 ctxStopped)) (ask 0x5602 64 0 ctxActive) 0x5602 63
        (fun d _ => ctxStill (open1 (context63 ctxStopped)) d ctxStopped)
      ∧ HasWrite (open1 (context63 ctxActive)) (ask 0x5602 64 0 ctxStopped) 0x5602 63
        (fun d _ => ctxStill (open1 (context63 ctxActive)) d ctxActive)
      ∧ HasWrite (open1 (context63 ctxStopped)) (ask 0x5602 64 0 ctxFree) 0x5602 63
        (fun d _ => ctxStill (open1 (context63 ctxStopped)) d ctxStopped)
      ∧ (ctxOf (context63 ctxStopping) 63).reg.st = ctxStopping ∧ (context63 ctxStopping).disp.ops = [] :=
  ⟨writes_of (by decide +kernel), writes_of (by decide +kernel), writes_of (by decide +kernel), writes_of (by decide +kernel),
   by decide +kernel, by decide +kernel⟩

/-- Context 63 STOPPED, in lock-step and armed. -/
def armed : Dev := { context63 ctxStopped with ls := { LockSt.reset with enable := true, state := 1, ctx := 63 } }
theorem test_has_contextSame :
    HasWrite (open1 (context63 ctxStopped)) (ask 0x5602 64 0 ctxStopped) 0x5602 63
        (fun d _ => ctxStill (open1 (context63 ctxStopped)) d ctxStopped)
      ∧ HasWrite (open1 (context63 ctxActive)) (ask 0x5602 64 0 ctxActive) 0x5602 63
        (fun d _ => ctxStill (open1 (context63 ctxActive)) d ctxActive)
      ∧ HasWrite (open1 up) (ask 0x5602 64 0 ctxFree) 0x5602 63 (fun d _ => ctxStill (open1 up) d ctxFree)
      ∧ HasWrite (open1 armed) (ask 0x5602 64 0 ctxActive) 0x5602 63
        (fun d _ => inLockstep d 63 && d.ls.state == 1 && (ctxOf d 63).reg == ⟨0, ctxStopped⟩)
      ∧ (ctxOf (context63 ctxStopped) 63).reg.st ≠ ctxStopping :=
  ⟨writes_of (by decide +kernel), writes_of (by decide +kernel), writes_of (by decide +kernel), writes_of (by decide +kernel),
   by decide +kernel⟩

/-- A queue of a STOPPED context 0, HALTED or not. -/
def haltedQ (h : Bool) : Dev :=
  setQueue (setCtx up 0 { ctxDefault 0 with reg := ⟨0, ctxStopped⟩ }) 3 { queueDefault with halted := h }
/-- A graph record of context 5. -/
def graphRec (on : Nat) : Bytes := [5] ++ leBytes 1 on ++ zeros 70
/-- A device whose lock-step context is STOPPED, with endpoint 63 as its peer. -/
def locked (armed : Bool) : Dev :=
  let d := setEp (setCtx up 0 { ctxDefault 0 with reg := ⟨0, ctxStopped⟩ }) 63 { epDefault with rcd := [2] ++ zeros 47 }
  { d with ls := { d.ls with peer := 63, ctx := 0, enable := armed, state := if armed then 1 else 0 } }
theorem test_has_dispatcherWrites :
    HasWrite (open1 up) (write4 0x2101 64 511) 0x2101 63 (fun d _ => d.test.running.isNone)
      ∧ HasWrite (open1 (haltedQ true)) (write4 0x5620 0 (2 ^ 30 + 3)) 0x5620 0 (fun d _ => (queueOf d 3).halted)
      ∧ HasWrite (open1 (haltedQ false)) (write4 0x5620 0 (2 ^ 31 + 3)) 0x5620 0
        (fun d _ => ownerOf d 3 == some 0 && (ctxOf d 0).reg.st == ctxStopped)
      ∧ HasWrite (open1 up) (writeB 0x5610 64 (graphRec 1)) 0x5610 63
        (fun d _ => graphRanges (graphRec 1) && gAdmit (graphRec 1) && (graphOf d 63).st != 1)
      ∧ HasWrite (open1 up) (writeB 0x5610 64 (graphRec 0)) 0x5610 63 (fun _ _ => graphRanges (graphRec 0) && !gAdmit (graphRec 0))
      ∧ HasWrite (open1 up) (writeN 2 0x5401 2 7) 0x5401 1 (fun _ _ => true)
      ∧ HasWrite (open1 (locked false)) (writeN 1 0x2400 1 1) 0x2400 0
        (fun d _ => lsStopped d && decide (d.ls.peer ≤ 63) && epKind (epOf d d.ls.peer) == 2)
      ∧ HasWrite (open1 (locked true)) (writeN 1 0x2400 1 0) 0x2400 0 (fun d _ => lsStopped d) :=
  ⟨writes_of (by decide +kernel), writes_of (by decide +kernel), writes_of (by decide +kernel), writes_of (by decide +kernel),
   writes_of (by decide +kernel), writes_of (by decide +kernel), writes_of (by decide +kernel), writes_of (by decide +kernel)⟩

/-- A device whose test 1 runs. -/
def testing : Dev :=
  { up with test := { up.test with
      running := some { test := 1, mask := 1, done := 0, failed := 0, transient := 0, detail := 0, start := 0, cancel := false } } }
theorem test_has_unitWrites :
    HasWrite (open1 up) (writeN 1 0x4112 64 1) 0x4112 63 (fun _ _ => true)
      ∧ HasWrite (open1 up) (writeN 1 0x4203 16 1) 0x4203 15 (fun d _ => (dpdOf d 15).swap.isNone)
      ∧ HasWrite { open1 up with trust := { Trust.reset with attestReady := true } } (writeB 0x8010 0 (zeros 32)) 0x8010 0 (fun _ _ => true)
      ∧ HasWrite (open1 up) (write4 0x7000 0 0x010001) 0x7000 0 (fun d _ => d.test.running.isNone)
      ∧ HasWrite (open1 up) (write4 0x7000 0 0x100001) 0x7000 0
        (fun d _ => stTest (beBytes 4 0x100001) == 16 && stStartCheck d (beBytes 4 0x100001) == none)
      ∧ HasWrite (open1 testing) (write4 0x7000 0 0) 0x7000 0 (fun d _ => (d.test.running.map fun t => t.test != 0x0E) == some true) :=
  ⟨writes_of (by decide +kernel), writes_of (by decide +kernel), writes_of (by decide +kernel), writes_of (by decide +kernel),
   writes_of (by decide +kernel),    writes_of (by decide +kernel)⟩

/-! ### Witnesses: time messages, triggers and synchronisation -/

/-- A device with flit `f` next in a direction of the road. -/
def crossing (d : Dev) (dir : Dir) (f : Flit) : Dev := setRoad d dir { roadOf d dir with wait := [f] }
/-- A device whose counts read `n`. -/
def atTick (d : Dev) (n : Nat) : Dev := { d with time := { d.time with ticks := n, replica := n } }
theorem test_has_timeMessages :
    let f : Flit := ⟨true, .timebase 0, []⟩
    let d (t : Nat) := atTick (crossing up .st f) t
    roadRuns (d 48) = true ∧ nextFlit (roadOf (d 48) .st) = some f ∧ 0 + (d 48).haul.roadLatency ≤ (d 48).time.ticks
      ∧ timebaseDue (d 47) f.pay = false ∧ nextFlit (roadOf up .st) = none := by decide +kernel
/-- Link 7 on a grid through tick 0. -/
def gridded : Dev := linked up 7 2 fun k => { k with lemc := some 0 }
theorem test_has_sysref :
    up.time.sysrefSeen = none ∧ (∀ l, l < 8 → offGrid up (linkOf up l) = false)
      ∧ (∀ l, l < 8 → offGrid (atTick gridded 625) (linkOf (atTick gridded 625) l) = false)
      ∧ offGrid (atTick gridded 2) (linkOf (atTick gridded 2) 7) = true
      ∧ ({ TimeSt.reset with sysrefSeen := some 0, ticks := 3 } : TimeSt).ticks < 0 + 4
      ∧ 0 + 4 ≤ ({ TimeSt.reset with sysrefSeen := some 0, ticks := 4 } : TimeSt).ticks := by decide +kernel
/-- A device whose PTP engine runs on port 3. -/
def clocked (profile role : Nat) (oneStep : Bool) : Dev :=
  let d := ported 1 true
  { d with time := { d.time with ptp := { d.time.ptp with profile := profile, port := 3, role := role, oneStep := oneStep } } }
/-- A PTP message on port 3. -/
def ptpMsg (kind : PtpKind) (twoStep : Bool) : PtpMsg :=
  { eth := ethTo 3 0, kind := kind, domain := 0, seqId := 9, twoStep := twoStep, corr := 0, tsSec := 0, tsNs := 0,
    ann := ⟨0, 0, 0, 0, 0, 0, 0, 0⟩ }
theorem test_has_ptp :
    let d := clocked 1 1 true
    (∀ m ∈ [ptpMsg .sync true, ptpMsg .sync false, ptpMsg .delayReq false, ptpMsg .announce false],
        ethOk m.eth = true ∧ (receive d m.eth true).1 = true ∧ ptpMine (receive d m.eth true).2 m = true
          ∧ ptpMaster (receive d m.eth true).2 = true ∧ liveMaster (receive d m.eth true).2 = none)
      ∧ ptpMine (receive up (ptpMsg .sync true).eth true).2 (ptpMsg .sync true) = false
      ∧ ptpRuns up = false ∧ ptpRuns d = true ∧ ptpMaster d = true ∧ d.time.ptp.oneStep = true ∧ d.time.ptp.profile = 1 := by
  decide +kernel
theorem test_ptpSync : (exec (.ptpMessageReceived (ptpMsg .sync true)) (st (clocked 1 0 false)) |> fun
    | .next t => t.dev.time.ptp.syncSeq == 9 && t.dev.time.ptp.updates == 0 | _ => false) = true := by decide +kernel
theorem test_has_captures :
    let x : Capture := { rcd := zeros 24, edges := 0, last := some 3 }
    let d := atTick { up with time := { up.time with caps := [up.time.caps.getD 0 x, x] } } 6
    up.boot.phase = .up ∧ (up.time.caps[0]?).map (fun y => y.last) = some none ∧ d.time.caps[1]? = some x ∧ d.time.ticks < 3 + 4 := by
  decide +kernel

/-- The fields of a TU_ARM of trigger 63. -/
def arm63 : List (Nat × Nat) := [(0, 0xC0), (8 * 24, 63)]
/-- An armed trigger 63 with an increment of object 5 or none, first firing at tick 64. -/
def armed63 (obj : Bool) : Dev :=
  setTrig up 63 { trigDefault with armed := true, objEn := obj, obj := 5, inc := 1, first := 64, event := true }
/-- A TU_ARM of trigger 63 that comes at tick 1 and a TU_DISARM of it. -/
def lateArm : Dev := atTick (headed up arm63) 1
def disarmHead (d : Dev) : Dev := headed d [(0, 0xC1), (8 * 24, 63)]
theorem test_has_triggers :
    HasHead (headed up arm63) 0 0x0E01 (fun h => hOpcode h.desc == 0xC0 && tuArmReason (headed up arm63) h == none
        && decide ((headed up arm63).time.ticks ≤ tuFirst h.desc))
      ∧ HasHead lateArm 0 0x0E01 (fun h => hOpcode h.desc == 0xC0 && tuArmReason lateArm h == none
        && decide (tuFirst h.desc < lateArm.time.ticks))
      ∧ HasHead (disarmHead (armed63 false)) 0 0x0E01 (fun h => hOpcode h.desc == 0xC1
        && tuDisarmReason (disarmHead (armed63 false)) h == none && !fires (disarmHead (armed63 false)) 63)
      ∧ HasHead (disarmHead (atTick (armed63 false) 64)) 0 0x0E01 (fun h => hOpcode h.desc == 0xC1
        && tuDisarmReason (disarmHead (atTick (armed63 false) 64)) h == none && fires (disarmHead (atTick (armed63 false) 64)) 63) :=
  ⟨ready_of (by decide +kernel), ready_of (by decide +kernel), ready_of (by decide +kernel), ready_of (by decide +kernel)⟩
/-- The road worked out. -/
def cut (d : Dev) : Dev := { d with haul := { d.haul with roadLanes := 0 } }
theorem test_has_firings :
    ((trigOf (armed63 true) 63).armed = true ∧ (trigOf (armed63 true) 63).sent = false ∧ roadDown (armed63 true) = false
        ∧ roadDown (cut (armed63 true)) = true ∧ (armed63 true).time.ticks + 64 = (trigOf (armed63 true) 63).first)
      ∧ ((atTick (armed63 false) 64).time.ticks = (trigOf (atTick (armed63 false) 64) 63).first
        ∧ (trigOf (armed63 false) 63).out = 0 ∧ (atTick (armed63 false) 64).time.heldIncs = [])
      ∧ (trigOf up 63).armed = false := by decide +kernel

/-- The fields of a SYNC of operation `op` on object 8191, with value 5. -/
def syncFields (op : Nat) : List (Nat × Nat) := [(0, 1), (8 * 24, op), (8 * 26, 8191), (8 * 28, 5)]
/-- A device with object 8191 declared with a value, held by a context or none. -/
def declared (value : Nat) (holder : Option Nat) : Dev :=
  setSync up 8191 { syncDefault with declared := true, value := value, holder := holder }
/-- A device with a SYNC of operation `op` at the head of its queue. -/
def syncing (op value : Nat) (holder : Option Nat) : Dev := headed (declared value holder) (syncFields op)
theorem test_has_sync :
    HasHead (headed up (syncFields 1)) 0 0x0801
        (fun h => !syReserved h.desc && syOp h.desc == 1 && syClass h.desc != 3 && !(syncOf (headed up (syncFields 1)) 8191).declared)
      ∧ HasHead (syncing 2 0 none) 0 0x0801
        (fun h => !syReserved h.desc && syOp h.desc == 2 && objReason (syncing 2 0 none) (syObj h.desc) h.lc == none)
      ∧ HasHead (syncing 3 5 none) 0 0x0801 (fun h => !syReserved h.desc && syOp h.desc == 3 && waitReason (syncing 3 5 none) h == none
        && (queueOf (syncing 3 5 none) 0).mark.isNone && syValue h.desc == 5)
      ∧ HasHead (syncing 4 0 none) 0 0x0801 (fun h => !syReserved h.desc && syOp h.desc == 4
        && objReason (syncing 4 0 none) (syObj h.desc) h.lc == none && syObj h.desc == 8191)
      ∧ HasHead (syncing 5 0 (some 0)) 0 0x0801 (fun h => !syReserved h.desc && syOp h.desc == 5
        && objReason (syncing 5 0 (some 0)) (syObj h.desc) h.lc == none && syObj h.desc == 8191 && h.ctx == 0)
      ∧ HasHead (syncing 5 0 none) 0 0x0801 (fun h => !syReserved h.desc && syOp h.desc == 5 && syObj h.desc == 8191)
      ∧ HasHead (syncing 6 0 none) 0 0x0801 (fun h => !syReserved h.desc && syOp h.desc == 6 && h.ctx == 0 && syObj h.desc == 8191
        && !objInUse (syncing 6 0 none) 8191 0) :=
  ⟨ready_of (by decide +kernel), ready_of (by decide +kernel), ready_of (by decide +kernel), ready_of (by decide +kernel),
   ready_of (by decide +kernel), ready_of (by decide +kernel), ready_of (by decide +kernel)⟩
/-- A WAIT past its deadline at tick 100. -/
def lateWait : Dev := atTick (headed (declared 4 none) (syncFields 3 ++ [(8 * 36, 99)])) 100
/-- The same with a timeout increment of 1 of the object itself. -/
def lateWaitTo : Dev := atTick (headed (declared 4 none) (syncFields 3 ++ [(8 * 36, 99), (8 * 44, 32768 + 8191), (8 * 48, 1)])) 100
/-- A queue with a head and a covering set, at tick 100. -/
def covered (d : Dev) (fs : List (Nat × Nat)) : Dev := atTick (modQueue (headed d fs) 0 fun y => { y with cover := some [] }) 100
theorem test_has_waits :
    HasHead lateWait 0 0x0801 (fun h => !syReserved h.desc && syOp h.desc == 3 && waitReason lateWait h == none && syDeadline h.desc == 99
        && now lateWait == 100 && syValue h.desc == 5 && !syToEn h.desc)
      ∧ HasHead lateWaitTo 0 0x0801 (fun h => !syReserved h.desc && waitReason lateWaitTo h == none && syDeadline h.desc == 99
        && syToEn h.desc && syToObj h.desc == 8191)
      ∧ HasHead (modQueue lateWait 0 fun y => { y with mark := some 3 }) 0 0x0801 (fun h => syDeadline h.desc == 99)
      ∧ HasHead (covered up [(0, 2), (8 * 24, 1)]) 0 0x0801 (fun h => hOpcode h.desc == 2 && dfield h.desc 24 0 8 == 1
        && dfield h.desc 25 0 312 == 0)
      ∧ HasHead (covered up [(0, 3), (8 * 24, 100)]) 0 0x0801
        (fun h => hOpcode h.desc == 3 && dfield h.desc 32 0 256 == 0 && dfield h.desc 24 0 64 == 100)
      ∧ HasHead (covered up [(0, 3), (8 * 24, 99)]) 0 0x0801 (fun h => dfield h.desc 24 0 64 == 99 && !inLockstep (covered up []) h.ctx) :=
  ⟨ready_of (by decide +kernel), ready_of (by decide +kernel), ready_of (by decide +kernel), ready_of (by decide +kernel),
   ready_of (by decide +kernel), ready_of (by decide +kernel)⟩
theorem test_has_completion :
    let h : Head := { q := 0, ctx := 0, lc := false, desc := dsc [(8 * 16, 32768 + 8191), (8 * 20, 3)], idx := 0 }
    let e : Head := { h with desc := dsc [(8 * 2, 2)] }
    (onSignalDie up (dsc [(0, 0x80)]) = true ∧ onSignalDie up h.desc = false ∧ canCross up .st false = true
      ∧ canCross (cut up) .st false = false ∧ roadDown up = false
      ∧ canCross (crossing up .st ⟨false, .slotRelease 5 0, []⟩) .st false = false) ∧
    (hSignalEn h.desc = true ∧ hSignalObj h.desc = 8191 ∧ (syncOf (declared 0 none) 8191).declared = true)
      ∧ hSignalEn e.desc = false ∧ hEvent e.desc = true ∧ (ctxOf (headed up []) 0).evs.length < (ctxOf (headed up []) 0).evqDepth := by
  decide +kernel

/-! ### Witnesses: operations, reservations and compute -/

/-- An operation of context 0. -/
def op0 (fs : List (Nat × Nat)) (kind : EngKind) (units : List Nat) : Op :=
  { desc := dsc fs, queue := 0, idx := 0, ctx := 0, lc := false, graph := 0, kind := kind, units := units, phase := .moving,
    parked := false, away := [], run := .whole, cur := [], held := [], pes := [], spoilSeen := false, blocks := [], left := [],
    scratch := [], issued := 0, occ := 0, needs := [], pos := 0, got := 0, landed := 0, spoilRest := false, cut := none, outs := [] }
/-- A device with operation 7. -/
def operating (d : Dev) (o : Op) : Dev := setOp d 7 o
/-- A device with a reservation of bench 0. -/
def reserved0 (lc : Bool) : Dev :=
  operating { up with disp := { up.disp with resv := [⟨0, 0, 0, 10, [0]⟩] } } { op0 [(0, 0x10)] .bench [0] with lc := lc }
/-- A device with a boost that has had its time. -/
def boosted : Dev :=
  let d := headed (declared 0 (some 1)) (syncFields 4)
  atTick { d with disp := { d.disp with boosts := [{ holder := 1, obj := 8191, start := 0, waiters := [(0, 0)] }] } } 16000
/-- A parked operation, with what it runs on away. -/
def parkedOp (kind : EngKind) (away : List Nat) : Op := { op0 [(0, 0x10)] kind [3] with parked := true, away := away, phase := .running }
theorem test_has_operations :
    let done := { op0 [(0, 0x10)] .bench [0] with phase := .done }
    let waits := { done with outs := [(5, 1)] }
    let core := parkedOp .core [3]
    let bench := parkedOp .bench []
    (opOf (operating up done) 7 = some done ∧ outsIn (operating up done) done = true)
      ∧ (opOf (operating (setRing up 5 { ring0 with slotSt := [.filling] }) waits) 7 = some waits
        ∧ outsIn (operating (setRing up 5 { ring0 with slotSt := [.filling] }) waits) waits = false)
      ∧ opOf up 7 = none ∧ (∀ p ∈ [OpPhase.stalled, .moving], ({ done with phase := p } : Op).parked = false)
      ∧ (∀ r ∈ [WorkRun.whole, ⟨[0], [15], some 15⟩], workRunOk r = true)
      ∧ (opOf (reserved0 false) 7 = some (op0 [(0, 0x10)] .bench [0]) ∧ mustLeave (reserved0 false) (op0 [(0, 0x10)] .bench [0]) = true
        ∧ mustLeave (reserved0 true) { op0 [(0, 0x10)] .bench [0] with lc := true } = false)
      ∧ (opOf (operating up core) 7 = some core ∧ beTurn (operating up core) core = true
        ∧ (∀ c ∈ core.away, ownCore (operating up core) c = true))
      ∧ ((resumeBe (operating up bench) bench).isSome = true
        ∧ resumeBe { operating up bench with pwr := { up.pwr with heatHold := true } } bench = none)
      ∧ ((boosted.disp.boosts.find? fun x => x.obj == 8191 && x.start + 16000 ≤ now boosted).isSome = true
        ∧ (headOf boosted 0).isSome = true ∧ up.disp.boosts = [])
      ∧ (atTick up (2 ^ 20)).disp.halvedAt / 2 ^ 20 < now (atTick up (2 ^ 20)) / 2 ^ 20
      ∧ now up / 2 ^ 20 ≤ up.disp.halvedAt / 2 ^ 20 := by decide +kernel

/-- A graph record: period 16000, one bench from the window's start. -/
def windowRec : Bytes := [5, 1, 0, 0] ++ leBytes 4 16000 ++ zeros 16 ++ leBytes 4 1 ++ zeros 4 ++ leBytes 4 100 ++ zeros 36
/-- A device with graph 63 in a state. -/
def graphed (st : Nat) (rev : Option Nat) : Dev :=
  atTick (setGraph up 63 { graphDefault with rcd := windowRec, st := st, reason := 1, place := [[0], [], [], []], revokedIn := rev }) 16000
/-- The reservation of its first kind. -/
def resv63 : Resv := ⟨63, 0, 0, 16000, [0]⟩
/-- A device whose graph 63 has that reservation, and an operation in it or not. -/
def reserving (leaving late : Bool) : Dev :=
  let d := setGraph (graphed 1 none) 63 { graphOf (graphed 1 none) 63 with leaving := leaving }
  let d := { d with disp := { d.disp with resv := [resv63] } }
  if late then operating d { op0 [(0, 0x10)] .bench [0] with lc := true, graph := 63 } else d
theorem test_has_reservations :
    let d := graphed 1 none
    ((graphOf d 63).st = 1 ∧ 0 < gCount (graphOf d 63).rcd 0 ∧ windowAt (graphOf d 63).rcd 16000 = some 16000
        ∧ (graphOf d 63).admitAt + 8000 < 16000 ∧ now d = 16000 + gStart (graphOf d 63).rcd 0 ∧ d.disp.resv = [])
      ∧ (openingNow up 63 0 = none
        ∧ openingNow { d with disp := { d.disp with resv := [⟨63, 0, 16000, 16100, [0]⟩] } } 63 0 = some 16000)
      ∧ (∀ l ∈ [true, false], ∀ o ∈ [true, false],
        (reserving l o).disp.resv.find? (fun r => r.graph == 63 && r.kind == 0 && r.till ≤ now (reserving l o)) = some resv63
          ∧ (graphOf (reserving l o) 63).leaving = l ∧ (reserving l o).disp.ops.length = if o then 1 else 0)
      ∧ (resv63.window + gSpan windowRec ≤ now d ∧ d.disp.resv = [])
      ∧ ((graphOf (graphed 3 (some 0)) 63).revokedIn = some 0 ∧ (graphOf (graphed 3 (some 0)) 63).st = 3
        ∧ nextOpening (graphOf (graphed 3 (some 0)) 63).rcd 0 ≤ now (graphed 3 (some 0))) ∧ (graphOf d 63).st ≠ 3 := by decide +kernel

/-- A tensor of one element. -/
def tensor1 (fmt base size : Nat) : Tensor :=
  { fmt := fmt, dims := [1], base := base, pages := 1, size := size, host := false, pinMask := 0, pinMem := false, freeze := false }
/-- A device with tensors 0 and 1 of INT8, 2 of INT32 and 3 of FP32, one element each, their pages on every bench or on none. -/
def tensored (copies : Nat) : Dev :=
  let d := { up with mem := { up.mem with tensors :=
    [(0, tensor1 1 1 1), (1, tensor1 1 2 1), (2, tensor1 3 3 4), (3, tensor1 7 4 4)] } }
  [1, 2, 3, 4].foldl (fun d p => modPage d 0 p fun x => { x with st := .memory, chan := some 0, copies := copies, written := true }) d
def matmulFields : List (Nat × Nat) :=
  [(0, 0x10), (8 * 28, 1), (8 * 32, 2), (8 * 36, 1), (8 * 40, 1), (8 * 44, 1), (8 * 48, 0x11), (8 * 49, 3)]
def convFields : List (Nat × Nat) :=
  [(0, 0x11), (8 * 28, 1), (8 * 32, 2), (8 * 36, 1), (8 * 38, 1), (8 * 40, 1), (8 * 42, 1), (8 * 44, 1), (8 * 45, 1), (8 * 46, 0x11),
   (8 * 47, 0x11), (8 * 50, 1), (8 * 52, 0x11), (8 * 53, 3)]
def vopFields : List (Nat × Nat) :=
  [(0, 0x20), (8 * 26, 1), (8 * 28, 1), (8 * 30, 0x10), (8 * 31, 1), (8 * 36, noTensor), (8 * 40, noTensor), (8 * 44, 1),
   (8 * 48, noTensor), (8 * 58, 1)]
def quantFields : List (Nat × Nat) :=
  [(0, 0x30), (8 * 24, 3), (8 * 28, 0), (8 * 32, noTensor), (8 * 36, 1), (8 * 40, 1), (8 * 44, 0x71)]
/-- What the compute statement asks of a head, with its pages at hand or not. -/
def computeOk (d : Dev) (op : Nat) (check : Dev → Head → Option Nat) (hand : Bool) (h : Head) : Bool :=
  let o := computeOp d h .whole
  let e := (issue d h o).2
  hOpcode h.desc == op && check d h == none && mayIssue d h && (tableAbsent d h).isEmpty &&
    if hand then (opNeeds e o).isEmpty && !readsHot e d.disp.nextOp o
        && (op != 0x20 || tableValid e o.ctx (vecJob o.desc) d.disp.nextOp)
    else !(opNeeds e o).isEmpty && (opNeeds e o).all (servable e)
theorem test_has_compute : ∀ p ∈ [(true, 0xFFFF), (false, 0)],
    HasHead (headed (tensored p.2) matmulFields) 0 0x0301 (computeOk (headed (tensored p.2) matmulFields) 0x10 benchReason p.1)
      ∧ HasHead (headed (tensored p.2) convFields) 0 0x0301 (computeOk (headed (tensored p.2) convFields) 0x11 benchReason p.1)
      ∧ HasHead (headed (tensored p.2) vopFields) 0 0x0401 (computeOk (headed (tensored p.2) vopFields) 0x20 vecHeadReason p.1)
      ∧ HasHead (headed (tensored p.2) quantFields) 0 0x0501 (computeOk (headed (tensored p.2) quantFields) 0x30 quantReason p.1) := by
  intro p hp
  simp only [List.mem_cons, List.not_mem_nil, or_false] at hp
  obtain rfl | rfl := hp <;>
    exact ⟨ready_of (by decide +kernel), ready_of (by decide +kernel), ready_of (by decide +kernel), ready_of (by decide +kernel)⟩
/-- A MATMUL cut before its first vector, as its operation then stands. -/
def cutMatmul : Option (Dev × Op) :=
  (after (.matmul 0 ⟨[0], [], none⟩) (headed (tensored 0xFFFF) matmulFields)).bind fun d => (opOf d 0).map fun o => (d, o)
theorem test_has_cursor : (cutMatmul.map fun e => (e.2.phase == .running, e.2.cur, e.2.parked)) = some (true, [0], false) := by
  decide +kernel
theorem test_cursor_ends : (cutMatmul.map fun e => (opOf (runOp e.1 0 { e.2 with run := .whole }) 0).map fun p =>
    (p.phase == .done, p.parked, p.outs.isEmpty)) = some (some (true, false, true)) := by decide +kernel
theorem test_matmul_transient :
    ((after (.matmul 0 ⟨[], [0], none⟩) (headed (tensored 0xFFFF) matmulFields)).map fun d => d.comp.benchTransients.take 1) = some [1] := by
  decide +kernel
theorem test_has_intSplit :
    (2147483646 : Int).natAbs + ([1, 0].map Int.natAbs).sum < 2 ^ 31 ∧ dotInt true 16 1 2147483646 [1, 0] = (2147483647, fNone) := by
  decide +kernel

/-- A LAYER of tensor 2. -/
def layerFields : List (Nat × Nat) :=
  [(0, 8), (8 * 26, 1), (8 * 28, 2), (8 * 32, noTensor), (8 * 36, noTensor), (8 * 40, noTensor)]
/-- A device with a LAYER whose covered operations are complete. -/
def layering : Dev := covered (tensored 0) layerFields
theorem test_has_layer :
    HasHead layering 0 0x0901 (fun h => hOpcode h.desc == 8 && layerReason layering h == none && mayIssue layering h
        && (queueOf layering 0).mark.isNone && !inLockstep layering h.ctx && lyCount h.desc == 1
        && (match tensorOf layering h.ctx (lyId h.desc 0) with | some t => !sampleOpen layering h.ctx t | none => false)) :=
  ready_of (by decide +kernel)
/-- A device whose lock-step context waits in a LAYER of layer 2, with layer 0's pair compared or not, and matched or not. -/
def waiting (compared mismatch : Bool) : Dev :=
  let d := modQueue layering 0 fun y => { y with mark := some 0 }
  atTick { d with ls := { d.ls with
    enable := true, state := 2, lseq := 2, ctx := 0, timeout := 1, mine := [⟨0, 0, 0, 0, 1, 0, 0⟩],
    compared := if compared then [(0, 0)] else [], mismatch := if mismatch then [0] else [] } } 801
theorem test_has_lockstep : ∀ c ∈ [true, false], ∀ m ∈ [true, false],
    HasHead (waiting c m) 0 0x0901 (fun h => hOpcode h.desc == 8 && layerReason (waiting c m) h == none && mayIssue (waiting c m) h
      && (queueOf (waiting c m) 0).cover == some [] && (queueOf (waiting c m) 0).mark.isSome && inLockstep (waiting c m) h.ctx
      && lsAll (waiting c m) 0 == c && (waiting c m).ls.mismatch.contains 0 == m) := by
  have h : ∀ c ∈ [true, false], ∀ m ∈ [true, false], readyB (waiting c m) 0 0x0901 (fun h => hOpcode h.desc == 8
      && layerReason (waiting c m) h == none && mayIssue (waiting c m) h
      && (queueOf (waiting c m) 0).cover == some [] && (queueOf (waiting c m) 0).mark.isSome && inLockstep (waiting c m) h.ctx
      && lsAll (waiting c m) 0 == c && (waiting c m).ls.mismatch.contains 0 == m) = true := by decide +kernel
  exact fun c hc m hm => ready_of (h c hc m hm)
theorem test_has_lockstepTimeout :
    let d := waiting false false
    d.ls.enable = true ∧ d.ls.state = 2 ∧ 2 ≤ d.ls.lseq ∧ lsAll d (d.ls.lseq - 2) = false
      ∧ (layerAt d).any (fun w => w.2 + 800 * d.ls.timeout < now d) = true ∧ (ctxOf d d.ls.ctx).reg.st = ctxActive
      ∧ up.ls.enable = false ∧ (layerAt (atTick d 800)).map (fun w => decide (now (atTick d 800) ≤ w.2 + 800 * d.ls.timeout)) = some true := by decide +kernel

/-! ### Witnesses: the haul road and memory -/

/-- A MOVE of one element between two names. -/
def moveFields (src dst : Nat) : List (Nat × Nat) := [(0, 0x40), (8 * 24, src), (8 * 28, dst), (8 * 32, 1), (8 * 57, 0x10)]
/-- Ring 5's name. -/
def ring5 : Nat := 0xFFFFE005
/-- A device with ring 5. -/
def ringed (d : Dev) (x : Ring) : Dev := setRing d 5 x
/-- A RING of operation `op` on ring 5. -/
def ringFields (op : Nat) : List (Nat × Nat) := [(0, 0x41), (8 * 24, op), (8 * 26, 5), (8 * 28, 64), (8 * 30, 256)]
/-- The fields of a RING CREATE of a ring consumed on logical bench 15's bench. -/
def benchRing : List (Nat × Nat) := [(0, 0x41), (8 * 24, 1), (8 * 25, 15), (8 * 26, 5), (8 * 28, 3 + 0x4000), (8 * 30, 1)]
theorem test_has_moves :
    HasHead (headed (tensored 1) (moveFields 0 1)) 0 0x0601 (fun h =>
        let d := headed (tensored 1) (moveFields 0 1)
        hOpcode h.desc == 0x40 && moveReason d h == none && moveReady d h && !mvRemote h.desc && !mvConvey h.desc
          && sideIsTensor (mvFrom h.desc) && sideIsTensor (mvTo h.desc))
      ∧ HasHead (headed up benchRing) 0 0x0601 (fun h => rgOp h.desc == 1 && createReason (headed up benchRing) h == none
        && (rgNew h).consDie == 1 && hostReady (headed up benchRing) (rgBench h.desc))
      ∧ HasHead (headed up (ringFields 1)) 0 0x0601
        (fun h => hOpcode h.desc == 0x41 && rgOp h.desc == 1 && createReason (headed up (ringFields 1)) h == none && (rgNew h).consDie == 0)
      ∧ HasHead (headed (ringed up ring0) (ringFields 2)) 0 0x0601
        (fun h => rgOp h.desc == 2 && ringReason (headed (ringed up ring0) (ringFields 2)) h == none)
      ∧ HasHead (headed (ringed up ring0) (ringFields 3)) 0 0x0601 (fun h => rgOp h.desc == 3
        && ringReason (headed (ringed up ring0) (ringFields 3)) h == none && rgId h.desc == 5) :=
  ⟨ready_of (by decide +kernel), ready_of (by decide +kernel), ready_of (by decide +kernel), ready_of (by decide +kernel),
   ready_of (by decide +kernel)⟩
/-- Ring 5 with its first slot in a state, and the same on two dies. -/
def ringAt (s : SlotSt) : Ring := { ring0 with slotSt := [s, .empty, .empty, .empty] }
def crossRing (s : SlotSt) : Ring := { ringAt s with consDie := 1 }
/-- The name of ring 6. -/
def ring6 : Nat := 0xFFFFE006
theorem test_has_ringSlots :
    let o := op0 (moveFields 2 ring5) .haul [0]
    let p := op0 (moveFields ring5 2) .haul [0]
    let put := op0 (moveFields ring5 2 ++ [(8 * 57, 8)]) .haul [0]
    let between (src dst : Nat) := op0 (moveFields src dst) .haul [0]
    let f := operating (ringed (tensored 1) (ringAt .filling)) o
    let e := operating (ringed (tensored 1) (ringAt .draining)) p
    let two (a b : SlotSt) (src dst : Nat) := operating (setRing (ringed up (ringAt a)) 6 (ringAt b)) (between src dst)
    let flit : Flit := ⟨true, .slotData 5 0 7 true false [], []⟩
    let c := ringed (crossing up .st flit) (crossRing .filling)
    (ringOf up 5 = none ∧ ringOf f 5 = some (ringAt .filling) ∧ ringDir (ringAt .filling) = none ∧ ringMover f 5 true = some (7, o)
        ∧ tailOpen (ringAt .filling) = true ∧ haulRuns f o = true ∧ ring0.prod = none ∧ mvRemote o.desc = false
        ∧ sideRing (mvFrom o.desc) = none ∧ o.needs = [] ∧ o.pos < moveTotal f o)
      ∧ (ringMover (two .filling .draining ring6 ring5) 5 true = some (7, between ring6 ring5)
        ∧ sideRing (mvFrom (between ring6 ring5).desc) = some 6 ∧ (ringOf (two .filling .draining ring6 ring5) 6).isSome = true)
      ∧ (ringMover e 5 false = some (7, p) ∧ headOpen (ringAt .draining) = true ∧ haulRuns e p = true ∧ ring0.cons = none
        ∧ mvRemote p.desc = false ∧ sideRing (mvTo p.desc) = none ∧ ringMover e 5 true = none ∧ ringMover f 5 false = none)
      ∧ (ringMover (two .draining .filling ring5 ring6) 5 false = some (7, between ring5 ring6)
        ∧ sideRing (mvTo (between ring5 ring6).desc) = some 6)
      ∧ (ringMover (operating (ringed up (ringAt .draining)) put) 5 false = some (7, put) ∧ mvRemote put.desc = true)
      ∧ (ringDir (crossRing .filling) = some .st ∧ nextFlit (roadOf c .st) = some flit ∧ roadRuns c = true ∧ lastOf 5 flit = true)
      ∧ ring0.fullEn = false ∧ ring0.rt = false ∧ ring0.emptyEn = false ∧ slotStOf (ringAt .draining) 0 = .draining := by decide +kernel
/-- A conveyor of one slot of tensor 0 to two receivers that have accepted given slots, the first of them on logical bench 0. -/
def conv (fetched a b : Nat) (staged : List (Nat × List (BitVec 8 × Bool))) (detached : Tab Nat) : Conv :=
  { op := 7, total := 3, fetched := fetched, staged := staged, accepted := [(0, a), (1, b)], detached := detached }
/-- A device with it, the pages of its tensors as `f` gives them. -/
def conveying (c : Conv) (f : Nat → Page → Page) : Dev :=
  let d := operating (tensored 1) (op0 ([(0, 0x40), (8 * 28, 1), (8 * 32, 1), (8 * 57, 0x12), (8 * 58, 3)]) .haul [0])
  let d := [1, 2].foldl (fun d p => modPage d 0 p (f p)) d
  { d with haul := { d.haul with convs := [c] } }
/-- A page left as it is, and a page that the host holds. -/
def asIs (_ : Nat) (x : Page) : Page := x
def gone (k p : Nat) (x : Page) : Page := if p = k then { x with st := .hostAbsent, copies := 0 } else x
/-- Whether a conveyor of a device satisfies `p`. -/
def convB (d : Dev) (p : Conv → Op → Bool) : Bool :=
  match convOf d 7, opOf d 7 with
  | some c, some o => haulRuns d o && p c o
  | _, _ => false
/-- The receivers that are late. -/
def lates (c : Conv) : List Nat := ((c.accepted.map fun a => a.1).filter (convAttached c)).filter fun l => 2 ≤ convSkew c l
theorem test_has_conveyorFetch :
    convB (conveying (conv 0 0 0 [] []) asIs) (fun c o => decide (c.fetched < c.total)
        && (convLack (conveying (conv 0 0 0 [] []) asIs) o 0).isEmpty && (lates c).isEmpty) = true
      ∧ convB (conveying (conv 0 0 0 [] []) (gone 1)) (fun _ o => !(convLack (conveying (conv 0 0 0 [] []) (gone 1)) o 0).isEmpty) = true
      ∧ convB (conveying (conv 2 0 2 [] []) asIs) (fun c o => !(lates c).isEmpty && convSkew c 1 == 0
        && (convRoom (conveying (conv 2 0 2 [] []) asIs) o 1 2).2) = true
      ∧ convB (conveying (conv 2 0 1 [] []) asIs) (fun c _ => !(lates c).isEmpty && convSkew c 0 != 0 && convSkew c 1 != 0) = true
      ∧ convB (conveying (conv 3 0 1 [] []) asIs) (fun c _ => decide (c.total ≤ c.fetched)) = true := by decide +kernel
theorem test_has_conveyorAccept :
    let d (k : Nat) (staged : List (Nat × List (BitVec 8 × Bool))) (detached : Tab Nat) := conveying (conv 1 0 0 staged detached) (gone k)
    convB (d 0 [(0, [])] []) (fun c o => thas c.accepted 0 && decide (convAccepted c 0 < c.total) && convAttached c 0
        && (tfind c.staged 0).isSome && (convTargets (d 0 [(0, [])] []) o 0 0).isEmpty && (convRoom (d 0 [(0, [])] []) o 0 0).2) = true
      ∧ convB (d 2 [(0, [])] []) (fun c o => convAttached c 0 && !(convTargets (d 2 [(0, [])] []) o 0 0).isEmpty) = true
      ∧ convB (d 0 [] []) (fun c _ => convAttached c 0 && (tfind c.staged 0).isNone) = true
      ∧ convB (d 0 [] [(0, 0)]) (fun c o => !convAttached c 0 && (convTargets (d 0 [] [(0, 0)]) o 0 0).isEmpty
        && (convLack (d 0 [] [(0, 0)]) o 0).isEmpty && (convRoom (d 0 [] [(0, 0)]) o 0 0).2) = true
      ∧ convB (d 1 [] [(0, 0)]) (fun c o => !convAttached c 0 && !(convLack (d 1 [] [(0, 0)]) o 0).isEmpty) = true := by decide +kernel
theorem test_has_flits : ∀ f ∈ [Payload.slotData 5 0 0 true false [], .sysData false true 3 0, .slotRelease 5 0, .sysRelease true false 1,
      .syncInc 1 1 0 0 0 0x90 0, .ringInc 5 1, .complete 0 0 0 (dsc [(0, 0x80)]), .preempt 31 9, .trigInc ⟨1, 5, 1, 0, 64⟩],
    roadRuns (crossing up .ts ⟨false, f, []⟩) = true ∧ nextFlit (roadOf (crossing up .ts ⟨false, f, []⟩) .ts) = some ⟨false, f, []⟩
      ∧ (roadOf (crossing up .ts ⟨false, f, []⟩) .ts).refused = none
      ∧ now (acceptFlit (crossing up .ts ⟨false, f, []⟩) .ts ⟨false, f, []⟩) < 64
      ∧ now (acceptFlit (atTick (crossing up .ts ⟨false, f, []⟩) 64) .ts ⟨false, f, []⟩) = 64 := by
  decide +kernel
/-- A device whose road retrains. -/
def retrains : Dev := { up with haul := { up.haul with roadLanes := 32, st := { up.haul.st with retrain := true } } }
theorem test_has_road :
    let f : Flit := ⟨false, .slotRelease 5 0, []⟩
    let d := crossing up .st f
    let again := setRoad d .st { roadOf d .st with replay := [(9, f)], refused := some 9 }
    let left (ls : List Nat) := lanesLeft (ls.foldl halfOut retrains)
    (roadRuns again = true ∧ nextFlit (roadOf again .st) = some f ∧ (roadOf again .st).refused ≠ none)
      ∧ (roadRuns up = true ∧ (roadOf up (otherDir .st)).refused = none ∧ nextFlit (roadOf up .st) = none
        ∧ (roadOf again (otherDir .ts)).refused = some 9 ∧ roadRuns retrains = false)
      ∧ (retraining up = false ∧ retraining retrains = true ∧ left [] = retrains.haul.roadLanes ∧ left [63] = 16
        ∧ left [0, 31] = 0 ∧ (∀ l ∈ [0, 31, 63], l < 64)) := by decide +kernel

/-- A device whose context 0 has a table entry of one INT32 element under name 9. -/
def tabled (fs : List (Nat × Nat)) : Dev :=
  modCtx (headed (tensored 1) fs) 0 fun c => { c with table := leBytes 4 9 ++ [0x31, 0, 0, 0, 1] ++ zeros 23 }
/-- An ALLOC of tensor 9, pinned on a mask of benches or none. -/
def allocFields (mask : Nat) : List (Nat × Nat) := [(0, 0x50), (8 * 24, 9), (8 * 28, if mask = 0 then 0 else 0x20), (8 * 30, mask)]
theorem test_has_allocs :
    HasHead (tabled (allocFields 0)) 0 0x0701 (fun h => hOpcode h.desc == 0x50 && allocReason (tabled (allocFields 0)) h == none
        && allocReady (tabled (allocFields 0)) h && ((alTensor (tabled (allocFields 0)) h.ctx h.desc).map fun t => t.pinMask) == some 0)
      ∧ HasHead (tabled (allocFields 0x8001)) 0 0x0701 (fun h => allocReason (tabled (allocFields 0x8001)) h == none
        && allocReady (tabled (allocFields 0x8001)) h
        && ((alTensor (tabled (allocFields 0x8001)) h.ctx h.desc).map fun t => t.pinMask) == some 0x8001)
      ∧ HasHead (tabled [(0, 0x51), (8 * 24, 2)]) 0 0x0701 (fun h => hOpcode h.desc == 0x51
        && freeReason (tabled [(0, 0x51), (8 * 24, 2)]) h == none && (tabled [(0, 0x51), (8 * 24, 2)]).disp.ops.isEmpty) :=
  ⟨ready_of (by decide +kernel), ready_of (by decide +kernel), ready_of (by decide +kernel)⟩

/-- A device with page 1 in state `s` on channel 0, asked of its host at tick 0. -/
def paged (s : PageSt) : Dev :=
  let d := modPage (tensored 0) 0 1 fun p => { p with st := s, req := some 0 }
  atTick { d with mem := { d.mem with hostTimeout := 1 } } 801
/-- A device with channel 7 DRAINING and a number of pages on it. -/
def draining7 (pages : Nat) : Dev :=
  chanTo ((List.range pages).foldl (fun d i => modPage d 0 (i + 1) fun p => { p with chan := some 7 }) (tensored 0)) 7 2
/-- A device whose operation 7 waits for pages of context 0 on bench 0. -/
def faulting (ps : List Nat) (frames : Nat) : Dev :=
  let d := operating (tensored 0) { op0 matmulFields .bench [0] with phase := .stalled, needs := ps.map fun p => (ckey 0 p, 0) }
  (List.range frames).foldl (fun d i => modPage d 1 i fun p => { p with st := .memory, copies := 1 }) d
theorem test_has_pageIns :
    (∀ ps ∈ [[1], [1, 2]], ((opOf (faulting ps 0) 7).bind fun o => o.needs.find? (servable (faulting ps 0))) = some (ckey 0 1, 0)
        ∧ lcWaits (faulting ps 0) = false ∧ (servePage (faulting ps 0) 0 1 (some 0) false []).2 = true
        ∧ servable (servePage (faulting ps 0) 0 1 (some 0) false []).1 (ckey 0 1, 0) = true
        ∧ ((opOf (servePage (faulting ps 0) 0 1 (some 0) false []).1 7).map fun p => (dropNeed (ckey 0 1, 0) p.needs).length) = some (ps.length - 1))
      ∧ failsOk [⟨2 ^ 32 - 1, 1023, true⟩] = true
      ∧ hostLate (paged .hostAbsent) 0 1 = true ∧ hostLate (atTick (paged .hostAbsent) 800) 0 1 = false := by decide +kernel
/-- A device with page 1 on bench 0 or on none. -/
def copied : Dev := modPage (paged .memory) 0 1 fun p => { p with copies := 1 }
theorem test_has_pageMoves :
    ((tensorAt (paged .memory) 0 1).map (fun t => t.2.freeze) = some false ∧ (pageOf (paged .memory) 0 1).chan = some 0
        ∧ (chanReg (paged .memory) 7).st = 1 ∧ chanFree (paged .memory) 7 ≠ 0 ∧ (paged .memory).mem.migrateFreeze = false
        ∧ chanFull (paged .memory) 7 = false ∧ (paged .memory).mem.clamping = [])
      ∧ ((tensorAt copied 0 1).isSome = true ∧ lowBit (pageOf copied 0 1).copies = some 0 ∧ bitAt (pageOf copied 0 1).copies 15 = false
        ∧ benchTakes copied 15 = true ∧ pagePinned copied 0 (ckey 0 1) = false ∧ (roomFor copied 0 1 15 false).2 = true)
      ∧ ((chanReg (draining7 2) 7).st = 2 ∧ pageOn (draining7 2) 7 = some (ckey 0 1) ∧ (chanReg (draining7 2) 0).st = 1
        ∧ chanFree (draining7 2) 0 ≠ 0 ∧ chanTakes (draining7 2) 0 = true
        ∧ pageOn (modPage (draining7 2) 0 1 fun x => { x with chan := some 0 }) 7 ≠ none
        ∧ pageOn (modPage (draining7 1) 0 1 fun x => { x with chan := some 0 }) 7 = none)
      ∧ ((chanReg (draining7 0) 7).st = 2 ∧ pageOn (draining7 0) 7 = none)
      ∧ ((benchReg (benchTo up 15 2) 15).st = 2 ∧ (benchTo up 15 2).disp.ops = [])
      ∧ ((pairReg (pairTo up 15 2) 15).st = 2 ∧ unitBusy (pairTo up 15 2) .core 30 = false ∧ unitBusy (pairTo up 15 2) .core 31 = false) := by
  decide +kernel
theorem test_has_memory :
    Memory.wf up.mem.cells = true ∧ vkey 5 0 < vkey 5 1 ∧ vkey 5 64 + 2 ≤ vkey 5 66 ∧ (vkey 5 64 + 2 + 63) / 64 ≤ vkey 5 128 / 64 ∧ vkey 5 0 / 64 < vkey 5 64 / 64
      ∧ memByte (memWrite up 5 64 [7, 9] true) 5 65 = 9 ∧ memByte (memWrite up 5 64 [7, 9] true) 5 66 = 0 := by decide +kernel

/-! ### Witnesses: the radio front end -/

/-- A device with receive link 3 in state `r` on lane 15 at tick `t`, its lane as `lane` gives it. -/
def rxLink (r t : Nat) (f : LinkSt → LinkSt) (lane : LaneSt → LaneSt) : Dev := atTick (modLane (linked up 3 r f) 15 lane) t
/-- Lane 15 locked. -/
def lock15 (k : LinkSt) : LinkSt := { k with locked := [15] }
/-- Lane 15 past its 100 µs, in its first attempt or its second. -/
def lateLane (b : Bool) : Dev := rxLink 1 80001 id fun x => { x with second := b }
/-- Link 3 RUNNING with lane 15 locked, its last multiblock bad or not. -/
def runsLane (t : Nat) (bad : Bool) : Dev := rxLink 2 t lock15 fun x => { x with bad := bad, second := bad }
theorem test_has_lanes :
    let a (r : Nat) := rxLink r 0 id id
    (∀ r ∈ [1, 2], linkOfLane (a r) 15 = some 3 ∧ (laneOf (a r) 15).reg.st ≠ 3 ∧ laneLocked (a r) 3 15 = false
        ∧ (linkOf (a r) 3).reg.st = r)
      ∧ (∀ b ∈ [true, false], linkOfLane (lateLane b) 15 = some 3 ∧ lockOver (lateLane b) 15 = true ∧ (laneOf (lateLane b) 15).second = b)
      ∧ (∀ b ∈ [true, false], linkOfLane (runsLane 53 b) 15 = some 3 ∧ laneLocked (runsLane 53 b) 3 15 = true
        ∧ (laneOf (runsLane 53 b) 15).second = b ∧ (linkOf (runsLane 53 b) 3).reg.st = 2
        ∧ multiblockEnd (linkOf (runsLane 53 b) 3) (laneOf (runsLane 53 b) 15).mb ≤ (runsLane 53 b).time.ticks
        ∧ (laneOf (runsLane 53 b) 15).bad = b)
      ∧ ((runsLane 52 false).time.ticks < multiblockEnd (linkOf (runsLane 52 false) 3) (laneOf (runsLane 52 false) 15).mb
        ∧ lockOver (rxLink 1 80000 id id) 15 = false ∧ linkOfLane up 15 = none) := by
  decide +kernel
theorem test_has_lemcRelease :
    let ready := rxLink 1 625 (fun k => { k with locked := [15], lemc := some 0 }) id
    let transmit := atTick (linked up 7 1 fun k => { k with lemc := some 0 }) 625
    ((linkOf ready 3).reg.st = 1 ∧ releaseBoundary (linkOf ready 3) = some 625 ∧ allLocked ready 3 = true
        ∧ 625 + (if 3 < 4 then lkRelease (linkOf ready 3).rcd else 0) ≤ ready.time.ticks ∧ 15 ∈ lkLanes (linkOf ready 3).rcd)
      ∧ ((linkOf transmit 7).reg.st = 1 ∧ releaseBoundary (linkOf transmit 7) = some 625 ∧ allLocked transmit 7 = true)
      ∧ ((linkOf up 3).reg.st ≠ 1 ∧ allLocked (rxLink 1 0 id id) 3 = false ∧ releaseBoundary (linkOf (rxLink 1 0 lock15 id) 3) = none) := by
  decide +kernel

/-- A device with RUNNING links 3 and 7, ring 5, and a descriptor at its head. -/
def radio (fs : List (Nat × Nat)) : Dev := headed (ringed (linked (rxLink 2 0 lock15 id) 7 2 id) ring0) fs
theorem test_has_streamBinds :
    HasHead (radio [(0, 0x80), (8 * 24, 7), (8 * 26, 5)]) 0 0x0A01 (fun h =>
        hOpcode h.desc == 0x80 && feStartReason (radio [(0, 0x80), (8 * 24, 7), (8 * 26, 5)]) h == none && !feDir h.desc
          && linkFor (radio []) 0 7 == some 3 && feUnit h.desc == 7)
      ∧ HasHead (radio [(0, 0x80), (8 * 24, 0x87), (8 * 26, 5)]) 0 0x0A01 (fun h =>
        feStartReason (radio [(0, 0x80), (8 * 24, 0x87), (8 * 26, 5)]) h == none && feDir h.desc && linkFor (radio []) 1 7 == some 7)
      ∧ HasHead (radio [(0, 0x81), (8 * 24, 7)]) 0 0x0A01
        (fun h => hOpcode h.desc == 0x81 && !feReserved h.desc && feState (radio []) (feDir h.desc) 7 == 0)
      ∧ (let d := setFeRx (setFeTx (radio [(0, 0x81), (8 * 24, 7)]) 7 { feTxDefault with reg := ⟨0, 2⟩ }) 7 { feRxDefault with reg := ⟨0, 2⟩ }
        HasHead d 0 0x0A01 (fun h => !feReserved h.desc && !feDir h.desc && (feRxOf d 7).reg.st != 0)
          ∧ HasHead (headed d [(0, 0x81), (8 * 24, 0x87)]) 0 0x0A01 (fun h => feDir h.desc && (feTxOf d 7).reg.st != 0)) :=
  ⟨ready_of (by decide +kernel), ready_of (by decide +kernel), ready_of (by decide +kernel), ready_of (by decide +kernel),
   ready_of (by decide +kernel)⟩
/-- A receive stream 7 in a state with what `f` gives it. -/
def rx7 (st : Nat) (f : FeRx → FeRx) : Dev := setFeRx (rxLink 2 0 lock15 fun x => { x with mb := 1 }) 7 (f { feRxDefault with reg := ⟨0, st⟩ })
/-- A transmit stream 7 in a state with what `f` gives it. -/
def tx7 (st : Nat) (f : FeTx → FeTx) : Dev := setFeTx (linked up 7 2 id) 7 (f { feTxDefault with reg := ⟨0, st⟩ })
/-- A receive stream 7 whose first sample has passed the latency of its link. -/
def came (st : Nat) (f : FeRx → FeRx) : Dev := atTick (rx7 st fun r => f { r with line := [(0, (1, 2), false)] }) 65536
/-- Such a stream in a state, late or not, as the statement asks. -/
def startsAs (st : Nat) (l : Bool) : Bool :=
  let d := came st fun r => { r with bind := { r.bind with late := l } }
  linkFor d 0 7 == some 3 && (feRxOf d 7).line == [(0, (1, 2), false)] && latencyOver d 3 0 && (feRxOf d 7).bind.stops.isEmpty
    && (feRxOf d 7).reg.st == st && (feRxOf d 7).bind.late == l
theorem test_has_starts :
    ((startsAs 1 true && startsAs 1 false && startsAs 2 true && startsAs 2 false) = true)
      ∧ (let d := rx7 2 fun r => { r with bind := { r.bind with stops := [(0, 9)] } }
        linkFor d 0 7 = some 3 ∧ (feRxOf d 7).line = [] ∧ (feRxOf d 7).reg.st ≠ 0 ∧ stopDue d 3 (feRxOf d 7).bind = true)
      ∧ (linkFor (rx7 0 id) 0 7 = some 3 ∧ (feRxOf (rx7 0 id) 7).reg.st = 0 ∧ stopDue (rx7 2 id) 3 (feRxOf (rx7 2 id) 7).bind = false) := by
  decide +kernel
theorem test_has_samples :
    let d := rx7 2 id
    let half := rx7 2 fun r => { r with cfg := overlay r.cfg 4 [2], bind := { r.bind with n := 1 } }
    (linkFor d 0 7 = some 3 ∧ (feRxOf d 7).reg.st = 2 ∧ (feRxOf d 7).bind.stops = [] ∧ (feRxOf d 7).line = [] ∧ linkKeepsTime d 3 = true
        ∧ nextTick d 3 (feRxOf d 7).bind ≤ d.time.ticks ∧ released d 3 0 = true ∧ sampleHere d 3 0 = true ∧ sampleBad d 3 0 = false
        ∧ (rxChain (feRxOf d 7) (1, 2)).2.isSome = true)
      ∧ (rxChain (feRxOf half 7) (1, 2)).2 = none
      ∧ ((detOf d 7).on = false ∧ (detOf d 7).noiseDue = false ∧ (detOf d 7).detDue = false ∧ (detOf d 7).endDue = false
        ∧ (detOf d 7).corr = none) := by decide +kernel
theorem test_has_txStreams :
    (∀ d ∈ [tx7 1 id, tx7 2 id], linkFor d 1 7 = some 7 ∧ linkKeepsTime d 7 = true
        ∧ sampleTick d 7 (feTxOf d 7).bind.start ≤ d.time.ticks ∧ nextTick d 7 (feTxOf d 7).bind ≤ d.time.ticks
        ∧ stopped d 7 { (feTxOf d 7).bind with n := 0 } = false ∧ (feTxOf d 7).bind.late = false ∧ (feTxOf d 7).bind.halt = false
        ∧ (feTxOf d 7).bind.stops = [] ∧ (feTxOf d 7).block.length < 512 ∧ dpdFor d 7 = none ∧ stopDue d 7 (feTxOf d 7).bind = false)
      ∧ (let d := tx7 2 fun t => { t with bind := { t.bind with stops := [(0, 9)] } }
        (feTxOf d 7).reg.st ≠ 0 ∧ stopDue d 7 (feTxOf d 7).bind = true) ∧ (feTxOf (tx7 0 id) 7).reg.st = 0 := by decide +kernel

/-- Detector 63 with what `f` gives it. -/
def det63 (f : DetSt → DetSt) : Dev := setDet up 63 (f detDefault)
/-- Correlator 15 with a search that is over. -/
def searched : Dev := setCorr up 15 { corrDefault with det := some 63, newest := 65535, search := some (0, 0, 0, 0, 0) }
theorem test_has_detectors :
    HasHead (radio [(0, 0x82), (8 * 24, 0x47), (8 * 25, 0xFF), (8 * 26, 5)]) 0 0x0A01 (fun h => hOpcode h.desc == 0x82 && feEnable h.desc
        && feDetectReason (radio [(0, 0x82), (8 * 24, 0x47), (8 * 25, 0xFF), (8 * 26, 5)]) h == none)
      ∧ HasHead (radio [(0, 0x82), (8 * 24, 7)]) 0 0x0A01 (fun h => !feEnable h.desc && !feReserved h.desc && !feDir h.desc
        && decide (feCorr h.desc ≤ 15))
      ∧ ((detOf (det63 fun x => { x with noiseDue := true }) 63).noiseDue = true ∧ (detOf (det63 id) 63).seen = 0
        ∧ (detOf (det63 fun x => { x with noiseDue := true, seen := 4 }) 63).seen ≠ 0
        ∧ (detOf (det63 fun x => { x with detDue := true }) 63).detDue = true ∧ (detOf (det63 id) 63).corr = none
        ∧ (detOf (det63 fun x => { x with detDue := true, corr := some 15 }) 63).corr = some 15 ∧ (corrOf up 15).search = none
        ∧ (corrOf searched 15).search.isSome = true ∧ (corrOf searched 15).det = some 63 ∧ searchOver up 15 = false
        ∧ (detOf up 63).noiseDue = false ∧ (detOf up 63).detDue = false ∧ (detOf up 63).endDue = false
        ∧ bestAlignment 0 0 ((List.range 2).filterMap fun i => alignmentAt (corrOf searched 15) [(1, 0)] i) = none
        ∧ (detOf (det63 fun x => { x with endDue := true }) 63).endDue = true ∧ dePin detDefault.env = false
        ∧ leAt detDefault.env 8 4 ≤ leAt detDefault.env 12 4 ∧ searchOver searched 15 = true) :=
  ⟨ready_of (by decide +kernel), ready_of (by decide +kernel), by decide +kernel⟩
theorem test_has_masks :
    let d (t : Nat) := tx7 2 fun x => { x with block := List.replicate t (0, 0) }
    512 ≤ (feTxOf (d 512) 7).block.length ∧ silent (feTxOf (d 512) 7).block = true ∧ (feTxOf (d 511) 7).block.length < 512 := by
  decide +kernel
/-- DPD engine 15 on stream 7, with captures of one sample. -/
def dpd15 : DpdSt := { dpdDefault with cfg := [7, 1, 1, 0] ++ leBytes 4 1, env := overlay dpdDefault.env 0 [0] }
/-- A device with it, its stream and its observation link. -/
def distorted (e : DpdSt) : Dev :=
  setDpd (modLink (tx7 2 id) 3 fun k => { k with reg := ⟨0, 2⟩, rcd := overlay (link1 8 0 15) 4 [2], locked := [15] }) 15 e
theorem test_has_dpdStart :
    let d := distorted dpd15
    (linkFor d 2 15 = some 3 ∧ dpPin dpd15.env = false ∧ dpFreeze dpd15.env = false ∧ dpStream dpd15.cfg < 64
        ∧ (feTxOf d (dpStream dpd15.cfg)).reg.st = 2 ∧ dpd15.cap = none ∧ dpd15.swap = none ∧ (linkOf d 3).reg.st = 2)
      ∧ dpPin dpdDefault.env = true := by decide +kernel
theorem test_has_observation :
    let d := modLane (distorted { dpd15 with cap := some 0 }) 15 fun x => { x with mb := 1 }
    linkFor d 2 15 = some 3 ∧ tget 0 d.fe.obs 15 = 0 ∧ linkKeepsTime d 3 = true ∧ sampleTick d 3 0 ≤ d.time.ticks
      ∧ sampleHere d 3 0 = true ∧ monitored d (dpStream dpd15.cfg) = false ∧ 0 ≤ sampleTick d 3 0 ∧ (dpdOf d 15).obs.length < dpLen dpd15.cfg
      ∧ (dpdOf d 15).ended = false := by decide +kernel
theorem test_has_captures_dpd :
    let full : DpdSt := { dpd15 with cap := some 0, ins := [(0, 0)], obs := [(0, 0)] }
    captured full = true ∧ skipReason full = none ∧ skipReason { full with obsBad := true } = some 3
      ∧ skipReason { full with env := overlay full.env 12 [1] } = some 1 ∧ captured { full with obs := [] } = false
      ∧ ({ full with ended := true } : DpdSt).cap ≠ none
      ∧ (feTxOf (distorted full) 7).reg.st = 2 ∧ (feTxOf up 7).reg.st ≠ 2 := by decide +kernel
theorem test_has_swap :
    let e := { dpd15 with swap := some 0 }
    swapTick up e = some 625 ∧ nextFrom (atTick up 625) 7 625 = true ∧ nextFrom (atTick up 624) 7 625 = false ∧ dpd15.swap = none := by
  decide +kernel
/-! ### Witnesses: signal cores -/

/-- An instance of operation 7 with a program and what `f` gives it. -/
def inst7 (prog : List Nat) (f : Inst → Inst) : Inst :=
  f { op := 7, index := 0, prog := prog.flatMap (leBytes 8), xfoot := 64, yfoot := 64, pc := 0, v := List.replicate 64 vecZero,
      a := List.replicate 16 0, aspoil := List.replicate 16 false, lc := List.replicate 4 0, x := [], y := [], xspoil := [],
      yspoil := [], loops := [], rrb := 0, windows := List.replicate 4 none, cycles := 5, limit := 0, cached := none, spoilRead := false,
      fails := [] }
/-- Device `d` with that instance on core 31. -/
def onCore (d : Dev) (prog : List Nat) (f : Inst → Inst) : Dev :=
  modCore (operating d (op0 [(0, 0x90)] .core [31])) 31 fun c => { c with insts := [inst7 prog f] }
/-- A word of a class and operation. -/
def word (cls op rest : Nat) : Nat := cls * 2 ^ 61 + op * (if cls = 0 then 2 ^ 49 else 2 ^ 56) + rest
/-- A program of one HALT for program 3 of either class. -/
def image3 : Bytes := leBytes 2 3 ++ [2, 0] ++ leBytes 4 8 ++ zeros 24 ++ leBytes 8 (word 2 5 0) ++ zeros 24
/-- A device with that program in context 0 and an SC_RUN at its head. -/
def running3 : Dev :=
  let d := headed up [(0, 0x90), (8 * 24, 3), (8 * 26, 1)]
  { d with sc := { d.sc with store := [(0, image3)] } }
theorem test_has_scRun :
    HasHead running3 0 0x0B01 (fun h => hOpcode h.desc == 0x90 && scReason running3 h == none && mayIssue running3 h
      && (imageOf running3 h.ctx (srProgram h.desc)).isSome) := ready_of (by decide +kernel)
/-- A device whose core 31 has failing memory words. -/
def failing (fs : List (Nat × Bool)) : Option Inst := running (onCore up [] fun i => { i with fails := fs }) 31
theorem test_has_memoryChecks :
    ((failing [(6, true)]).map fun j => j.fails.all fun e => decide (j.cycles < e.1)) = some true
      ∧ (∀ b ∈ [true, false], (failing [(5, b)]).map (fun j => (j.fails, decide (5 ≤ j.cycles))) = some ([(5, b)], true))
      ∧ running up 31 = none ∧ (failing []).map limitReached = some false ∧ (failing []).map loopOver = some false := by decide +kernel
/-- A window on slot 0 of ring 5. -/
def window5 (filling : Bool) : Option Window := some ⟨5, 0, filling, []⟩
theorem test_has_programs :
    (running (onCore up [word 2 5 0] fun i => { i with limit := 5 }) 31).map limitReached = some true
      ∧ (running (onCore up [word 2 5 0] fun i => { i with loops := [⟨0, 0, 0, 1, 1, 0, 1⟩] }) 31).map loopOver = some true
      ∧ ((running (onCore up [word 2 5 0] fun i => { i with pc := 1 }) 31).map fun j =>
          (limitReached (flushLoops 5 j), fetchWord (flushLoops 5 j), (opOf (onCore up [] id) j.op).isSome)) = some (false, none, true)
      ∧ ((running (onCore up [word 7 0 0] id) 31).map fun j => (fetchWord (flushLoops 5 j)).map (illegal (flushLoops 5 j)))
          = some (some true) := by decide +kernel
theorem test_has_halts :
    HasNext (onCore up [word 2 5 0] id) 31 (fun i _ w => wClass w == 2 && wOp w == 5 && i.windows.all (fun x => x.isNone))
      ∧ HasNext (onCore up [word 2 5 0] fun i => { i with windows := [window5 true] }) 31 (fun i _ _ => i.windows.any fun x => x.isSome) :=
  ⟨next_of (by decide +kernel), next_of (by decide +kernel)⟩
theorem test_has_vectors : ∀ op ∈ [0x00, 0x01, 0x02, 0x03, 0x04, 0x05, 0x06, 0x07, 0x08, 0x09, 0x0A, 0x0B, 0x0C, 0x0D, 0x0E, 0x10, 0x11,
      0x12, 0x13, 0x18, 0x19, 0x1A, 0x1B, 0x1C, 0x1D],
    HasNext (onCore up [word 0 op 0] id) 31 fun i _ w => wClass w == 0 && wOp w == op && !(wX w).en && !(wY w).en && wMstage w == 0
      && wCstage w == 0 && (stagedLoop i).isNone := by
  have h : ∀ op ∈ [0x00, 0x01, 0x02, 0x03, 0x04, 0x05, 0x06, 0x07, 0x08, 0x09, 0x0A, 0x0B, 0x0C, 0x0D, 0x0E, 0x10, 0x11, 0x12, 0x13, 0x18,
      0x19, 0x1A, 0x1B, 0x1C, 0x1D], nextB (onCore up [word 0 op 0] id) 31 (fun i _ w => wClass w == 0 && wOp w == op && !(wX w).en
        && !(wY w).en && wMstage w == 0 && wCstage w == 0 && (stagedLoop i).isNone) = true := by decide +kernel
  exact fun op m => next_of (h op m)
/-- A load of V1 through A0 by the X move, inside X and outside it. -/
def loadWord : Nat := 2 ^ 29 + 2 ^ 22
theorem test_has_moves0 :
    HasNext (onCore up [loadWord] id) 31 (fun i o w => match runClass0 (onCore up [] id) i o.ctx w with | .ok _ => true | .error _ => false)
      ∧ HasNext (onCore up [loadWord] fun i => { i with xfoot := 0 }) 31
        (fun i o w => match runClass0 (onCore up [] id) i o.ctx w with | .ok _ => false | .error _ => true) :=
  ⟨next_of (by decide +kernel), next_of (by decide +kernel)⟩
theorem test_has_scalars : ∀ k ∈ [(1, 1), (1, 2), (1, 3), (1, 4), (1, 5), (1, 6), (2, 0), (2, 2), (2, 3), (2, 4)],
    HasNext (onCore up [word k.1 k.2 0] fun i => { i with a := 1 :: List.replicate 15 0 }) 31 (fun i _ w =>
        wClass w == k.1 && wOp w == k.2 && aReg i (wDst w) != 0)
      ∧ HasNext (onCore up [word k.1 k.2 (15 * 2 ^ 52)] id) 31 (fun i _ w => wClass w == k.1 && wOp w == k.2 && aReg i (wDst w) == 0) := by
  have h : ∀ k ∈ [(1, 1), (1, 2), (1, 3), (1, 4), (1, 5), (1, 6), (2, 0), (2, 2), (2, 3), (2, 4)],
      nextB (onCore up [word k.1 k.2 0] fun i => { i with a := 1 :: List.replicate 15 0 }) 31 (fun i _ w =>
          wClass w == k.1 && wOp w == k.2 && aReg i (wDst w) != 0) = true
        ∧ nextB (onCore up [word k.1 k.2 (15 * 2 ^ 52)] id) 31 (fun i _ w =>
          wClass w == k.1 && wOp w == k.2 && aReg i (wDst w) == 0) = true := by decide +kernel
  exact fun k m => ⟨next_of (h k m).1, next_of (h k m).2⟩
theorem test_has_loops : ∀ n ∈ [0, 1],
    HasNext (onCore up [word 2 1 (2 ^ 32 + n), word 0 0 0] id) 31 fun _ _ w =>
      wClass w == 2 && wOp w == 1 && !bitAt w 53 && wImm w == n && wBody w == 1 := by
  have h : ∀ n ∈ [0, 1], nextB (onCore up [word 2 1 (2 ^ 32 + n), word 0 0 0] id) 31 (fun _ _ w =>
      wClass w == 2 && wOp w == 1 && !bitAt w 53 && wImm w == n && wBody w == 1) = true := by decide +kernel
  exact fun n m => next_of (h n m)
/-- A device with ring 5, its slot 0 in a state, and a ring instruction on core 31. -/
def ringWord (op : Nat) (st : SlotSt) (f : Inst → Inst) : Dev :=
  onCore (ringed up { ring0 with slotSt := [st, .empty, .empty, .empty] }) [word 3 op (5 * 2 ^ 32)] f
/-- What the statement on ring instructions asks of ring 5. -/
def ringOk (d : Dev) (i : Inst) (o : Op) (w : Nat) : Bool :=
  wClass w == 3 && wRing w == 5 && (match ringOf d 5 with
    | some x => x.ctx == o.ctx && x.lc == o.lc && x.prodDie == 0 && x.consDie == 0 && !sideTaken d 5 x.prod true (instKey i)
        && !sideTaken d 5 x.cons false (instKey i)
    | none => false)
theorem test_has_ringInstructions :
    (∀ k ∈ [(1, SlotSt.empty), (1, .full), (3, .full), (3, .spoil), (3, .empty), (3, .filling)],
        HasNext (ringWord k.1 k.2 id) 31 fun i o w => ringOk (ringWord k.1 k.2 id) i o w && wOp w == k.1 && (lget none i.windows (wWin w)).isNone)
      ∧ (∀ op ∈ [1, 3], HasNext (onCore up [word 3 op (5 * 2 ^ 32)] id) 31 fun _ _ w => wOp w == op && (ringOf (onCore up [] id) (wRing w)).isNone)
      ∧ (∀ k ∈ [(2, true), (4, false)], HasNext (ringWord k.1 .filling fun i => { i with windows := [window5 k.2] }) 31 fun i _ w =>
        wOp w == k.1 && lget none i.windows (wWin w) == window5 k.2)
      ∧ HasNext (onCore up [word 3 5 (8191 * 2 ^ 32 + 1)] id) 31 fun _ _ w => wOp w == 5 && !(syncOf up (wObj w)).declared := by
  have h1 : ∀ k ∈ [(1, SlotSt.empty), (1, .full), (3, .full), (3, .spoil), (3, .empty), (3, .filling)],
      nextB (ringWord k.1 k.2 id) 31 (fun i o w =>
        ringOk (ringWord k.1 k.2 id) i o w && wOp w == k.1 && (lget none i.windows (wWin w)).isNone) = true := by decide +kernel
  have h2 : ∀ op ∈ [1, 3], nextB (onCore up [word 3 op (5 * 2 ^ 32)] id) 31 (fun _ _ w =>
      wOp w == op && (ringOf (onCore up [] id) (wRing w)).isNone) = true := by decide +kernel
  have h3 : ∀ k ∈ [(2, true), (4, false)], nextB (ringWord k.1 .filling fun i => { i with windows := [window5 k.2] }) 31 (fun i _ w =>
      wOp w == k.1 && lget none i.windows (wWin w) == window5 k.2) = true := by decide +kernel
  exact ⟨fun k m => next_of (h1 k m), fun k m => next_of (h2 k m), fun k m => next_of (h3 k m), next_of (by decide +kernel)⟩
/-- A ring of another context, one on other dies, and one taken by another core. -/
def otherRings : List Ring :=
  [{ ring0 with ctx := 1 }, { ring0 with prodDie := 1, consDie := 1 }, { ring0 with prod := some (.core 3), cons := some (.core 3) }]
/-- A core with a ring instruction of `op` on a ring, and an operation for the instance of the other core. -/
def onRing (x : Ring) (op : Nat) (f : Inst → Inst) : Dev :=
  setOp (onCore (ringed up x) [word 3 op (5 * 2 ^ 32)] f) 0 (op0 [(0, 0x90)] .core [3])
theorem test_has_ringRefusals :
    (∀ x ∈ otherRings, ∀ op ∈ [1, 3], HasNext (onRing x op id) 31 fun i o w => wOp w == op && wRing w == 5 &&
        (x.ctx != o.ctx || x.prodDie != 0 || sideTaken (onRing x op id) 5 x.prod true (instKey i)))
      ∧ (∀ k ∈ [(2, false), (4, true)], HasNext (ringWord k.1 .filling fun i => { i with windows := [window5 k.2] }) 31 fun i _ w =>
        wOp w == k.1 && lget none i.windows (wWin w) == window5 k.2)
      ∧ (∀ op ∈ [2, 4], HasNext (ringWord op .filling id) 31 fun i _ w => wOp w == op && (lget none i.windows (wWin w)).isNone)
      ∧ (let d := onCore (setSync up 8191 { syncDefault with declared := true, cls := 1 }) [word 3 5 (8191 * 2 ^ 32 + 1)] id
        HasNext d 31 fun _ o w => wOp w == 5 && (syncOf d (wObj w)).declared && !syncClassOk (syncOf d (wObj w)) o.lc) := by
  have h1 : ∀ x ∈ otherRings, ∀ op ∈ [1, 3], nextB (onRing x op id) 31 (fun i o w => wOp w == op && wRing w == 5 &&
      (x.ctx != o.ctx || x.prodDie != 0 || sideTaken (onRing x op id) 5 x.prod true (instKey i))) = true := by decide +kernel
  have h2 : ∀ k ∈ [(2, false), (4, true)], nextB (ringWord k.1 .filling fun i => { i with windows := [window5 k.2] }) 31 (fun i _ w =>
      wOp w == k.1 && lget none i.windows (wWin w) == window5 k.2) = true := by decide +kernel
  have h3 : ∀ op ∈ [2, 4], nextB (ringWord op .filling id) 31 (fun i _ w => wOp w == op && (lget none i.windows (wWin w)).isNone)
      = true := by decide +kernel
  exact ⟨fun x mx op m => next_of (h1 x mx op m), fun k m => next_of (h2 k m), fun op m => next_of (h3 op m), next_of (by decide +kernel)⟩
theorem test_has_vecLanes : vecZero.length = 8 ∧ 7 < 8 := by decide +kernel
theorem test_cadd_saturates :
    let v : Vec := List.replicate 8 ⟨BitVec.ofNat 80 0x7FFF7FFF, false⟩
    laneSmp (laneAt ((simd 0x02 false 0 false v v vecZero).vd.getD vecZero) 7) = (32767, 32767) := by decide +kernel

/-! ### Witnesses: the chirp modem and the trellis unit -/

/-- The fields of an LR_TX through ring 5 into mix 15. -/
def txFields : List (Nat × Nat) := [(0, 0xA0), (8 * 24, 15), (8 * 26, 5), (8 * 28, 6), (8 * 30, 1), (8 * 32, 6)]
/-- A device with mix 15 in a state on stream 7 and ring 5. -/
def mixing (st written : Nat) (d : Dev) : Dev :=
  setMix (setFeTx d 7 { feTxDefault with reg := ⟨0, 2⟩ }) 15
    { mixDefault with reg := ⟨0, st⟩, stream := 7, ring := 5, written := written }
/-- A device with modulator 63 taken into mix 15. -/
def modulating (written : Nat) : Dev :=
  setModulator (operating (mixing 2 written (radio [])) (op0 txFields .lr [])) 63
    { op := 7, mix := 15, taken := true, values := [], begun := none, m := 0, phase := 0 }
theorem test_has_chirpTx :
    HasHead (radio txFields) 0 0x0C01
        (fun h => hOpcode h.desc == 0xA0 && lrTxReason (radio txFields) h == none && freeModulator (radio txFields) == some 0)
      ∧ HasHead (radio [(0, 0xA2), (8 * 24, 0x8F), (8 * 25, 7), (8 * 26, 5)]) 0 0x0C01 (fun h => lrEnable h.desc
        && lrMixReason (radio [(0, 0xA2), (8 * 24, 0x8F), (8 * 25, 7), (8 * 26, 5)]) h == none)
      ∧ HasHead (radio [(0, 0xA2), (8 * 24, 15)]) 0 0x0C01 (fun h => !lrEnable h.desc && !lrReserved h.desc && dfield h.desc 24 4 2 == 0
        && (mixOf (radio []) (lrMix h.desc)).reg.st == 0)
      ∧ HasHead (mixing 1 0 (radio [(0, 0xA2), (8 * 24, 15)])) 0 0x0C01
        (fun h => !lrEnable h.desc && (mixOf (mixing 1 0 (radio [])) (lrMix h.desc)).reg.st != 0) :=
  ⟨ready_of (by decide +kernel), ready_of (by decide +kernel), ready_of (by decide +kernel), ready_of (by decide +kernel)⟩
theorem test_has_allModulators :
    let d := { radio txFields with lr := { (radio txFields).lr with mods := (List.range 64).map fun n => (n, ⟨9, 3, true, [], none, 0, 0⟩) } }
    HasHead d 0 0x0C01 (fun h => hOpcode h.desc == 0xA0 && lrTxReason d h == none && freeModulator d == none) :=
  ready_of (by decide +kernel)
theorem test_has_frameStarts : ∀ w ∈ [0, 5],
    let d := modulating w
    (modulatorOf d 63).map (fun x => (x.taken, x.begun, x.mix)) = some (true, none, 15) ∧ (opOf d 7).isSome = true ∧ (mixOf d 15).reg.st = 2
      ∧ mixFirst d (mixOf d 15) (lrCount (dsc txFields)) = 0 ∧ (mixOf d 15).written = w ∧ mixSlotSamples d (mixOf d 15) = 512
      ∧ (ringOf d 5).map (fun x => slotStOf x x.tail) = some .empty := by decide +kernel
theorem test_has_frameWaits :
    let d := modulating 0
    0 + mixSlotSamples d (mixOf d 15) ≤ mixFirst d (mixOf d 15) 1000000 ∧ modulatorOf d 0 = none
      ∧ (mixOf (mixing 1 0 d) 15).reg.st ≠ 2
      ∧ (ringOf (ringed d { ring0 with slotSt := [.full, .empty, .empty, .empty] }) 5).map (fun x => slotStOf x x.tail) = some .full := by
  decide +kernel

/-- A device whose listener 63 is in state `st`, hearing stream 0, which runs. -/
def listening (st : Nat) (d : Dev) : Dev :=
  setLsn (setFeRx d 0 { feRxDefault with reg := ⟨0, 2⟩ }) 63 { lsnDefault with reg := ⟨0, st⟩ }
/-- A demodulation of listener `n`. -/
def demod (n symbols : Nat) : DemSt :=
  { lsn := n, sf := 12, found := true, frameTick := 0, place := 0, cfo := 0, snr := 0, peak := 0, symbols := symbols, netId := 0, header := none, soft := [],
    waiting := false, badTicks := [], spoil := false }
/-- A device with a demodulation in every context below `k`. -/
def demods (k : Nat) : Dev :=
  { listening 1 up with lr := { (listening 1 up).lr with dems := (List.range k).map fun i => (i, demod 1 (i % 3)) } }
theorem test_has_chirpRx :
    HasHead (listening 0 (radio [(0, 0xA1), (8 * 24, 0xBF), (8 * 26, 5)])) 0 0x0C01 (fun h => hOpcode h.desc == 0xA1 && lrEnable h.desc
        && lrListenReason (listening 0 (radio [(0, 0xA1), (8 * 24, 0xBF), (8 * 26, 5)])) h == none)
      ∧ (∀ st ∈ [0, 1], HasHead (listening st (radio [(0, 0xA1), (8 * 24, 63)])) 0 0x0C01 fun h => !lrEnable h.desc && !lrReserved h.desc
        && (lsnOf (listening st up) (lrUnit h.desc)).reg.st == st)
      ∧ (∀ k ∈ [255, 256], (lsnOf (demods k) 63).reg.st = 1 ∧ bitAt (lnMask (lsnOf (demods k) 63).cfg) (12 - 6) = true
        ∧ thas (demods k).lr.dems 255 = (k == 256)) :=
  ⟨ready_of (by decide +kernel), by
    have h : ∀ st ∈ [0, 1], readyB (listening st (radio [(0, 0xA1), (8 * 24, 63)])) 0 0x0C01 (fun h => !lrEnable h.desc
      && !lrReserved h.desc && (lsnOf (listening st up) (lrUnit h.desc)).reg.st == st) = true := by decide +kernel
    exact fun st m => ready_of (h st m), by decide +kernel⟩
/-- What the statement on symbols asks; what they hold is free. -/
theorem test_has_symbols : ∀ n ∈ [0, 1, 2],
    let x := demod 1 n
    let d := atTick (demods 256) 100000000
    tfind d.lr.dems (252 + n) = some x ∧ (located d x).found = true ∧ (located d x).symbols = n ∧ (located d x).waiting = false
      ∧ x.frameTick + x.symbols * symbolTicks x.sf (lnBw (lsnOf d 1).cfg) - symbolTicks x.sf (lnBw (lsnOf d 1).cfg) ≤ d.time.ticks := by
  decide +kernel
theorem test_has_symbolWaits :
    let d := demods 256
    let t := symbolTicks 12 (lnBw (lsnOf d 1).cfg)
    (located d { demod 1 2 with found := false }).found = false ∧ tfind up.lr.dems 255 = none
      ∧ d.time.ticks < 0 + 2 * t - t ∧ ({ demod 1 2 with waiting := true } : DemSt).waiting = true := by decide +kernel

/-- The fields of a TR_ENC or TR_DEC of 8 bits from ring 5 into ring 6. -/
def trFields (op : Nat) : List (Nat × Nat) := [(0, op), (8 * 26, 5), (8 * 28, 6), (8 * 30, 8), (8 * 32, 1)]
/-- A device with rings 5 and 6. -/
def coding (d : Dev) (a b : SlotSt) : Dev :=
  setRing (ringed d { ring0 with slotSt := a :: ring0.slotSt.drop 1 }) 6 { ring0 with slotSt := b :: ring0.slotSt.drop 1 }
/-- A job of operation 7, or one of its own. -/
def job (op : Option Nat) (running : Bool) : TrJob :=
  { op := op, dem := none, lc := false, enc := true, code := codeK7 1 1 1, soft := false, tail := false, len := 8, left := 1, input := [],
    avail := 0, running := running }
/-- A device with job 0, in the encoder or not. -/
def jobbing (j : TrJob) (a b : SlotSt) (engine : Option Nat) : Dev :=
  let d := operating (coding up a b) (op0 (trFields 0xB0) .trellis [])
  { d with tr := { d.tr with jobs := [(0, j)], nextJob := 1, engines := [none, none, none, none, engine] } }
theorem test_has_trellis :
    (∀ op ∈ [0xB0, 0xB1], HasHead (headed (coding up .empty .empty) (trFields op)) 0 0x0D01 fun h => hOpcode h.desc == op
        && trReason (headed (coding up .empty .empty) (trFields op)) h == none)
      ∧ (nextJob (jobbing (job none false) .empty .empty none) 4 = some 0 ∧ (job none false).op = none)
      ∧ (let d := jobbing (job (some 7) false) .full .empty none
        nextJob d 4 = some 0 ∧ (jobDesc d (job (some 7) false)).map (fun x => (tIn x, tOut x)) = some (5, 6)
          ∧ (ringOf d 5).map (fun r => slotStOf r r.head) = some .full ∧ (ringOf d 6).map (fun w => slotStOf w w.tail) = some .empty)
      ∧ (∀ b ∈ [true, false],
        let d := jobbing (job (some 7) true) .draining .filling (some 0)
        let e : Dev := if b then { d with haul := { d.haul with spoil := [slotKey 5 0 0 / 64] } } else d
        lget none e.tr.engines 4 = some 0 ∧ tfind e.tr.jobs 0 = some (job (some 7) true) ∧ (jobDesc e (job (some 7) true)).isSome = true
          ∧ (opOf e 7).isSome = true ∧ slotSpoil e 5 0 = b) :=
  ⟨by
    have h : ∀ op ∈ [0xB0, 0xB1], readyB (headed (coding up .empty .empty) (trFields op)) 0 0x0D01 (fun h => hOpcode h.desc == op
      && trReason (headed (coding up .empty .empty) (trFields op)) h == none) = true := by decide +kernel
    exact fun op m => ready_of (h op m), by decide +kernel, by decide +kernel, by decide +kernel⟩
theorem test_has_trellisIdle :
    nextJob up 4 = none ∧ lget none up.tr.engines 4 = none ∧ tIn (dsc (trFields 0xB0)) ≠ tOut (dsc (trFields 0xB0)) := by decide +kernel
/-- A decode for demodulation 3 in decoder 0. -/
def demJob : TrJob := { job none true with dem := some 3, enc := false }
theorem test_has_demJob :
    let d := { demods 4 with tr := { up.tr with jobs := [(0, demJob)], nextJob := 1, engines := [some 0, none, none, none, none] } }
    lget none d.tr.engines 0 = some 0 ∧ tfind d.tr.jobs 0 = some demJob ∧ demJob.running = true ∧ demJob.op = none
      ∧ demJob.dem = some 3 ∧ (tfind d.lr.dems 3).isSome = true := by decide +kernel

/-! ### Witnesses: the network -/

theorem test_has_ports :
    portPowered up 3 = true ∧ (portOf up 3).reg.st = 1 ∧ (portOf (ported 2 false) 3).reg.st = 2 ∧ portUp up 3 = true
      ∧ (portOf up 3).crcFailed = false ∧ (portOf up 3).dictFailed = false
      ∧ (portOf (modPort up 3 fun x => { x with crcFailed := true }) 3).crcFailed = true := by decide +kernel
/-- A device whose port 4 has IP version `v`. -/
def versioned (v : Nat) : Dev := modPort up 4 fun x => { x with cfg := overlay x.cfg 33 [BitVec.ofNat 8 v] }
theorem test_has_addresses : ∀ v ∈ [4, 6],
    let m := { ethTo 4 0 with ipVer := v }
    let d := versioned v
    ethOk m = true ∧ (m.dstIp = beAt (portOf d m.port).cfg 16 16 ∧ m.vlan = leAt (portOf d m.port).cfg 2 2 % 4096
        ∧ m.ipVer = leAt (portOf d m.port).cfg 33 1)
      ∧ (receive d m true).1 = true ∧ (receive d m (addressed d m)).1 = true := by decide +kernel

/-- A device with endpoint 63 of a kind, which may address the contexts of a mask, its BE streams open in session 7. -/
def hosted (kind mask : Nat) (d : Dev) : Dev :=
  setEp d 63 { epDefault with
    rcd := leBytes 1 kind ++ [15] ++ zeros 22 ++ beBytes 8 mask ++ [0, 0, 1, 1] ++ zeros 12, st := 1,
    rx := [{ rxDefault with session := some 7, next := 1, done := 1 }, rxDefault],
    tx := [{ txDefault with session := some 7, credit := 1 }, txDefault] }
/-- A device whose inbound BE ring is full. -/
def slot0 (type arg0 arg1 : Nat) : SysSlot :=
  { type := type, ctx := 0, ep := 63, last := true, seq := 1, arg0 := arg0, arg1 := arg1, spoil := 0, box := [], payload := [], op := none }
/-- Context 0 ACTIVE. -/
def up0 : Dev := headed up []
/-- The state of a host. -/
def host (mask : Nat) (down full : Bool) : State :=
  let d := hosted 1 mask up0
  st { d with mem := { d.mem with down := down }, net := { d.net with inBe := if full then List.replicate 32 (slot0 8 0 0) else [] } }
/-- What the statement on host frames asks. -/
def hostOk (ty : Nat) (may down room : Bool) (f : WtFrame) (n : Nat) (d : Dev) : Bool :=
  f.type == ty && (epMay (epOf d n) 0 && queueAllowed d f.arg0 0 f.lc) == may && tensorDown d == down
    && (rxOf (epOf d n) f.lc).held.isEmpty && (rxOf (epOf d n) f.lc).asks.isEmpty && sysRoom d false f.lc == room
theorem test_has_hostFrames : ∀ ty ∈ [1, 2, 3, 4, 6, 7, 8],
    HasFrame (host 0 false false) (wt ty 64 0 0 []) (hostOk ty false false true (wt ty 64 0 0 []))
      ∧ HasFrame (host 1 true false) (wt ty 64 0 0 []) (hostOk ty true true true (wt ty 64 0 0 []))
      ∧ HasFrame (host 1 false false) (wt ty 64 0 0 []) (hostOk ty true false true (wt ty 64 0 0 []))
      ∧ HasFrame (host 1 false true) (wt ty 64 0 0 []) (hostOk ty true false false (wt ty 64 0 0 [])) := by
  have h : ∀ ty ∈ [1, 2, 3, 4, 6, 7, 8],
      frameB (host 0 false false) (wt ty 64 0 0 []) (hostOk ty false false true (wt ty 64 0 0 [])) = true
        ∧ frameB (host 1 true false) (wt ty 64 0 0 []) (hostOk ty true true true (wt ty 64 0 0 [])) = true
        ∧ frameB (host 1 false false) (wt ty 64 0 0 []) (hostOk ty true false true (wt ty 64 0 0 [])) = true
        ∧ frameB (host 1 false true) (wt ty 64 0 0 []) (hostOk ty true false false (wt ty 64 0 0 [])) = true := by decide +kernel
  exact fun ty m => ⟨frame_ok (h ty m).1, frame_ok (h ty m).2.1, frame_ok (h ty m).2.2.1, frame_ok (h ty m).2.2.2⟩
theorem test_has_queueRefused :
    HasFrame (host 1 false false) (wt 1 0 300 0 []) fun n d => epMay (epOf d n) 0 && !queueAllowed d 300 0 false :=
  frame_ok (by decide +kernel)

/-- A box of four bytes. -/
def box4 : Bytes := beBytes 2 4 ++ zeros 23 ++ [1, 1] ++ zeros 5
/-- A peer's frame with a box. -/
def peerFrame (type arg0 arg1 : Nat) (payload : Bytes) : WtFrame := { wt type 0 arg0 arg1 payload with box := box4 }
/-- The state of a peer, with `puts` segments accepted. -/
def peer (mask puts : Nat) : State := st (modRx (hosted 2 mask up0) 63 false fun x => { x with puts := puts })
/-- Whether no receive buffer is free. -/
def noBuffer (n : Nat) (d : Dev) : Bool := decide (epCredits (epOf d n) false ≤ (rxOf (epOf d n) false).puts - (rxOf (epOf d n) false).freed)
theorem test_has_peerFrames :
    HasFrame (peer 0 0) (peerFrame 0x10 0 0 [1]) (fun n d => !epMay (epOf d n) 0)
      ∧ HasFrame (peer 1 1) (peerFrame 0x10 0 0 [1]) (fun n d => epMay (epOf d n) 0 && noBuffer n d)
      ∧ HasFrame (peer 1 0) (peerFrame 0x10 0 4 [1]) (fun n d => epMay (epOf d n) 0 && !noBuffer n d && wbTotal box4 == some 4
        && decide (4 < frameIndex (peerFrame 0x10 0 4 [1]) + 1))
      ∧ HasFrame (peer 1 0) (peerFrame 0x10 0 3 [1]) (fun n d => epMay (epOf d n) 0 && !noBuffer n d && !tensorDown d
        && decide (frameIndex (peerFrame 0x10 0 3 [1]) + 1 ≤ 4))
      ∧ HasFrame { peer 1 0 with dev := modPort (peer 1 0).dev 0 fun x => { x with cfg := overlay x.cfg 6 (leBytes 2 1500) } }
        (peerFrame 0x11 0 (2 ^ 48 * 4) []) (fun n d => epMay (epOf d n) 0 && getLen (2 ^ 48 * 4) == 4 && frameIndex (peerFrame 0x11 0 (2 ^ 48 * 4) []) == 0
        && decide (4 ≤ payloadLimit d n false) && !isRingId 0 && !tensorDown d && sysRoom d false false)
      ∧ HasFrame (peer 1 0) (peerFrame 0x12 5 0 []) (fun n d => (getOf d n false 5).isNone)
      ∧ HasFrame (st { (peer 1 0).dev with ls := { (peer 1 0).dev.ls with enable := true, peer := 63, ctx := 0 } }) (wt 0x14 0 0 0 (zeros 32))
        (fun n d => epMay (epOf d n) 0 && streamClear d n false && d.ls.enable && d.ls.peer == n && d.ls.ctx == 0) :=
  ⟨frame_ok (by decide +kernel), frame_ok (by decide +kernel), frame_ok (by decide +kernel), frame_ok (by decide +kernel),
   frame_ok (by decide +kernel), frame_ok (by decide +kernel), frame_ok (by decide +kernel)⟩
/-- A get in flight to endpoint 63 for operation 7. -/
def getting : State :=
  st { (peer 1 0).dev with net := { (peer 1 0).dev.net with gets := [{ ep := 63, lc := false, seq := 5, op := 7, lo := 0, len := 4 }] } }
/-- A frame that is next, with what it is to satisfy. -/
abbrev FrameCase := State × WtFrame × (Nat → Dev → Bool)
theorem frames_ok {l : List FrameCase} (e : (l.all fun c => frameB c.1 c.2.1 c.2.2) = true) : ∀ c ∈ l, HasFrame c.1 c.2.1 c.2.2 :=
  fun c m => frame_ok (List.all_eq_true.mp e c m)
/-- The state of a peer on a port that carries 1,500 bytes, with what `f` gives its device. -/
def peerOn (f : Dev → Dev) : State :=
  st (f (modPort (peer 1 0).dev 0 fun x => { x with cfg := overlay x.cfg 6 (leBytes 2 1500) }))
/-- The tensor die down, the inbound BE ring full or holding a slot of the peer, ring 5 present. -/
def downed (d : Dev) : Dev := { d with mem := { d.mem with down := true } }
def inbounds (n : Nat) (d : Dev) : Dev := { d with net := { d.net with inBe := List.replicate n (slot0 8 0 0) } }
def withRing (x : Ring) (d : Dev) : Dev := ringed d x
theorem test_has_putRefusals : ∀ c ∈ ([
    (peer 1 0, wt 0x10 0 0 0 [1], fun n d => epMay (epOf d n) 0 && !noBuffer n d && (wbTotal []).isNone),
    (peerOn downed, peerFrame 0x10 0 3 [1], fun n d => !noBuffer n d && tensorDown d && !isRingId 0),
    (peer 1 0, peerFrame 0x10 ring5 3 [1], fun n d => !noBuffer n d && isRingId ring5 && ringPutReason d n (peerFrame 0x10 ring5 3 [1]) 5 == some 8),
    (peerOn (withRing ring0), peerFrame 0x10 ring5 0 [1],
      fun n d => !noBuffer n d && (ringPutReason d n (peerFrame 0x10 ring5 0 [1]) 5).isNone)] : List FrameCase),
    HasFrame c.1 c.2.1 c.2.2 := frames_ok (by decide +kernel)
/-- A get of four bytes of tensor 0 or of ring 5. -/
def get4 (arg0 : Nat) : WtFrame := peerFrame 0x11 arg0 (2 ^ 48 * 4) []
/-- What the statement asks of a get inside its box. -/
def inBox (n : Nat) (d : Dev) : Bool := epMay (epOf d n) 0 && decide (4 ≤ payloadLimit d n false)
theorem test_has_gets : ∀ c ∈ ([
    (peer 0 0, get4 0, fun n d => !epMay (epOf d n) 0),
    (peer 1 0, wt 0x11 0 0 (2 ^ 48 * 4) [], fun n d => epMay (epOf d n) 0 && (wbTotal []).isNone),
    (peer 1 0, peerFrame 0x11 0 0 [], fun n d => epMay (epOf d n) 0 && getLen 0 == 0),
    (peerOn downed, get4 0, fun n d => inBox n d && tensorDown d),
    (peerOn (inbounds 32), get4 0, fun n d => inBox n d && !tensorDown d && !sysRoom d false false),
    (peerOn id, get4 ring5, fun n d => inBox n d && (ringOf d 5).isNone),
    (peerOn (withRing { ring0 with ctx := 1 }), get4 ring5, fun n d => inBox n d && (ringOf d 5).any fun x => x.ctx != 0),
    (peerOn (withRing { ring0 with cons := some (.core 3) }), get4 ring5,
      fun n d => inBox n d && (ringOf d 5).any fun x => x.ctx == 0 && x.cons == some (.core 3)),
    (peerOn (fun d => inbounds 1 (withRing ring0 d)), get4 ring5,
      fun n d => inBox n d && (ringOf d 5).any (fun x => x.cons.isNone) && (sysOpen d false false).any fun y => y.ep == n),
    (peerOn (withRing ring0), get4 ring5, fun n d => inBox n d && (ringOf d 5).any (fun x => x.cons.isNone && x.prodDie == 0 && x.consDie == 0)
      && (ringMover d 5 false).isNone && (rxOf (epOf d n) false).held.isEmpty && (sysOpen d false false).isEmpty)] : List FrameCase),
    HasFrame c.1 c.2.1 c.2.2 := frames_ok (by decide +kernel)
/-- A peer of which operation 7 gets four bytes, its MOVE into tensor 1 or ring 5. -/
def getsInto (dst : Option Nat) (f : Dev → Dev) : State :=
  let d := { (peer 1 0).dev with net := { (peer 1 0).dev.net with gets := [{ ep := 63, lc := false, seq := 5, op := 7, lo := 0, len := 4 }] } }
  st (f (match dst with | some k => operating d (op0 (moveFields 0 k ++ [(8 * 57, 12)]) .haul [0]) | none => d))
/-- The answer to it with a number of bytes. -/
def data4 (n : Nat) : WtFrame := wt 0x12 0 5 0 (zeros n)
/-- What the operation's destination is. -/
def intoRing (d : Dev) : Option (Option Nat) := (opOf d 7).map fun o => sideRing (mvTo o.desc)
theorem test_has_data : ∀ c ∈ ([
    (getsInto none id, data4 4, fun n d => (getOf d n false 5).isSome && (opOf d 7).isNone),
    (getsInto (some 1) id, data4 3, fun n d => (getOf d n false 5).isSome && (opOf d 7).isSome),
    (getsInto (some 1) downed, data4 4, fun n d => (getOf d n false 5).isSome && intoRing d == some none && tensorDown d),
    (getsInto (some 1) id, data4 4, fun _ d => intoRing d == some none && !tensorDown d && sysRoom d false false),
    (getsInto (some 1) (inbounds 32), data4 4, fun _ d => intoRing d == some none && !tensorDown d && !sysRoom d false false),
    (getsInto (some ring5) (inbounds 1), data4 4, fun n d => intoRing d == some (some 5) && !streamClear d n false),
    (getsInto (some ring5) (withRing ring0), data4 4, fun n d => intoRing d == some (some 5) && streamClear d n false && (ringOf d 5).isSome),
    (getsInto (some ring5) id, data4 4, fun n d => intoRing d == some (some 5) && streamClear d n false && (ringOf d 5).isNone)]
    : List FrameCase), HasFrame c.1 c.2.1 c.2.2 := frames_ok (by decide +kernel)
theorem test_has_samples_peer : ∀ c ∈ ([
    (peer 0 0, wt 0x14 0 0 0 (zeros 32), fun n d => !epMay (epOf d n) 0),
    (peerOn (inbounds 1), wt 0x14 0 0 0 (zeros 32), fun n d => epMay (epOf d n) 0 && !streamClear d n false),
    (peerOn id, wt 0x14 0 0 0 (zeros 32), fun n d => epMay (epOf d n) 0 && streamClear d n false && !d.ls.enable)]
    : List FrameCase), HasFrame c.1 c.2.1 c.2.2 := frames_ok (by decide +kernel)
theorem test_has_streamFrames :
    HasFrom (host 1 false false) { wt 0x20 0 9 0 [] with seq := 0 } (fun n d =>
        (rxOf (epOf d n) false).session != some 9 && epKind (epOf d n) == 1)
      ∧ HasFrom (host 1 false false) { wt 0x21 0 0 0 [] with ackValid := true } (fun _ _ => true)
      ∧ HasFrom getting (wt 0x22 0 5 0 []) (fun n d => epKind (epOf d n) == 2 && refusedOp d n false 5 == some 7)
      ∧ HasFrom (host 1 false false) { wt 0x20 0 7 0 [] with seq := 0 } (fun n d =>
        (rxOf (epOf (acked (wt 0x20 0 7 0 []) n d) n) false).session == some 7)
      ∧ HasFrom (host 1 false false) (wt 0x20 0 9 0 []) (fun n d => (rxOf (epOf (acked (wt 0x20 0 9 0 []) n d) n) false).session == some 7)
      ∧ HasFrom (peer 1 0) { wt 0x20 0 9 0 [] with seq := 0 } (fun n d => epKind (epOf d n) == 2)
      ∧ HasFrom (host 1 false false) (wt 0x22 0 5 0 []) (fun n d => epKind (epOf d n) == 1)
      ∧ HasFrom (peer 1 0) (wt 0x22 0 5 0 []) (fun n d => epKind (epOf d n) == 2 && (refusedOp d n false 5).isNone) :=
  ⟨from_ok (by decide +kernel), from_ok (by decide +kernel), from_ok (by decide +kernel), from_ok (by decide +kernel),
   from_ok (by decide +kernel), from_ok (by decide +kernel), from_ok (by decide +kernel), from_ok (by decide +kernel)⟩
theorem test_has_resends : ∀ k ∈ [0, 8],
    let f : TxFrame := { ep := 63, lc := false, type := 0x10, session := 7, seq := 1, ackSeq := 0, freed := 0, ackValid := false, last := true,
                         ctx := 0, arg0 := 0, arg1 := 0, spoil := 0, box := [], payload := [] }
    let d := atTick (modTx (hosted 2 1 up) 63 false fun t => { t with unacked := [⟨f, k, 0, none⟩] }) 160000
    (txOf (epOf d 63) false).unacked = [⟨f, k, 0, none⟩] ∧ 0 + 800 * d.net.resendUs ≤ d.time.ticks
      ∧ ¬ (0 + 800 * d.net.resendUs ≤ (atTick d 159999).time.ticks) ∧ (txOf (epOf up 63) false).unacked = []
      ∧ (k = 0 → k < d.net.resendLimit) ∧ (k = 8 → d.net.resendLimit ≤ k) := by decide +kernel

/-- A device with a slot first in its inbound or outbound BE ring. -/
def slotted (d : Dev) (out : Bool) (x : SysSlot) : Dev := setSysRing (hosted 2 1 d) out false [x]
/-- A put of tensor 0 whose page the host has not supplied. -/
def putSlot : SysSlot := { slot0 0x10 0 0 with box := beBytes 2 1 ++ zeros 23 ++ [1, 1] ++ zeros 5, payload := [1] }
/-- What a slot's effect is: none waits; else its refusal and the number of its answers. -/
def slotComes (d : Dev) (x : SysSlot) : Option (Option Nat × Nat) :=
  (applySlot d x false []).map fun a => match a with | ⟨k, _, os⟩ => (k, os.length)
theorem test_has_systemSlots :
    (slotComes (slotted up0 false (slot0 8 0 0)) (slot0 8 0 0) = some (none, 0)
        ∧ slotComes (slotted up0 false (slot0 7 0 1)) (slot0 7 0 1) = some (none, 1)
        ∧ slotComes (slotted up0 false (slot0 6 1 1)) (slot0 6 1 1) = some (some 10, 0)
        ∧ slotComes (slotted (paged .hostAbsent) false putSlot) putSlot = none)
      ∧ (sysOpen up0 false false = [] ∧ sysOpen up0 true false = []
        ∧ sysOpen (slotted up0 false (slot0 8 0 0)) false false = [slot0 8 0 0] ∧ roadDown up0 = false ∧ roadDown (cut up0) = true
        ∧ sysOpen (slotted up0 false { slot0 8 0 0 with left := 1 }) false false = [{ slot0 8 0 0 with left := 1 }]
        ∧ sysOpen (slotted up0 true { slot0 8 0 0 with left := 1 }) true false = [{ slot0 8 0 0 with left := 1 }] ∧ (downed up0).mem.down = true
        ∧ up0.mem.down = false ∧ (slot0 8 0 0).left = 0 ∧ (sysRing (slotted up0 false (slot0 8 0 0)) true false).length = 0
        ∧ (sysRing (setSysRing up0 true false (List.replicate 32 (slot0 8 0 0))) true false).length = 32)
      ∧ (queueAllowed up0 0 0 false = true ∧ upTo (queueOf up0 0).head (queueOf up0 0).tail ≤ upTo (queueOf up0 0).head 1
        ∧ upTo (queueOf up0 0).head 1 ≤ (ctxOf up0 0).depth)
      ∧ (let d := slotted up0 true (slot0 0x10 0 0)
        sysOpen d true false = [slot0 0x10 0 0] ∧ (txOf (epOf d 63) false).session.isSome = true ∧ canSend d 63 false = true
          ∧ hasCredit d 63 false = true ∧ hasCredit (modTx d 63 false fun t => { t with puts := 1 }) 63 false = false
          ∧ (txOf (epOf up 63) false).session = none) := by decide +kernel

/-- A gate list of two intervals of 40 ticks in a cycle of 100, by time or by stream. -/
def tas2 : Bytes := zeros 8 ++ leBytes 4 100 ++ leBytes 2 2 ++ [1, 0] ++ [1, 0, 0, 0] ++ leBytes 4 40 ++ [2, 0, 0, 0] ++ leBytes 4 40
def psfp2 : Bytes := zeros 8 ++ beBytes 4 100 ++ [2, 1, 0, 0] ++ [1, 0, 0, 0] ++ beBytes 4 40 ++ [0, 0, 0, 0] ++ beBytes 4 40
theorem test_has_gates : ∀ l ∈ [tasList tas2, psfpList psfp2],
    l.on = true ∧ l.cycle = 100 ∧ (l.entries[1]?).map (fun e => e.2) = some 40 := by decide +kernel
theorem test_has_gateRuns :
    let wait : GateRun := { gateDefault with admin := some (tas2, 5) }
    let first := gateBegin tasList tas2 0
    let second : GateRun := { first with idx := 1, till := 80 }
    let last : GateRun := { first with idx := 2, till := 100 }
    (wait.admin = some (tas2, 5) ∧ (4 : Nat) < 5)
      ∧ (first.admin = none ∧ first.till = 40 ∧ first.till < first.start + 100 ∧ (tasList first.oper).entries[first.idx + 1]? = some (2, 40))
      ∧ (second.till < second.start + 100 ∧ (tasList second.oper).entries[second.idx + 1]? = none)
      ∧ last.start + 100 ≤ last.till ∧ (tasList gateDefault.oper).on = false := by decide +kernel
/-- A device whose record 127 recovers and has accepted number 9 at tick 0. -/
def recovering : Dev :=
  { up with net := { up.net with
      cb := zeros (32 * 127) ++ [2, 1] ++ zeros 26 ++ beBytes 4 1
      cbRun := List.replicate 127 ⟨0, none, [], 0⟩ ++ [⟨0, some 9, [9], 0⟩] } }
theorem test_has_recovery :
    let d := atTick recovering 800
    (cbRunOf d 127).newest ≠ none ∧ leAt (cbRecord d 127) 0 1 = 2
      ∧ (cbRunOf d 127).tick + 800 * beAt (cbRecord d 127) 28 4 ≤ d.time.ticks ∧ (cbRunOf up 127).newest = none := by decide +kernel

/-! ### Witnesses: heads that do not run -/

/-- What comes of a head: its context is ACTIVE and no LAYER holds it. -/
def headB (d : Dev) (p : Head → Bool) : Bool :=
  match headOf d 0 with
  | some h => decide ((ctxOf d h.ctx).reg.st = ctxActive) && !layerHolds d h.ctx 0 && p h
  | none => false
theorem test_has_halts0 :
    headB (headed up [(0, 0xFF)]) (fun h => !opcodes.contains (hOpcode h.desc)) = true
      ∧ headB (headed up (syncFields 1 ++ [(8 * 3, 2)])) (fun h => headerReason up h 0x0801 == some 0x0801) = true
      ∧ (let d := headed (declared 0 none) (syncFields 1 ++ [(8 * 8, 32768 + 8191), (8 * 10, 9)])
        headB d (fun h => headerReason d h 0x0801 == none && !waitMet d h.desc) = true)
      ∧ (let d := headed { up with mem := { up.mem with down := true } } matmulFields
        headB d (fun h => headerReason d h 0x0301 == none && waitMet d h.desc && !onSignalDie d h.desc
          && gateReason d h.desc == some 0x0706) = true)
      ∧ (let d := headed up matmulFields
        headB d (fun h => headerReason d h 0x0301 == none && waitMet d h.desc && gateReason d h.desc == none
          && (famMatmul .whole).check d h == some 0x0704) = true)
      ∧ (let d := cut (headed up [(0, 0x80)])
        headB d (fun h => headerReason d h 0x0A01 == none && waitMet d h.desc && onSignalDie d h.desc && !canCross d .ts h.lc) = true)
      ∧ (let d := headed up [(0, 3), (8 * 24, 100)]
        headB d (fun h => famLaunch.check d h == none && !famLaunch.ready d h && headerReason d h 0x0801 == none
          && gateReason d h.desc == none && waitMet d h.desc) = true) := by decide +kernel
/-- A device with every power domain GATED. -/
def dark : Dev := { up with pwr := { up.pwr with domains := List.replicate 16 ⟨0, 0⟩ } }
theorem test_has_gated : ∀ e ∈ [(0x80, famFeStart), (0x81, famFeStop), (0x82, famDetectOff), (0xA0, famLrTx), (0xA2, famMixOff),
      (0xA1, famListenOff), (0xB0, famTrEnc), (0xB1, famTrDec)],
    headB (headed dark [(0, e.1)]) (fun h => hOpcode h.desc == e.2.op && e.2.sub h.desc && headerReason (headed dark [(0, e.1)]) h e.2.invalid == none
      && waitMet (headed dark [(0, e.1)]) h.desc && canCross (headed dark [(0, e.1)]) .ts h.lc
      && (match domainOf h.desc with | some k => (lget ⟨0, 1⟩ dark.pwr.domains k).st == 0 | none => false)) = true := by decide +kernel
theorem test_has_gatedOn : ∀ e ∈ [(0x82, 0x40, famDetectOn), (0xA2, 0x80, famMixOn), (0xA1, 0x80, famListenOn)],
    headB (headed dark [(0, e.1), (8 * 24, e.2.1)]) (fun h => hOpcode h.desc == e.2.2.op && e.2.2.sub h.desc
      && headerReason (headed dark [(0, e.1)]) h e.2.2.invalid == none && (domainOf h.desc).isSome) = true := by decide +kernel

end Sys2Proof.Tests
end

section
/-!
SUPPORT. Proofs of the statements on the dictionary: requests of a session, repeats, ends, frames that fail their CRC (R433 to
R441), and writes of entries (R432, R438, R439, R442).
-/
namespace Sys2Proof.Machine
open Sys2Proof

/-- The device a command leaves may be given in any equal form. -/
theorem doesJust_congr {c : Instr} {s : State} {d e : Dev} (same : d = e) (does : DoesJust c s d) :
    DoesJust c s e := same ▸ does

/-! ### What READ and a staged segment come to -/

/-- A READ of a scalar answers its whole value (R437). -/
theorem opRead_scalar {s : State} {f : DictFrame} {x : Session} {e : Entry} (access : dictAccess s f false = .ok e)
    (scalar : e.ty ≠ .domain) (total : f.total = 0) (start : f.offset = 0) :
    opRead s f x =
      let m := { s with dev := mgmtCross s.dev f }
      let v := readEntry m e f.sub
      ⟨none, 0, v.length, v, some { x with snap := none }, m⟩ := by
  simp [opRead, access, scalar, readScalar, total, start]

/-- A READ from the start of a DOMAIN takes a snapshot, whatever the session holds, and answers the part asked of it (R437). -/
theorem readDomain_start {s : State} {f : DictFrame} {x : Session} {e : Entry} (asked : 0 < f.total) (fits : f.total ≤ 1024)
    (start : f.offset = 0) (room : dictHeld s.dev f.session + stagedSize x + (readEntry s e f.sub).length ≤ 8388608) :
    readDomain s f x e =
      let v := readEntry s e f.sub
      ⟨none, 0, v.length, v.take f.total, some { x with snap := some (f.index, f.sub, v) }, s⟩ := by
  have length : ¬ (f.total = 0 ∨ 1024 < f.total) := by omega
  cases snap : x.snap <;> simp [readDomain, snap, start, length, Nat.not_lt.mpr room]

/-- A READ of a DOMAIN is served by the snapshot across the haul road (R16, R437). -/
theorem opRead_domain {s : State} {f : DictFrame} {x : Session} {e : Entry} (access : dictAccess s f false = .ok e)
    (domain : e.ty = .domain) : opRead s f x = readDomain { s with dev := mgmtCross s.dev f } f x e := by
  simp [opRead, access, domain]

/-- A first segment that is not the last is staged (R438). -/
theorem opSegment_first {s : State} {f : DictFrame} {x : Session} {e : Entry} (access : dictAccess s f true = .ok e)
    (first : f.first = true) (last : f.last = false) (start : f.offset = 0) (long : 1024 < f.total)
    (part : f.payload.length ≤ f.total) (room : dictHeld s.dev f.session + f.total ≤ 8388608) :
    opSegment s f x = servedOk { x with staged := some (f.index, f.sub, f.total, f.payload), snap := none } s := by
  have order : segmentCode s f x = none := by
    simp [segmentCode, first, last, start, Nat.not_le.mpr long, Nat.not_lt.mpr room]
  simp only [opSegment, order, access, segmentValue, first, if_true, Nat.not_lt.mpr part, if_false]

/-! ### Frames of an open session -/

/-- The device that has heard of its session `n`, which was `y`. -/
def sessionHeard (d : Dev) (n : Nat) (y : Session) : Dev :=
  { d with dict := { d.dict with sessions := tset d.dict.sessions n { y with heard := d.time.ticks } } }

/-- What becomes of a good frame of an open session turns on its sequence number alone: a repeat gets the kept answer, the next
one is served, any other is refused (R435). -/
theorem dictServe_session {s : State} {f : DictFrame} {r : Dev} {y : Session} (op : State → DictFrame → Session → Served)
    (good : badFrame f = false) (notOpen : f.type ≠ 1) (received : receive s.dev f.eth (dictMine s.dev f.eth) = (true, r))
    (session : tfind (dictCrcPassed r f.eth.port).dict.sessions f.session = some y) :
    dictServe s f op =
      let d := dictCrcPassed r f.eth.port
      let h := sessionHeard d f.session y
      if f.seq = y.seq then { s with dev := dictSend h f.eth y.last }
      else if f.seq ≠ (y.seq + 1) % 2 ^ 32 then { s with dev := dictRefuse h f abBadSequence }
      else dictFinish f (op { s with dev := h } f { y with heard := d.time.ticks }) := by
  unfold dictServe
  rw [received]
  simp only [good, notOpen, session, Bool.not_true, Bool.false_eq_true, if_true, if_false]
  rfl

/-- A row's own frame that is served on the device alone. -/
theorem dictRow_dev {s : State} {f : DictFrame} {d : Dev} {op : State → DictFrame → Session → Served} {mine : Bool}
    (frame : dictFrameOk f = true) (own : mine = true) (served : dictServe s f op = { s with dev := d }) :
    dictRow s f mine op = .next { s with dev := settle d } := by
  simp [dictRow, frame, own, served]

/-! ### Ends of sessions and frames that fail their CRC -/

theorem sessionTimeout_late {d : Dev} {n : Nat} {x : Session} (session : tfind d.dict.sessions n = some x)
    (late : x.heard + d.dict.timeout * 800000000 < d.time.ticks) :
    sessionTimeout d n = { d with dict := { d.dict with sessions := tdel d.dict.sessions n } } := by
  simp [sessionTimeout, session, late]

theorem sessionTimeout_early {d : Dev} {n : Nat} {x : Session} (session : tfind d.dict.sessions n = some x)
    (early : d.time.ticks ≤ x.heard + d.dict.timeout * 800000000) : sessionTimeout d n = d := by
  simp [sessionTimeout, session, Nat.not_lt.mpr early]

/-- A port in service serves the dictionary where it is port 4 or its configuration says so (R30). -/
theorem dictCrcError_serves {d : Dev} {p : Nat} (up : portUp d p = true)
    (serves : p = 4 ∨ bitAt (leAt (portOf d p).cfg 8 1) 0 = true) :
    dictCrcError d p =
      let c := { d with dict := { d.dict with crcErrors := satAdd 32 d.dict.crcErrors 1 } }
      if (portOf d p).dictFailed then crcPermanent c p else modPort c p fun x => { x with dictFailed := true } := by
  have passes : (!portUp d p || !(p = 4 || bitAt (leAt (portOf d p).cfg 8 1) 0)) = false := by
    have served : (decide (p = 4) || bitAt (leAt (portOf d p).cfg 8 1) 0) = true := by
      rw [Bool.or_eq_true, decide_eq_true_eq]; exact serves
    rw [up, served]; rfl
  simp only [dictCrcError, passes, Bool.false_eq_true, if_false]
  rfl

theorem dictCrcError_other {d : Dev} {p : Nat}
    (other : ¬ (portUp d p = true ∧ (p = 4 ∨ bitAt (leAt (portOf d p).cfg 8 1) 0 = true))) : dictCrcError d p = d := by
  unfold dictCrcError
  rw [if_pos]
  cases up : portUp d p with
  | false => rfl
  | true => simpa [up] using other

/-! ### Requests to state registers -/

/-- A request that names another generation is refused before anything else it asks is looked at (R442). -/
theorem requestCheck_stale {g : GenSt} {v : Bytes} (stale : beNat v / 65536 ≠ g.gen) (top : Nat) (ask : Nat → Bool) (busy : Bool)
    (rest : Nat → List (Bool × Nat)) : requestCheck g top ask busy v rest = some abStale := by
  simp [requestCheck, stale]

theorem benchRule_check_stale {s : State} {n : Nat} {v : Bytes} (stale : beNat v / 65536 ≠ (benchReg s.dev n).gen) :
    benchRule.check s n v = some abStale := by simp only [benchRule, requestCheck_stale stale]

theorem channelRule_check_stale {s : State} {n : Nat} {v : Bytes} (stale : beNat v / 65536 ≠ (chanReg s.dev n).gen) :
    channelRule.check s n v = some abStale := by simp only [channelRule, requestCheck_stale stale]

theorem ctxRule_check_stale {s : State} {n : Nat} {v : Bytes} (stale : beNat v / 65536 ≠ (ctxOf s.dev n).reg.gen) :
    ctxRule.check s n v = some abStale := by simp only [ctxRule, requestCheck_stale stale]

/-! ### The statements -/

/-- Settles O15: each request by what its operation comes to, a repeat and a wrong number by `dictServe_session`. -/
theorem dictRequests : Obligations.DictRequests := by
  unfold Obligations.DictRequests
  refine ⟨?requests, ?repeats, ?ends, ?crc⟩
  case requests =>
    intro s f d x turn
    refine ⟨?close, ?scalar, ?domain, ?segment⟩
    case close =>
      intro close
      exact dictRow_turn turn opClose (by simp [close])
    case scalar =>
      intro e read access scalar total start
      exact (dictRow_turn turn opRead (by simp [read])).trans (by rw [opRead_scalar access scalar total start])
    case domain =>
      intro e read access domain total fits start m v room
      exact (dictRow_turn turn opRead (by simp [read])).trans
        (by rw [opRead_domain access domain, readDomain_start total fits start room])
    case segment =>
      intro e write first last start long part room access
      exact (dictRow_turn turn opSegment (by simp [write, last])).trans
        (by rw [opSegment_first access first last start long part room])
  case repeats =>
    intro s f r y frame good write last index received session d d'
    have own : writesTo f 0x3001 = true := by simp [writesTo, write, last, index]
    have served := dictServe_session (opWrite incrementRule) good (by simp [write]) received session
    refine ⟨?again, ?wrong⟩
    case again =>
      intro again
      exact dictRow_dev frame own (served.trans (if_pos again))
    case wrong =>
      intro other skips
      exact dictRow_dev frame own (served.trans ((if_neg other).trans (if_pos skips)))
  case ends =>
    intro s n x session
    have ends : DoesJust (.dictSessionTimeout n) s (sessionTimeout s.dev n) := rfl
    refine ⟨?late, ?early⟩
    case late =>
      intro late
      exact doesJust_congr (sessionTimeout_late session late) ends
    case early =>
      intro early
      exact doesJust_congr (sessionTimeout_early session early) ends
  case crc =>
    intro s p port serves c
    have run := runDev_next s (fun d => dictCrcError d p) (decide_eq_true port)
    refine ⟨?first, ?second, ?other⟩
    case first =>
      intro ⟨up, own⟩ first
      exact run.trans (by rw [dictCrcError_serves up own, if_neg (by simp [first])])
    case second =>
      intro ⟨up, own⟩ second
      exact run.trans (by rw [dictCrcError_serves up own, if_pos second])
    case other =>
      intro other
      exact run.trans (by rw [dictCrcError_other other])

/-- Settles O16: a whole write by its rule's check, a stale request by `requestCheck_stale`. -/
theorem entryWrites : Obligations.EntryWrites := by
  unfold Obligations.EntryWrites
  refine ⟨?write, ?stale⟩
  case write =>
    intro s f d x n writes plain r s1
    have own : (f.type == 0x11 && f.last && !ownRow f.index f.sub) = true := by simp [writes.write, writes.last, plain]
    exact ⟨dictRow_write writes r own, fun c => dictRow_refused writes r own⟩
  case stale =>
    intro s f d x n refused
    refine ⟨?bench, ?channel, ?context⟩
    case bench =>
      intro writes stale
      exact ⟨fun other => dictRow_refused writes benchRule (by simp [writesTo_of_writes writes, other]) (benchRule_check_stale stale),
        fun ready => dictRow_refused writes benchRule (by simp [writesTo_of_writes writes, ready]) (benchRule_check_stale stale)⟩
    case channel =>
      intro writes stale
      exact dictRow_refused writes channelRule (writesTo_of_writes writes) (channelRule_check_stale stale)
    case context =>
      intro writes stale active
      exact dictRow_refused writes ctxRule (by simp [writesTo_of_writes writes, active]) (ctxRule_check_stale stale)

end Sys2Proof.Machine
end

section
/-!
SUPPORT. Proofs of the statement on the time unit's messages: timebase descriptors (R19, R174), SYSREF (R288, R401), PTP (R391 to
R394), pulses and captures (R387, R397, R401).
-/
namespace Sys2Proof.Machine
open Sys2Proof

/-! ### Timebase descriptors -/

@[simp] theorem setRoad_haul_roadLatency (d : Dev) (dir : Dir) (x : RoadDir) :
    (setRoad d dir x).haul.roadLatency = d.haul.roadLatency := by cases dir <;> rfl

@[simp] theorem acceptFlit_haul_roadLatency (d : Dev) (dir : Dir) (f : Flit) :
    (acceptFlit d dir f).haul.roadLatency = d.haul.roadLatency := by
  unfold acceptFlit
  simp only [setRoad_haul_roadLatency]
  split
  · split <;> simp
  · simp

theorem acceptIf_some {d : Dev} {dir : Dir} {x : Flit} (next : nextFlit (roadOf d dir) = some x) (p : Payload → Bool)
    (f : Dev → Payload → Dev) :
    acceptIf d dir p f = if roadRuns d && p x.pay then f (acceptFlit d dir x) x.pay else d := by
  simp [acceptIf, next]

theorem acceptIf_none {d : Dev} {dir : Dir} (next : nextFlit (roadOf d dir) = none) (p : Payload → Bool)
    (f : Dev → Payload → Dev) : acceptIf d dir p f = d := by
  simp [acceptIf, next]

/-- A count whose latency has passed brings the tensor die's count to the time unit's (R19). -/
theorem timebaseArrive_due {d : Dev} {n : Nat} (due : n + d.haul.roadLatency ≤ d.time.ticks) :
    timebaseArrive d (.timebase n) = { d with time := { d.time with replica := d.time.ticks } } := by
  simp [timebaseArrive, due]

/-! ### SYSREF -/

/-- Whether an edge at this tick follows the last timestamped one by fewer than four ticks (R401). -/
def sysrefNear (d : Dev) : Bool :=
  match d.time.sysrefSeen with
  | some p => d.time.ticks < p + 4
  | none => false

/-- The device with the edge at this tick timestamped, where it is (R401). -/
def sysrefStamp (d : Dev) : Dev :=
  if sysrefNear d then d else { d with time := { d.time with sysrefLast := d.time.ticks, sysrefSeen := some d.time.ticks } }

/-- The device with a grid from tick `t` on for every ALIGNING link that has none (R288). -/
def fixGrids (t : Nat) (d : Dev) : Dev :=
  { d with fe := { d.fe with links := d.fe.links.map fun k =>
      if k.reg.st = 1 && k.lemc.isNone then { k with lemc := some (t + d.fe.sysrefOffset) } else k } }

/-- The links off whose grid an edge at this tick comes (R288). -/
def offLinks (d : Dev) : List Nat := (List.range 8).filter fun l => offGrid d (linkOf d l)

/-- The device with an edge off the grid of its links counted and posted (R288). -/
def postDrift (t : Nat) (d : Dev) : Dev :=
  ((offLinks d).flatMap (linkCtxs d)).eraseDups.foldl (fun d c => post d c 0x0025 noCause (zeros 8 ++ leBytes 8 t))
    { d with fe := { d.fe with drifts := satAdd 32 d.fe.drifts 1 } }

/-- An edge is timestamped, then counted where it is off a grid, and then fixes grids. -/
theorem sysrefEdge_eq (d : Dev) :
    sysrefEdge d =
      let e := sysrefStamp d
      fixGrids d.time.ticks (if (offLinks e).isEmpty then e else postDrift d.time.ticks e) := rfl

theorem sysrefNear_false {d : Dev} (far : ∀ t, d.time.sysrefSeen = some t → t + 4 ≤ d.time.ticks) : sysrefNear d = false := by
  unfold sysrefNear
  split
  next t seen => exact decide_eq_false (Nat.not_lt.mpr (far t seen))
  next => rfl

theorem sysrefNear_true {d : Dev} {t : Nat} (seen : d.time.sysrefSeen = some t) (near : d.time.ticks < t + 4) :
    sysrefNear d = true := by simp [sysrefNear, seen, near]

@[simp] theorem sysrefStamp_fe (d : Dev) : (sysrefStamp d).fe = d.fe := by
  unfold sysrefStamp; split <;> rfl

@[simp] theorem sysrefStamp_ticks (d : Dev) : (sysrefStamp d).time.ticks = d.time.ticks := by
  unfold sysrefStamp; split <;> rfl

/-- A timestamp moves no grid. -/
theorem offLinks_sysrefStamp (d : Dev) : offLinks (sysrefStamp d) = offLinks d := by
  simp [offLinks, offGrid, linkOf]

/-- An edge on every link's grid is timestamped and fixes grids (R288). -/
theorem sysrefEdge_onGrid {d : Dev} (on : ∀ l, l < 8 → offGrid d (linkOf d l) = false) :
    sysrefEdge d = fixGrids d.time.ticks (sysrefStamp d) := by
  have none_off : offLinks d = [] := by
    rw [offLinks, List.filter_eq_nil_iff]
    intro l hl
    simp [on l (List.mem_range.mp hl)]
  simp only [sysrefEdge_eq, offLinks_sysrefStamp, none_off, List.isEmpty_nil, if_true]

/-- Events posted to several contexts leave the front end. -/
theorem foldl_post_fe (code : Nat) (b : Bytes) (cs : List Nat) (d : Dev) :
    (cs.foldl (fun d c => post d c code noCause b) d).fe = d.fe := by
  induction cs generalizing d with
  | nil => rfl
  | cons c cs ih => rw [List.foldl_cons, ih, post_fe]

theorem postDrift_fe_drifts (t : Nat) (d : Dev) : (postDrift t d).fe.drifts = satAdd 32 d.fe.drifts 1 := by
  rw [postDrift, foldl_post_fe]

/-- An edge off the grid of a link is counted once (R288). -/
theorem sysrefEdge_offGrid {d : Dev} {l : Nat} (hl : l < 8) (off : offGrid d (linkOf d l) = true) :
    (sysrefEdge d).fe.drifts = satAdd 32 d.fe.drifts 1 := by
  have some_off : l ∈ offLinks d := List.mem_filter.mpr ⟨List.mem_range.mpr hl, off⟩
  have drift : ¬ (offLinks (sysrefStamp d)).isEmpty = true := by
    rw [offLinks_sysrefStamp, List.isEmpty_iff]
    exact List.ne_nil_of_mem some_off
  change (if (offLinks (sysrefStamp d)).isEmpty then _ else postDrift d.time.ticks (sysrefStamp d)).fe.drifts = _
  rw [if_neg drift, postDrift_fe_drifts, sysrefStamp_fe]

/-! ### PTP -/

/-- A message for the engine on a port in service is received by it. -/
theorem exec_ptpMessageReceived_mine {s : State} {m : PtpMsg} {r : Dev} (ok : ethOk m.eth = true)
    (received : receive s.dev m.eth true = (true, r)) (mine : ptpMine r m = true) :
    DoesJust (.ptpMessageReceived m) s (ptpReceive r m) := by
  change execPtpMessageReceived m s = _
  simp [execPtpMessageReceived, onDev, ok, received, mine]

theorem exec_ptpMessageReceived_other {s : State} {m : PtpMsg} {a : Bool} {r : Dev} (ok : ethOk m.eth = true)
    (received : receive s.dev m.eth true = (a, r)) (other : a = false ∨ ptpMine r m = false) :
    DoesJust (.ptpMessageReceived m) s r := by
  have skip : (a && ptpMine r m) = false := Bool.and_eq_false_iff.mpr other
  change execPtpMessageReceived m s = _
  simp [execPtpMessageReceived, onDev, ok, received, skip]

theorem ptpReceive_sync_twoStep {d : Dev} {m : PtpMsg} (kind : m.kind = .sync) (two : m.twoStep = true) :
    ptpReceive d m = { d with time := { d.time with ptp := { d.time.ptp with
      syncSeq := m.seqId
      syncT2 := some (rawStamp d - (lget 0 d.time.rxLat m.eth.port : Nat))
      syncCorr := m.corr + lget 0 d.time.asym m.eth.port } } } := by
  simp [ptpReceive, kind, two]

theorem ptpReceive_sync_oneStep {d : Dev} {m : PtpMsg} (kind : m.kind = .sync) (one : m.twoStep = false) :
    ptpReceive d m = ptpMeasure d (msgTime m) (rawStamp d - (lget 0 d.time.rxLat m.eth.port : Nat))
      (m.corr + lget 0 d.time.asym m.eth.port) := by
  simp [ptpReceive, kind, one]

theorem ptpReceive_delayReq {d : Dev} {m : PtpMsg} (kind : m.kind = .delayReq) (endToEnd : d.time.ptp.profile = 1)
    (master : ptpMaster d = true) :
    ptpReceive d m = { d with time := { d.time with ptp := { d.time.ptp with answer := d.time.ptp.answer ++
      [(.delayResp, m.seqId, rawStamp d - (lget 0 d.time.rxLat m.eth.port : Nat), m.corr)] } } } := by
  simp [ptpReceive, kind, endToEnd, master]

theorem ptpReceive_announce {d : Dev} {m : PtpMsg} (kind : m.kind = .announce) (first : liveMaster d = none) :
    ptpReceive d m = { d with time := { d.time with ptp := { d.time.ptp with best := some m.ann, heard := d.time.ticks } } } := by
  simp [ptpReceive, kind, ptpAnnounce, first]

/-- A running engine sends what it is asked to. -/
theorem exec_ptpMessageTransmit {s : State} (runs : ptpRuns s.dev = true) (k : PtpKind) :
    DoesJust (.ptpMessageTransmit k) s (ptpTransmit s.dev k) := by
  change execPtpMessageTransmit k s = _
  simp [execPtpMessageTransmit, onDev, runs]

theorem ptpTransmit_sync_oneStep {d : Dev} (master : ptpMaster d = true) (one : d.time.ptp.oneStep = true) :
    ptpTransmit d .sync =
      let g := ptpSend d .sync d.time.ptp.txSeq false (rawStamp d + (lget 0 d.time.txLat d.time.ptp.port : Nat)) 0
      { g with time := { g.time with ptp := { g.time.ptp with txSeq := (d.time.ptp.txSeq + 1) % 65536 } } } := by
  simp [ptpTransmit, master, one]

theorem ptpTransmit_delayReq {d : Dev} (endToEnd : d.time.ptp.profile = 1) :
    ptpTransmit d .delayReq =
      let g := ptpSend d .delayReq d.time.ptp.txSeq false 0 (-(lget 0 d.time.asym d.time.ptp.port))
      { g with time := { g.time with ptp := { g.time.ptp with
          txSeq := (d.time.ptp.txSeq + 1) % 65536
          reqSeq := d.time.ptp.txSeq
          reqT := some (rawStamp d + (lget 0 d.time.txLat d.time.ptp.port : Nat)) } } } := by
  simp [ptpTransmit, endToEnd]

/-- Rounding to 2^−8 ns moves a value by less than one unit. -/
theorem toUnits8_close (free : BitVec 64) (x : Int) : (toUnits8 free x * 256 - x).natAbs < 256 := by
  have split : 256 * x.fdiv 256 + x.fmod 256 = x := Int.mul_fdiv_add_fmod x 256
  have low : 0 ≤ x.fmod 256 := Int.fmod_nonneg_of_pos x (by decide)
  have high : x.fmod 256 < 256 := Int.fmod_lt_of_pos x (by decide)
  unfold toUnits8
  split <;> omega

/-- A measurement is counted and its offset written; between peers, and before the first exchange, the mean path delay stays
(R392). -/
theorem ptpMeasure_offset (d : Dev) (t1 t2 corr : Int) :
    (ptpMeasure d t1 t2 corr).time.ptp.updates = satAdd 32 d.time.ptp.updates 1
      ∧ ∃ mean free, (ptpMeasure d t1 t2 corr).time.ptp.offset = satInt 32 (toUnits8 free (t2 - t1 - corr - mean))
        ∧ (d.time.ptp.profile ≠ 1 → mean = d.time.ptp.mean) := by
  refine ⟨rfl, _, _, rfl, ?_⟩
  intro peers
  split
  · rw [if_neg peers]
  · rfl

/-! ### Pulses and captures -/

/-- The pulses left at the end of an output's pulses are those of other outputs and those whose width has not passed. -/
theorem mem_pulses_left (p : Pulse) (ps : List Pulse) (o now : Nat) :
    p ∈ ps.filter (fun p => !(p.out == o && p.till ≤ now)) ↔ p ∈ ps ∧ (p.out = o → now < p.till) := by
  rw [List.mem_filter]
  by_cases out : p.out = o <;> simp [out]

theorem captureEdge_far {d : Dev} {x : Capture} (far : ∀ t, x.last = some t → t + 4 ≤ d.time.ticks) :
    captureEdge d x = { x with edges := satAdd 32 x.edges 1, rcd := timeRecord d, last := some d.time.ticks } := by
  unfold captureEdge
  split
  next t last => simp [Nat.not_lt.mpr (far t last)]
  next => rfl

theorem captureEdge_near {d : Dev} {x : Capture} {t : Nat} (last : x.last = some t) (near : d.time.ticks < t + 4) :
    captureEdge d x = { x with edges := satAdd 32 x.edges 1 } := by
  simp [captureEdge, last, near]

/-- Changing the element that a list holds at `k` sets it there. -/
theorem lmod_eq_set {α : Type} {l : List α} {k : Nat} {x : α} (held : l[k]? = some x) (f : α → α) :
    lmod l k f = l.set k (f x) := by
  obtain ⟨inside, -⟩ := List.getElem?_eq_some_iff.mp held
  apply List.ext_getElem?
  intro i
  rw [lmod, List.getElem?_modify, List.getElem?_set]
  by_cases at_k : k = i
  · subst at_k
    rw [if_pos rfl, if_pos inside, held]
    exact congrArg some (if_pos rfl)
  · rw [if_neg at_k]
    cases l[i]? with
    | none => rfl
    | some a => exact congrArg some (if_neg at_k)

/-- An edge on a ball of a device that is up changes that ball's capture alone. -/
theorem exec_captureEdge {s : State} {c : Nat} {x : Capture} (ball : c < 2) (up : s.dev.boot.phase = .up)
    (cap : s.dev.time.caps[c]? = some x) :
    DoesJust (.captureEdge c) s
      { s.dev with time := { s.dev.time with caps := s.dev.time.caps.set c (captureEdge s.dev x) } } := by
  change execCaptureEdge c s = _
  simp [execCaptureEdge, onDev, ball, up, lmod_eq_set cap]

/-! ### The statement -/

/-- Settles O24: each message by the lemma of its kind. -/
theorem timeMessages : Obligations.TimeMessages := by
  unfold Obligations.TimeMessages
  refine ⟨?line, ?received, ?other, ?transmit, ?sent, ?balls⟩
  case line =>
    intro s d
    have timebase := runDev_next s (fun d => acceptIf d .st (timebaseDue d) timebaseArrive) rfl
    have edge := runDev_next s sysrefEdge rfl
    refine ⟨?due, ?notDue, ?noFlit, ?onGrid, ?offGrid⟩
    case due =>
      intro f n runs next pay due a
      have taken : (roadRuns s.dev && timebaseDue s.dev f.pay) = true := by
        simp only [pay, timebaseDue, Bool.and_eq_true]
        exact ⟨runs, decide_eq_true due⟩
      have due' : n + (acceptFlit s.dev .st f).haul.roadLatency ≤ (acceptFlit s.dev .st f).time.ticks := by simpa using due
      exact timebase.trans (by rw [acceptIf_some next, if_pos taken, pay, timebaseArrive_due due'])
    case notDue =>
      intro f next waits
      have left : ¬ (roadRuns s.dev && timebaseDue s.dev f.pay) = true := by
        rw [Bool.not_eq_true, Bool.and_eq_false_iff]; exact waits
      exact timebase.trans (by rw [acceptIf_some next, if_neg left])
    case noFlit =>
      intro next
      exact timebase.trans (by rw [acceptIf_none next])
    case onGrid =>
      intro on grid
      refine ⟨?far, ?near⟩
      case far =>
        intro far
        exact edge.trans (by rw [sysrefEdge_onGrid on, sysrefStamp, if_neg (by simp [sysrefNear_false far])]; rfl)
      case near =>
        intro t seen near
        exact edge.trans (by rw [sysrefEdge_onGrid on, sysrefStamp, if_pos (sysrefNear_true seen near)]; rfl)
    case offGrid =>
      intro l hl off
      exact ⟨_, edge, sysrefEdge_offGrid hl off⟩
  case received =>
    intro s m r ok received mine p at_ asym keeps
    have runs := exec_ptpMessageReceived_mine ok received mine
    refine ⟨runs, ?twoStep, ?oneStep, ?delayReq, ?announce⟩
    case twoStep =>
      intro kind two
      exact doesJust_congr (ptpReceive_sync_twoStep kind two) runs
    case oneStep =>
      intro kind one
      have measured := doesJust_congr (ptpReceive_sync_oneStep kind one) runs
      obtain ⟨updates, mean, free, offset, peers⟩ := ptpMeasure_offset r (msgTime m)
        (rawStamp r - (lget 0 r.time.rxLat m.eth.port : Nat)) (m.corr + lget 0 r.time.asym m.eth.port)
      refine ⟨_, _, measured, updates, offset, fun profile => ?_, rfl, rfl⟩
      rw [peers profile]
      exact toUnits8_close free _
    case delayReq =>
      intro kind endToEnd master
      exact doesJust_congr (ptpReceive_delayReq kind endToEnd master) runs
    case announce =>
      intro kind first
      exact doesJust_congr (ptpReceive_announce kind first) runs
  case other =>
    intro s m a r ok received other
    exact exec_ptpMessageReceived_other ok received other
  case transmit =>
    intro s k
    rfl
  case sent =>
    intro s runs d p out
    refine ⟨?sync, ?request⟩
    case sync =>
      rintro g master one rfl
      exact doesJust_congr (ptpTransmit_sync_oneStep master one) (exec_ptpMessageTransmit runs .sync)
    case request =>
      rintro g endToEnd rfl
      exact doesJust_congr (ptpTransmit_delayReq endToEnd) (exec_ptpMessageTransmit runs .delayReq)
  case balls =>
    intro s d
    refine ⟨?pulse, ?capture⟩
    case pulse =>
      intro o ball
      refine ⟨_, if_pos (decide_eq_true ball), fun p => ?_, rfl, rfl, rfl⟩
      exact mem_pulses_left p _ o d.time.ticks
    case capture =>
      intro c x ball up cap put
      have edge := exec_captureEdge ball up cap
      refine ⟨?far, ?near⟩
      case far =>
        intro far
        exact captureEdge_far far ▸ edge
      case near =>
        intro t last near
        exact captureEdge_near last near ▸ edge

end Sys2Proof.Machine
end

section
/-!
SUPPORT. Proof of the statement on integer dot products: passes, ranges and their sum are exact where the terms fit (R48, R65, R66,
R68).
-/
namespace Sys2Proof.Machine
open Sys2Proof

/-! ### INT32 accumulators that hold an exact value -/

/-- The accumulator that holds `x`, no flag raised. -/
def exactAcc (x : Int) : FR := ⟨wrapBits 32 x, fNone⟩

theorem sext_wrapBits {x : Int} (fits : x.natAbs < 2 ^ 31) : sext 32 (wrapBits 32 x) = x := by
  have code : wrapBits 32 x = (x % ((2 ^ 32 : Nat) : Int)).toNat := rfl
  simp only [sext]
  split <;> omega

theorem sat32_exact {x : Int} (fits : x.natAbs < 2 ^ 31) : sat32 x = (x, fNone) := by
  have low : ¬ x < intMin 32 := by simp only [intMin]; omega
  have high : ¬ intMax 32 < x := by simp only [intMax]; omega
  simp [sat32, satInt, clampInt, outsideInt, fWhen, low, high]

/-- An addition whose operands and sum fit is exact (R48, R66). -/
theorem addInt32_exact {a b : Int} (fits : a.natAbs + b.natAbs < 2 ^ 31) :
    addInt32 (exactAcc a) (exactAcc b) = exactAcc (a + b) := by
  have sum : (a + b).natAbs < 2 ^ 31 := by omega
  simp [addInt32, exactAcc, fNone, sext_wrapBits (show a.natAbs < 2 ^ 31 by omega),
    sext_wrapBits (show b.natAbs < 2 ^ 31 by omega), sat32_exact sum]

/-- The magnitudes of a list of terms, added. -/
def magnitude (l : List Int) : Nat := (l.map Int.natAbs).sum

@[simp] theorem magnitude_nil : magnitude [] = 0 := rfl
@[simp] theorem magnitude_cons (x : Int) (l : List Int) : magnitude (x :: l) = x.natAbs + magnitude l := by simp [magnitude]
@[simp] theorem magnitude_append (l m : List Int) : magnitude (l ++ m) = magnitude l + magnitude m := by simp [magnitude]

theorem natAbs_sum_le_magnitude (l : List Int) : l.sum.natAbs ≤ magnitude l := by
  induction l with
  | nil => simp
  | cons x l ih => rw [List.sum_cons, magnitude_cons]; omega

theorem sum_flatten (parts : List (List Int)) : parts.flatten.sum = (parts.map List.sum).sum := by
  induction parts with
  | nil => rfl
  | cons p ps ih => rw [List.flatten_cons, List.sum_append, ih, List.map_cons, List.sum_cons]

/-- The sums of parts of a list weigh no more than the list. -/
theorem magnitude_sums_le (parts : List (List Int)) : magnitude (parts.map List.sum) ≤ magnitude parts.flatten := by
  induction parts with
  | nil => simp
  | cons p ps ih =>
    have part := natAbs_sum_le_magnitude p
    rw [List.map_cons, magnitude_cons, List.flatten_cons, magnitude_append]
    omega

/-! ### Passes -/

/-- The step of one pass of terms, with the spoil of its k-steps. -/
def intPass (c : List Int × List Bool) : AccStep :=
  { run := fun acc => addInt32 ⟨acc, fNone⟩ ⟨wrapBits 32 (sat32 c.1.sum).1, (sat32 c.1.sum).2⟩, spoil := c.2.any fun b => b }

theorem intSteps_eq (perK : Nat) (ts : List Int) (sp : List Bool) :
    intSteps perK ts sp = ((chunks (128 * perK) (ts.length + 1) ts).zip (chunks 128 (sp.length + 1) sp)).map intPass := rfl

/-- The sums of passes. -/
def passSums (zs : List (List Int × List Bool)) : List Int := zs.map fun c => c.1.sum

theorem intPass_run {a : Int} {c : List Int × List Bool} (fits : a.natAbs + c.1.sum.natAbs < 2 ^ 31) :
    (intPass c).run (exactAcc a).bits = exactAcc (a + c.1.sum) := by
  have pass : sat32 c.1.sum = (c.1.sum, fNone) := sat32_exact (by omega)
  simp only [intPass, pass]
  exact addInt32_exact fits

/-- Passes run one after the other add their sums to the accumulator (R65, R66). -/
theorem runSteps_intPass (zs : List (List Int × List Bool)) {a : Int} (fits : a.natAbs + magnitude (passSums zs) < 2 ^ 31) :
    runSteps (exactAcc a) (zs.map intPass) = exactAcc (a + (passSums zs).sum) := by
  induction zs generalizing a with
  | nil => simp [runSteps, passSums]
  | cons c zs ih =>
    have weight : magnitude (passSums (c :: zs)) = c.1.sum.natAbs + magnitude (passSums zs) := by simp [passSums]
    have step := intPass_run (a := a) (c := c) (by omega)
    calc runSteps (exactAcc a) ((c :: zs).map intPass)
        = runSteps ⟨((intPass c).run (exactAcc a).bits).bits, fNone ||| ((intPass c).run (exactAcc a).bits).flags⟩
            (zs.map intPass) := rfl
      _ = runSteps (exactAcc (a + c.1.sum)) (zs.map intPass) := by rw [step]; simp [exactAcc, fNone]
      _ = exactAcc (a + c.1.sum + (passSums zs).sum) := ih (by omega)
      _ = exactAcc (a + (passSums (c :: zs)).sum) := by simp [passSums, Int.add_assoc]

theorem flatten_chunks {α : Type} {n : Nat} (hn : 0 < n) (fuel : Nat) (xs : List α) (enough : xs.length < fuel) :
    (chunks n fuel xs).flatten = xs := by
  induction fuel generalizing xs with
  | zero => omega
  | succ fuel ih =>
    cases xs with
    | nil => rfl
    | cons x xs =>
      have rest : ((x :: xs).drop n).length < fuel := by
        rw [List.length_drop]; simp only [List.length_cons] at enough ⊢; omega
      rw [chunks, List.flatten_cons, ih _ rest, List.take_append_drop]

/-- As many k-steps as hold the terms make as many passes as the terms do. -/
theorem length_chunks_mul_le {α β : Type} {n k : Nat} (hn : 0 < n) (fuel fuel' : Nat) (xs : List α) (ys : List β)
    (held : xs.length ≤ ys.length * k) (enough : ys.length < fuel') :
    (chunks (n * k) fuel xs).length ≤ (chunks n fuel' ys).length := by
  induction fuel generalizing fuel' xs ys with
  | zero => simp [chunks]
  | succ fuel ih =>
    match xs, ys, fuel' with
    | [], _, _ => simp [chunks]
    | x :: xs, [], _ => simp at held
    | x :: xs, y :: ys, fuel' + 1 =>
      simp only [chunks, List.length_cons]
      refine Nat.succ_le_succ (ih fuel' _ _ ?held ?enough)
      case held =>
        rw [List.length_drop, List.length_drop, Nat.sub_mul]
        exact Nat.sub_le_sub_right held _
      case enough =>
        rw [List.length_drop]
        simp only [List.length_cons] at enough ⊢
        omega

theorem le_ceilDiv_mul {a b : Nat} (hb : 0 < b) : a ≤ ceilDiv a b * b := by
  have split := Nat.div_add_mod (a + b - 1) b
  have low := Nat.mod_lt (a + b - 1) hb
  rw [ceilDiv, Nat.mul_comm]
  omega

/-- The passes of a dot product, with the spoil of their k-steps: none. -/
def intPasses (perK : Nat) (ts : List Int) : List (List Int × List Bool) :=
  let sp := List.replicate (ceilDiv ts.length perK) false
  (chunks (128 * perK) (ts.length + 1) ts).zip (chunks 128 (sp.length + 1) sp)

/-- The passes of a dot product take up all its terms. -/
theorem flatten_intPasses {perK : Nat} (hk : 0 < perK) (ts : List Int) :
    ((intPasses perK ts).map Prod.fst).flatten = ts := by
  have all := length_chunks_mul_le (n := 128) (by decide) (ts.length + 1) _ ts
    (List.replicate (ceilDiv ts.length perK) false) (by simpa using le_ceilDiv_mul hk) (Nat.lt_succ_self _)
  rw [intPasses, List.map_fst_zip all, flatten_chunks (Nat.mul_pos (by decide) hk) _ _ (Nat.lt_succ_self _)]

theorem passSums_eq (zs : List (List Int × List Bool)) : passSums zs = (zs.map Prod.fst).map List.sum := by
  simp [passSums]

theorem sum_passSums_intPasses {perK : Nat} (hk : 0 < perK) (ts : List Int) : (passSums (intPasses perK ts)).sum = ts.sum := by
  rw [passSums_eq, ← sum_flatten, flatten_intPasses hk]

theorem magnitude_passSums_intPasses_le {perK : Nat} (hk : 0 < perK) (ts : List Int) :
    magnitude (passSums (intPasses perK ts)) ≤ magnitude ts := by
  have le := magnitude_sums_le ((intPasses perK ts).map Prod.fst)
  rwa [flatten_intPasses hk, ← passSums_eq] at le

theorem intPasses_ne_nil {perK : Nat} (hk : 0 < perK) {ts : List Int} (some_term : ts ≠ []) : intPasses perK ts ≠ [] := by
  intro no_pass
  have flat := flatten_intPasses hk ts
  rw [no_pass] at flat
  exact some_term flat.symm

/-! ### Ranges -/

theorem rangeOf_map {α β : Type} (f : α → β) (ps : List α) (S j : Nat) : rangeOf (ps.map f) S j = (rangeOf ps S j).map f := by
  simp [rangeOf, List.map_take, List.map_drop]

/-- The first `n` ranges hold the passes below the start of the next one (R68). -/
theorem flatten_ranges {α : Type} (ps : List α) (S n : Nat) :
    ((List.range n).map (rangeOf ps S)).flatten = ps.take (ps.length * n / S) := by
  induction n with
  | zero => simp
  | succ n ih =>
    have start_le : ps.length * n / S ≤ ps.length * (n + 1) / S := Nat.div_le_div_right (Nat.mul_le_mul_left _ (Nat.le_succ n))
    rw [List.range_succ, List.map_append, List.flatten_append, ih]
    simp only [List.map_singleton, List.flatten_singleton, rangeOf]
    rw [← List.take_add, Nat.add_sub_cancel' start_le]

/-- The ranges after the first of `n + 1` (R68). -/
def laterRanges {α : Type} (ps : List α) (n : Nat) : List (List α) := (List.range n).map fun j => rangeOf ps (n + 1) (j + 1)

/-- The ranges of a split deal out every pass once (R68). -/
theorem rangeOf_zero_append_laterRanges {α : Type} (ps : List α) (n : Nat) :
    rangeOf ps (n + 1) 0 ++ (laterRanges ps n).flatten = ps := by
  have all := flatten_ranges ps (n + 1) (n + 1)
  rw [Nat.mul_div_cancel _ n.succ_pos, List.take_length, List.range_succ_eq_map, List.map_cons, List.map_map,
    List.flatten_cons] at all
  exact all

/-- The results of ranges added one after the other (R68). -/
theorem foldl_addInt32_exact (rs : List (List Int)) {a : Int} (fits : a.natAbs + magnitude rs.flatten < 2 ^ 31) :
    (rs.map fun r => exactAcc r.sum).foldl addInt32 (exactAcc a) = exactAcc (a + rs.flatten.sum) := by
  induction rs generalizing a with
  | nil => simp
  | cons r rs ih =>
    have part := natAbs_sum_le_magnitude r
    rw [List.flatten_cons, magnitude_append] at fits
    rw [List.map_cons, List.foldl_cons, addInt32_exact (by omega), ih (by omega), List.flatten_cons, List.sum_append, Int.add_assoc]

theorem magnitude_le_flatten {r : List Int} {rs : List (List Int)} (mem : r ∈ rs) : magnitude r ≤ magnitude rs.flatten := by
  obtain ⟨before, after, rfl⟩ := List.append_of_mem mem
  simp only [List.flatten_append, List.flatten_cons, magnitude_append]
  omega

/-- A range's passes run from an accumulator add the sums of the range. -/
theorem runSteps_rangeOf (zs : List (List Int × List Bool)) (S j : Nat) {a : Int}
    (fits : a.natAbs + magnitude (rangeOf (passSums zs) S j) < 2 ^ 31) :
    runSteps (exactAcc a) (rangeOf (zs.map intPass) S j) = exactAcc (a + (rangeOf (passSums zs) S j).sum) := by
  rw [passSums, rangeOf_map] at fits ⊢
  rw [rangeOf_map]
  exact runSteps_intPass _ fits

/-- Each range after the first comes to its sum. -/
theorem map_runSteps_laterRanges (zs : List (List Int × List Bool)) (n : Nat)
    (fits : magnitude (laterRanges (passSums zs) n).flatten < 2 ^ 31) :
    ((List.range n).map fun j => runSteps (exactAcc 0) (rangeOf (zs.map intPass) (n + 1) (j + 1)))
      = (laterRanges (passSums zs) n).map fun r => exactAcc r.sum := by
  rw [laterRanges, List.map_map]
  refine List.map_congr_left fun j mem => ?_
  have le : magnitude (rangeOf (passSums zs) (n + 1) (j + 1)) ≤ magnitude (laterRanges (passSums zs) n).flatten :=
    magnitude_le_flatten (List.mem_map_of_mem mem)
  rw [runSteps_rangeOf zs (n + 1) (j + 1) (by rw [Int.natAbs_zero]; omega), Int.zero_add]
  rfl

/-- An accumulation over `n + 1` ranges: the first from the start, the others from zero, and their results added (R68). -/
theorem accumulate_succ (n : Nat) (start : Int) (ss : List AccStep) :
    accumulate addInt32 (n + 1) (exactAcc start) ss
      = ((List.range n).map fun j => runSteps (exactAcc 0) (rangeOf ss (n + 1) (j + 1))).foldl addInt32
          (runSteps (exactAcc start) (rangeOf ss (n + 1) 0)) := by
  simp only [accumulate, List.range_succ_eq_map, List.map_cons, List.map_map, addRanges]
  rfl

/-- An accumulation over passes that fit is exact, whatever the number of ranges (R66, R68). -/
theorem accumulate_intPass (zs : List (List Int × List Bool)) {S : Nat} (hS : 0 < S) {start : Int}
    (fits : start.natAbs + magnitude (passSums zs) < 2 ^ 31) :
    accumulate addInt32 S (exactAcc start) (zs.map intPass) = exactAcc (start + (passSums zs).sum) := by
  obtain ⟨n, rfl⟩ : ∃ n, S = n + 1 := ⟨S - 1, by omega⟩
  have dealt := rangeOf_zero_append_laterRanges (passSums zs) n
  have weight : magnitude (rangeOf (passSums zs) (n + 1) 0) + magnitude (laterRanges (passSums zs) n).flatten
      = magnitude (passSums zs) := by rw [← magnitude_append, dealt]
  have part := natAbs_sum_le_magnitude (rangeOf (passSums zs) (n + 1) 0)
  rw [accumulate_succ, runSteps_rangeOf zs (n + 1) 0 (by omega), map_runSteps_laterRanges zs n (by omega),
    foldl_addInt32_exact _ (by omega), Int.add_assoc, ← List.sum_append, dealt]

theorem splitRanges_pos (split : Bool) {benches passes : Nat} (hb : 0 < benches) (hp : 0 < passes) :
    0 < splitRanges split benches passes := by
  unfold splitRanges
  split <;> omega

/-! ### The statement -/

/-- Settles O31: every pass, every range and the sum of the ranges is exact, by induction over the passes and over the ranges. -/
theorem integerSplit : Obligations.IntegerSplit := by
  unfold Obligations.IntegerSplit
  intro split benches perK start terms hb hk some_term fits
  have passes : 0 < ((intPasses perK terms).map intPass).length := by
    rw [List.length_map]
    exact List.length_pos_iff.mpr (intPasses_ne_nil hk some_term)
  have sum_fits : start.natAbs + magnitude (passSums (intPasses perK terms)) < 2 ^ 31 :=
    Nat.lt_of_le_of_lt (Nat.add_le_add_left (magnitude_passSums_intPasses_le hk terms) _) fits
  have total : (start + terms.sum).natAbs < 2 ^ 31 := by
    have le : terms.sum.natAbs ≤ (terms.map Int.natAbs).sum := natAbs_sum_le_magnitude terms
    omega
  have exact_sum := accumulate_intPass (intPasses perK terms) (splitRanges_pos split hb passes) sum_fits
  rw [sum_passSums_intPasses hk] at exact_sum
  calc dotInt split benches perK start terms
      = (sext 32 (exactAcc (start + terms.sum)).bits, (exactAcc (start + terms.sum)).flags) := by rw [← exact_sum]; rfl
    _ = (start + terms.sum, fNone) := by rw [exactAcc, sext_wrapBits total]

end Sys2Proof.Machine
end

section
/-!
SUPPORT. Proof of the statement on writes that act on flags, queues, graphs, tag peaks and lock-step (R61, R191, R228, R239, R240,
R244, R276, R277).
-/
namespace Sys2Proof.Machine
open Sys2Proof

/-! ### What a request across the haul road leaves -/

@[simp] theorem ctxOf_mgmtCross (d : Dev) (f : DictFrame) (n : Nat) : ctxOf (mgmtCross d f) n = ctxOf d n := by
  simp only [ctxOf, mgmtCross_disp]
@[simp] theorem queueOf_mgmtCross (d : Dev) (f : DictFrame) (q : Nat) : queueOf (mgmtCross d f) q = queueOf d q := by
  simp only [queueOf, mgmtCross_disp]

/-- A write that passes its rule's check leaves the device that the rule comes to. -/
theorem writeDoes_of_rule {c : Instr} {s : State} {f : DictFrame} {d e : Dev} {x : Session} {i n : Nat} {rule : WriteRule}
    {mine : Bool} (writes : Writes s f d x i n) (row : exec c s = dictRow s f mine (opWrite rule)) (own : mine = true)
    (passes : rule.check { s with dev := d } n f.payload = none)
    (left : rule.apply { s with dev := mgmtCross d f } n f.payload = { s with dev := e }) : WriteDoes c s f x e := by
  rw [WriteDoes, row, dictRow_write writes rule own passes, left]

/-! ### The checks that pass -/

theorem flagRule_check_none {s : State} {n : Nat} {v : Bytes} (small : beNat v < 512) : flagRule.check s n v = none := by
  simp [flagRule, firstFail, small]

theorem queueRule_check_resume {s : State} {n q : Nat} {v : Bytes} (below : q < 16384) (asked : beNat v = 2 ^ 30 + q)
    (halted : (queueOf s.dev q).halted = true) : queueRule.check s n v = none := by
  have op : beNat v / 1073741824 = 1 := by omega
  have reserved : beNat v / 16384 % 65536 = 0 := by omega
  have queue : beNat v % 16384 = q := by omega
  simp [queueRule, firstFail, op, reserved, queue, halted]

theorem queueRule_check_reset {s : State} {n q c : Nat} {v : Bytes} (below : q < 16384) (asked : beNat v = 2 ^ 31 + q)
    (owner : ownerOf s.dev q = some c) (stopped : (ctxOf s.dev c).reg.st = ctxStopped) : queueRule.check s n v = none := by
  have op : beNat v / 1073741824 = 2 := by omega
  have reserved : beNat v / 16384 % 65536 = 0 := by omega
  have queue : beNat v % 16384 = q := by omega
  simp [queueRule, firstFail, op, reserved, queue, owner, stopped]

theorem graphRule_check_admit {s : State} {g : Nat} {v : Bytes} (length : v.length = 72) (ranges : graphRanges v = true)
    (fresh : (graphOf s.dev g).st ≠ 1) (idle : s.dev.test.running = none) : graphRule.check s g v = none := by
  simp [graphRule, firstFail, length, ranges, fresh, testIn, idle]

theorem graphRule_check_withdraw {s : State} {g : Nat} {v : Bytes} (length : v.length = 72) (ranges : graphRanges v = true)
    (withdraw : gAdmit v = false) : graphRule.check s g v = none := by
  simp [graphRule, firstFail, length, ranges, withdraw]

theorem lockstepRule_check_arm {s : State} {n : Nat} {v : Bytes} (arm : beNat v = 1) (stopped : lsStopped s.dev = true)
    (named : s.dev.ls.peer ≤ 63) (peer : epKind (epOf s.dev s.dev.ls.peer) = 2) : lockstepRule.check s n v = none := by
  simp [lockstepRule, firstFail, arm, stopped, peer, Nat.not_lt.mpr named]

theorem lockstepRule_check_disable {s : State} {n : Nat} {v : Bytes} (disable : beNat v = 0) (stopped : lsStopped s.dev = true) :
    lockstepRule.check s n v = none := by
  simp [lockstepRule, firstFail, disable, stopped]

/-! ### What the rules come to -/

theorem flagRule_apply (s : State) (c : Nat) (v : Bytes) :
    flagRule.apply s c v =
      { s with dev := setCtx s.dev c { ctxOf s.dev c with flags := flagClear (ctxOf s.dev c).flags (beNat v) } } := rfl

theorem queueRule_apply_resume {s : State} {n q : Nat} {v : Bytes} (below : q < 16384) (asked : beNat v = 2 ^ 30 + q) :
    queueRule.apply s n v = { s with dev := modQueue (advance s.dev q) q fun y => { y with halted := false } } := by
  have op : ¬ beNat v / 1073741824 = 2 := by omega
  have queue : beNat v % 16384 = q := by omega
  simp [queueRule, onDevice, op, queue]

theorem queueRule_apply_reset {s : State} {n q : Nat} {v : Bytes} (below : q < 16384) (asked : beNat v = 2 ^ 31 + q) :
    queueRule.apply s n v = { s with dev := queueReset s.dev q } := by
  have op : beNat v / 1073741824 = 2 := by omega
  have queue : beNat v % 16384 = q := by omega
  simp [queueRule, onDevice, op, queue]

theorem graphRule_apply_admit (s : State) (g : Nat) {v : Bytes} (admits : gAdmit v = true) :
    graphRule.apply s g v = { s with dev := graphAdmit (dropGraphParts s.dev g) s.dev.sc.pairs g v } := by
  simp [graphRule, onDevice, admits]

theorem graphRule_apply_withdraw (s : State) (g : Nat) {v : Bytes} (withdraw : gAdmit v = false) :
    graphRule.apply s g v = { s with dev := graphWithdraw s.dev g } := by
  simp [graphRule, onDevice, withdraw]

theorem lockstepRule_apply_arm (s : State) (n : Nat) {v : Bytes} (arm : beNat v = 1) :
    lockstepRule.apply s n v = { s with dev := { s.dev with ls := { s.dev.ls with
      enable := true, state := 1, first := zeros 32, lseq := 0, mine := [], theirs := [], compared := [], mismatch := [] } } } := by
  simp [lockstepRule, onDevice, arm]

theorem lockstepRule_apply_disable (s : State) (n : Nat) {v : Bytes} (disable : beNat v = 0) :
    lockstepRule.apply s n v = { s with dev := { s.dev with ls := { s.dev.ls with
      enable := false, state := 0, lseq := 0, mine := [], theirs := [], compared := [], mismatch := [] } } } := by
  simp [lockstepRule, onDevice, disable]

/-! ### The statement -/

/-- Settles O21: each write passes its rule's check and leaves what the rule comes to. -/
theorem dispatcherWrites : Obligations.DispatcherWrites := by
  unfold Obligations.DispatcherWrites
  intro s f d x n idle q m
  have below : q < 16384 := Nat.mod_lt _ (by decide)
  refine ⟨?flags, ?resume, ?reset, ?admits, ?withdraw, ?tags, ?arm, ?disable⟩
  case flags =>
    intro writes small
    exact writeDoes_of_rule writes rfl (writesTo_of_writes writes) (flagRule_check_none small)
      (by rw [flagRule_apply, ctxOf_mgmtCross])
  case resume =>
    intro writes asked halted
    have op : beNat f.payload / 1073741824 = 1 := by omega
    exact writeDoes_of_rule writes rfl (by simp [writesTo_of_writes writes, op]) (queueRule_check_resume below asked halted)
      (queueRule_apply_resume below asked)
  case reset =>
    intro c writes asked owner stopped
    have op : ¬ beNat f.payload / 1073741824 = 1 := by omega
    exact writeDoes_of_rule writes rfl (by simp [writesTo_of_writes writes, op])
      (queueRule_check_reset below asked owner stopped)
      (by rw [queueRule_apply_reset below asked, queueReset, modQueue, queueOf_mgmtCross])
  case admits =>
    intro writes length ranges admits fresh
    exact writeDoes_of_rule writes rfl (by simp [writesTo_of_writes writes, admits])
      (graphRule_check_admit length ranges fresh idle) (graphRule_apply_admit _ n admits)
  case withdraw =>
    intro writes length ranges withdraw
    exact writeDoes_of_rule writes rfl (by simp [writesTo_of_writes writes, withdraw])
      (graphRule_check_withdraw length ranges withdraw) (graphRule_apply_withdraw _ n withdraw)
  case tags =>
    intro writes
    exact writeDoes_of_rule (rule := tagsRule) writes rfl (writesTo_of_writes writes) rfl rfl
  case arm =>
    intro writes sub arm stopped named peer
    exact writeDoes_of_rule writes rfl (by simp [writesTo_of_writes writes, sub, arm])
      (lockstepRule_check_arm arm stopped named peer) (by rw [lockstepRule_apply_arm _ n arm, mgmtCross_ls])
  case disable =>
    intro writes sub disable stopped
    exact writeDoes_of_rule writes rfl (by simp [writesTo_of_writes writes, sub, disable])
      (lockstepRule_check_disable disable stopped) (by rw [lockstepRule_apply_disable _ n disable, mgmtCross_ls])

end Sys2Proof.Machine
end

section
/-!
SUPPORT. Proof of the statement on compute operations that run or stall (R58, R82, R83, R92, R94, R97, R117, R127 to R130, R148 to
R151, R206, R207, R227).
-/
namespace Sys2Proof.Machine
open Sys2Proof

/-! ### The compute commands and their families -/

/-- What a compute command's family says: no subcommand, the given check, issue by `mayIssue`; a VOP looks at its table first. -/
structure ComputeFamily (run : WorkRun) (f : Family) (op inv : Nat) (check : Dev → Head → Option Nat) : Prop where
  opcode : f.op = op
  compute : op = 0x10 ∨ op = 0x11 ∨ op = 0x20 ∨ op = 0x30
  sub : ∀ x, f.sub x = true
  invalid : f.invalid = inv
  checks : f.check = check
  ready : f.ready = mayIssue
  start : f.run = if op = 0x20 then startVop run else startCompute run

/-- The compute commands with their opcodes, reasons for reserved bits and checks. -/
def computeRows (q : Nat) (run : WorkRun) : List (Instr × Nat × Nat × (Dev → Head → Option Nat)) :=
  [(.matmul q run, 0x10, 0x0301, benchReason), (.convolve q run, 0x11, 0x0301, benchReason),
    (.vop q run, 0x20, 0x0401, vecHeadReason), (.quant q run, 0x30, 0x0501, quantReason)]

/-- Each compute command carries out the head by the family of its opcode. -/
theorem exec_computeRow {q : Nat} {run : WorkRun} {c : Instr} {op inv : Nat} {check : Dev → Head → Option Nat}
    (row : (c, op, inv, check) ∈ computeRows q run) (s : State) :
    ∃ f, ComputeFamily run f op inv check ∧ exec c s = runWork s q run f := by
  simp only [computeRows, List.mem_cons, List.not_mem_nil, or_false, Prod.mk.injEq] at row
  obtain ⟨rfl, rfl, rfl, rfl⟩ | ⟨rfl, rfl, rfl, rfl⟩ | ⟨rfl, rfl, rfl, rfl⟩ | ⟨rfl, rfl, rfl, rfl⟩ := row
  · exact ⟨famMatmul run, ⟨rfl, by decide, fun _ => rfl, rfl, rfl, rfl, rfl⟩, rfl⟩
  · exact ⟨famConv run, ⟨rfl, by decide, fun _ => rfl, rfl, rfl, rfl, rfl⟩, rfl⟩
  · exact ⟨famVop run, ⟨rfl, by decide, fun _ => rfl, rfl, rfl, rfl, rfl⟩, rfl⟩
  · exact ⟨famQuant run, ⟨rfl, by decide, fun _ => rfl, rfl, rfl, rfl, rfl⟩, rfl⟩

/-- A compute descriptor's engine is on the tensor die, so nothing crosses the haul road (R16). -/
theorem sendDesc_compute (d : Dev) {h : Head} {op : Nat} (opcode : hOpcode h.desc = op)
    (compute : op = 0x10 ∨ op = 0x11 ∨ op = 0x20 ∨ op = 0x30) : sendDesc d h = d := by
  have tensor_die : onSignalDie d h.desc = false := by
    obtain rfl | rfl | rfl | rfl := compute <;> simp [onSignalDie, opcode]
  simp [sendDesc, tensor_die]

/-- A ready head that passes its checks is started by its family. -/
theorem runWork_ready {s : State} {q : Nat} {h : Head} {run : WorkRun} {f : Family} {op inv : Nat} {check : Dev → Head → Option Nat}
    (fam : ComputeFamily run f op inv check) (named : workRunOk run = true) (ready : HeadReady s.dev q h inv)
    (opcode : hOpcode h.desc = op) (passes : check s.dev h = none) (may : mayIssue s.dev h = true) :
    runWork s q run f =
      .next { s with dev := settle ((if op = 0x20 then startVop run else startCompute run) s.dev h) } := by
  obtain ⟨rfl, compute, sub, rfl, rfl, issues, start⟩ := fam
  have known : opcodes.contains f.op = true := by
    obtain e | e | e | e := compute <;> rw [e] <;> decide
  have carried := withHead_run f ready opcode known (sub h.desc) passes (by rw [issues, may])
  rw [sendDesc_compute s.dev opcode compute, start] at carried
  simp [runWork, onDev, ready.queue, named, carried]

theorem startVop_absent (run : WorkRun) {d : Dev} {h : Head} (absent : tableAbsent d h ≠ []) :
    startVop run d h = touchAll d (tableAbsent d h) (some (freshOp d h)) := by
  unfold startVop
  split
  next none_absent => exact absurd none_absent absent
  next => rfl

theorem startVop_held (run : WorkRun) {d : Dev} {h : Head} (held : tableAbsent d h = []) :
    startVop run d h = startCompute run d h := by
  unfold startVop
  rw [held]

theorem startCompute_eq (run : WorkRun) (d : Dev) (h : Head) :
    startCompute run d h = beginOp (issue d h (computeOp d h run)).2 d.disp.nextOp (computeOp d h run) := rfl

@[simp] theorem computeOp_kind (d : Dev) (h : Head) (run : WorkRun) : (computeOp d h run).kind = kindOf (hOpcode h.desc) := rfl
@[simp] theorem computeOp_run (d : Dev) (h : Head) (run : WorkRun) : (computeOp d h run).run = run := rfl

theorem kindOf_eq_bench {op : Nat} (compute : op = 0x10 ∨ op = 0x11 ∨ op = 0x20 ∨ op = 0x30) :
    kindOf op = .bench ↔ op = 0x10 ∨ op = 0x11 := by
  obtain rfl | rfl | rfl | rfl := compute <;> decide

theorem kindOf_eq_vec {op : Nat} (compute : op = 0x10 ∨ op = 0x11 ∨ op = 0x20 ∨ op = 0x30) : kindOf op = .vec ↔ op = 0x20 := by
  obtain rfl | rfl | rfl | rfl := compute <;> decide

/-! ### An operation that runs -/

/-- Equivalent conditions choose the same device. -/
theorem ite_of_iff {p q : Prop} [Decidable p] [Decidable q] (same : p ↔ q) {d e : Dev} :
    (if p then d else e) = if q then d else e := ite_congr (propext same) (fun _ => rfl) fun _ => rfl

/-- The device with an operation's work counted, delivered and noted in the operation, and its transient mismatches counted. -/
def workedOp (d : Dev) (id : Nat) (o : Op) : Dev :=
  let w := opWork d id o (runTill d o)
  let counted := countActive d id o w.cur
  let counted := if o.kind = .bench then peWork counted id o w.cur else counted
  (o.run.transients.filter fun b => (opBenches o).contains b).foldl (countTransient o.kind)
    (setOp (deliver counted o w) id (opAfter d id o w))

theorem tableCheck_passes {d : Dev} {id : Nat} {o : Op} (table : o.kind = .vec → tableValid d o.ctx (vecJob o.desc) id = true) :
    (decide (o.kind = .vec) && !tableValid d o.ctx (vecJob o.desc) id) = false := by
  by_cases vec : o.kind = .vec
  · rw [table vec]; exact Bool.and_false _
  · rw [decide_eq_false vec, Bool.false_and]

theorem runOp_whole {d : Dev} {id : Nat} {o : Op} (table : o.kind = .vec → tableValid d o.ctx (vecJob o.desc) id = true)
    (cold : readsHot d id o = false) (sound : (o.run.failed.filter fun b => (opBenches o).contains b) = none) :
    runOp d id o = grantScratch (workedOp d id o) (opAfter d id o (opWork d id o (runTill d o))) := by
  simp only [runOp, tableCheck_passes table, cold, sound, Bool.false_eq_true, if_false]
  rfl

theorem runOp_failed {d : Dev} {id b : Nat} {o : Op} (table : o.kind = .vec → tableValid d o.ctx (vecJob o.desc) id = true)
    (cold : readsHot d id o = false) (failed : (o.run.failed.filter fun b => (opBenches o).contains b) = some b) :
    runOp d id o = benchRetire (abortOp (workedOp d id o) id (hwReason o.kind)) b := by
  simp only [runOp, tableCheck_passes table, cold, failed, Bool.false_eq_true, if_false]
  rfl

/-! ### An operation that stalls -/

theorem beginOp_resident {d : Dev} {id : Nat} {o : Op} (resident : opNeeds d o = []) : beginOp d id o = runOp d id o := by
  unfold beginOp
  rw [resident]

theorem beginOp_stalls {d : Dev} {id : Nat} {o : Op} (lacks : opNeeds d o ≠ []) :
    beginOp d id o =
      touchAll (setOp d id { o with phase := .stalled, needs := opNeeds d o }) (opNeeds d o)
        (some { o with phase := .stalled, needs := opNeeds d o }) := by
  unfold beginOp
  split
  next none_lacks => exact absurd none_lacks lacks
  next => rfl

/-- A page whose contents the device holds, or that reads as zero or spoil, is touched without effect (R206). -/
theorem touchPage_present {d : Dev} {ctx p : Nat} (present : (pageOf d ctx p).st ≠ .hostAbsent)
    (kept : (pageOf d ctx p).st ≠ .lost) (o : Option Op) : touchPage d ctx p o = d := by
  -- The two hypotheses leave only the last alternative of the match on the page's state.
  simp only [touchPage]

theorem touchAll_servable {d : Dev} {ns : List (Nat × Nat)} (held : ∀ n ∈ ns, servable d n = true) (o : Option Op) :
    touchAll d ns o = d := by
  induction ns with
  | nil => rfl
  | cons n ns ih =>
    obtain ⟨first, rest⟩ := List.forall_mem_cons.mp held
    simp only [servable, Bool.and_eq_true, bne_iff_ne] at first
    obtain ⟨present, kept⟩ := first
    rw [touchAll, List.foldl_cons, touchPage_present present kept]
    exact ih rest

@[simp] theorem servable_setOp (d : Dev) (id : Nat) (o : Op) (n : Nat × Nat) : servable (setOp d id o) n = servable d n := rfl

/-! ### The statement -/

/-- Settles O30: the command begins its operation or waits for its table; what it begins runs where its pages are resident, and
stalls otherwise. -/
theorem computeRuns : Obligations.ComputeRuns := by
  unfold Obligations.ComputeRuns
  intro s q h run c op inv check row named ready opcode passes may
  obtain ⟨f, fam, runs⟩ := exec_computeRow row s
  have started : Does c s ((if op = 0x20 then startVop run else startCompute run) s.dev h) :=
    runs.trans (runWork_ready fam named ready opcode passes may)
  have compute := fam.compute
  refine ⟨?table, ?begins⟩
  case table =>
    intro vop absent
    rwa [if_pos vop, startVop_absent run absent] at started
  case begins =>
    intro table o id d w here
    have begun : Does c s (beginOp d id o) := by
      by_cases vop : op = 0x20
      · rwa [if_pos vop, startVop_held run (table vop), startCompute_eq] at started
      · rwa [if_neg vop, startCompute_eq] at started
    have bench : o.kind = .bench ↔ op = 0x10 ∨ op = 0x11 := by rw [computeOp_kind, opcode]; exact kindOf_eq_bench compute
    have vec : o.kind = .vec ↔ op = 0x20 := by rw [computeOp_kind, opcode]; exact kindOf_eq_vec compute
    refine ⟨?runs, ?stalls⟩
    case runs =>
      intro resident cold valid counted counted' p worked
      have same : worked = workedOp d id o := by
        simp only [workedOp, ite_of_iff bench]
        rfl
      have valid' : o.kind = .vec → tableValid d o.ctx (vecJob o.desc) id = true := fun k => valid (vec.mp k)
      rw [beginOp_resident resident] at begun
      rw [same]
      refine ⟨?whole, ?failed, rfl, rfl, rfl⟩
      case whole =>
        intro sound
        rwa [runOp_whole valid' cold sound] at begun
      case failed =>
        intro b failed
        rwa [runOp_failed valid' cold failed] at begun
    case stalls =>
      intro lacks p
      rw [beginOp_stalls lacks] at begun
      refine ⟨begun, ?held⟩
      case held =>
        intro held
        rwa [touchAll_servable (d := setOp d id p) held] at begun

end Sys2Proof.Machine
end

section
/-!
SUPPORT. Proofs of the statements on units that power up and on requests for benches, pairs, domains and channels (R95, R96, R215,
R348, R461, R462).
-/
namespace Sys2Proof.Machine
open Sys2Proof

/-! ### Power-up -/

/-- The device whose next request to power up has left the queue. -/
def dequeued (d : Dev) (rest : List PowerUnit) : Dev := { d with pwr := { d.pwr with powering := rest } }

theorem powerUp_nil {d : Dev} (empty : d.pwr.powering = []) : powerUp d = d := by simp [powerUp, empty]

theorem powerUp_bench {d : Dev} {b : Nat} {rest : List PowerUnit} (next : d.pwr.powering = .bench b :: rest) :
    powerUp d = benchUp (dequeued d rest) b := by
  simp only [powerUp, next]
  rfl

theorem powerUp_pair {d : Dev} {p : Nat} {rest : List PowerUnit} (next : d.pwr.powering = .pair p :: rest) :
    powerUp d = if (pairReg d p).st = 0 then pairTo (clearPair (dequeued d rest) p) p 1 else dequeued d rest := by
  simp only [powerUp, next]
  rfl

theorem powerUp_domain {d : Dev} {k : Nat} {rest : List PowerUnit} (next : d.pwr.powering = .domain k :: rest) :
    powerUp d = if (lget ⟨0, 1⟩ d.pwr.domains k).st = 0 then domainTo (zeroDomain (dequeued d rest) k) k 1 else dequeued d rest := by
  simp only [powerUp, next]
  rfl

theorem benchUp_gated {d : Dev} {b : Nat} (gated : (benchReg d b).st = 0) :
    benchUp d b =
      let up := benchTo d b 1
      let back := (logicals d).filter fun l => homeOf d l == b && hostOf d l != b && d.comp.returning.all fun x => x.1 != l
      checkReturn { up with comp := { up.comp with returning := up.comp.returning ++ back.map fun l => (l, []) } } := by
  unfold benchUp
  rw [if_neg fun other => other gated]
  simp only [List.not_any_eq_all_not]
  rfl

theorem benchUp_other {d : Dev} {b : Nat} (other : (benchReg d b).st ≠ 0) : benchUp d b = d := if_pos other

/-- The command that ends a power-up does what the queue of requests says. -/
theorem does_powerUpComplete {s : State} {d : Dev} (serves : s.dev.boot.phase = .up) (left : powerUp s.dev = d) :
    Does .powerUpComplete s d := by
  have up : up s.dev = true := by rw [up, serves]; rfl
  have runs : exec .powerUpComplete s = runDev true s fun d => if Machine.up d then powerUp d else d := rfl
  rw [Does, runs, runDev_next _ _ rfl, if_pos up, left]

/-- Settles O13: by the unit at the head of the queue (the name `powerUp` is the model's own function). -/
theorem powerUp_holds : Obligations.PowerUp := by
  unfold Obligations.PowerUp
  intro s serves
  refine ⟨fun empty => does_powerUpComplete serves (powerUp_nil empty), fun rest => ⟨?bench, ?pair, ?domain, ?dropped⟩⟩
  case bench =>
    intro b next gated
    exact does_powerUpComplete serves ((powerUp_bench next).trans (benchUp_gated (d := dequeued s.dev rest) gated))
  case pair =>
    intro p next gated
    exact does_powerUpComplete serves ((powerUp_pair next).trans (if_pos gated))
  case domain =>
    intro k next gated
    exact does_powerUpComplete serves ((powerUp_domain next).trans (if_pos gated))
  case dropped =>
    intro u next other
    cases u with
    | bench b => exact does_powerUpComplete serves ((powerUp_bench next).trans (benchUp_other (d := dequeued s.dev rest) other))
    | pair p => exact does_powerUpComplete serves ((powerUp_pair next).trans (if_neg other))
    | domain k => exact does_powerUpComplete serves ((powerUp_domain next).trans (if_neg other))

/-! ### What a request is checked for -/

theorem requested_of_asks {f : DictFrame} {g : GenSt} {r : Nat} (asked : asks f g r) (nibble : r < 16) : requested f.payload = r := by
  rw [asks] at asked
  simp only [requested]
  omega

theorem unitTested_idle {d : Dev} (idle : d.test.running = none) (ts : List Nat) (n : Nat) : unitTested d ts n = false := by
  simp [unitTested, idle]

theorem testIn_idle {d : Dev} (idle : d.test.running = none) (ts : List Nat) : testIn d ts = false := by simp [testIn, idle]

theorem firstFail_append_passed {l : List (Bool × Nat)} (passes : firstFail l = none) (c : Nat) :
    firstFail (l ++ [(false, c)]) = none := by
  rw [firstFail, Option.map_eq_none_iff] at passes ⊢
  rw [List.find?_append, passes]
  rfl

/-- A request that names the generation and a state in range passes where it asks for the state held, or its own checks pass. -/
theorem requestCheck_none {f : DictFrame} {g : GenSt} {r top : Nat} {ask : Nat → Bool} {busy : Bool}
    {rest : Nat → List (Bool × Nat)} (asked : asks f g r) (nibble : r < 16) (inRange : r ≤ top) (idle : busy = false)
    (passes : (r = g.st ∧ ask r = true) ∨ firstFail (rest r) = none) : requestCheck g top ask busy f.payload rest = none := by
  subst idle
  rw [asks] at asked
  have gen : beNat f.payload / 65536 = g.gen := by omega
  have reserved : beNat f.payload / 16 % 4096 = 0 := by omega
  have state : beNat f.payload % 16 = r := by omega
  simp only [requestCheck, gen, reserved, state, ne_eq, not_true_eq_false, if_false, decide_false, Bool.false_or,
    decide_eq_true_eq, Nat.not_lt.mpr inRange, Bool.and_eq_true, Bool.false_eq_true]
  by_cases held : r = g.st ∧ ask r = true
  · rw [if_pos held]
  · rw [if_neg held]
    exact firstFail_append_passed (passes.resolve_left held) abBusy

/-- What a bench or a pair may be asked for: GATED of one that is not out of service, READY of one that is not DRAINING. -/
def mayAsk (g : GenSt) (r : Nat) : Prop := (r = 0 ∧ g.st ≤ 2) ∨ (r = 1 ∧ g.st ≤ 1)

/-- The check that benches and pairs share. -/
theorem moveCheck_none {f : DictFrame} {g : GenSt} {r top : Nat} {busy : Bool} (asked : asks f g r) (may : mayAsk g r) (le : 1 ≤ top)
    (idle : busy = false) :
    requestCheck g top (· ≤ 1) busy f.payload (fun r =>
      [(!((r == 1 && g.st == 0) || (r == 0 && (g.st == 1 || g.st == 2))), abTransition)]) = none := by
  rw [mayAsk] at may
  refine requestCheck_none asked (by omega) (by omega) idle ?_
  by_cases held : r = g.st
  · exact .inl ⟨held, decide_eq_true (by omega)⟩
  · have moves : (r = 1 ∧ g.st = 0) ∨ (r = 0 ∧ g.st = 1) ∨ (r = 0 ∧ g.st = 2) := by omega
    obtain ⟨rfl, st⟩ | ⟨rfl, st⟩ | ⟨rfl, st⟩ := moves <;> exact .inr (by simp [firstFail, st])

theorem benchRule_check_none {s : State} {f : DictFrame} {n r : Nat} (idle : s.dev.test.running = none)
    (asked : asks f (benchReg s.dev n) r) (may : mayAsk (benchReg s.dev n) r) : benchRule.check s n f.payload = none :=
  moveCheck_none asked may (by decide) (by simp [unitTested_idle idle, testIn_idle idle])

theorem pairRule_check_none {s : State} {f : DictFrame} {n r : Nat} (idle : s.dev.test.running = none)
    (asked : asks f (pairReg s.dev n) r) (may : mayAsk (pairReg s.dev n) r) : pairRule.check s n f.payload = none :=
  moveCheck_none asked may (by decide) (by simp [unitTested_idle idle, testIn_idle idle])

/-- A domain may be asked for the state it holds, for READY where it is GATED, and for GATED where it is READY, may be GATED at all and
serves nothing (R461). -/
theorem domainRule_check_none {s : State} {f : DictFrame} {k r : Nat} (idle : s.dev.test.running = none)
    (asked : asks f (lget ⟨0, 1⟩ s.dev.pwr.domains k) r) (small : r ≤ 1)
    (may : r = (lget ⟨0, 1⟩ s.dev.pwr.domains k).st ∨ (r = 1 ∧ (lget ⟨0, 1⟩ s.dev.pwr.domains k).st = 0)
      ∨ (r = 0 ∧ (lget ⟨0, 1⟩ s.dev.pwr.domains k).st = 1 ∧ (k ≠ 0 ∧ k ≠ 1 ∧ k ≠ 7 ∧ k ≠ 15)
        ∧ domainBusy s.dev k = false)) :
    domainRule.check s k f.payload = none := by
  have idle' := testIn_idle idle (domainTests k)
  simp only [domainRule]
  refine requestCheck_none asked (by omega) (by omega) idle' ?_
  obtain held | ⟨rfl, gated⟩ | ⟨rfl, ready, ⟨h0, h1, h7, h15⟩, still⟩ := may
  · exact .inl ⟨held, decide_eq_true small⟩
  · exact .inr (by simp [firstFail, gated])
  · exact .inr (by simp [firstFail, ready, h0, h1, h7, h15, still])

theorem channelRule_check_none {s : State} {f : DictFrame} {n : Nat} (idle : s.dev.test.running = none)
    (asked : asks f (chanReg s.dev n) 2)
    (may : (chanReg s.dev n).st = 2 ∨ ((chanReg s.dev n).st = 1 ∧ chanUsed s.dev n ≤ freePages s.dev - chanFree s.dev n)) :
    channelRule.check s n f.payload = none := by
  have idle' : (unitTested s.dev [0x0A] n || testIn s.dev [0x0E]) = false := by simp [unitTested_idle idle, testIn_idle idle]
  simp only [channelRule]
  refine requestCheck_none asked (by decide) (by decide) idle' ?_
  obtain held | ⟨ready, fits⟩ := may
  · exact .inl ⟨held.symm, rfl⟩
  · exact .inr (by simp [firstFail, ready, fits])

/-! ### What a request comes to -/

@[simp] theorem benchReg_mgmtCross (d : Dev) (f : DictFrame) (n : Nat) : benchReg (mgmtCross d f) n = benchReg d n := by
  simp only [benchReg, mgmtCross_comp]
@[simp] theorem chanReg_mgmtCross (d : Dev) (f : DictFrame) (n : Nat) : chanReg (mgmtCross d f) n = chanReg d n := by
  simp only [chanReg, mgmtCross_mem]

/-- A request for a unit of the signal die does not cross the haul road (R16). -/
theorem mgmtCross_signalDie {f : DictFrame} {i : Nat} (index : f.index = i) (signal : i = 0x4400 ∨ i = 0x6000) (d : Dev) :
    mgmtCross d f = d := by
  have no_entry : tensorEntry f.index f.sub = false := by
    obtain rfl | rfl := signal <;> simp [tensorEntry, index]
  simp [mgmtCross, no_entry]

theorem benchRule_apply_ready (s : State) (n : Nat) {v : Bytes} (ready : requested v = 1) :
    benchRule.apply s n v =
      { s with dev := if (benchReg s.dev n).st = 0 then askPower s.dev (.bench n) else s.dev } := by
  simp [benchRule, onDevice, ready]

theorem benchRule_apply_gate (s : State) (n : Nat) {v : Bytes} (gate : requested v = 0) :
    benchRule.apply s n v = { s with dev := if (benchReg s.dev n).st = 1 then benchLeave s.dev n 2 else s.dev } := by
  simp [benchRule, onDevice, gate]

theorem pairRule_apply_ready (s : State) (n : Nat) {v : Bytes} (ready : requested v = 1) :
    pairRule.apply s n v = { s with dev := if (pairReg s.dev n).st = 0 then askPower s.dev (.pair n) else s.dev } := by
  simp [pairRule, onDevice, ready]

theorem pairRule_apply_gate (s : State) (n : Nat) {v : Bytes} (gate : requested v = 0) :
    pairRule.apply s n v = { s with dev := if (pairReg s.dev n).st = 1 then pairLeave s.dev n else s.dev } := by
  simp [pairRule, onDevice, gate]

theorem domainRule_apply_ready (s : State) (k : Nat) {v : Bytes} (ready : requested v = 1) :
    domainRule.apply s k v =
      { s with dev := if (lget ⟨0, 1⟩ s.dev.pwr.domains k).st = 0 then askPower s.dev (.domain k) else s.dev } := by
  simp [domainRule, onDevice, ready]

theorem domainRule_apply_gate (s : State) (k : Nat) {v : Bytes} (gate : requested v = 0) :
    domainRule.apply s k v =
      { s with dev := if (lget ⟨0, 1⟩ s.dev.pwr.domains k).st = 1 then domainTo s.dev k 0 else s.dev } := by
  simp [domainRule, onDevice, gate]

theorem channelRule_apply_drain (s : State) (n : Nat) {v : Bytes} (drain : requested v = 2) :
    channelRule.apply s n v = { s with dev := if (chanReg s.dev n).st = 1 then chanTo s.dev n 2 else s.dev } := by
  simp [channelRule, onDevice, drain]

theorem pairLeave_still {d : Dev} {p : Nat} (first : running d (2 * p) = none) (second : running d (2 * p + 1) = none) :
    pairLeave d p = readmit (clearPair (pairTo d p 0) p) (clearPair (pairTo d p 0) p).sc.pairs := by
  simp [pairLeave, first, second]

theorem pairLeave_runs {d : Dev} {p : Nat} (runs : running d (2 * p) ≠ none ∨ running d (2 * p + 1) ≠ none) :
    pairLeave d p = pairTo d p 2 := by
  have busy : ¬ ((running d (2 * p)).isNone && (running d (2 * p + 1)).isNone) = true := by
    rw [Bool.and_eq_true, Option.isNone_iff_eq_none, Option.isNone_iff_eq_none]
    rintro ⟨first, second⟩
    exact runs.elim (fun running => running first) fun running => running second
  exact if_neg busy

/-! ### What the commands of the requests do -/

section
variable {s : State} {f : DictFrame} {d : Dev} {x : Session} {n : Nat} (idle : d.test.running = none)
include idle

theorem writeDoes_benchGate (writes : Writes s f d x 0x5100 n) (asked : asks f (benchReg d n) 0) (may : (benchReg d n).st ≤ 2) :
    WriteDoes (.benchGateRequest f) s f x
      (if (benchReg d n).st = 1 then benchLeave (mgmtCross d f) n 2 else mgmtCross d f) := by
  have gate := requested_of_asks asked (by decide)
  exact writeDoes_of_rule writes rfl (by simp [writesTo_of_writes writes, gate])
    (benchRule_check_none idle asked (.inl ⟨rfl, may⟩)) (by rw [benchRule_apply_gate _ n gate, benchReg_mgmtCross])

theorem writeDoes_benchReady (writes : Writes s f d x 0x5100 n) (asked : asks f (benchReg d n) 1) (may : (benchReg d n).st ≤ 1) :
    WriteDoes (.benchReadyRequest f) s f x
      (if (benchReg d n).st = 0 then askPower (mgmtCross d f) (.bench n) else mgmtCross d f) := by
  have ready := requested_of_asks asked (by decide)
  exact writeDoes_of_rule writes rfl (by simp [writesTo_of_writes writes, ready])
    (benchRule_check_none idle asked (.inr ⟨rfl, may⟩)) (by rw [benchRule_apply_ready _ n ready, benchReg_mgmtCross])

theorem writeDoes_pairGate (writes : Writes s f d x 0x4400 n) (asked : asks f (pairReg d n) 0) (may : (pairReg d n).st ≤ 2) :
    WriteDoes (.pairGateRequest f) s f x (if (pairReg d n).st = 1 then pairLeave d n else d) := by
  have gate := requested_of_asks asked (by decide)
  exact writeDoes_of_rule writes rfl (by simp [writesTo_of_writes writes, gate])
    (pairRule_check_none idle asked (.inl ⟨rfl, may⟩))
    (by rw [pairRule_apply_gate _ n gate, mgmtCross_signalDie writes.index (.inl rfl)])

theorem writeDoes_pairReady (writes : Writes s f d x 0x4400 n) (asked : asks f (pairReg d n) 1) (may : (pairReg d n).st ≤ 1) :
    WriteDoes (.pairReadyRequest f) s f x (if (pairReg d n).st = 0 then askPower d (.pair n) else d) := by
  have ready := requested_of_asks asked (by decide)
  exact writeDoes_of_rule writes rfl (by simp [writesTo_of_writes writes, ready])
    (pairRule_check_none idle asked (.inr ⟨rfl, may⟩))
    (by rw [pairRule_apply_ready _ n ready, mgmtCross_signalDie writes.index (.inl rfl)])

theorem writeDoes_domainGate (writes : Writes s f d x 0x6000 n) (asked : asks f (lget ⟨0, 1⟩ d.pwr.domains n) 0)
    (may : (lget ⟨0, 1⟩ d.pwr.domains n).st = 0 ∨
      ((lget ⟨0, 1⟩ d.pwr.domains n).st = 1 ∧ (n ≠ 0 ∧ n ≠ 1 ∧ n ≠ 7 ∧ n ≠ 15) ∧ domainBusy d n = false)) :
    WriteDoes (.domainGateRequest f) s f x (if (lget ⟨0, 1⟩ d.pwr.domains n).st = 1 then domainTo d n 0 else d) := by
  have gate := requested_of_asks asked (by decide)
  exact writeDoes_of_rule writes rfl (by simp [writesTo_of_writes writes, gate])
    (domainRule_check_none idle asked (by decide) (may.imp Eq.symm fun leaves => .inr ⟨rfl, leaves⟩))
    (by rw [domainRule_apply_gate _ n gate, mgmtCross_signalDie writes.index (.inr rfl)])

theorem writeDoes_domainReady (writes : Writes s f d x 0x6000 n) (asked : asks f (lget ⟨0, 1⟩ d.pwr.domains n) 1)
    (may : (lget ⟨0, 1⟩ d.pwr.domains n).st ≤ 1) :
    WriteDoes (.domainReadyRequest f) s f x (if (lget ⟨0, 1⟩ d.pwr.domains n).st = 0 then askPower d (.domain n) else d) := by
  have ready := requested_of_asks asked (by decide)
  exact writeDoes_of_rule writes rfl (by simp [writesTo_of_writes writes, ready])
    (domainRule_check_none idle asked (by decide)
      ((Nat.le_one_iff_eq_zero_or_eq_one.mp may).symm.imp Eq.symm fun gated => .inl ⟨rfl, gated⟩))
    (by rw [domainRule_apply_ready _ n ready, mgmtCross_signalDie writes.index (.inr rfl)])

theorem writeDoes_channelDrain (writes : Writes s f d x 0x5501 n) (asked : asks f (chanReg d n) 2)
    (may : (chanReg d n).st = 2 ∨ ((chanReg d n).st = 1 ∧ chanUsed d n ≤ freePages d - chanFree d n)) :
    WriteDoes (.channelDrainRequest f) s f x (if (chanReg d n).st = 1 then chanTo (mgmtCross d f) n 2 else mgmtCross d f) := by
  have drain := requested_of_asks asked (by decide)
  exact writeDoes_of_rule writes rfl (writesTo_of_writes writes)
    (channelRule_check_none idle asked may) (by rw [channelRule_apply_drain _ n drain, chanReg_mgmtCross])

end

/-- Settles O17: by the rule of the unit's state register, in the state it holds. -/
theorem unitRequests : Obligations.UnitRequests := by
  unfold Obligations.UnitRequests
  intro s f d x n idle
  dsimp only
  refine ⟨?benchGate, ?benchReady, ?pairGated, ?pairHeld, ?domainGated, ?domainHeld, ?channelHeld, ?pairGate, ?pairReady, ?domainGate,
    ?domainReady, ?channelDrain⟩
  case benchGate =>
    intro writes asked
    refine ⟨fun ready => ?_, fun other => ?_⟩
    · simpa [ready] using writeDoes_benchGate idle writes asked (by omega)
    · have not_ready : ¬ (benchReg d n).st = 1 := by omega
      simpa [not_ready] using writeDoes_benchGate idle writes asked (by omega)
  case benchReady =>
    intro writes asked
    refine ⟨fun gated => ?_, fun ready => ?_⟩
    · simpa [gated] using writeDoes_benchReady idle writes asked (by omega)
    · simpa [ready] using writeDoes_benchReady idle writes asked (by omega)
  case pairGated =>
    intro writes asked other
    have not_ready : ¬ (pairReg d n).st = 1 := by omega
    simpa [not_ready] using writeDoes_pairGate idle writes asked (by omega)
  case pairHeld =>
    intro writes asked ready
    simpa [ready] using writeDoes_pairReady idle writes asked (by omega)
  case domainGated =>
    intro writes asked gated
    have does := writeDoes_domainGate idle writes asked (.inl gated)
    rwa [if_neg (by omega)] at does
  case domainHeld =>
    intro writes asked ready
    have does := writeDoes_domainReady idle writes asked (by omega)
    rwa [if_neg (by omega)] at does
  case channelHeld =>
    intro writes asked drains
    simpa [drains] using writeDoes_channelDrain idle writes asked (.inl drains)
  case pairGate =>
    intro writes asked ready
    have does := writeDoes_pairGate idle writes asked (by omega)
    rw [if_pos ready] at does
    refine ⟨fun first second => ?_, fun runs => ?_⟩
    · rwa [pairLeave_still first second] at does
    · rwa [pairLeave_runs runs] at does
  case pairReady =>
    intro writes asked gated
    simpa [gated] using writeDoes_pairReady idle writes asked (by omega)
  case domainGate =>
    intro writes asked ready h0 h1 h7 h15 still
    have does := writeDoes_domainGate idle writes asked (.inr ⟨ready, ⟨h0, h1, h7, h15⟩, still⟩)
    rwa [if_pos ready] at does
  case domainReady =>
    intro writes asked gated
    have does := writeDoes_domainReady idle writes asked (by omega)
    rwa [if_pos gated] at does
  case channelDrain =>
    intro writes asked ready fits
    simpa [ready] using writeDoes_channelDrain idle writes asked (.inr ⟨ready, fits⟩)

end Sys2Proof.Machine
end

section
/-!
SUPPORT. Proof of the statement on operations that complete, park and resume, on boosts and on usage ratios (R92, R225, R235, R243,
R245, R246, R254, R345, R346).
-/
namespace Sys2Proof.Machine
open Sys2Proof

/-! ### Completion -/

theorem descriptorComplete_none {d : Dev} {id : Nat} (gone : opOf d id = none) : descriptorComplete d id = d := by
  simp only [descriptorComplete, gone]

theorem descriptorComplete_still {d : Dev} {id : Nat} {o : Op} (held : opOf d id = some o)
    (still : o.phase ≠ .running ∨ o.parked = true) :
    descriptorComplete d id = if o.phase = .done && !o.parked && outsIn d o then completeOp d id else d := by
  have rests : ¬ (decide (o.phase = .running) && !o.parked) = true := by
    obtain phase | parked := still
    · simp [phase]
    · simp [parked]
  simp only [descriptorComplete, held, if_neg rests]

theorem descriptorComplete_runs {d : Dev} {id : Nat} {o p : Op} (held : opOf d id = some o) (runs : o.phase = .running)
    (inPlace : o.parked = false) (left : opOf (runOp d id { o with run := .whole }) id = some p) (done : p.phase = .done)
    (inPlace' : p.parked = false) (outs : outsIn (runOp d id { o with run := .whole }) p = true) :
    descriptorComplete d id = completeOp (runOp d id { o with run := .whole }) id := by
  have works : (decide (o.phase = .running) && !o.parked) = true := by simp [runs, inPlace]
  have completes : (decide (p.phase = .done) && !p.parked && outsIn (runOp d id { o with run := .whole }) p) = true := by
    rw [outs, inPlace', done]; rfl
  simp only [descriptorComplete, held, if_pos works, left, if_pos completes]

theorem completeOp_some {d : Dev} {id : Nat} {o : Op} (held : opOf d id = some o) :
    completeOp d id = checkReturn (finishDesc (retireOp (countUsage d o) id) o.ctx o.queue o.idx o.desc) := by
  simp only [completeOp, held]

theorem does_descriptorComplete {s : State} {id : Nat} {d : Dev} (left : descriptorComplete s.dev id = d) :
    Does (.descriptorComplete id) s d := by
  have runs : exec (.descriptorComplete id) s = runDev true s fun d => descriptorComplete d id := rfl
  rw [Does, runs, runDev_next _ _ rfl, left]

/-! ### Parking -/

theorem preemptComplete_none {d : Dev} {id : Nat} (gone : opOf d id = none) : preemptComplete d id = d := by
  simp only [preemptComplete, gone]

theorem preemptComplete_some {d : Dev} {id : Nat} {o : Op} (held : opOf d id = some o) :
    preemptComplete d id = if mustLeave d o then parkOp d id o (asked d o) else d := by simp only [preemptComplete, held]

theorem does_preemptComplete {s : State} {id : Nat} {d : Dev} (left : preemptComplete s.dev id = d) :
    Does (.preemptComplete id) s d := by
  have runs : exec (.preemptComplete id) s = runDev true s fun d => preemptComplete d id := rfl
  rw [Does, runs, runDev_next _ _ rfl, left]

/-! ### Resumption -/

theorem operationResume_none {d : Dev} {id : Nat} (gone : opOf d id = none) (run : WorkRun) : operationResume d id run = d := by
  simp only [operationResume, gone]

theorem operationResume_inPlace {d : Dev} {id : Nat} {o : Op} (held : opOf d id = some o) (inPlace : o.parked = false)
    (run : WorkRun) : operationResume d id run = d := by
  simp [operationResume, held, inPlace]

theorem operationResume_program {d : Dev} {id : Nat} {o : Op} (held : opOf d id = some o) (parked : o.parked = true)
    (core : o.kind = .core) (run : WorkRun) : operationResume d id run = resumeProgram d id o (resumeMoves d o) := by
  simp [operationResume, held, parked, core]

/-- The engines that a parked compute operation may take (R243, R246). -/
def resumeUnits (d : Dev) (o : Op) : Option (List Nat) := if o.lc then resumeLc d o else resumeBe d o

theorem operationResume_compute {d : Dev} {id : Nat} {o : Op} {us : List Nat} (held : opOf d id = some o) (parked : o.parked = true)
    (compute : o.kind ≠ .core) (units : resumeUnits d o = some us) (run : WorkRun) :
    operationResume d id run = resumeOp d id o us run := by
  rw [resumeUnits] at units
  simp only [operationResume, held, parked, compute, units, Bool.not_true, Bool.false_eq_true, if_false]

theorem operationResume_noUnits {d : Dev} {id : Nat} {o : Op} (held : opOf d id = some o) (parked : o.parked = true)
    (compute : o.kind ≠ .core) (units : resumeUnits d o = none) (run : WorkRun) : operationResume d id run = d := by
  rw [resumeUnits] at units
  simp only [operationResume, held, parked, compute, units, Bool.not_true, Bool.false_eq_true, if_false]

theorem resumeOp_begins {d : Dev} {id : Nat} {o : Op} {us : List Nat} {run : WorkRun}
    (phase : o.phase = .stalled ∨ o.phase = .running) :
    resumeOp d id o us run =
      beginOp (restorePe d o us) id { o with
        parked := false, units := us, pes := [], scratch := scratchFor o.kind us, needs := [], run := run } := by
  have begins : (decide (o.phase = .stalled) || decide (o.phase = .running)) = true := by simpa using phase
  simp only [resumeOp, begins, if_true]

theorem does_operationResume {s : State} {id : Nat} {run : WorkRun} {d : Dev} (named : workRunOk run = true)
    (left : operationResume s.dev id run = d) : Does (.operationResume ⟨id, run⟩) s d := by
  have runs : exec (.operationResume ⟨id, run⟩) s = runDev (workRunOk run) s fun d => operationResume d id run := rfl
  rw [Does, runs, runDev_next _ _ named, left]

/-! ### A program that resumes on its own cores (R346) -/

/-- The moves of instances that each go on where they are. -/
def stays (cs : List Nat) : List (Nat × Nat) := cs.map fun c => (c, c)

theorem resumeCores_own {d : Dev} {cs : List Nat} (own : ∀ c ∈ cs, ownCore d c = true) (free : List Nat) :
    resumeCores d cs free = stays cs := by
  induction cs with
  | nil => rfl
  | cons c t ih =>
    obtain ⟨first, rest⟩ := List.forall_mem_cons.mp own
    unfold resumeCores
    rw [if_pos first, ih rest]
    rfl

theorem resumeMoves_own {d : Dev} {o : Op} (best : o.lc = false) (turn : beTurn d o = true)
    (own : ∀ c ∈ o.away, ownCore d c = true) : resumeMoves d o = stays o.away := by
  simp [resumeMoves, best, turn, resumeCores_own own]

theorem moveInsts_stays (d : Dev) (id : Nat) (cs : List Nat) : moveInsts d id (stays cs) = d := by
  have none_moves : (stays cs).filter (fun e => e.1 != e.2) = [] := by simp [stays]
  simp only [moveInsts, none_moves]
  rfl

theorem find?_stays (cs : List Nat) (c : Nat) :
    (stays cs).find? (fun e => e.1 == c) = none ∨ (stays cs).find? (fun e => e.1 == c) = some (c, c) := by
  cases found : (stays cs).find? fun e => e.1 == c with
  | none => exact .inl rfl
  | some e =>
    obtain ⟨a, -, rfl⟩ := List.mem_map.mp (List.mem_of_find?_eq_some found)
    obtain rfl : a = c := by simpa using List.find?_some found
    exact .inr rfl

theorem resumeProgram_stays (d : Dev) (id : Nat) (o : Op) :
    resumeProgram d id o (stays o.away) = setOp d id { o with parked := false, away := [] } := by
  have all_back : o.away.filter (fun c => !(stays o.away).any fun e => e.1 == c) = [] := by simp [stays]
  simp only [resumeProgram, moveInsts_stays, all_back]
  congr 2
  -- Each unit is found to go on where it is, or is not away.
  refine List.map_id'' (fun c => ?_) o.units
  obtain none_there | there := find?_stays o.away c
  · rw [none_there]
  · rw [there]

/-! ### Boosts and usage ratios -/

theorem boostOver_none {d : Dev} {k : Nat} (none_ends : d.disp.boosts.find? (fun x => x.obj == k && x.start + 16000 ≤ now d) = none) :
    boostOver d k = d := by
  simp only [boostOver, none_ends]

theorem does_boostExhausted {s : State} {k : Nat} {d : Dev} (obj : k < 8192) (left : boostOver s.dev k = d) :
    Does (.boostExhausted k) s d := by
  have runs : exec (.boostExhausted k) s = runDev (k < 8192) s fun d => boostOver d k := rfl
  rw [Does, runs, runDev_next _ _ (decide_eq_true obj), left]

theorem does_usageRatioHalving {s : State} {d : Dev} (left : halveUsage s.dev = d) : Does .usageRatioHalving s d := by
  have runs : exec .usageRatioHalving s = runDev true s halveUsage := rfl
  rw [Does, runs, runDev_next _ _ rfl, left]

/-! ### The statement -/

/-- Settles O28: by the state of the operation, of the boosts and of the clock of the usage ratios. -/
theorem operationsEnd : Obligations.OperationsEnd := by
  unfold Obligations.OperationsEnd
  intro s d
  refine ⟨?completes, ?parked, ?none_held, ?inPlace, ?parks, ?keeps, ?resumes, ?boostEnds, ?noBoost, ?halves, ?notYet⟩
  case completes =>
    intro id o held inPlace
    refine ⟨fun done outs => ?_, fun done missing => ?_, fun p runs left done inPlace' outs => ?_, fun phase => ?_⟩
    · refine does_descriptorComplete ?_
      rw [descriptorComplete_still held (.inl (by simp [done])), if_pos (by simp [done, inPlace, outs]), completeOp_some held]
    · refine does_descriptorComplete ?_
      rw [descriptorComplete_still held (.inl (by simp [done])), if_neg (by simp [missing])]
    · exact does_descriptorComplete (descriptorComplete_runs held runs inPlace left done inPlace' outs)
    · have waits : o.phase ≠ .running ∧ o.phase ≠ .done := by obtain phase | phase := phase <;> simp [phase]
      obtain ⟨not_running, not_done⟩ := waits
      refine does_descriptorComplete ?_
      rw [descriptorComplete_still held (.inl not_running), if_neg (by simp [not_done])]
  case parked =>
    intro id o held parked
    refine does_descriptorComplete ?_
    rw [descriptorComplete_still held (.inr parked), if_neg (by simp [parked])]
  case none_held =>
    intro id run named gone
    exact ⟨does_descriptorComplete (descriptorComplete_none gone), does_preemptComplete (preemptComplete_none gone),
      does_operationResume named (operationResume_none gone run)⟩
  case inPlace =>
    intro id o run named held inPlace
    exact does_operationResume named (operationResume_inPlace held inPlace run)
  case parks =>
    intro id o held leaves
    exact does_preemptComplete ((preemptComplete_some held).trans (if_pos leaves))
  case keeps =>
    intro id o held keeps
    exact does_preemptComplete ((preemptComplete_some held).trans (if_neg (by simp [keeps])))
  case resumes =>
    intro id o run named held parked
    refine ⟨fun core => ?_, fun core best turn own => ?_, fun us compute units phase => ?_, fun compute units => ?_⟩
    · exact does_operationResume named (operationResume_program held parked core run)
    · refine does_operationResume named ?_
      rw [operationResume_program held parked core, resumeMoves_own best turn own, resumeProgram_stays]
    · exact does_operationResume named ((operationResume_compute held parked compute units run).trans (resumeOp_begins phase))
    · exact does_operationResume named (operationResume_noUnits held parked compute units run)
  case boostEnds =>
    intro b obj ends
    refine does_boostExhausted obj ?_
    have ended : s.dev.disp.boosts.find? (fun x => x.obj == b.obj && x.start + 16000 ≤ now s.dev) = some b := ends
    simp only [boostOver, ended, List.length_map, d]
  case noBoost =>
    intro k obj none_ends
    exact does_boostExhausted obj (boostOver_none none_ends)
  case halves =>
    intro due
    exact does_usageRatioHalving (if_pos due)
  case notYet =>
    intro early
    exact does_usageRatioHalving (if_neg (Nat.not_lt.mpr early))

end Sys2Proof.Machine
end

section
/-!
SUPPORT. Proof of the statement on pages that come in, time out and migrate, and on drains (R96, R196, R205 to R211, R216, R348).
-/
namespace Sys2Proof.Machine
open Sys2Proof

/-! ### A page that an operation waits for -/

/-- The device that has read page `n` for operation `o`, and whether there was room for it. -/
def servedPage (d : Dev) (o : Op) (n : Nat × Nat) (crc : List BlockFail) : Dev × Bool :=
  servePage d (n.1 / 2 ^ 32) (n.1 % 2 ^ 32) (if n.2 = 16 then benchFor d else some n.2) o.lc crc

/-- Only best-effort work yields its page-in to others, while a latency-critical operation waits for a page that can come (R207). -/
theorem yields_eq_false {d : Dev} {o : Op} (turn : o.lc = true ∨ lcWaits d = false) : (!o.lc && lcWaits d) = false := by
  obtain lc | none_waits := turn
  · rw [lc]; rfl
  · rw [none_waits, Bool.and_false]

section
variable {d : Dev} {id : Nat} {o : Op} {n : Nat × Nat} {crc : List BlockFail} (held : opOf d id = some o)
  (turn : o.lc = true ∨ lcWaits d = false) (next : o.needs.find? (servable d) = some n)
include held turn next

theorem pageInComplete_noRoom (full : (servedPage d o n crc).2 = false) :
    pageInComplete d id crc = (servedPage d o n crc).1 := by
  rw [servedPage] at full ⊢
  simp only [pageInComplete, held, yields_eq_false turn, next, full, Bool.not_false, Bool.true_or, Bool.false_eq_true, if_false, if_true]

section
variable {p : Op} (room : (servedPage d o n crc).2 = true) (came : servable (servedPage d o n crc).1 n = true)
  (kept : opOf (servedPage d o n crc).1 id = some p)
include room came kept

theorem pageInComplete_came :
    pageInComplete d id crc =
      if (dropNeed n p.needs).isEmpty && !p.parked && p.phase != .done then
        goOn (servedPage d o n crc).1 id { p with needs := [] }
      else setOp (servedPage d o n crc).1 id { p with needs := dropNeed n p.needs } := by
  rw [servedPage] at room came kept ⊢
  simp only [pageInComplete, held, yields_eq_false turn, next, room, came, kept, Bool.not_true, Bool.or_self, Bool.false_eq_true, if_false]

theorem pageInComplete_last (last : dropNeed n p.needs = []) (inPlace : p.parked = false) (works : p.phase ≠ .done) :
    pageInComplete d id crc = goOn (servedPage d o n crc).1 id { p with needs := [] } := by
  rw [pageInComplete_came held turn next room came kept, if_pos (by simp [last, inPlace, works])]

theorem pageInComplete_waits (waits : dropNeed n p.needs ≠ [] ∨ p.parked = true ∨ p.phase = .done) :
    pageInComplete d id crc = setOp (servedPage d o n crc).1 id { p with needs := dropNeed n p.needs } := by
  rw [pageInComplete_came held turn next room came kept, if_neg]
  obtain more | parked | done := waits
  · simp [more]
  · simp [parked]
  · simp [done]

end
end

/-! ### Migration -/

theorem migrateChan_moves {d : Dev} {c p k a : Nat} {t : Nat × Tensor} (tensor : tensorAt d c p = some t)
    (thawed : t.2.freeze = false) (from_chan : (pageOf d c p).chan = some a) (other : a ≠ k) (ready : (chanReg d k).st = 1)
    (room : chanFree d k ≠ 0) (allowed : d.mem.migrateFreeze = false) (below : chanFull d k = false) (crc : List BlockFail) :
    migrateChan d c p k crc =
      readPages (unclampCtx (unclampCtx d c 0x5503 0) c 0x5502 (k + 1)) c [p] crc fun d =>
        modPage d c p fun x => { x with chan := some k } := by
  simp [migrateChan, tensor, thawed, from_chan, other, ready, room, allowed, below]

theorem migrateBench_moves {d : Dev} {c p b a : Nat} (copy : lowBit (pageOf d c p).copies = some a)
    (absent : bitAt (pageOf d c p).copies b = false) (takes : benchTakes d b = true) (free : pagePinned d a (ckey c p) = false) :
    migrateBench d c p b =
      let lc := bitAt (pageOf d c p).lcFrames a
      let r := roomFor d c p b lc
      if r.2 then
        modPage r.1 c p fun x =>
          let y := pageJoin b (pageLeave a x)
          if lc then { y with lcFrames := y.lcFrames ||| 2 ^ b } else y
      else r.1 := by
  simp only [migrateBench, copy, absent, takes, free, Bool.not_true, Bool.or_self, Bool.false_eq_true, if_false]

theorem does_pageMigration {s : State} {c p k : Nat} {crc : List BlockFail} {d : Dev} (ctx : c < 64) (page : p < 2 ^ 32)
    (target : k < 24) (fails : failsOk crc = true) (mapped : (tensorAt s.dev c p).isSome = true)
    (left : (if k < 8 then migrateChan s.dev c p k crc else migrateBench s.dev c p (k - 8)) = d) :
    Does (.pageMigration c p ⟨k, crc⟩) s d := by
  have runs : exec (.pageMigration c p ⟨k, crc⟩) s = runDev (c < 64 && p < 2 ^ 32 && k < 24 && failsOk crc) s fun d =>
      if (tensorAt d c p).isNone then d else if k < 8 then migrateChan d c p k crc else migrateBench d c p (k - 8) := rfl
  have named : (decide (c < 64) && decide (p < 2 ^ 32) && decide (k < 24) && failsOk crc) = true := by
    rw [decide_eq_true ctx, decide_eq_true page, decide_eq_true target, fails]; rfl
  obtain ⟨t, tensor⟩ := Option.isSome_iff_exists.mp mapped
  have some_tensor : ¬ (tensorAt s.dev c p).isNone = true := by simp [tensor]
  rw [Does, runs, runDev_next _ _ named, if_neg some_tensor, left]

/-! ### Drains -/

/-- A page read for its channel to drain, on channel `k` from then on. -/
def drainedTo (d : Dev) (e k : Nat) (crc : List BlockFail) : Dev :=
  readPages d (e / 2 ^ 32) [e % 2 ^ 32] crc fun d => modPage d (e / 2 ^ 32) (e % 2 ^ 32) fun x => { x with chan := some k }

theorem pageMoved_empty {d : Dev} {c : Nat} (drains : (chanReg d c).st = 2) (empty : pageOn d c = none) (k : Nat)
    (crc : List BlockFail) : pageMoved d c k crc = chanDrained d c := by
  simp only [pageMoved, drains, empty, ne_eq, not_true_eq_false, if_false]

theorem pageMoved_next {d : Dev} {c k e : Nat} (drains : (chanReg d c).st = 2) (next : pageOn d c = some e)
    (ready : (chanReg d k).st = 1) (room : chanFree d k ≠ 0) (takes : chanTakes d k = true) (crc : List BlockFail) :
    pageMoved d c k crc =
      if (chanReg (drainedTo d e k crc) c).st = 2 && (pageOn (drainedTo d e k crc) c).isNone then
        chanDrained (drainedTo d e k crc) c
      else drainedTo d e k crc := by
  simp only [pageMoved, drains, next, ready, room, takes, ne_eq, not_true_eq_false, decide_false, Bool.or_self, Bool.not_true,
    Bool.false_eq_true, if_false]
  rfl

theorem does_pageMoveComplete {s : State} {c k : Nat} {crc : List BlockFail} {d : Dev} (chan : c < 8) (target : k < 8)
    (fails : failsOk crc = true) (left : pageMoved s.dev c k crc = d) : Does (.pageMoveComplete c ⟨k, crc⟩) s d := by
  have runs : exec (.pageMoveComplete c ⟨k, crc⟩) s = runDev (c < 8 && k < 8 && failsOk crc) s fun d => pageMoved d c k crc := rfl
  have named : (decide (c < 8) && decide (k < 8) && failsOk crc) = true := by
    rw [decide_eq_true chan, decide_eq_true target, fails]; rfl
  rw [Does, runs, runDev_next _ _ named, left]

theorem benchDrained_idle {d : Dev} {b : Nat} (drains : (benchReg d b).st = 2)
    (idle : ∀ o ∈ d.disp.ops, opOnBench o.2 b = false ∨ o.2.phase = .done) :
    benchDrained d b =
      let g := benchTo (evacuate d b (logicals d)) b 0
      readmit (pinLimits (moveScratch g b ((newHost g b).getD b))) g.sc.pairs := by
  have none_works : d.disp.ops.any (fun o => opOnBench o.2 b && o.2.phase != .done) = false := by
    rw [List.any_eq_false]
    intro o mem
    obtain elsewhere | done := idle o mem
    · simp [elsewhere]
    · simp [done]
  simp [benchDrained, drains, none_works]

theorem pairDrained_idle {d : Dev} {p : Nat} (drains : (pairReg d p).st = 2) (first : unitBusy d .core (2 * p) = false)
    (second : unitBusy d .core (2 * p + 1) = false) :
    pairDrained d p = readmit (clearPair (pairTo d p 0) p) (clearPair (pairTo d p 0) p).sc.pairs := by
  simp [pairDrained, drains, first, second]

/-! ### The statement -/

/-- Settles O37: by the page, the channel or the unit that the command is about. -/
theorem pageMoves : Obligations.PageMoves := by
  unfold Obligations.PageMoves
  intro s d
  refine ⟨?pageIn, ?host, ?toChannel, ?toBench, ?leaves, ?empty, ?bench, ?pair⟩
  case pageIn =>
    intro id crc o n fails held turn next
    have does {e : Dev} (left : pageInComplete d id crc = e) : Does (.pageInComplete id crc) s e :=
      (runDev_next s (fun d => pageInComplete d id crc) fails).trans (by rw [← left])
    refine ⟨fun full => ?_, fun p room came kept => ⟨fun last inPlace works => ?_, fun waits => ?_⟩⟩
    · exact does (pageInComplete_noRoom held turn next full)
    · exact does (pageInComplete_last held turn next room came kept last inPlace works)
    · exact does (pageInComplete_waits held turn next room came kept waits)
  case host =>
    intro c p ctx page
    have named : (decide (c < 64) && decide (p < 2 ^ 32)) = true := by rw [decide_eq_true ctx, decide_eq_true page]; rfl
    have runs : Does (.hostPageTimeout c p) s (if hostLate d c p then pageUnserved d c p (waitingOp d c p) else d) :=
      runDev_next s (fun d => if hostLate d c p then pageUnserved d c p (waitingOp d c p) else d) named
    refine ⟨fun late => ?_, fun early => ?_⟩
    · rwa [if_pos late] at runs
    · rwa [if_neg (by simp [early])] at runs
  case toChannel =>
    intro c p k crc a t ctx page chan fails tensor thawed from_chan other ready room allowed below
    exact does_pageMigration ctx page (by omega) fails (by rw [tensor]; rfl)
      ((if_pos chan).trans (migrateChan_moves tensor thawed from_chan other ready room allowed below crc))
  case toBench =>
    intro c p b crc a ctx page bench fails mapped copy absent takes free lc r
    have moves := migrateBench_moves copy absent takes free
    have left : (if 8 + b < 8 then migrateChan d c p (8 + b) crc else migrateBench d c p (8 + b - 8)) = migrateBench d c p b := by
      rw [if_neg (by omega), Nat.add_sub_cancel_left]
    refine ⟨fun room => ?_, fun full => ?_⟩
    · exact does_pageMigration ctx page (by omega) fails mapped (left.trans (moves.trans (if_pos room)))
    · exact does_pageMigration ctx page (by omega) fails mapped (left.trans (moves.trans (if_neg (Bool.eq_false_iff.mp full))))
  case leaves =>
    intro c k crc e chan target fails drains next ready room takes m
    have moves := pageMoved_next drains next ready room takes crc
    refine ⟨fun drains' last => ?_, fun more => ?_⟩
    · have done : (decide ((chanReg m c).st = 2) && (pageOn m c).isNone) = true := by rw [drains', last]; rfl
      exact does_pageMoveComplete chan target fails (moves.trans (if_pos done))
    · have stays : ¬ (decide ((chanReg m c).st = 2) && (pageOn m c).isNone) = true := by
        rw [Bool.and_eq_true, decide_eq_true_eq, Option.isNone_iff_eq_none]
        rintro ⟨drains', last⟩
        exact more.elim (fun ready => ready drains') fun page => page last
      exact does_pageMoveComplete chan target fails (moves.trans (if_neg stays))
  case empty =>
    intro c k crc chan target fails drains empty
    exact does_pageMoveComplete chan target fails (pageMoved_empty drains empty k crc)
  case bench =>
    intro b bench drains idle
    exact (runDev_next s (fun d => benchDrained d b) (decide_eq_true bench)).trans (by rw [benchDrained_idle drains idle])
  case pair =>
    intro p pair drains first second
    exact (runDev_next s (fun d => pairDrained d p) (decide_eq_true pair)).trans (by rw [pairDrained_idle drains first second])

end Sys2Proof.Machine
end

section
/-!
SUPPORT. Proof of the statement on heads that halt or wait (R170, R223, R224, R227, R228, R255, R270).
-/
namespace Sys2Proof.Machine
open Sys2Proof

/-- The device a command leaves may be given in any equal form. -/
theorem does_congr {c : Instr} {s : State} {d e : Dev} (same : d = e) (does : Does c s d) : Does c s e := same ▸ does

/-! ### The head of a queue, by the first of its checks that it fails -/

/-- The published head of queue `q` is `h`, its context is ACTIVE and no LAYER holds it back (R227, R270). -/
structure HeadServed (d : Dev) (q : Nat) (h : Head) : Prop where
  head : headOf d q = some h
  active : (ctxOf d h.ctx).reg.st = ctxActive
  free : layerHolds d h.ctx q = false

/-- The head's descriptor is one that family `f` carries out. -/
structure HeadOfFamily (f : Family) (h : Head) : Prop where
  known : opcodes.contains f.op = true
  op : hOpcode h.desc = f.op
  sub : f.sub h.desc = true

/-- The head's wait is not met, or it cannot cross to its engine on the signal die (R170, R224). -/
def headHeld (d : Dev) (h : Head) : Prop :=
  waitMet d h.desc = false ∨ (onSignalDie d h.desc = true ∧ canCross d .ts h.lc = false)

theorem headHeld_iff (d : Dev) (h : Head) :
    (!waitMet d h.desc || (onSignalDie d h.desc && !canCross d .ts h.lc)) = true ↔ headHeld d h := by
  simp [headHeld]

theorem headHeld_eq_false {d : Dev} {h : Head} (goes : ¬ headHeld d h) :
    (!waitMet d h.desc || (onSignalDie d h.desc && !canCross d .ts h.lc)) = false :=
  Bool.eq_false_iff.mpr fun held => goes ((headHeld_iff d h).mp held)

section
variable {d : Dev} {q r : Nat} {h : Head} {f : Family} (served : HeadServed d q h) (mine : HeadOfFamily f h)
include served

theorem withHead_unassigned (unassigned : opcodes.contains (hOpcode h.desc) = false) : withHead d q f = haltHead d h 0x0801 := by
  obtain ⟨head, active, free⟩ := served
  simp only [withHead, head, active, free, unassigned]
  rfl

include mine

theorem withHead_badHeader (bad : headerReason d h f.invalid = some r) : withHead d q f = haltHead d h r := by
  obtain ⟨head, active, free⟩ := served
  obtain ⟨known, op, sub⟩ := mine
  simp only [withHead, head, active, free, op, known, sub, bad]
  simp

variable (good : headerReason d h f.invalid = none)
include good

theorem withHead_held (held : headHeld d h) : withHead d q f = d := by
  obtain ⟨head, active, free⟩ := served
  obtain ⟨known, op, sub⟩ := mine
  have waits := (headHeld_iff d h).mpr held
  simp only [withHead, head, active, free, op, known, sub, good, waits]
  simp

variable (goes : ¬ headHeld d h)
include goes

theorem withHead_fault (fault : ((gateReason d h.desc).orElse fun _ => f.check d h) = some r) : withHead d q f = haltHead d h r := by
  obtain ⟨head, active, free⟩ := served
  obtain ⟨known, op, sub⟩ := mine
  have passes := headHeld_eq_false goes
  simp only [withHead, head, active, free, op, known, sub, good, passes, fault]
  simp

theorem withHead_notReady (serves : gateReason d h.desc = none) (passes : f.check d h = none) (waits : f.ready d h = false) :
    withHead d q f = d := by
  obtain ⟨head, active, free⟩ := served
  obtain ⟨known, op, sub⟩ := mine
  have crosses := headHeld_eq_false goes
  simp only [withHead, head, active, free, op, known, sub, good, crosses, serves, Option.orElse_none, passes, waits]
  simp

end

/-! ### A queue that halts -/

theorem headOf_q {d : Dev} {q : Nat} {h : Head} (head : headOf d q = some h) : h.q = q := by
  simp only [headOf] at head
  split at head
  · cases head
  · split at head
    · cases head; rfl
    · cases head

theorem queueOf_haltHead (d : Dev) (h : Head) (r : Nat) :
    queueOf (haltHead d h r) h.q = { queueOf d h.q with halted := true, cover := none } :=
  -- A FAULT is posted to a context, which leaves the queues.
  queueOf_setQueue d h.q _

/-! ### The descriptor commands and their families -/

/-- The descriptor commands of the dispatcher and the time unit. -/
def dispatcherRows (q : Nat) : List (Instr × Family) :=
  [(.syncDeclare q, famDeclare), (.syncSet q, famSet), (.syncWait q, famWait), (.syncHold q, famHold),
    (.syncRelease q, famRelease), (.syncUndeclare q, famUndeclare), (.waitTimeout q, famTimeout),
    (.launchAt q, famLaunch), (.tuArm q, famTuArm), (.tuDisarm q, famTuDisarm)]

/-- The compute commands. -/
def workRows (q : Nat) (run : WorkRun) : List (Instr × Family) :=
  [(.matmul q run, famMatmul run), (.convolve q run, famConv run), (.vop q run, famVop run), (.quant q run, famQuant run)]

/-- The descriptor commands of the haul engine, the memory and the signal die. -/
def engineRows (q : Nat) (cs : List CoreFail) : List (Instr × Family) :=
  [(.move q, famMove), (.ringCreate q, famRingCreate), (.ringDestroy q, famRingDestroy), (.ringReset q, famRingReset),
    (.alloc q, famAlloc), (.free q, famFree), (.feStart q, famFeStart), (.feStop q, famFeStop), (.feDetectStart q, famDetectOn),
    (.feDetectStop q, famDetectOff), (.scRun q cs, famScRun cs), (.lrTx q, famLrTx), (.lrMixEnable q, famMixOn),
    (.lrMixDisable q, famMixOff), (.lrListenStart q, famListenOn), (.lrListenStop q, famListenOff), (.trEnc q, famTrEnc),
    (.trDec q, famTrDec)]

/-- The commands that first cover what is outstanding (R255, R270). -/
def coverRows (q : Nat) : List (Instr × Family) := [(.fence q, famFence), (.layer q, famLayer)]

/-- The command is a descriptor command of the opcode map that does to the head of queue `q`, on the device `d`, what its family
says. -/
structure CarriesHead (s : State) (q : Nat) (d : Dev) (c : Instr) (f : Family) : Prop where
  known : opcodes.contains f.op = true
  does : Does c s (withHead d q f)

theorem carriesHead_runHead {s : State} {q : Nat} {c : Instr} {f : Family} (below : q < 16384) (runs : exec c s = runHead s q f)
    (known : opcodes.contains f.op = true) : CarriesHead s q s.dev c f :=
  ⟨known, runs.trans (runDev_next s (fun d => withHead d q f) (decide_eq_true below))⟩

/-- A ready head that passes its family's checks is carried out by the family's command. -/
theorem does_runHead {s : State} {q : Nat} {h : Head} {c : Instr} {f : Family} (runs : exec c s = runHead s q f)
    (known : opcodes.contains f.op = true) (ready : HeadReady s.dev q h f.invalid) (op : hOpcode h.desc = f.op)
    (sub : f.sub h.desc = true) (check : f.check s.dev h = none) (now : f.ready s.dev h = true) :
    Does c s (f.run (sendDesc s.dev h) h) :=
  does_congr (withHead_run f ready op known sub check now) (carriesHead_runHead ready.queue runs known).does

theorem carriesHead_row (s : State) {q : Nat} {cs : List CoreFail} (below : q < 16384) :
    ∀ e ∈ dispatcherRows q ++ engineRows q cs, CarriesHead s q s.dev e.1 e.2 := by
  simp only [dispatcherRows, engineRows, List.cons_append, List.nil_append, List.forall_mem_cons, List.not_mem_nil, false_implies,
    implies_true, and_true]
  and_intros <;> exact carriesHead_runHead below rfl rfl

theorem carriesHead_workRow (s : State) {q : Nat} {run : WorkRun} (below : q < 16384) (named : workRunOk run = true) :
    ∀ e ∈ workRows q run, CarriesHead s q s.dev e.1 e.2 := by
  have units : (decide (q < 16384) && workRunOk run) = true := by rw [decide_eq_true below, named]; rfl
  have runs (f : Family) : runWork s q run f = .next { s with dev := settle (withHead s.dev q f) } :=
    runDev_next s (fun d => withHead d q f) units
  simp only [workRows, List.forall_mem_cons, List.not_mem_nil, false_implies, implies_true, and_true]
  and_intros <;> exact ⟨rfl, runs _⟩

theorem carriesHead_coverRow (s : State) {q : Nat} (below : q < 16384) :
    ∀ e ∈ coverRows q, CarriesHead s q (armCover s.dev q) e.1 e.2 := by
  have runs (f : Family) : runDev (q < 16384) s (fun d => withHead (armCover d q) q f)
      = .next { s with dev := settle (withHead (armCover s.dev q) q f) } :=
    runDev_next s (fun d => withHead (armCover d q) q f) (decide_eq_true below)
  simp only [coverRows, List.forall_mem_cons, List.not_mem_nil, false_implies, implies_true, and_true]
  and_intros <;> exact ⟨rfl, runs _⟩

/-! ### The statement -/

/-- Settles O58: by the first check of `withHead` that the head fails. -/
theorem headHalts : Obligations.HeadHalts := by
  unfold Obligations.HeadHalts
  intro s q run cs h c f d named row below head active free mine held
  have carries : CarriesHead s q d c f := by
    obtain ⟨listed, rfl⟩ | ⟨covers, rfl⟩ := row
    · have grouped : (c, f) ∈ dispatcherRows q ++ (workRows q run ++ engineRows q cs) := listed
      simp only [List.mem_append] at grouped
      obtain dispatcher | work | engine := grouped
      · exact carriesHead_row (cs := cs) s below _ (List.mem_append_left _ dispatcher)
      · exact carriesHead_workRow s below named _ work
      · exact carriesHead_row s below _ (List.mem_append_right _ engine)
    · exact carriesHead_coverRow s below _ covers
  obtain ⟨known, does⟩ := carries
  have served : HeadServed d q h := ⟨head, active, free⟩
  have family : mine → HeadOfFamily f h := fun ⟨op, sub⟩ => ⟨known, op, sub⟩
  have left {e : Dev} (same : withHead d q f = e) : Does c s e := does_congr same does
  have halts := queueOf_haltHead d h 0x0801
  rw [headOf_q head] at halts
  refine ⟨fun unassigned => left (withHead_unassigned served unassigned),
    fun r m bad => left (withHead_badHeader served (family m) bad),
    fun m good waits => left (withHead_held served (family m) good waits),
    fun r m good goes out => left (withHead_fault served (family m) good goes (by rw [out]; rfl)),
    fun r m good goes serves fails => left (withHead_fault served (family m) good goes (by rw [serves, Option.orElse_none, fails])),
    fun m good goes serves passes waits => left (withHead_notReady served (family m) good goes serves passes waits), ?_, ?_⟩
  · rw [halts]
  · rw [halts]

end Sys2Proof.Machine
end

section
/-!
SUPPORT. Proof of the statement on the flits and the retrains of the haul road (R19, R27, R164, R169 to R173, R176, R397).
-/
namespace Sys2Proof.Machine
open Sys2Proof

/-! ### The next flit of a direction -/

theorem acceptIf_next {d : Dev} {dir : Dir} {x : Flit} {p : Payload → Bool} (runs : roadRuns d = true)
    (next : nextFlit (roadOf d dir) = some x) (asked : p x.pay = true) (f : Dev → Payload → Dev) :
    acceptIf d dir p f = f (acceptFlit d dir x) x.pay := by
  rw [acceptIf_some next, runs, asked]
  rfl

theorem acceptIf_idle {d : Dev} {dir : Dir} (idle : roadRuns d = false ∨ nextFlit (roadOf d dir) = none) (p : Payload → Bool)
    (f : Dev → Payload → Dev) : acceptIf d dir p f = d := by
  cases next : nextFlit (roadOf d dir) with
  | none => exact acceptIf_none next p f
  | some x =>
    have stands : roadRuns d = false := idle.resolve_right (by simp [next])
    rw [acceptIf_some next, stands]
    rfl

theorem trigArrive_early {d : Dev} {i : TrigInc} (some_inc : i.inc ≠ 0) (early : now d < i.tick) :
    trigArrive d i = { d with time := { d.time with heldIncs := d.time.heldIncs ++ [i] } } := by
  rw [trigArrive, if_neg some_inc, if_pos early]

@[simp] theorem now_trigApply (d : Dev) (i : TrigInc) : now (trigApply d i) = now d := by
  unfold trigApply now
  split
  · rw [syncAdd_time]
  · simp only
    split
    · rfl
    · rw [postFault_time]
      rfl

theorem trigArrive_onTick {d : Dev} {i : TrigInc} (some_inc : i.inc ≠ 0) (due : now d = i.tick) : trigArrive d i = trigApply d i := by
  rw [trigArrive, if_neg some_inc, if_neg (by omega)]
  exact if_neg (by rw [now_trigApply]; omega)

theorem flitError_first {d : Dev} {dir : Dir} {f : Flit} (runs : roadRuns d = true) (next : nextFlit (roadOf d dir) = some f)
    (first : (roadOf d dir).refused = none) :
    flitError d dir = setRoad d dir { sendFlit d dir f with refused := some (roadOf d dir).seq, failed := true } := by
  simp [flitError, runs, next, first]

theorem flitError_again {d : Dev} {dir : Dir} {f : Flit} (runs : roadRuns d = true) (next : nextFlit (roadOf d dir) = some f)
    (again : (roadOf d dir).refused ≠ none) :
    flitError d dir = setRoad d dir { roadOf d dir with failed := false, retrain := true } := by
  obtain ⟨n, refused⟩ := Option.ne_none_iff_exists'.mp again
  simp [flitError, runs, next, refused]

theorem flitError_idle {d : Dev} {dir : Dir} (idle : roadRuns d = false ∨ nextFlit (roadOf d dir) = none) : flitError d dir = d := by
  unfold flitError
  obtain stands | empty := idle
  · simp only [stands]
    split
    · rfl
    · rfl
  · simp only [empty]

/-! ### Acknowledgements -/

theorem linkFlit_idle {d : Dev} (stands : roadRuns d = false) (dir : Dir) : linkFlit d dir = d := by
  simp [linkFlit, stands]

theorem linkFlit_all {d : Dev} {dir : Dir} (runs : roadRuns d = true) (all : (roadOf d (otherDir dir)).refused = none) :
    linkFlit d dir = setRoad d (otherDir dir) { roadOf d (otherDir dir) with replay := [] } := by
  simp [linkFlit, runs, all]

theorem linkFlit_refused {d : Dev} {dir : Dir} {n : Nat} (runs : roadRuns d = true)
    (refused : (roadOf d (otherDir dir)).refused = some n) :
    linkFlit d dir = setRoad d (otherDir dir)
      { roadOf d (otherDir dir) with replay := (roadOf d (otherDir dir)).replay.filter fun e => e.1 == n } := by
  simp [linkFlit, runs, refused]

/-! ### The end of a retrain -/

/-- The device with the retrain ended on the lanes that are left (R173). -/
def retrainEnded (g : Dev) : Dev :=
  { g with haul := { g.haul with st := { g.haul.st with retrain := false }, ts := { g.haul.ts with retrain := false },
                                 retrains := satAdd 32 g.haul.retrains 1, roadLanes := lanesLeft g,
                                 roadLatency := if lanesLeft g = 32 then 48 else 50 } }

theorem retrainDone_idle {d : Dev} (idle : retraining d = false) (failing : List Nat) : retrainDone d failing = d := by
  simp [retrainDone, idle]

theorem sendTimebase_sc (d : Dev) : (sendTimebase d).sc = d.sc := enqueue_sc ..

theorem retrainDone_lanes {d g : Dev} {failing : List Nat} (retrains : retraining d = true) (halves : failing.foldl halfOut d = g)
    (left : lanesLeft g ≠ 0) :
    retrainDone d failing = if lanesLeft g = d.haul.roadLanes then retrainEnded g
      else readmit (sendTimebase (retrainEnded g)) (sendTimebase (retrainEnded g)).sc.pairs := by
  rw [retrainDone, if_neg (by simp [retrains]), halves, sendTimebase_sc]
  exact if_neg left

theorem retrainDone_workedOut {d g : Dev} {failing : List Nat} (retrains : retraining d = true)
    (halves : failing.foldl halfOut d = g) (gone : lanesLeft g = 0) :
    retrainDone d failing = roadWorkedOut { g with haul := { g.haul with retrains := satAdd 32 g.haul.retrains 1 } } := by
  simp [retrainDone, retrains, halves, gone]

/-! ### The commands of the road -/

section
variable (s : State) (dir : Dir)

theorem does_slotData : Does (.slotData dir) s (acceptIf s.dev dir isSlotData dataArrive) :=
  runDev_next s (fun d => acceptIf d dir isSlotData dataArrive) rfl

theorem does_slotRelease : Does (.slotRelease dir) s (acceptIf s.dev dir isSlotRelease releaseArrive) :=
  runDev_next s (fun d => acceptIf d dir isSlotRelease releaseArrive) rfl

theorem does_descriptorFlit : Does (.descriptorFlit dir) s (acceptIf s.dev dir isDescriptor descriptorArrive) :=
  runDev_next s (fun d => acceptIf d dir isDescriptor descriptorArrive) rfl

theorem does_linkFlit : Does (.linkFlit dir) s (linkFlit s.dev dir) := runDev_next s (fun d => linkFlit d dir) rfl

theorem does_flitCrcError : Does (.flitCrcError dir) s (flitError s.dev dir) := runDev_next s (fun d => flitError d dir) rfl

theorem does_roadRetrainComplete {failing : List Nat} (named : ∀ l ∈ failing, l < 64) :
    Does (.roadRetrainComplete failing) s (retrainDone s.dev failing) :=
  runDev_next s (fun d => retrainDone d failing) (by simpa using named)

end

/-! ### The statement -/

/-- Settles O35: by the payload of the next flit, and by the lanes that a retrain leaves. -/
theorem roadFlits : Obligations.RoadFlits := by
  unfold Obligations.RoadFlits
  intro s dir d x
  refine ⟨?next, ?idle, ?link, ?linkIdle, ?retrain⟩
  case next =>
    intro f runs next a
    have data (asked : isSlotData f.pay = true) : Does (.slotData dir) s (dataArrive a f.pay) :=
      does_congr (acceptIf_next runs next asked dataArrive) (does_slotData s dir)
    have release (asked : isSlotRelease f.pay = true) : Does (.slotRelease dir) s (releaseArrive a f.pay) :=
      does_congr (acceptIf_next runs next asked releaseArrive) (does_slotRelease s dir)
    have descriptor (asked : isDescriptor f.pay = true) : Does (.descriptorFlit dir) s (descriptorArrive a f.pay) :=
      does_congr (acceptIf_next runs next asked descriptorArrive) (does_descriptorFlit s dir)
    refine ⟨?slotData, ?sysData, ?slotRelease, ?sysRelease, ?syncInc, ?ringInc, ?complete, ?preempt,
      ?trigEarly, ?trigDue, ?first, ?again⟩
    case slotData => intro r k i l sp bs pay; rw [pay] at data ⊢; exact data rfl
    case sysData => intro out lc n i pay; rw [pay] at data; exact data rfl
    case slotRelease => intro r k pay; rw [pay] at release; exact release rfl
    case sysRelease => intro out lc n pay; rw [pay] at release; exact release rfl
    case syncInc => intro o n c t k op i pay; rw [pay] at descriptor; exact descriptor rfl
    case ringInc => intro r o pay; rw [pay] at descriptor; exact descriptor rfl
    case complete => intro c k i y pay; rw [pay] at descriptor; exact descriptor rfl
    case preempt => intro c t pay; rw [pay] at descriptor; exact descriptor rfl
    case trigEarly =>
      intro i pay some_inc early
      rw [pay] at descriptor
      exact does_congr (trigArrive_early some_inc early) (descriptor rfl)
    case trigDue =>
      intro i pay some_inc due
      rw [pay] at descriptor
      exact does_congr (trigArrive_onTick some_inc due) (descriptor rfl)
    case first => exact fun first => does_congr (flitError_first runs next first) (does_flitCrcError s dir)
    case again => exact fun again => does_congr (flitError_again runs next again) (does_flitCrcError s dir)
  case idle =>
    intro idle
    exact ⟨does_congr (acceptIf_idle idle _ _) (does_slotData s dir), does_congr (acceptIf_idle idle _ _) (does_slotRelease s dir),
      does_congr (acceptIf_idle idle _ _) (does_descriptorFlit s dir), does_congr (flitError_idle idle) (does_flitCrcError s dir)⟩
  case link =>
    intro runs y
    refine ⟨fun all => does_congr ?_ (does_linkFlit s dir), fun n refused => does_congr ?_ (does_linkFlit s dir)⟩
    · exact linkFlit_all runs all
    · exact linkFlit_refused runs refused
  case linkIdle =>
    intro stands
    exact does_congr (linkFlit_idle stands dir) (does_linkFlit s dir)
  case retrain =>
    intro failing lanes g n ended
    have does {e : Dev} (left : retrainDone d failing = e) : Does (.roadRetrainComplete failing) s e :=
      does_congr left (does_roadRetrainComplete s lanes)
    exact ⟨fun idle => does (retrainDone_idle idle failing),
      fun retrains left same => does ((retrainDone_lanes retrains rfl left).trans (if_pos same)),
      fun retrains left fewer => does ((retrainDone_lanes retrains rfl left).trans (if_neg fewer)),
      fun retrains gone => does (retrainDone_workedOut retrains rfl gone)⟩

end Sys2Proof.Machine
end

section
/-!
SUPPORT. Proof of the statement on FE_START and FE_STOP (R170, R309 to R311).
-/
namespace Sys2Proof.Machine
open Sys2Proof

/-! ### What crossing and issue leave -/

@[simp] theorem sendDesc_fe (d : Dev) (h : Head) : (sendDesc d h).fe = d.fe := by
  unfold sendDesc
  split
  · rw [crossFlit_fe]
  · rfl

@[simp] theorem issue_fe (d : Dev) (h : Head) (o : Op) : (issue d h o).2.fe = d.fe := by
  have served (e : Dev) : (noteServed e h).fe = e.fe := by
    unfold noteServed
    split
    · split
      · rfl
      · rw [modCtx_fe]
    · rfl
  exact (served _).trans (advance_fe d h.q)

theorem linkFor_congr {d e : Dev} (same : d.fe = e.fe) (kind s : Nat) : linkFor d kind s = linkFor e kind s := by
  simp only [linkFor, linkOf, same]

theorem feRxOf_congr {d e : Dev} (same : d.fe = e.fe) (n : Nat) : feRxOf d n = feRxOf e n := by rw [feRxOf, feRxOf, same]

theorem feTxOf_congr {d e : Dev} (same : d.fe = e.fe) (n : Nat) : feTxOf d n = feTxOf e n := by rw [feTxOf, feTxOf, same]

theorem feState_congr {d e : Dev} (same : d.fe = e.fe) (tx : Bool) (n : Nat) : feState d tx n = feState e tx n := by
  rw [feState, feState, feTxOf_congr same, feRxOf_congr same]

/-! ### Streams bound and stopped -/

section
variable {d e : Dev} {h : Head} (same : e.fe = d.fe)
include same

/-- The front end of a device on which the descriptor has issued is still that of `d`. -/
theorem issue_fe_of_same : (issue e h (freshOp e h)).2.fe = d.fe := (issue_fe _ _ _).trans same

theorem startFe_rx {l : Nat} (rx : feDir h.desc = false) (link : linkFor d 0 (feUnit h.desc) = some l) :
    let i := issue e h (freshOp e h)
    let n := feUnit h.desc
    let r := feRxOf d n
    startFe e h = bindProd (setFeRx i.2 n { r with
      reg := genTo r.reg 1, bind := bindFor i.2 h l (max 1 (rxDec r.cfg)) i.1, dropped := 0, half := [[], [], []], chan := [],
      line := [] }) (feRing h.desc) (.rx n) := by
  have left := issue_fe_of_same (h := h) same
  rw [← linkFor_congr left] at link
  simp only [startFe, rx, Bool.false_eq_true, if_false, link, feRxOf_congr left]

theorem startFe_tx {l : Nat} (tx : feDir h.desc = true) (link : linkFor d 1 (feUnit h.desc) = some l) :
    let i := issue e h (freshOp e h)
    let n := feUnit h.desc
    let t := feTxOf d n
    startFe e h = mixArm (bindCons (setFeTx i.2 n { t with
      reg := genTo t.reg 1, bind := bindFor i.2 h l 1 i.1, zeros := 0, starved := false, shape := [], half := [[], [], []],
      block := [], muted := none, last := none }) (feRing h.desc) (.tx n)) n (feRing h.desc) := by
  have left := issue_fe_of_same (h := h) same
  rw [← linkFor_congr left] at link
  simp only [startFe, tx, if_true, link, feTxOf_congr left]

theorem stopFe_stopped (stopped : feState d (feDir h.desc) (feUnit h.desc) = 0) : stopFe e h = completeHead e h := by
  rw [← feState_congr same] at stopped
  exact if_pos stopped

theorem stopFe_rx (rx : feDir h.desc = false) (runs : (feRxOf d (feUnit h.desc)).reg.st ≠ 0) :
    let i := issue e h (freshOp e h)
    let r := feRxOf d (feUnit h.desc)
    stopFe e h = setFeRx i.2 (feUnit h.desc)
      { r with bind := { r.bind with stops := r.bind.stops ++ [(feCount h.desc, i.1)] } } := by
  rw [← feRxOf_congr same] at runs
  simp only [stopFe, feState, rx, Bool.false_eq_true, if_false, runs, feRxOf_congr (issue_fe_of_same (h := h) same)]

theorem stopFe_tx (tx : feDir h.desc = true) (runs : (feTxOf d (feUnit h.desc)).reg.st ≠ 0) :
    let i := issue e h (freshOp e h)
    let t := feTxOf d (feUnit h.desc)
    stopFe e h = setFeTx i.2 (feUnit h.desc)
      { t with bind := { t.bind with stops := t.bind.stops ++ [(feCount h.desc, i.1)] } } := by
  rw [← feTxOf_congr same] at runs
  simp only [stopFe, feState, tx, if_true, runs, if_false, feTxOf_congr (issue_fe_of_same (h := h) same)]

end

/-! ### The statement -/

/-- Settles O40: by the direction of the stream, and by whether it is STOPPED. -/
theorem streamsBind : Obligations.StreamsBind := by
  unfold Obligations.StreamsBind
  intro s q h ready d x n e i r t
  have same : e.fe = d.fe := sendDesc_fe d h
  have start (op : hOpcode x = 0x80) (passes : feStartReason d h = none) : Does (.feStart q) s (startFe e h) :=
    does_runHead (f := famFeStart) rfl rfl ready op rfl passes rfl
  have stop (op : hOpcode x = 0x81) (clear : feReserved x = false) : Does (.feStop q) s (stopFe e h) :=
    does_runHead (f := famFeStop) rfl rfl ready op rfl (if_neg (by rw [clear]; decide)) rfl
  exact ⟨fun l op passes rx link => does_congr (startFe_rx same rx link) (start op passes),
    fun l op passes tx link => does_congr (startFe_tx same tx link) (start op passes),
    fun op clear stopped => does_congr (stopFe_stopped same stopped) (stop op clear),
    fun op clear rx runs => does_congr (stopFe_rx same rx runs) (stop op clear),
    fun op clear tx runs => does_congr (stopFe_tx same tx runs) (stop op clear)⟩

end Sys2Proof.Machine
end

section
/-!
SUPPORT. Proof of the statement on system-ring slots (R176, R196, R415, R420 to R423, R425).
-/
namespace Sys2Proof.Machine
open Sys2Proof

/-! ### Inbound slots -/

/-- What an inbound slot that is there whole comes to; a device whose memory is out of service refuses it (R194, R421). -/
def slotOutcome (d : Dev) (x : SysSlot) (lc : Bool) (crc : List BlockFail) : Option Applied :=
  if d.mem.down then refuse d 9 else applySlot d x lc crc

theorem slotApply_none {d : Dev} {lc : Bool} (empty : sysOpen d false lc = []) (crc : List BlockFail) : slotApply d lc crc = d := by
  unfold slotApply
  rw [empty]

section
variable {d : Dev} {lc : Bool} {crc : List BlockFail} {x : SysSlot} {t : List SysSlot} (first : sysOpen d false lc = x :: t)
include first

theorem slotApply_roadDown (down : roadDown d = true) :
    slotApply d lc crc = ackUp (slotRefused (sysDrop d false lc x.num) lc x 9) x.ep lc false := by
  unfold slotApply
  simp only [first, down, if_true]

variable (up : roadDown d = false)
include up

theorem slotApply_partial (left : x.left ≠ 0) : slotApply d lc crc = d := by
  unfold slotApply
  simp only [first, up, left, ne_eq, not_false_eq_true, Bool.false_eq_true, if_false, if_true]

variable (whole : x.left = 0)
include whole

theorem slotApply_waits (comes : slotOutcome d x lc crc = none) : slotApply d lc crc = slotTouch d x := by
  rw [slotOutcome] at comes
  unfold slotApply
  simp only [first, up, whole, comes, ne_eq, not_true_eq_false, Bool.false_eq_true, if_false]

theorem slotApply_full {r : Applied} (comes : slotOutcome d x lc crc = some r)
    (full : 32 < (sysRing d true lc).length + (r.out.length + if r.code.isSome then 1 else 0)) : slotApply d lc crc = d := by
  rw [slotOutcome] at comes
  unfold slotApply
  simp only [first, up, whole, comes, ne_eq, not_true_eq_false, Bool.false_eq_true, if_false, full, if_true]

theorem slotApply_applied {e : Dev} {os : List SysSlot} (comes : slotOutcome d x lc crc = some ⟨none, e, os⟩)
    (room : (sysRing d true lc).length + os.length ≤ 32) :
    slotApply d lc crc = sysGive (os.foldl (fun b y => sysPost b true lc y) e) false lc x.num := by
  rw [slotOutcome] at comes
  have fits : ¬ 32 < (sysRing d true lc).length + os.length := by omega
  unfold slotApply
  simp [first, up, whole, comes, fits]

theorem slotApply_refused {e : Dev} {k : Nat} (comes : slotOutcome d x lc crc = some ⟨some k, e, []⟩)
    (room : (sysRing d true lc).length < 32) : slotApply d lc crc = sysGive (slotRefused e lc x k) false lc x.num := by
  rw [slotOutcome] at comes
  have fits : ¬ 32 < (sysRing d true lc).length + 1 := by omega
  unfold slotApply
  simp [first, up, whole, comes, fits]

end

theorem slotOutcome_memDown {d : Dev} (down : d.mem.down = true) (x : SysSlot) (lc : Bool) (crc : List BlockFail) :
    slotOutcome d x lc crc = some ⟨some 9, d, []⟩ := if_pos down

theorem slotOutcome_memUp {d : Dev} (serves : d.mem.down = false) (x : SysSlot) (lc : Bool) (crc : List BlockFail) :
    slotOutcome d x lc crc = applySlot d x lc crc := if_neg (by rw [serves]; decide)

/-- A doorbell between the tail and head + depth is the queue's new tail (R422). -/
theorem applySlot_doorbell {d : Dev} {x : SysSlot} {lc : Bool} (doorbell : x.type = 0x02)
    (allowed : queueAllowed d x.arg0 x.ctx lc = true)
    (after : upTo (queueOf d x.arg0).head (queueOf d x.arg0).tail ≤ upTo (queueOf d x.arg0).head (x.arg1 % 2 ^ 32))
    (inside : upTo (queueOf d x.arg0).head (x.arg1 % 2 ^ 32) ≤ (ctxOf d x.ctx).depth) (crc : List BlockFail) :
    applySlot d x lc crc = some ⟨none, modQueue d x.arg0 fun y => { y with tail := x.arg1 % 2 ^ 32 }, []⟩ := by
  have runs : applySlot d x lc crc = applyDoorbell d x lc := by simp only [applySlot, doorbell]
  rw [runs, applyDoorbell]
  simp only [allowed, Nat.not_lt.mpr after, Nat.not_lt.mpr inside, decide_false, Bool.not_true, Bool.or_self, Bool.false_eq_true, if_false]
  rfl

/-! ### Outbound slots -/

theorem slotSend_none {d : Dev} {lc : Bool} (empty : sysOpen d true lc = []) : slotSend d lc = d := by
  unfold slotSend
  rw [empty]

section
variable {d : Dev} {lc : Bool} {x : SysSlot} {t : List SysSlot} (first : sysOpen d true lc = x :: t)
include first

theorem slotSend_roadDown (down : roadDown d = true) : slotSend d lc = sysDrop d true lc x.num := by
  unfold slotSend
  simp only [first, down, if_true]

variable (up : roadDown d = false)
include up

theorem slotSend_partial (left : x.left ≠ 0) : slotSend d lc = d := by
  unfold slotSend
  simp only [first, up, left, ne_eq, not_false_eq_true, Bool.false_eq_true, if_false, if_true]

variable (whole : x.left = 0)
include whole

theorem slotSend_status (status : x.type = 0x22) :
    slotSend d lc = sendStatus (sysGive d true lc x.num) x.ep lc x.seq x.arg0 := by
  unfold slotSend
  simp [first, up, whole, status]

theorem slotSend_put_closed (put : x.type = 0x10) (closed : (txOf (epOf d x.ep) lc).session = none) :
    slotSend d lc = openTx d x.ep lc := by
  unfold slotSend
  simp [first, up, whole, put, closed]

theorem slotSend_put_open (put : x.type = 0x10) (opened : (txOf (epOf d x.ep) lc).session ≠ none) :
    slotSend d lc = if canSend d x.ep lc && hasCredit d x.ep lc then sendFrame (sysGive d true lc x.num) (slotFrame x lc x.ctx) x.op
      else d := by
  have session : (txOf (epOf d x.ep) lc).session.isNone = false := 
    Option.isNone_eq_false_iff.mpr (Option.isSome_iff_ne_none.mpr opened)
  unfold slotSend
  simp [first, up, whole, put, session]

theorem slotSend_data (other : x.type ≠ 0x22) (notPut : x.type ≠ 0x10) :
    slotSend d lc = if canSend d x.ep lc then
      sendFrame (sysGive d true lc x.num) (slotFrame x lc (if x.type = 0x12 then epRemoteCtx (epOf d x.ep) else x.ctx)) none
      else d := by
  unfold slotSend
  simp only [first, up, whole, other, notPut, ne_eq, not_true_eq_false, Bool.false_eq_true, if_false]

end

/-! ### The statement -/

/-- Settles O56: by the first slot of the ring that is not given back, and what it comes to. -/
theorem systemRingSlots : Obligations.SystemRingSlots := by
  unfold Obligations.SystemRingSlots
  intro s lc crc fails d out apply send
  have applies {e : Dev} (left : slotApply d lc crc = e) : apply e :=
    does_congr left (runDev_next s (fun d => slotApply d lc crc) fails)
  have sends {e : Dev} (left : slotSend d lc = e) : send e :=
    does_congr left (runDev_next s (fun d => slotSend d lc) rfl)
  refine ⟨fun empty => applies (slotApply_none empty crc), fun empty => sends (slotSend_none empty), ?inbound, ?outbound⟩
  case inbound =>
    intro x t first
    refine ⟨fun down => applies (slotApply_roadDown first down), fun up left => applies (slotApply_partial first up left),
      fun up whole down => ?memDown, fun up whole serves => ?memUp⟩
    case memDown =>
      have comes := slotOutcome_memDown down x lc crc
      exact ⟨fun room => applies (slotApply_refused first up whole comes room),
        fun full => applies (slotApply_full first up whole comes (by simp only [List.length_nil, Option.isSome_some, if_true]; omega))⟩
    case memUp =>
      have comes := slotOutcome_memUp serves x lc crc
      refine ⟨fun waits => applies (slotApply_waits first up whole (comes.trans waits)),
        fun e os result => ⟨fun room => ?_, fun full => ?_⟩,
        fun e k result => ⟨fun room => ?_, fun full => ?_⟩, ?_⟩
      · exact applies (slotApply_applied first up whole (comes.trans result) room)
      · exact applies (slotApply_full first up whole (comes.trans result) (by simpa using full))
      · exact applies (slotApply_refused first up whole (comes.trans result) room)
      · exact applies (slotApply_full first up whole (comes.trans result)
          (by simp only [List.length_nil, Option.isSome_some, if_true]; omega))
      · intro doorbell allowed room y tail after inside
        exact applies (slotApply_applied first up whole (comes.trans (applySlot_doorbell doorbell allowed after inside crc)) room)
  case outbound =>
    intro x t first g can
    refine ⟨fun down => sends (slotSend_roadDown first down), fun up left => sends (slotSend_partial first up left), fun up whole => ?_⟩
    refine ⟨fun status => sends (slotSend_status first up whole status),
      fun put closed => sends (slotSend_put_closed first up whole put closed), fun put opened => ?put, fun other notPut => ?data⟩
    case put =>
      have does := slotSend_put_open first up whole put opened
      refine ⟨fun may credit => sends (does.trans (if_pos (by rw [may, credit]; rfl))), fun blocked => sends (does.trans (if_neg ?_))⟩
      rw [Bool.and_eq_true]
      rintro ⟨may, credit⟩
      exact blocked.elim (fun no => no may) fun no => Bool.false_ne_true (no.symm.trans credit)
    case data =>
      have does := slotSend_data first up whole other notPut
      exact ⟨fun may => sends (does.trans (if_pos may)), fun blocked => sends (does.trans (if_neg blocked))⟩

end Sys2Proof.Machine
end

section
/-!
SUPPORT. Proof of the statement on MOVE and RING (R152, R155, R157, R161, R165, R166, R170).
-/
namespace Sys2Proof.Machine
open Sys2Proof

/-! ### What is left unchanged -/

/-- What every step of a fold keeps, the fold keeps. -/
theorem foldl_keeps {α β : Type} (p : Dev → β) {f : Dev → α → Dev} (keeps : ∀ d a, p (f d a) = p d) (l : List α) (d : Dev) :
    p (l.foldl f d) = p d := by
  induction l generalizing d with
  | nil => rfl
  | cons a l ih => rw [List.foldl_cons, ih, keeps]

@[simp] theorem clampAs_haul (d : Dev) (ctx key idx sub : Nat) : (clampAs d ctx key idx sub).haul = d.haul := by
  unfold clampAs
  split <;> rfl

@[simp] theorem memClampAs_haul (d : Dev) (ctx key idx sub : Nat) : (memClampAs d ctx key idx sub).haul = d.haul := by
  unfold memClampAs
  split
  · rfl
  · exact clampAs_haul d ctx key idx sub

@[simp] theorem memClampFree_haul (d : Dev) (ctx key sub : Nat) : (memClampFree d ctx key sub).haul = d.haul := by
  unfold memClampFree
  split
  · rfl
  · rw [memClampAs_haul]

@[simp] theorem pinLimits_haul (d : Dev) : (pinLimits d).haul = d.haul := by
  refine foldl_keeps Dev.haul (fun d b => foldl_keeps Dev.haul (fun d c => ?_) _ d) _ d
  split
  · exact memClampFree_haul d c pinKey (b + 1)
  · rfl

@[simp] theorem abortOp_haul (d : Dev) (id reason : Nat) : (abortOp d id reason).haul = d.haul := by
  unfold abortOp
  split
  · rfl
  · rw [setOp_haul, postOpFault_haul]
    exact foldl_keeps Dev.haul (f := memSpoilKey) (fun _ _ => rfl) _ d

/-! ### Heads whose engine is on the tensor die -/

theorem sendDesc_ring (d : Dev) {h : Head} (ring : hOpcode h.desc = 0x41) : sendDesc d h = d := by
  have tensor_die : onSignalDie d h.desc = false := by simp [onSignalDie, ring]
  simp [sendDesc, tensor_die]

theorem sendDesc_moveTensor (d : Dev) {h : Head} (move : hOpcode h.desc = 0x40) (source : sideIsTensor (mvFrom h.desc) = true) :
    sendDesc d h = d := by
  have tensor_die : moveDie d h.desc = some 1 := if_pos (Bool.or_eq_true_iff.mpr (.inl source))
  have stays : onSignalDie d h.desc = false := by simp [onSignalDie, move, tensor_die]
  simp [sendDesc, stays]

/-! ### A MOVE between two tensors -/

/-- A side that names a tensor names no ring (R154). -/
theorem sideRing_tensor {side : Option Nat} (tensor : sideIsTensor side = true) : sideRing side = none := by
  cases side with
  | none => rfl
  | some i =>
    have noRing : isRingId i = false := by
      simp only [sideIsTensor, isTensorId, Bool.and_eq_true, Bool.not_eq_true'] at tensor
      exact tensor.1.2
    simp [sideRing, noRing]

theorem tset_tset {α : Type} (t : Tab α) (k : Nat) (a b : α) : tset (tset t k a) k b = tset t k b := by
  induction t with
  | nil => simp [tset]
  | cons e t ih =>
    simp only [tset]
    split
    · simp [tset]
    · split
      · simp [tset]
      · simp [tset, *]

@[simp] theorem opOf_issue (d : Dev) (h : Head) (o : Op) : opOf (issue d h o).2 d.disp.nextOp = some o := opOf_setOp _ _ o

/-- An operation that has just issued, entered again as it is, changes nothing. -/
theorem setOp_issue (d : Dev) (h : Head) (o : Op) : setOp (issue d h o).2 d.disp.nextOp o = (issue d h o).2 := by
  simp only [issue, setOp, tset_tset]

/-- No page is needed for no byte. -/
theorem primeMove_zero (d : Dev) (id lo : Nat) (o : Op) : primeMove d id lo 0 o = setOp d id { o with needs := [] } := by
  have pages : movePages d o lo 0 = [] := by
    unfold movePages
    split <;> split <;> simp [boxPages]
  simp [primeMove, pages, needList, touchAll]

theorem moveReady_plain {h : Head} (plain : mvConvey h.desc = false) (d : Dev) : moveReady d h = true := by
  simp [moveReady, plain]

theorem startMove_tensors {d : Dev} {h : Head} (here : mvRemote h.desc = false) (plain : mvConvey h.desc = false)
    (source : sideIsTensor (mvFrom h.desc) = true) (target : sideIsTensor (mvTo h.desc) = true) :
    startMove d h = copyTensor (issue d h (freshMove d h)).2 d.disp.nextOp (freshMove d h) := by
  have desc : (freshMove d h).desc = h.desc := rfl
  have noBytes (e : Dev) : firstBytes e (freshMove d h) = 0 := by
    simp [firstBytes, desc, here, plain, sideRing_tensor source, sideRing_tensor target]
  have entered : primeMove (issue d h (freshMove d h)).2 d.disp.nextOp 0 0 (freshMove d h) = (issue d h (freshMove d h)).2 :=
    (primeMove_zero _ _ _ _).trans (setOp_issue d h (freshMove d h))
  have id : (issue d h (freshMove d h)).1 = d.disp.nextOp := rfl
  have noNeeds : (freshMove d h).needs = [] := rfl
  have goesOn : moveOn (issue d h (freshMove d h)).2 d.disp.nextOp (freshMove d h)
      = copyTensor (issue d h (freshMove d h)).2 d.disp.nextOp (freshMove d h) :=
    if_neg (by simp [desc, here, plain, sideRing_tensor source, sideRing_tensor target])
  simp only [startMove, id, opOf_issue, plain, Bool.false_eq_true, if_false, noBytes, entered, noNeeds, List.isEmpty_nil, if_true, goesOn]

/-! ### Rings made, freed and set back -/

theorem ringSub {x : Desc} {k : Nat} (op : rgOp x = k) : (rgOp x == k || rgBadOp x) = true := by simp [op]

theorem ringRoom_signalDie {d : Dev} {x : Ring} (signal : x.consDie ≠ 1) : (ringRoom d x).1 = d := by
  simp [ringRoom, signal]

theorem slotStOf_rgNew (h : Head) (i : Nat) : slotStOf (rgNew h) i = .empty := by
  simp only [slotStOf, rgNew, ringFresh, lget, List.getD_eq_getElem?_getD, List.getElem?_replicate]
  split <;> rfl

theorem ringOf_ringDrop (d : Dev) (r : Nat) : ringOf (ringDrop d r) r = none := by
  unfold ringDrop
  split
  · assumption
  · exact tfind_tdel_same _ r

/-- Whether an operation is a MOVE that still waits for ring `r`. -/
def waitsForRing (r : Nat) (o : Nat × Op) : Bool :=
  o.2.phase == .moving && hOpcode o.2.desc == 0x40
    && (sideRing (mvFrom o.2.desc) == some r || sideRing (mvTo o.2.desc) == some r)

theorem destroyRing_eq (d : Dev) (r : Nat) :
    destroyRing d r = (d.disp.ops.filter (waitsForRing r)).foldl (fun d o => abortOp d o.1 0x0601) (pinLimits (ringDrop d r)) := rfl

theorem ringOf_destroyRing (d : Dev) (r : Nat) : ringOf (destroyRing d r) r = none := by
  have kept : (destroyRing d r).haul = (ringDrop d r).haul := by
    rw [destroyRing_eq, foldl_keeps Dev.haul fun d (o : Nat × Op) => abortOp_haul d o.1 0x0601, pinLimits_haul]
  rw [ringOf, kept]
  exact ringOf_ringDrop d r

theorem destroyRing_still {d : Dev} (still : ∀ e ∈ d.disp.ops, e.2.phase ≠ .moving) (r : Nat) :
    destroyRing d r = pinLimits (ringDrop d r) := by
  have none_waits : d.disp.ops.filter (waitsForRing r) = [] := by
    rw [List.filter_eq_nil_iff]
    intro e mem
    simp [waitsForRing, still e mem]
  rw [destroyRing_eq, none_waits, List.foldl_nil]

theorem resetRing_some {d : Dev} {r : Nat} {y : Ring} (held : ringOf d r = some y) :
    resetRing d r = setRing (ringUnsend (ringClear d r y.slots) r) r { ringFresh y with prod := y.prod, cons := y.cons } := by
  unfold resetRing
  rw [held]

/-! ### The statement -/

/-- Settles O33: each descriptor by what its family's run comes to. -/
theorem movesAndRings : Obligations.MovesAndRings := by
  unfold Obligations.MovesAndRings
  intro s q h ready d x r o
  have move (op : hOpcode x = 0x40) (passes : moveReason d h = none) (may : moveReady d h = true) :
      Does (.move q) s (startMove (sendDesc d h) h) :=
    does_runHead (f := famMove) rfl rfl ready op rfl passes may
  refine ⟨move, ?tensors, ?create, ?destroy, ?reset⟩
  case tensors =>
    intro op passes here plain source target
    have does := move op passes (moveReady_plain plain d)
    rw [sendDesc_moveTensor d op source] at does
    exact does_congr (startMove_tensors here plain source target) does
  case create =>
    intro op create passes may
    have does : Does (.ringCreate q) s (createRing (sendDesc d h) h) :=
      does_runHead (f := famRingCreate) rfl rfl ready op (ringSub create) passes (by simpa [famRingCreate] using may)
    rw [sendDesc_ring d op] at does
    exact ⟨does, ringRoom_signalDie, rfl, rfl, rfl, slotStOf_rgNew h⟩
  case destroy =>
    intro op destroy passes
    have does : Does (.ringDestroy q) s (completeHead (destroyRing (sendDesc d h) r) h) :=
      does_runHead (f := famRingDestroy) rfl rfl ready op (ringSub destroy) passes rfl
    rw [sendDesc_ring d op] at does
    exact ⟨does, ringOf_destroyRing d r, fun still => destroyRing_still still r⟩
  case reset =>
    intro y op reset passes held
    have does : Does (.ringReset q) s (completeHead (resetRing (sendDesc d h) r) h) :=
      does_runHead (f := famRingReset) rfl rfl ready op (ringSub reset) passes rfl
    rw [sendDesc_ring d op, resetRing_some held] at does
    exact does

end Sys2Proof.Machine
end

section
/-!
SUPPORT. Proof of the statement on ring slots and the conveyor (R162 to R168, R178 to R182).
-/
namespace Sys2Proof.Machine
open Sys2Proof

/-! ### The slot at the tail of a ring -/

/-- What completes the slot at the tail of ring `r`: the last flit of a slot that crosses the road, or the MOVE that fills it. -/
def slotCompleted (d : Dev) (r : Nat) : Dev :=
  match ringOf d r with
  | none => d
  | some x =>
    match ringDir x with
    | some dir => arriveLast d r dir
    | none => fillSlot d r

theorem does_ringSlotFull (s : State) {r : Nat} (below : r < 4096) : Does (.ringSlotFull r) s (slotCompleted s.dev r) :=
  runDev_next s (fun d => slotCompleted d r) (decide_eq_true below)

theorem does_ringSlotEmpty (s : State) {r : Nat} (below : r < 4096) : Does (.ringSlotEmpty r) s (emptySlot s.dev r) :=
  runDev_next s (fun d => emptySlot d r) (decide_eq_true below)

theorem slotCompleted_noRing {d : Dev} {r : Nat} (free : ringOf d r = none) : slotCompleted d r = d := by
  simp [slotCompleted, free]

theorem emptySlot_noRing {d : Dev} {r : Nat} (free : ringOf d r = none) : emptySlot d r = d := by
  simp [emptySlot, free]

section
variable {d : Dev} {r : Nat} {x : Ring} (held : ringOf d r = some x)
include held

theorem slotCompleted_crosses {dir : Dir} (crosses : ringDir x = some dir) : slotCompleted d r = arriveLast d r dir := by
  simp [slotCompleted, held, crosses]

theorem slotCompleted_stays (stays : ringDir x = none) : slotCompleted d r = fillSlot d r := by
  simp [slotCompleted, held, stays]

theorem fillSlot_noMover (still : ringMover d r true = none) : fillSlot d r = d := by
  simp [fillSlot, held, still]

theorem emptySlot_noMover (still : ringMover d r false = none) : emptySlot d r = d := by
  simp [emptySlot, held, still]

variable {id : Nat} {o : Op}

section
variable (mover : ringMover d r true = some (id, o)) (filling : tailOpen x = true) (unbound : x.prod = none)
  (here : mvRemote o.desc = false) (runs : haulRuns d o = true)
include mover filling unbound here runs

theorem fillSlot_tensor (tensor : sideRing (mvFrom o.desc) = none) (noNeeds : o.needs = []) (more : o.pos < moveTotal d o) :
    fillSlot d r = fillFromTensor d id r x o := by
  simp [fillSlot, held, mover, filling, unbound, here, runs, tensor, noNeeds, more]

theorem fillSlot_ring {k : Nat} {y : Ring} (ring : sideRing (mvFrom o.desc) = some k) (source : ringOf d k = some y) :
    fillSlot d r = fillFromRing d id k r y x o := by
  simp [fillSlot, held, mover, filling, unbound, here, runs, ring, source]

end

section
variable (mover : ringMover d r false = some (id, o)) (draining : headOpen x = true) (unbound : x.cons = none)
  (runs : haulRuns d o = true)
include mover draining unbound runs

theorem emptySlot_peer (remote : mvRemote o.desc = true) : emptySlot d r = emptyToPeer d id r x o := by
  simp [emptySlot, held, mover, draining, unbound, runs, remote]

theorem emptySlot_ring {k : Nat} {y : Ring} (here : mvRemote o.desc = false) (ring : sideRing (mvTo o.desc) = some k)
    (target : ringOf d k = some y) : emptySlot d r = emptyToRing d id r k x y o := by
  simp [emptySlot, held, mover, draining, unbound, runs, here, ring, target]

theorem emptySlot_tensor (here : mvRemote o.desc = false) (tensor : sideRing (mvTo o.desc) = none) (noNeeds : o.needs = []) :
    emptySlot d r = emptyToTensor d id r x o := by
  simp [emptySlot, held, mover, draining, unbound, runs, here, tensor, noNeeds]

end

/-- A complete slot of a ring that watches no deadline and signals no object (R162 to R168). -/
theorem slotFull_quiet (silent : x.fullEn = false) (timeless : x.rt = false) :
    slotFull d r = setRing d r { x with
      slotSt := lset x.slotSt (x.count % x.slots) (if slotSpoil d r (x.count % x.slots) then .spoil else .full),
      fullAt := lset x.fullAt (x.count % x.slots) (now d), tail := (x.count % x.slots + 1) % x.slots, posted := false,
      staged := [], sent := [], count := x.count + 1 } := by
  simp [slotFull, held, deadlineCheck, silent, timeless]

/-- A slot given back of a ring that signals no object (R163, R164). -/
theorem slotRelease_quiet {n : Nat} (draining : slotStOf x n = .draining) (silent : x.emptyEn = false) :
    slotRelease d r n = modRing (slotClear (slotClear d r n) r (64 + n)) r fun y =>
      { y with slotSt := lset y.slotSt n .empty, head := (n + 1) % y.slots, given := false, taken := y.taken + 1 } := by
  simp [slotRelease, held, draining, silent]

end

theorem arriveLast_last {d : Dev} {r : Nat} {dir : Dir} {f : Flit} (next : nextFlit (roadOf d dir) = some f) (runs : roadRuns d = true)
    (last : lastOf r f = true) : arriveLast d r dir = slotLand (acceptFlit d dir f) f.pay := by
  simp [arriveLast, next, runs, last]

/-! ### The conveyor fetches -/

/-- The receivers that are attached (R178). -/
def convOn (c : Conv) : List Nat := (c.accepted.map fun a => a.1).filter (convAttached c)

/-- The attached receivers at skew 2 (R179). -/
def convLate (c : Conv) : List Nat := (convOn c).filter fun l => 2 ≤ convSkew c l

section
variable {d : Dev} {id : Nat} {c : Conv} {o : Op} (transfer : convOf d id = some c) (held : opOf d id = some o)
  (runs : haulRuns d o = true) (crc : List BlockFail)
include transfer held

theorem convFetch_whole (whole : c.total ≤ c.fetched) : convFetch d id crc = d := by
  simp [convFetch, transfer, held, whole]

variable (more : c.fetched < c.total)
include runs more

theorem convFetch_stalls (lacks : convLack d o c.fetched ≠ []) :
    convFetch d id crc = convStall d id o (convLack d o c.fetched) := by
  obtain ⟨n, ns, pages⟩ := List.exists_cons_of_ne_nil lacks
  simp [convFetch, transfer, held, runs, Nat.not_le.mpr more, pages]

variable (present : convLack d o c.fetched = [])
include present

/-- A slot whose pages are at hand is fetched, past the late receivers where another has room, or waits (R179). -/
theorem convFetch_present :
    convFetch d id crc = if (convLate c).isEmpty then convStage d id c o crc
      else if (convOn c).any fun l => convSkew c l == 0 && (convRoom d o l c.fetched).2 then
        convStage (convDetach d o c (convLate c)) id (convWithout c (convLate c)) o crc
      else d := by
  simp only [convFetch, transfer, held, runs, Nat.not_le.mpr more, present]
  rfl

theorem convFetch_onTime (onTime : convLate c = []) : convFetch d id crc = convStage d id c o crc := by
  rw [convFetch_present transfer held runs crc more present, if_pos (by rw [onTime]; rfl)]

theorem convFetch_detaches (late : convLate c ≠ [])
    (room : ∃ l ∈ convOn c, convSkew c l = 0 ∧ (convRoom d o l c.fetched).2 = true) :
    convFetch d id crc = convStage (convDetach d o c (convLate c)) id (convWithout c (convLate c)) o crc := by
  rw [convFetch_present transfer held runs crc more present, if_neg (by simpa using late), if_pos (by simpa using room)]

theorem convFetch_waits (late : convLate c ≠ [])
    (full : ∀ l ∈ convOn c, convSkew c l ≠ 0 ∨ (convRoom d o l c.fetched).2 = false) : convFetch d id crc = d := by
  have none_free : ¬ ((convOn c).any fun l => convSkew c l == 0 && (convRoom d o l c.fetched).2) = true := by
    simp only [List.any_eq_true, Bool.and_eq_true, beq_iff_eq, not_exists, not_and]
    intro l mem even room
    exact (full l mem).elim (fun skew => skew even) fun no => Bool.false_ne_true (no.symm.trans room)
  rw [convFetch_present transfer held runs crc more present, if_neg (by simpa using late), if_neg none_free]

end

/-! ### A receiver accepts -/

/-- The staged bytes of the next slot of receiver `l`, while it is attached. -/
def convNext (c : Conv) (l : Nat) : Option (List MByte) :=
  (tfind c.staged (convAccepted c l)).filter fun _ => convAttached c l

theorem convNext_attached {c : Conv} {l : Nat} (attached : convAttached c l = true) : convNext c l = tfind c.staged (convAccepted c l) := by
  cases found : tfind c.staged (convAccepted c l) <;> simp [convNext, attached, found]

theorem convNext_detached {c : Conv} {l : Nat} (detached : convAttached c l = false) : convNext c l = none := by
  cases found : tfind c.staged (convAccepted c l) <;> simp [convNext, detached, found]

/-- The pages that the next slot of receiver `l` waits for: its destination's, and the source's where it reads the slot itself. -/
def convWaits (d : Dev) (o : Op) (c : Conv) (l : Nat) (own : Bool) : List (Nat × Nat) :=
  convTargets d o l (convAccepted c l) ++ if own then convLack d o (convAccepted c l) else []

theorem convWaits_staged (d : Dev) (o : Op) (c : Conv) (l : Nat) : convWaits d o c l false = convTargets d o l (convAccepted c l) :=
  List.append_nil _

theorem convWaits_own (d : Dev) (o : Op) (c : Conv) (l : Nat) :
    convWaits d o c l true = convTargets d o l (convAccepted c l) ++ convLack d o (convAccepted c l) := rfl

section
variable {d : Dev} {id : Nat} {c : Conv} {o : Op} (transfer : convOf d id = some c) (held : opOf d id = some o)
  (runs : haulRuns d o = true) (crc : List BlockFail) {l : Nat} (receiver : thas c.accepted l = true)
  (more : convAccepted c l < c.total)
include transfer held

theorem convAccept_unstaged (attached : convAttached c l = true) (unstaged : tfind c.staged (convAccepted c l) = none) :
    convAccept d id l crc = d := by
  simp [convAccept, transfer, held, attached, unstaged]

include runs receiver more

section
variable {bs : List MByte} (staged : convNext c l = some bs)
include staged

theorem convAccept_staged_stalls (lacks : convWaits d o c l false ≠ []) :
    convAccept d id l crc = convStall d id o (convWaits d o c l false) := by
  rw [convWaits_staged] at lacks ⊢
  rw [convNext] at staged
  obtain ⟨n, ns, pages⟩ := List.exists_cons_of_ne_nil lacks
  simp [convAccept, transfer, held, runs, receiver, Nat.not_le.mpr more, staged, pages]

variable (present : convWaits d o c l false = [])
include present

theorem convAccept_staged (room : (convRoom d o l (convAccepted c l)).2 = true) :
    convAccept d id l crc = convTaken (convWrite (convRoom d o l (convAccepted c l)).1 o l (convAccepted c l) bs) id l c o := by
  rw [convWaits_staged] at present
  rw [convNext] at staged
  simp [convAccept, transfer, held, runs, receiver, Nat.not_le.mpr more, staged, present, room]

theorem convAccept_staged_full (full : (convRoom d o l (convAccepted c l)).2 = false) :
    convAccept d id l crc = (convRoom d o l (convAccepted c l)).1 := by
  rw [convWaits_staged] at present
  rw [convNext] at staged
  simp [convAccept, transfer, held, runs, receiver, Nat.not_le.mpr more, staged, present, full]

end

section
variable (detached : convAttached c l = false)
include detached

theorem convAccept_own_stalls (lacks : convWaits d o c l true ≠ []) :
    convAccept d id l crc = convStall d id o (convWaits d o c l true) := by
  have unstaged := convNext_detached detached
  rw [convNext] at unstaged
  rw [convWaits_own] at lacks ⊢
  obtain ⟨n, ns, pages⟩ := List.exists_cons_of_ne_nil lacks
  simp only [convAccept, transfer, held, unstaged]
  simp [runs, receiver, detached, Nat.not_le.mpr more, pages]

theorem convAccept_own (present : convWaits d o c l true = []) (room : (convRoom d o l (convAccepted c l)).2 = true) :
    let k := convAccepted c l
    let r := convRoom d o l k
    let p := convCursor r.1 o k
    convAccept d id l crc = readPages r.1 p.ctx (convSource r.1 p k) crc fun e =>
      convTaken (convWrite e p l k (convBytes e id p k)) id l c p := by
  have unstaged := convNext_detached detached
  rw [convNext] at unstaged
  rw [convWaits_own] at present
  simp only [convAccept, transfer, held, unstaged]
  simp [runs, receiver, detached, Nat.not_le.mpr more, present, room]

end
end

/-! ### The statement -/

/-- Settles O34: by the ring's side that is served, and by what the conveyor's next slot lacks. -/
theorem ringSlots : Obligations.RingSlots := by
  unfold Obligations.RingSlots
  refine ⟨?noRing, ?ring, ?conveyor⟩
  case noRing =>
    intro s r below free
    exact ⟨does_congr (slotCompleted_noRing free) (does_ringSlotFull s below),
      does_congr (emptySlot_noRing free) (does_ringSlotEmpty s below)⟩
  case ring =>
    intro s r x below held d
    have fills {e : Dev} (stays : ringDir x = none) (left : fillSlot d r = e) : Does (.ringSlotFull r) s e :=
      does_congr ((slotCompleted_stays held stays).trans left) (does_ringSlotFull s below)
    have empties {e : Dev} (left : emptySlot d r = e) : Does (.ringSlotEmpty r) s e := does_congr left (does_ringSlotEmpty s below)
    refine ⟨fun id o stays mover filling unbound here runs => ⟨?_, ?_⟩, fun stays still => fills stays (fillSlot_noMover held still),
      fun dir f crosses next runs last => ?_, fun id o mover draining unbound runs => ⟨?_, ?_, ?_⟩,
      fun still => empties (emptySlot_noMover held still), slotFull_quiet held, fun n => slotRelease_quiet held⟩
    · exact fun tensor noNeeds more => fills stays (fillSlot_tensor held mover filling unbound here runs tensor noNeeds more)
    · exact fun k y ring source => fills stays (fillSlot_ring held mover filling unbound here runs ring source)
    · exact does_congr ((slotCompleted_crosses held crosses).trans (arriveLast_last next runs last)) (does_ringSlotFull s below)
    · exact fun remote => empties (emptySlot_peer held mover draining unbound runs remote)
    · exact fun k y here ring target => empties (emptySlot_ring held mover draining unbound runs here ring target)
    · exact fun here tensor noNeeds => empties (emptySlot_tensor held mover draining unbound runs here tensor noNeeds)
  case conveyor =>
    intro s id crc c o fails transfer held runs d on late
    have fetches {e : Dev} (left : convFetch d id crc = e) : Does (.conveyorFetch ⟨id, crc⟩) s e :=
      does_congr left (runDev_next s (fun d => convFetch d id crc) fails)
    refine ⟨fun more lacks => fetches (convFetch_stalls transfer held runs crc more lacks), fun more present => ⟨?_, ?_, ?_⟩,
      fun whole => fetches (convFetch_whole transfer held crc whole), ?accepts⟩
    · exact fun onTime => fetches (convFetch_onTime transfer held runs crc more present onTime)
    · exact fun late room => fetches (convFetch_detaches transfer held runs crc more present late room)
    · exact fun late full => fetches (convFetch_waits transfer held runs crc more present late full)
    case accepts =>
      intro l bench receiver more k r need
      have named : (decide (l < 16) && failsOk crc) = true := by rw [decide_eq_true bench, fails]; rfl
      have accepts {e : Dev} (left : convAccept d id l crc = e) : Does (.conveyorSlotAccept id ⟨l, crc⟩) s e :=
        does_congr left (runDev_next s (fun d => convAccept d id l crc) named)
      refine ⟨fun bs attached found => ?staged,
        fun attached unstaged => accepts (convAccept_unstaged transfer held crc attached unstaged),
        fun detached => ⟨fun lacks => accepts (convAccept_own_stalls transfer held runs crc receiver more detached lacks),
          fun present room => accepts (convAccept_own transfer held runs crc receiver more detached present room)⟩⟩
      case staged =>
        have staged : convNext c l = some bs := (convNext_attached attached).trans found
        exact ⟨fun lacks => accepts (convAccept_staged_stalls transfer held runs crc receiver more staged lacks),
          fun present room => accepts (convAccept_staged transfer held runs crc receiver more staged present room),
          fun present full => accepts (convAccept_staged_full transfer held runs crc receiver more staged present full)⟩

end Sys2Proof.Machine
end

section
/-!
SUPPORT. Proof of the statement on memory that is written and read back (R197).
-/
namespace Sys2Proof.Machine
open Sys2Proof

/-! ### Marks -/

@[simp] theorem mem_insSorted {l : List Nat} {j k : Nat} : j ∈ insSorted l k ↔ j = k ∨ j ∈ l := by
  induction l with
  | nil => simp [insSorted]
  | cons i t ih =>
    rw [insSorted]
    split
    · exact List.mem_cons
    · split
      · next same => simp [same]
      · rw [List.mem_cons, List.mem_cons, ih, or_left_comm]

@[simp] theorem mem_delSorted {l : List Nat} {j k : Nat} : j ∈ delSorted l k ↔ j ∈ l ∧ j ≠ k := by simp [delSorted]

theorem mem_markSet {m : List Nat} {j k : Nat} {on : Bool} : j ∈ markSet m k on ↔ if j = k then on = true else j ∈ m := by
  cases on <;> by_cases same : j = k <;> simp [markSet, same]

/-- Marking blocks one after the other decides the mark of those blocks and of no other. -/
theorem mem_foldl_markSet {blocks : List Nat} {on : Bool} {m : List Nat} {j : Nat} :
    j ∈ blocks.foldl (fun m b => markSet m b on) m ↔ if j ∈ blocks then on = true else j ∈ m := by
  induction blocks generalizing m with
  | nil => simp
  | cons b bs ih =>
    rw [List.foldl_cons, ih, mem_markSet]
    by_cases later : j ∈ bs <;> by_cases first : j = b <;> simp [later, first]

/-! ### What a write leaves -/

theorem vkey_add (ctx va i : Nat) : vkey ctx (va + i) = vkey ctx va + i := (Nat.add_assoc ..).symm

theorem memByte_memWrite {d : Dev} (canonical : Memory.wf d.mem.cells = true) (ctx va : Nat) (bs : Bytes) (spoil : Bool)
    (c a : Nat) : memByte (memWrite d ctx va bs spoil) c a =
      if vkey ctx va ≤ vkey c a ∧ vkey c a < vkey ctx va + bs.length then bs.getD (vkey c a - vkey ctx va) 0
      else memByte d c a :=
  cellGet_cellsPut _ bs _ canonical

/-- A write sets the mark of the 64-byte blocks from its first key's to its last key's, and of no other. -/
theorem memSpoil_memWrite (d : Dev) (ctx va : Nat) (bs : Bytes) (spoil : Bool) (c a : Nat) :
    memSpoil (memWrite d ctx va bs spoil) c a =
      if vkey ctx va / 64 ≤ vkey c a / 64 ∧ vkey c a / 64 < (vkey ctx va + bs.length + 63) / 64 then spoil
      else memSpoil d c a := by
  have touched (first last j : Nat) : j ∈ (List.range (last - first)).map (fun i => first + i) ↔ first ≤ j ∧ j < last := by
    simp only [List.mem_map, List.mem_range]
    exact ⟨by omega, fun within => ⟨j - first, by omega⟩⟩
  rw [Bool.eq_iff_iff]
  simp only [memSpoil, memWrite, List.contains_iff_mem, mem_foldl_markSet, touched]
  split <;> simp

/-! ### The statement -/

/-- Settles O38: byte by byte and block by block, by what a write leaves. -/
theorem memoryWrites : Obligations.MemoryWrites := by
  unfold Obligations.MemoryWrites
  intro d ctx va bs spoil canonical w
  refine ⟨memWrite_wf d ctx va bs spoil canonical, fun i within => ⟨?byte, ?mark⟩, fun c a apart => ?otherByte,
    fun c a apart => ?otherMark⟩
  case byte => rw [memByte_memWrite canonical, vkey_add, if_pos (by omega), Nat.add_sub_cancel_left]
  case mark => rw [memSpoil_memWrite, vkey_add, if_pos (by omega)]
  case otherByte => rw [memByte_memWrite canonical, if_neg (by omega)]
  case otherMark => rw [memSpoil_memWrite, if_neg (by omega)]

end Sys2Proof.Machine
end

section
/-!
SUPPORT. Proof of the statement on ALLOC, FREE and the place of a tensor (R198, R200, R201).
-/
namespace Sys2Proof.Machine
open Sys2Proof

/-! ### The place of a new tensor -/

/-- The `n` pages from `p` on and the range `r` do not meet. -/
def missesRange (n p : Nat) (r : Nat × Nat) : Prop := p + n ≤ r.1 ∨ r.1 + r.2 ≤ p

/-- The ranges begin in rising order. -/
def startsRise (l : List (Nat × Nat)) : Prop := l.Pairwise fun r t => r.1 ≤ t.1

@[simp] theorem mem_insRange {r t : Nat × Nat} {l : List (Nat × Nat)} : t ∈ insRange r l ↔ t = r ∨ t ∈ l := by
  induction l with
  | nil => simp [insRange]
  | cons q l ih =>
    rw [insRange]
    split
    · exact List.mem_cons
    · rw [List.mem_cons, List.mem_cons, ih, or_left_comm]

theorem startsRise_insRange {l : List (Nat × Nat)} (rise : startsRise l) (r : Nat × Nat) : startsRise (insRange r l) := by
  induction l with
  | nil => exact List.pairwise_singleton _ r
  | cons q l ih =>
    obtain ⟨above, rest⟩ := List.pairwise_cons.mp rise
    rw [insRange]
    split
    · next before =>
      refine List.pairwise_cons.mpr ⟨List.forall_mem_cons.mpr ⟨Nat.le_of_lt before, fun t mem => ?_⟩, rise⟩
      exact Nat.le_trans (Nat.le_of_lt before) (above t mem)
    · next after =>
      refine List.pairwise_cons.mpr ⟨fun t mem => ?_, ih rest⟩
      obtain rfl | mem := mem_insRange.mp mem
      · exact Nat.le_of_not_lt after
      · exact above t mem

theorem le_firstFit (n p : Nat) (l : List (Nat × Nat)) : p ≤ firstFit n p l := by
  induction l generalizing p with
  | nil => exact Nat.le_refl p
  | cons r l ih =>
    rw [firstFit]
    split
    · exact Nat.le_refl p
    · exact Nat.le_trans (Nat.le_max_left ..) (ih _)

/-- The pages found meet none of the ranges: where they lie before one, they lie before all that follow it. -/
theorem firstFit_misses {l : List (Nat × Nat)} (rise : startsRise l) (n p : Nat) :
    ∀ r ∈ l, missesRange n (firstFit n p l) r := by
  induction l generalizing p with
  | nil => exact fun _ mem => absurd mem List.not_mem_nil
  | cons q l ih =>
    obtain ⟨above, rest⟩ := List.pairwise_cons.mp rise
    rw [firstFit, List.forall_mem_cons]
    split
    · next fits => exact ⟨.inl fits, fun r mem => .inl (Nat.le_trans fits (above r mem))⟩
    · exact ⟨.inr (Nat.le_trans (Nat.le_max_right ..) (le_firstFit ..)), ih rest _⟩

/-- Pages from `p` on that meet none of the ranges do not begin below those found. -/
theorem firstFit_le {n p x : Nat} {l : List (Nat × Nat)} (from_p : p ≤ x) (misses : ∀ r ∈ l, missesRange n x r) :
    firstFit n p l ≤ x := by
  induction l generalizing p with
  | nil => exact from_p
  | cons q l ih =>
    obtain ⟨first, rest⟩ := List.forall_mem_cons.mp misses
    rw [firstFit]
    split
    · exact from_p
    · next tight =>
      -- Pages from `x` on that ended before `q` would have left room for those from `p` on.
      have beyond : q.1 + q.2 ≤ x := first.resolve_left fun before => tight (by omega)
      exact ih (Nat.max_le.mpr ⟨from_p, beyond⟩) rest

/-- The ranges of a context's tensors, in rising order of place. -/
def usedRanges (d : Dev) (ctx : Nat) : List (Nat × Nat) :=
  (d.mem.tensors.filter fun e => e.1 / 2 ^ 32 == ctx).foldl (fun l e => insRange (e.2.base, e.2.pages) l) []

theorem placeFor_eq (d : Dev) (ctx n : Nat) : placeFor d ctx n = firstFit n 1 (usedRanges d ctx) := rfl

theorem startsRise_usedRanges (d : Dev) (ctx : Nat) : startsRise (usedRanges d ctx) :=
  List.foldlRecOn _ _ List.Pairwise.nil fun _ rise e _ => startsRise_insRange rise (e.2.base, e.2.pages)

theorem mem_foldl_insRange {α : Type} {range : α → Nat × Nat} {es : List α} {l : List (Nat × Nat)} {r : Nat × Nat} :
    r ∈ es.foldl (fun l e => insRange (range e) l) l ↔ r ∈ es.map range ∨ r ∈ l := by
  induction es generalizing l with
  | nil => simp
  | cons e es ih => rw [List.foldl_cons, ih, mem_insRange, List.map_cons, List.mem_cons, or_left_comm, or_assoc]

theorem forall_mem_usedRanges {d : Dev} {ctx : Nat} {P : Nat × Nat → Prop} :
    (∀ r ∈ usedRanges d ctx, P r) ↔ ∀ e ∈ d.mem.tensors, e.1 / 2 ^ 32 = ctx → P (e.2.base, e.2.pages) := by
  simp only [usedRanges, mem_foldl_insRange (range := fun e : Nat × Tensor => (e.2.base, e.2.pages)), List.not_mem_nil, or_false,
    List.forall_mem_map, List.mem_filter, beq_iff_eq, and_imp]

/-! ### Assigning pages to channels leaves the tensors -/

@[simp] theorem clampAs_tensors (d : Dev) (ctx key idx sub : Nat) : (clampAs d ctx key idx sub).mem.tensors = d.mem.tensors := by
  unfold clampAs
  split <;> rfl

@[simp] theorem memClamp_tensors (d : Dev) (ctx idx sub : Nat) : (memClamp d ctx idx sub).mem.tensors = d.mem.tensors := by
  unfold memClamp memClampAs
  split
  · rfl
  · exact clampAs_tensors d ctx idx idx sub

@[simp] theorem pickChan_tensors (d : Dev) (ctx : Nat) : (pickChan d ctx).2.mem.tensors = d.mem.tensors := by
  unfold pickChan
  dsimp only
  split
  · split
    · split
      · exact memClamp_tensors ..
      · rfl
    · rfl
  · split
    · rfl
    · exact memClamp_tensors ..

@[simp] theorem pageRequest_tensors (d : Dev) (ctx p : Nat) (o : Option Op) :
    (pageRequest d ctx p o).mem.tensors = d.mem.tensors := by
  unfold pageRequest
  split
  · rfl
  · split <;> rfl

@[simp] theorem dropPage_tensors (d : Dev) (ctx p : Nat) : (dropPage d ctx p).mem.tensors = d.mem.tensors := by
  unfold dropPage
  dsimp only
  split
  · exact pageRequest_tensors ..
  · rfl

@[simp] theorem takeChan_tensors (d : Dev) (ctx : Nat) : (takeChan d ctx).2.mem.tensors = d.mem.tensors := by
  have picked := pickChan_tensors d ctx
  unfold takeChan
  split
  · next same => rwa [same] at picked
  · next e same =>
    rw [same] at picked
    split
    · rw [pickChan_tensors, dropPage_tensors, picked]
    · exact picked

@[simp] theorem assignPage_tensors (d : Dev) (ctx p : Nat) : (assignPage d ctx p).mem.tensors = d.mem.tensors := by
  have taken := takeChan_tensors d ctx
  unfold assignPage
  split
  · rfl
  · split <;> next same => rwa [same] at taken

/-! ### ALLOC and FREE -/

/-- Descriptors of signal-die engines alone cross the haul road: an ALLOC or a FREE does not (R220). -/
theorem sendDesc_memory (d : Dev) {h : Head} (memory : hOpcode h.desc = 0x50 ∨ hOpcode h.desc = 0x51) : sendDesc d h = d := by
  have tensor_die : onSignalDie d h.desc = false := by obtain op | op := memory <;> simp [onSignalDie, op]
  simp [sendDesc, tensor_die]

/-- A tensor placed is recorded at its place. -/
theorem tensorOf_placeTensor (d : Dev) (ctx id : Nat) (t : Tensor) :
    tensorOf (placeTensor d ctx id t) ctx id = some { t with base := placeFor d ctx t.pages } := by
  have recorded : (placeTensor d ctx id t).mem.tensors =
      tset d.mem.tensors (ckey ctx id) { t with base := placeFor d ctx t.pages } := by
    unfold placeTensor
    exact foldl_keeps (fun d => d.mem.tensors) (fun _ _ => by rw [assignPage_tensors]; rfl) _ _
  rw [tensorOf, recorded, tfind_tset_same]

section
variable {d : Dev} {h : Head} {t : Tensor} (described : alTensor d h.ctx h.desc = some t)
include described

theorem startAlloc_unpinned (unpinned : t.pinMask = 0) : startAlloc d h = completeHead (placeTensor d h.ctx (alId h.desc) t) h := by
  simp only [startAlloc, described, unpinned, if_true]

theorem startAlloc_pinned (pinned : t.pinMask ≠ 0) :
    let p := placeTensor d h.ctx (alId h.desc) t
    let ns := (hostsOf p t.pinMask).flatMap fun b =>
      (List.range t.pages).map fun i => (ckey h.ctx (placeFor d h.ctx t.pages + i), b)
    let o := { freshOp p h with phase := .stalled, needs := ns }
    startAlloc d h = touchAll (issue p h o).2 ns (some o) := by
  simp only [startAlloc, described, pinned, if_false, tensorOf_placeTensor]

end

theorem freeTensor_held {d : Dev} {h : Head} {t : Tensor} (held : tensorOf d h.ctx (alId h.desc) = some t) :
    let late := d.disp.ops.filter fun o => usesTensor h.ctx (alId h.desc) t o.2
    let e := late.foldl (fun d o => abortOp d o.1 0x0704) d
    freeTensor d h = completeHead (checkReturn (pinLimits (releaseTensor e h.ctx (alId h.desc) t))) h := by
  simp only [freeTensor, held]

/-- A tensor released is no longer allocated. -/
theorem tensorOf_releaseTensor (d : Dev) (ctx id : Nat) (t : Tensor) : tensorOf (releaseTensor d ctx id t) ctx id = none :=
  tfind_tdel_same _ _

/-! ### The statement -/

/-- Settles O36: an ALLOC by whether it pins, a FREE by the tensor it names, and the place of a tensor by the first that fits. -/
theorem allocFree : Obligations.AllocFree := by
  unfold Obligations.AllocFree
  refine ⟨?commands, ?place⟩
  case commands =>
    intro s q h ready d id
    refine ⟨?alloc, ?free⟩
    case alloc =>
      intro t op passes may described
      have starts : Does (.alloc q) s (startAlloc (sendDesc d h) h) := does_runHead (f := famAlloc) rfl rfl ready op rfl passes may
      rw [sendDesc_memory d (.inl op)] at starts
      exact ⟨fun unpinned => does_congr (startAlloc_unpinned described unpinned) starts,
        fun pinned => does_congr (startAlloc_pinned described pinned) starts⟩
    case free =>
      intro t op passes held late e
      have frees : Does (.free q) s (freeTensor (sendDesc d h) h) := does_runHead (f := famFree) rfl rfl ready op rfl passes rfl
      rw [sendDesc_memory d (.inr op)] at frees
      exact ⟨does_congr (freeTensor_held held) frees, tensorOf_releaseTensor e h.ctx id t⟩
  case place =>
    intro d ctx n _ apart
    have apart_iff (p : Nat) : apart p ↔ 1 ≤ p ∧ ∀ r ∈ usedRanges d ctx, missesRange n p r :=
      and_congr_right fun _ => (forall_mem_usedRanges (P := missesRange n p)).symm
    simp only [apart_iff, placeFor_eq]
    exact ⟨⟨le_firstFit n 1 _, firstFit_misses (startsRise_usedRanges d ctx) n 1⟩,
      fun p ⟨beyond_zero, misses⟩ => firstFit_le beyond_zero misses⟩

end Sys2Proof.Machine
end

section
/-!
SUPPORT. Proof of the statement on the completion of a descriptor (R16, R170, R225, R227, R251, R259).
-/
namespace Sys2Proof.Machine
open Sys2Proof

/-! ### What posting and adding to an object leave of the dispatcher -/

@[simp] theorem queueOf_post (d : Dev) (ctx code : Nat) (c : Cause) (p : Bytes) (k : Nat) :
    queueOf (post d ctx code c p) k = queueOf d k := rfl
@[simp] theorem syncOf_post (d : Dev) (ctx code : Nat) (c : Cause) (p : Bytes) (o : Nat) :
    syncOf (post d ctx code c p) o = syncOf d o := rfl

/-- An event record is put at the end of a queue that has room for it (R257). -/
theorem evs_post {d : Dev} {ctx : Nat} (room : (ctxOf d ctx).evs.length < (ctxOf d ctx).evqDepth) (code : Nat) (c : Cause)
    (p : Bytes) : (ctxOf (post d ctx code c p) ctx).evs =
      (ctxOf d ctx).evs ++ [eventRecord code ctx (ctxOf d ctx).evLost c (now d) p] := by
  simp only [post, postAt, modCtx, ctxOf_setCtx, if_neg (Nat.not_le.mpr room)]

/-- An increment of an object that is not declared is dropped. -/
theorem syncAdd_undeclared {d : Dev} {o : Nat} (undeclared : (syncOf d o).declared = false) (i ctx blame : Nat) (c : Cause)
    (op idx : Nat) : syncAdd d o i ctx blame c op idx = d := by
  simp [syncAdd, undeclared]

/-- An increment saturates the counter, ends the hold of the context that makes it, and posts a FAULT where it overflows (R251,
R253). -/
theorem syncAdd_declared {d : Dev} {o : Nat} (declared : (syncOf d o).declared = true) (i ctx blame : Nat) (c : Cause)
    (op idx : Nat) :
    let added := setSync d o { syncOf d o with
      value := min ((syncOf d o).value + i) (2 ^ 64 - 1)
      holder := if (syncOf d o).holder = some ctx then none else (syncOf d o).holder }
    syncAdd d o i ctx blame c op idx =
      if 2 ^ 64 ≤ (syncOf d o).value + i then postFault added blame c 0x0806 op idx 0 else added := by
  simp [syncAdd, declared]

theorem syncOf_syncAdd_value {d : Dev} {o : Nat} (declared : (syncOf d o).declared = true) (i ctx blame : Nat) (c : Cause)
    (op idx : Nat) :
    (syncOf (syncAdd d o i ctx blame c op idx) o).value = min ((syncOf d o).value + i) (2 ^ 64 - 1) := by
  rw [syncAdd_declared declared]
  split
  · rw [postFault, syncOf_post, syncOf_setSync]
  · rw [syncOf_setSync]

theorem syncOf_syncAdd_ne (d : Dev) {o k : Nat} (other : k ≠ o) (i ctx blame : Nat) (c : Cause) (op idx : Nat) :
    syncOf (syncAdd d o i ctx blame c op idx) k = syncOf d k := by
  cases declared : (syncOf d o).declared
  case false => rw [syncAdd_undeclared declared]
  case true =>
    rw [syncAdd_declared declared]
    split
    · rw [postFault, syncOf_post, syncOf_setSync_ne d _ other]
    · rw [syncOf_setSync_ne d _ other]

@[simp] theorem queueOf_syncAdd (d : Dev) (o i ctx blame : Nat) (c : Cause) (op idx k : Nat) :
    queueOf (syncAdd d o i ctx blame c op idx) k = queueOf d k := by
  cases declared : (syncOf d o).declared
  case false => rw [syncAdd_undeclared declared]
  case true =>
    rw [syncAdd_declared declared]
    split
    · rfl
    · rfl

/-! ### The head moves past its descriptor -/

theorem queueOf_advance_head (d : Dev) (q : Nat) : (queueOf (advance d q) q).head = ((queueOf d q).head + 1) % 2 ^ 32 := by
  simp only [advance, modQueue, queueOf_setQueue]

theorem queueOf_advance_ne (d : Dev) {k q : Nat} (other : k ≠ q) : queueOf (advance d q) k = queueOf d k :=
  queueOf_setQueue_ne d _ other

/-! ### The end of a descriptor -/

@[simp] theorem queueOf_endDesc (d : Dev) (ctx q idx : Nat) (x : Desc) (k : Nat) :
    queueOf (endDesc d ctx q idx x) k = queueOf d k := by
  simp only [endDesc]
  split <;> split <;> simp only [queueOf_post, queueOf_syncAdd]

section
variable {x : Desc} {d : Dev}

/-- The COMPLETE event leaves the objects; they are what the SIGNAL leaves (R251, R259). -/
theorem syncOf_endDesc (d : Dev) (ctx q idx : Nat) (x : Desc) (o : Nat) :
    syncOf (endDesc d ctx q idx x) o =
      syncOf (if hSignalEn x then syncAdd d (hSignalObj x) (hSignalInc x) ctx ctx ⟨hTag x, q⟩ (hOpcode x) idx else d) o := by
  simp only [endDesc]
  split
  · rw [syncOf_post]
  · rfl

theorem syncOf_endDesc_signal (signals : hSignalEn x = true) (declared : (syncOf d (hSignalObj x)).declared = true)
    (ctx q idx : Nat) : (syncOf (endDesc d ctx q idx x) (hSignalObj x)).value =
      min ((syncOf d (hSignalObj x)).value + hSignalInc x) (2 ^ 64 - 1) := by
  rw [syncOf_endDesc, if_pos signals, syncOf_syncAdd_value declared]

theorem syncOf_endDesc_other {o : Nat} (other : ¬ (hSignalEn x = true ∧ o = hSignalObj x)) (ctx q idx : Nat) :
    syncOf (endDesc d ctx q idx x) o = syncOf d o := by
  rw [syncOf_endDesc]
  by_cases signals : hSignalEn x = true
  · rw [if_pos signals, syncOf_syncAdd_ne d fun same => other ⟨signals, same⟩]
  · rw [if_neg signals]

theorem endDesc_event (silent : hSignalEn x = false) (event : hEvent x = true) (ctx q idx : Nat) :
    endDesc d ctx q idx x = post d ctx 0x0001 ⟨hTag x, q⟩ (leBytes 2 (hOpcode x) ++ zeros 2 ++ leBytes 4 idx) := by
  simp [endDesc, silent, event]

theorem endDesc_quiet (silent : hSignalEn x = false) (noEvent : hEvent x = false) (ctx q idx : Nat) :
    endDesc d ctx q idx x = d := by
  simp [endDesc, silent, noEvent]

end

/-! ### The way back across the haul road -/

theorem onSignalDie_advance (d : Dev) (q : Nat) (x : Desc) : onSignalDie (advance d q) x = onSignalDie d x := rfl
theorem canCross_advance (d : Dev) (q : Nat) (dir : Dir) (lc : Bool) : canCross (advance d q) dir lc = canCross d dir lc := rfl

theorem roadOf_setRoad (d : Dev) (dir : Dir) (x : RoadDir) : roadOf (setRoad d dir x) dir = x := by cases dir <;> rfl

/-- A road with lanes in service takes a flit to the end of those that wait. -/
theorem roadOf_enqueue {d : Dev} (serves : roadDown d = false) (dir : Dir) (lc : Bool) (p : Payload) :
    roadOf (enqueue d dir lc p) dir = { roadOf d dir with wait := (roadOf d dir).wait ++ [newFlit lc p] } := by
  simp [enqueue, serves, roadOf_setRoad]

section
variable {d : Dev} {h : Head}

theorem completeHead_tensorDie (tensor : onSignalDie d h.desc = false) :
    completeHead d h = endDesc (advance d h.q) h.ctx h.q h.idx h.desc := by
  simp [completeHead, finishDesc, onSignalDie_advance, tensor]

theorem completeHead_crosses (signal : onSignalDie d h.desc = true) (crosses : canCross d .st (hClass h.desc == 1) = true) :
    completeHead d h =
      endDesc (crossFlit (advance d h.q) .st (hClass h.desc == 1) (.complete h.ctx h.q h.idx h.desc)) h.ctx h.q h.idx h.desc := by
  simp [completeHead, finishDesc, onSignalDie_advance, canCross_advance, signal, crosses]

theorem completeHead_waits (signal : onSignalDie d h.desc = true) (stopped : canCross d .st (hClass h.desc == 1) = false) :
    completeHead d h = enqueue (advance d h.q) .st (hClass h.desc == 1) (.complete h.ctx h.q h.idx h.desc) := by
  simp [completeHead, finishDesc, onSignalDie_advance, canCross_advance, signal, stopped]

/-- A completion that need not wait for the road ends the descriptor on a device whose dispatcher has moved past it. -/
theorem completeHead_comes (comes : onSignalDie d h.desc = false ∨ canCross d .st (hClass h.desc == 1) = true) :
    ∃ e, completeHead d h = endDesc e h.ctx h.q h.idx h.desc ∧ e.disp = (advance d h.q).disp ∧ e.time = d.time := by
  cases signal : onSignalDie d h.desc
  case false => exact ⟨_, completeHead_tensorDie signal, rfl, rfl⟩
  case true =>
    have crosses := comes.resolve_left (by simp [signal])
    exact ⟨_, completeHead_crosses signal crosses, crossFlit_disp .., crossFlit_time ..⟩

/-- Whether it waits for the road or not, a completion leaves every queue as the head's advance does. -/
theorem queueOf_completeHead (d : Dev) (h : Head) (k : Nat) : queueOf (completeHead d h) k = queueOf (advance d h.q) k := by
  by_cases comes : onSignalDie d h.desc = false ∨ canCross d .st (hClass h.desc == 1) = true
  · obtain ⟨e, ends, disp, -⟩ := completeHead_comes comes
    rw [ends, queueOf_endDesc, queueOf, disp, ← queueOf]
  · obtain ⟨signal, stopped⟩ := not_or.mp comes
    rw [completeHead_waits (eq_true_of_ne_false signal) (eq_false_of_ne_true stopped), queueOf, enqueue_disp,
      ← queueOf]

end

/-! ### The statement -/

/-- Settles O27: by where the descriptor's engine is, and by whether its end can cross the haul road. -/
theorem completionSignals : Obligations.CompletionSignals := by
  unfold Obligations.CompletionSignals
  intro d h x e lc comes
  refine ⟨completeHead_mem d h, completeHead_haul_rings d h, completeHead_time d h, ?moves, ?others, ?waits, ?tensor, ?ends,
    ?arrives⟩
  case moves => rw [queueOf_completeHead, queueOf_advance_head]
  case others =>
    intro k other
    rw [queueOf_completeHead, queueOf_advance_ne d other]
  case waits =>
    intro signal stopped
    have queued : e = enqueue (advance d h.q) .st lc (.complete h.ctx h.q h.idx x) := completeHead_waits signal stopped
    refine ⟨queued, by rw [queued, enqueue_disp], fun serves => ?_⟩
    rw [queued]
    exact roadOf_enqueue (d := advance d h.q) serves .st lc _
  case tensor =>
    intro tensor
    have ended : e = endDesc (advance d h.q) h.ctx h.q h.idx x := completeHead_tensorDie tensor
    rw [ended, endDesc_haul]
    rfl
  case ends =>
    intro crosses
    obtain ⟨b, ended, disp, time⟩ : ∃ b, e = endDesc b h.ctx h.q h.idx x ∧ b.disp = (advance d h.q).disp ∧ b.time = d.time :=
      completeHead_comes crosses
    have syncs (o : Nat) : syncOf b o = syncOf d o := by rw [syncOf, disp]; rfl
    have ctx : ctxOf b h.ctx = ctxOf d h.ctx := by rw [ctxOf, disp]; rfl
    have tick : now b = now d := by rw [now, time]; rfl
    rw [ended]
    refine ⟨?signal, ?objects, ?event, ?quiet⟩
    case signal =>
      intro signals declared
      rw [← syncs] at declared ⊢
      exact syncOf_endDesc_signal signals declared ..
    case objects =>
      intro o other
      rw [syncOf_endDesc_other other, syncs]
    case event =>
      intro silent event room
      rw [← ctx] at room ⊢
      rw [endDesc_event silent event, evs_post room, tick]
    case quiet =>
      intro silent noEvent
      rw [endDesc_quiet silent noEvent, ctx]
  case arrives =>
    intro p
    cases p <;> rfl

end Sys2Proof.Machine
end

section
/-!
SUPPORT. Proof of the statement on the transitions of a context (R95, R229 to R232, R277).
-/
namespace Sys2Proof.Machine
open Sys2Proof

/-! ### What a request to a context is checked for -/

/-- What context `n` may be asked for, where it is in the state the transition leaves from (R229 to R232); a request for the state
it holds is allowed but for STOPPING, which cannot be requested (R95). -/
inductive CtxMayAsk (d : Dev) (n : Nat) : Nat → Prop
  | held {r : Nat} (held : (ctxOf d n).reg.st = r) (named : r ≤ ctxActive) : CtxMayAsk d n r
  | create (free : (ctxOf d n).reg.st = ctxFree)
      (apart : queuesOverlap d n (ctxOf d n).qbase (ctxOf d n).qcount = false) : CtxMayAsk d n ctxStopped
  | activate (stopped : (ctxOf d n).reg.st = ctxStopped) (runs : inLockstep d n = false ∨ d.ls.state < 3) : CtxMayAsk d n ctxActive
  | stop (active : (ctxOf d n).reg.st = ctxActive) : CtxMayAsk d n ctxStopped
  | destroy (stopped : (ctxOf d n).reg.st = ctxStopped) : CtxMayAsk d n ctxFree

theorem ctxRule_check_none {s : State} {f : DictFrame} {n r : Nat} (idle : s.dev.test.running = none)
    (asked : asks f (ctxOf s.dev n).reg r) (may : CtxMayAsk s.dev n r) : ctxRule.check s n f.payload = none := by
  have small : r ≤ 2 := by
    cases may with
    | held held named => exact named
    | _ => decide
  simp only [ctxRule]
  refine requestCheck_none asked (by omega) (by omega) rfl ?_
  cases may with
  | held held named => exact .inl ⟨held.symm, decide_eq_true named⟩
  | create free apart => exact .inr (by simp [firstFail, free, apart, testIn_idle idle, ctxStopped, ctxFree])
  | activate stopped runs =>
    have no_conflict : (inLockstep s.dev n && decide (3 ≤ s.dev.ls.state)) = false := by
      obtain alone | early := runs
      · rw [alone, Bool.false_and]
      · rw [decide_eq_false (Nat.not_le.mpr early), Bool.and_false]
    exact .inr (by simp [firstFail, stopped, no_conflict, ctxStopped, ctxActive])
  | stop active => exact .inr (by simp [firstFail, active, ctxStopped, ctxActive])
  | destroy stopped => exact .inr (by simp [firstFail, stopped, ctxStopped, ctxFree])

/-! ### What a request to a context comes to -/

section
variable (s : State) {n : Nat} {v : Bytes}

theorem ctxRule_apply_held (held : requested v = (ctxOf s.dev n).reg.st) : ctxRule.apply s n v = s := by
  simp [ctxRule, onDevice, held]

theorem ctxRule_apply_create (free : (ctxOf s.dev n).reg.st = ctxFree) (asked : requested v = ctxStopped) :
    ctxRule.apply s n v = { s with dev := ctxCreate s.dev n } := by
  simp [ctxRule, onDevice, free, asked, ctxFree, ctxStopped]

theorem ctxRule_apply_activate (stopped : (ctxOf s.dev n).reg.st = ctxStopped) (asked : requested v = ctxActive) :
    ctxRule.apply s n v = { s with dev := ctxActivate s.dev n } := by
  simp [ctxRule, onDevice, stopped, asked, ctxActive, ctxStopped]

theorem ctxRule_apply_stop (active : (ctxOf s.dev n).reg.st = ctxActive) (asked : requested v = ctxStopped) :
    ctxRule.apply s n v =
      { s with dev := setCtx s.dev n { ctxOf s.dev n with reg := genTo (ctxOf s.dev n).reg ctxStopping } } := by
  simp [ctxRule, onDevice, active, asked, ctxActive, ctxStopped, modCtx]

theorem ctxRule_apply_destroy (stopped : (ctxOf s.dev n).reg.st = ctxStopped) (asked : requested v = ctxFree) :
    ctxRule.apply s n v = { s with dev := ctxDestroy s.dev n } := by
  simp [ctxRule, onDevice, stopped, asked, ctxFree, ctxStopped]

end

/-- A context that becomes ACTIVE; the context of an armed lock-step begins to number its LAYERs (R277). -/
theorem ctxActivate_eq (d : Dev) (n : Nat) :
    let a := setCtx d n { ctxOf d n with reg := genTo (ctxOf d n).reg ctxActive }
    ctxActivate d n = if inLockstep d n = true ∧ d.ls.state = 1 then { a with ls := { d.ls with state := 2, lseq := 0 } } else a := by
  intro a
  have lockstep : inLockstep a n = inLockstep d n := rfl
  have same : ctxActivate d n = if inLockstep a n && decide (a.ls.state = 1) then { a with ls := { a.ls with state := 2, lseq := 0 } }
      else a := rfl
  rw [same, lockstep]
  simp only [Bool.and_eq_true, decide_eq_true_eq]
  rfl

@[simp] theorem inLockstep_mgmtCross (d : Dev) (f : DictFrame) (n : Nat) : inLockstep (mgmtCross d f) n = inLockstep d n := by
  simp only [inLockstep, mgmtCross_ls]

/-! ### The end of a context's work -/

/-- Something of the context is issued or parked (R231). -/
theorem any_ops_iff (d : Dev) (n : Nat) : (d.disp.ops.any fun o => o.2.ctx == n) = true ↔ ∃ o ∈ d.disp.ops, o.2.ctx = n := by
  simp only [List.any_eq_true, beq_iff_eq]

theorem ctxStoppedNow_stops {d : Dev} {n : Nat} (stopping : (ctxOf d n).reg.st = ctxStopping)
    (still : ∀ o ∈ d.disp.ops, o.2.ctx ≠ n) :
    ctxStoppedNow d n = setCtx d n { ctxOf d n with reg := genTo (ctxOf d n).reg ctxStopped } := by
  have none_left : (d.disp.ops.any fun o => o.2.ctx == n) = false :=
    Bool.eq_false_iff.mpr fun left => by
      obtain ⟨o, listed, mine⟩ := (any_ops_iff d n).mp left
      exact still o listed mine
  rw [ctxStoppedNow, if_pos (by simp [stopping, none_left]), modCtx]

theorem ctxStoppedNow_waits {d : Dev} {n : Nat} (waits : (ctxOf d n).reg.st ≠ ctxStopping ∨ ∃ o ∈ d.disp.ops, o.2.ctx = n) :
    ctxStoppedNow d n = d := by
  rw [ctxStoppedNow, if_neg]
  rw [Bool.and_eq_true, decide_eq_true_eq, Bool.not_eq_true']
  rintro ⟨stopping, none_left⟩
  obtain other | left := waits
  · exact other stopping
  · exact Bool.eq_false_iff.mp none_left ((any_ops_iff d n).mpr left)

theorem does_contextStopped {s : State} {n : Nat} {d : Dev} (unit : n < 64) (left : ctxStoppedNow s.dev n = d) :
    Does (.contextStopped n) s d := by
  have runs : exec (.contextStopped n) s = runDev (n < 64) s fun d => ctxStoppedNow d n := rfl
  rw [Does, runs, runDev_next _ _ (decide_eq_true unit), left]

/-! ### What the commands of the requests do -/

section
variable {s : State} {f : DictFrame} {d e : Dev} {x : Session} {n r : Nat} (idle : d.test.running = none)
  (writes : Writes s f d x 0x5602 n) (asked : asks f (ctxOf d n).reg r) (may : CtxMayAsk d n r)
  (left : ctxRule.apply { s with dev := mgmtCross d f } n f.payload = { s with dev := e })
include idle writes asked may left

/-- A command that serves the request leaves what the rule of the context's state comes to. -/
theorem writeDoes_context {c : Instr} {mine : Bool} (row : exec c s = dictRow s f mine (opWrite ctxRule)) (own : mine = true) :
    WriteDoes c s f x e :=
  writeDoes_of_rule writes row own (ctxRule_check_none (s := { s with dev := d }) idle asked may) left

theorem writeDoes_contextActivate (to_active : r = ctxActive) : WriteDoes (.contextActivate f) s f x e := by
  subst to_active
  exact writeDoes_context idle writes asked may left rfl
    (by rw [writesTo_of_writes writes, requested_of_asks asked (by decide)]; rfl)

theorem writeDoes_contextDestroy (to_free : r = ctxFree) : WriteDoes (.contextDestroy f) s f x e := by
  subst to_free
  exact writeDoes_context idle writes asked may left rfl
    (by rw [writesTo_of_writes writes, requested_of_asks asked (by decide)]; rfl)

variable (sub : f.sub - 1 = n) (same : (ctxOf s.dev n).reg = (ctxOf d n).reg) (to_stopped : r = ctxStopped)
include sub same to_stopped

theorem writeDoes_contextCreate (free : (ctxOf d n).reg.st = ctxFree) : WriteDoes (.contextCreate f) s f x e := by
  subst to_stopped
  exact writeDoes_context idle writes asked may left rfl
    (by rw [writesTo_of_writes writes, requested_of_asks asked (by decide), sub, same, free]; rfl)

theorem writeDoes_contextStop (held : (ctxOf d n).reg.st ≠ ctxFree) : WriteDoes (.contextStop f) s f x e := by
  subst to_stopped
  have not_free : ((ctxOf d n).reg.st == ctxFree) = false := beq_false_of_ne held
  exact writeDoes_context idle writes asked may left rfl
    (by rw [writesTo_of_writes writes, requested_of_asks asked (by decide), sub, same, not_free]; rfl)

end

/-! ### The statement -/

/-- Settles O20: each request by the state the context holds, and the end of its work by what is issued or parked. -/
theorem contextStates : Obligations.ContextStates := by
  unfold Obligations.ContextStates
  refine ⟨?requests, ?stopped, ?waits⟩
  case requests =>
    intro s f d x n idle sub same writes m
    have ctx : ctxOf m n = ctxOf d n := ctxOf_mgmtCross d f n
    have held {r : Nat} (asked : asks f (ctxOf d n).reg r) (nibble : r < 16) (holds : (ctxOf d n).reg.st = r) :
        ctxRule.apply { s with dev := m } n f.payload = { s with dev := m } :=
      ctxRule_apply_held _ (by rw [requested_of_asks asked nibble, ctx, holds])
    refine ⟨?create, ?activate, ?stop, ?destroy, ?stopHeld, ?activeHeld, ?freeHeld⟩
    case create =>
      intro asked free apart
      refine writeDoes_contextCreate idle writes asked (.create free apart) ?_ sub same rfl free
      rw [ctxRule_apply_create _ (by rw [ctx, free]) (requested_of_asks asked (by decide)), ctxCreate, ctx]
    case activate =>
      intro asked stopped runs
      refine writeDoes_contextActivate idle writes asked (.activate stopped runs) ?_ rfl
      rw [ctxRule_apply_activate _ (by rw [ctx, stopped]) (requested_of_asks asked (by decide)), ctxActivate_eq, ctx,
        inLockstep_mgmtCross, mgmtCross_ls]
    case stop =>
      intro asked active
      refine writeDoes_contextStop idle writes asked (.stop active) ?_ sub same rfl (by rw [active]; decide)
      rw [ctxRule_apply_stop _ (by rw [ctx, active]) (requested_of_asks asked (by decide)), ctx]
    case destroy =>
      intro asked stopped
      exact writeDoes_contextDestroy idle writes asked (.destroy stopped)
        (ctxRule_apply_destroy _ (by rw [ctx, stopped]) (requested_of_asks asked (by decide))) rfl
    case stopHeld =>
      intro asked stopped
      exact writeDoes_contextStop idle writes asked (.held stopped (by decide)) (held asked (by decide) stopped) sub same rfl
        (by rw [stopped]; decide)
    case activeHeld =>
      intro asked active
      exact writeDoes_contextActivate idle writes asked (.held active (by decide)) (held asked (by decide) active) rfl
    case freeHeld =>
      intro asked free
      exact writeDoes_contextDestroy idle writes asked (.held free (by decide)) (held asked (by decide) free) rfl
  case stopped => exact fun s n unit stopping still => does_contextStopped unit (ctxStoppedNow_stops stopping still)
  case waits => exact fun s n unit waits => does_contextStopped unit (ctxStoppedNow_waits waits)

end Sys2Proof.Machine
end

section
/-!
SUPPORT. Proof of the statement on SYNC, FENCE and LAUNCH_AT (R248 to R253, R255, R256, R510). The event of a WAIT past its deadline
is `WAIT_TIMEOUT` of R252 and R259; no COMPLETE event follows it (log entry 32).
-/
namespace Sys2Proof.Machine
open Sys2Proof

/-! ### Heads that the dispatcher serves by itself -/

/-- SYNC, FENCE and LAUNCH_AT do not cross the haul road (R16). -/
theorem sendDesc_dispatcher (d : Dev) {h : Head} (own : hOpcode h.desc ≤ 0x03) : sendDesc d h = d := by
  have signal : onSignalDie d h.desc = false := by
    have low : ¬ 0x80 ≤ hOpcode h.desc := by omega
    have no_move : hOpcode h.desc ≠ 0x40 := by omega
    simp [onSignalDie, low, no_move]
  simp [sendDesc, signal]

theorem firstReason_none {a b : Option Nat} (first : a = none) (second : b = none) : firstReason a b = none := by
  rw [first, second]
  rfl

theorem reasonIf_none {b : Bool} (passes : b = false) (r : Nat) : reasonIf b r = none := by
  rw [passes]
  rfl

section
variable {s : State} {q : Nat} {h : Head} {c : Instr} (ready : HeadReady s.dev q h 0x0801)
include ready

/-- A ready head of the dispatcher's own is carried out on the device as it is. -/
theorem does_ownHead {f : Family} (runs : exec c s = runHead s q f) (opcode : hOpcode h.desc = f.op) (own : f.op ≤ 0x03)
    (known : opcodes.contains f.op = true) (invalid : f.invalid = 0x0801) (sub : f.sub h.desc = true)
    (check : f.check s.dev h = none) (now : f.ready s.dev h = true) : Does c s (f.run s.dev h) := by
  have does := does_runHead runs known (invalid ▸ ready) opcode sub check now
  rwa [sendDesc_dispatcher s.dev (opcode ▸ own)] at does

variable (opcode : hOpcode h.desc = 0x01) (reserved : syReserved h.desc = false)
include opcode reserved

/-- A SYNC whose object passes its operation's checks changes the object so, and completes (R249). -/
theorem does_sync {op : Nat} {check : Dev → Head → Option Nat} {goes : Dev → Head → Bool} {run : Dev → Head → Dev} {d : Dev}
    (runs : exec c s = runHead s q (syFamily op check goes run)) (asked : syOp h.desc = op) (known : 1 ≤ op ∧ op ≤ 6)
    (passes : check s.dev h = none) (now : goes s.dev h = true) (left : run s.dev h = d) : Does c s (completeHead d h) := by
  obtain ⟨low, high⟩ := known
  have good : syBadOp h.desc = false := by
    rw [syBadOp, asked, decide_eq_false (Nat.not_lt.mpr high), Bool.or_false]
    exact beq_false_of_ne (Nat.ne_of_gt low)
  subst left
  exact does_ownHead (f := syFamily op check goes run) ready runs opcode (show 0x01 ≤ 0x03 by decide) rfl rfl
    (by simp [syFamily, asked]) (firstReason_none (by rw [good, reserved]; rfl) passes) now

/-- A WAIT past its deadline is timed out (R252). -/
theorem does_waitTimeout (asked : syOp h.desc = 3) (passes : waitReason s.dev h = none) (late : waitLate s.dev h = true) :
    Does (.waitTimeout q) s (timeOut s.dev h) :=
  does_ownHead (f := famTimeout) ready rfl opcode (by decide) (by decide) rfl (by simp [famTimeout, asked])
    (firstReason_none (by rw [reserved]; rfl) passes) late

end

/-! ### The state of a WAIT -/

section
variable {d : Dev} {h : Head}

theorem waitLate_of_mark (limited : syDeadline h.desc ≠ 0) (marked : (queueOf d h.q).mark ≠ none) : waitLate d h = true := by
  simp [waitLate, limited, Option.isSome_iff_ne_none.mpr marked]

theorem waitLate_of_deadline (limited : syDeadline h.desc ≠ 0) (past : syDeadline h.desc < now d)
    (unmet : (syncOf d (syObj h.desc)).value < syValue h.desc) : waitLate d h = true := by
  simp [waitLate, limited, past, unmet]

theorem waitLate_met (unmarked : (queueOf d h.q).mark = none) (met : syValue h.desc ≤ (syncOf d (syObj h.desc)).value) :
    waitLate d h = false := by
  simp [waitLate, unmarked, Nat.not_lt.mpr met]

/-- The timeout of a WAIT, with the event noted on the queue that goes on (R252). -/
theorem timeOut_noted (d : Dev) (h : Head) :
    let cause : Cause := ⟨hTag h.desc, h.q⟩
    let noted := post (advance d h.q) h.ctx 0x000C cause (leBytes 2 (syObj h.desc) ++ zeros 6 ++ leBytes 8 (syDeadline h.desc))
    timeOut d h = if syToEn h.desc then
        syncAdd noted (syToObj h.desc) (syToInc h.desc) h.ctx h.ctx cause (hOpcode h.desc) h.idx
      else noted := rfl

/-! ### Covers and launches -/

/-- A cover that has been taken is kept (R255). -/
theorem armCover_armed {q : Nat} {cover : List Nat} (armed : (queueOf d q).cover = some cover) : armCover d q = d := by
  simp only [armCover, armed, Option.isNone_some, Bool.and_false, Bool.false_and, Bool.false_eq_true, if_false]
  split <;> rfl

theorem launch_onTime (due : dfield h.desc 24 0 64 = now d) : launch d h = completeHead d h := by
  simp [launch, due]

theorem launch_late (late : dfield h.desc 24 0 64 < now d) :
    let noted := post d h.ctx 0x000D ⟨hTag h.desc, h.q⟩ (zeros 8 ++ leBytes 8 (dfield h.desc 24 0 64))
    launch d h = completeHead { noted with disp := { noted.disp with lateLaunches := satAdd 32 d.disp.lateLaunches 1 } } h := by
  simp only [launch, late, if_true]
  rfl

end

/-! ### FENCE and LAUNCH_AT -/

section
variable {s : State} {q : Nat} {h : Head} (ready : HeadReady s.dev q h 0x0801)
include ready

theorem does_fence (opcode : hOpcode h.desc = 0x02) (scope : dfield h.desc 24 0 8 = 1 ∨ dfield h.desc 24 0 8 = 2)
    (reserved : dfield h.desc 25 0 312 = 0) (ended : (queueOf s.dev q).cover = some []) : Does (.fence q) s (completeHead s.dev h) := by
  have carried := (carriesHead_coverRow s ready.queue (.fence q, famFence) List.mem_cons_self).does
  have passes : famFence.check s.dev h = none := reasonIf_none (by obtain scope | scope := scope <;> simp [scope, reserved]) _
  have covered : famFence.ready s.dev h = true := by simp [famFence, headOf_q ready.head, ended]
  rw [armCover_armed ended] at carried
  refine does_congr ?_ carried
  rw [withHead_run famFence ready opcode (by decide) rfl passes covered, sendDesc_dispatcher s.dev (by omega)]
  rfl

theorem does_launchAt (opcode : hOpcode h.desc = 0x03) (reserved : dfield h.desc 32 0 256 = 0)
    (due : dfield h.desc 24 0 64 ≤ now s.dev) (runs : dfield h.desc 24 0 64 = now s.dev ∨ inLockstep s.dev h.ctx = false) :
    Does (.launchAt q) s (launch s.dev h) := by
  have allowed : (decide (dfield h.desc 24 0 64 < now s.dev) && inLockstep s.dev h.ctx) = false := by
    obtain onTime | alone := runs
    · rw [decide_eq_false (by omega), Bool.false_and]
    · rw [alone, Bool.and_false]
  exact does_ownHead (f := famLaunch) ready rfl opcode (by decide) (by decide) rfl rfl
    (firstReason_none (reasonIf_none (by simp [reserved]) _) (reasonIf_none allowed _)) (decide_eq_true due)

end

/-! ### The statement -/

/-- Settles O26: each SYNC by its operation's family, a WAIT by whether it is late, and a LAUNCH_AT by whether its count has passed. -/
theorem syncObjects : Obligations.SyncObjects := by
  unfold Obligations.SyncObjects
  refine ⟨?sync, ?covers⟩
  case sync =>
    intro s q h ready opcode reserved
    dsimp only
    have queue : h.q = q := headOf_q ready.head
    refine ⟨?declare, ?set, ?wait, ?hold, ?release, ?notHeld, ?undeclare, ?late⟩
    case declare =>
      intro asked cls fresh
      exact does_sync ready opcode reserved rfl asked (by decide)
        (reasonIf_none (by simp [cls, fresh]) _) rfl rfl
    case set =>
      intro asked passes
      exact does_sync ready opcode reserved rfl asked (by decide) passes rfl rfl
    case wait =>
      intro asked passes unmarked met
      have onTime : waitLate s.dev h = false := waitLate_met (by rw [queue]; exact unmarked) met
      exact does_sync ready opcode reserved rfl asked (by decide) passes
        (by rw [onTime]; exact decide_eq_true met) rfl
    case hold =>
      intro asked passes free
      exact does_sync ready opcode reserved rfl asked (by decide) passes (by simpa using free) rfl
    case release =>
      intro asked passes holds
      exact does_sync ready opcode reserved rfl asked (by decide) passes rfl (if_pos holds)
    case notHeld =>
      intro asked passes other
      exact does_sync ready opcode reserved rfl asked (by decide) passes rfl (if_neg other)
    case undeclare =>
      intro asked declared owner unused
      refine does_sync ready opcode reserved rfl asked (by decide) ?_ rfl rfl
      simp [reasonIf, declared, owner, queue, unused]
    case late =>
      intro asked passes limited past
      have late : waitLate s.dev h = true := by
        obtain marked | ⟨deadline, unmet⟩ := past
        · exact waitLate_of_mark limited (by rw [queue]; exact marked)
        · exact waitLate_of_deadline limited deadline unmet
      have times := does_waitTimeout ready opcode reserved asked passes late
      rw [timeOut_noted, queue] at times
      exact ⟨fun no_inc => does_congr (if_neg (by rw [no_inc]; decide)) times, fun inc => does_congr (if_pos inc) times⟩
  case covers =>
    intro s q h ready d x
    have queue : h.q = q := headOf_q ready.head
    refine ⟨?fence, ?onTime, ?past⟩
    case fence => exact does_fence ready
    case onTime =>
      intro opcode reserved due
      exact does_congr (launch_onTime due) (does_launchAt ready opcode reserved (Nat.le_of_eq due) (.inl due))
    case past =>
      intro opcode reserved late alone
      have launched := does_congr (launch_late late) (does_launchAt ready opcode reserved (Nat.le_of_lt late) (.inr alone))
      rwa [queue] at launched

end Sys2Proof.Machine
end

section
/-!
SUPPORT. Proof of the statement on reservations and revoked graphs (R240, R243 to R245, R345).
-/
namespace Sys2Proof.Machine
open Sys2Proof

/-! ### A reservation opens -/

/-- The graph's window that begins at `t` has reservations: it is admitted, or was revoked within that window (R240, R244). -/
def windowsOpen (x : Graph) (t : Nat) : Prop := x.st = 1 ∨ (x.st = 3 ∧ ∃ r, x.revokedIn = some r ∧ windowAt x.rcd r = some t)

theorem openingNow_window {d : Dev} {g k t : Nat} (opens : windowsOpen (graphOf d g) t) (used : 0 < gCount (graphOf d g).rcd k)
    (window : windowAt (graphOf d g).rcd t = some t) (admitted : (graphOf d g).admitAt + 8000 < t)
    (due : now d = t + gStart (graphOf d g).rcd k) : openingNow d g k = some t := by
  have start : now d - gStart (graphOf d g).rcd k = t := by omega
  have reached : ¬ now d < gStart (graphOf d g).rcd k := by omega
  have some_used : gCount (graphOf d g).rcd k ≠ 0 := by omega
  obtain active | ⟨revoked, r, last, same⟩ := opens
  · simp [openingNow, start, reached, some_used, window, active, admitted]
  · simp [openingNow, start, reached, some_used, window, revoked, last, same, admitted]

/-- Reservation `r` is that of window `t` of the graph for engine kind `k`. -/
theorem any_resv_iff (d : Dev) (g k t : Nat) : (d.disp.resv.any fun r => r.graph == g && r.kind == k && r.window == t) = true ↔
    ∃ r ∈ d.disp.resv, r.graph = g ∧ r.kind = k ∧ r.window = t := by
  simp only [List.any_eq_true, Bool.and_eq_true, beq_iff_eq, and_assoc]

theorem reservationOpen_idle {d : Dev} {g k : Nat}
    (open_already : ∀ t, openingNow d g k = some t → ∃ r ∈ d.disp.resv, r.graph = g ∧ r.kind = k ∧ r.window = t) :
    reservationOpen d g k = d := by
  cases opening : openingNow d g k with
  | none => simp only [reservationOpen, opening]
  | some t =>
    have listed := (any_resv_iff d g k t).mpr (open_already t opening)
    simp only [reservationOpen, opening, listed, if_true]

theorem reservationOpen_opens {d : Dev} {g k t : Nat} (opening : openingNow d g k = some t)
    (fresh : ∀ r ∈ d.disp.resv, ¬ (r.graph = g ∧ r.kind = k ∧ r.window = t)) :
    let es := (lget [] (placeIn (graphOf d g) t) k).filter (engineReady d.comp.bench d.sc.pairs k)
    reservationOpen d g k =
      sendPreempts { d with disp := { d.disp with resv := d.disp.resv ++ [⟨g, k, t, now d + gRho (graphOf d g).rcd k, es⟩] } } k es := by
  have unlisted : ¬ (d.disp.resv.any fun r => r.graph == g && r.kind == k && r.window == t) = true := fun listed => by
    obtain ⟨r, there, mine⟩ := (any_resv_iff d g k t).mp listed
    exact fresh r there mine
  simp only [reservationOpen, opening, if_neg unlisted]

/-- Only programs on signal cores are asked to leave (R345). -/
theorem sendPreempts_tensorDie (d : Dev) {k : Nat} (tensor : k ≠ 3) (es : List Nat) : sendPreempts d k es = d := if_pos tensor

/-! ### A reservation ends -/

/-- The operations of the graph that still run on engines of kind `k` (R243). -/
def lateOps (d : Dev) (g k : Nat) : List (Nat × Op) :=
  d.disp.ops.filter fun o => o.2.lc && o.2.graph == g && kindNo o.2.kind == some k && !(inPlace o.2).isEmpty

/-- The device with the operations that run past the reservation parked, each engine's overrun posted (R243). -/
def overrun (d : Dev) (g k : Nat) : Dev := ((lateOps d g k).foldl (overrunOp g k) (d, [])).1

/-- The device with the operations that run past reservation `r` parked and the reservation ended. -/
def resvEnded (d : Dev) (g k : Nat) (r : Resv) : Dev :=
  let past := overrun d g k
  { past with disp := { past.disp with resv := past.disp.resv.filter fun y => y != r } }

/-- Parking the operations past a reservation keeps what posting and parking keep. -/
theorem overrunOps_keep {β : Type} (p : Dev → β) (posts : ∀ d ctx code c b, p (post d ctx code c b) = p d)
    (parks : ∀ d id o us, p (parkOp d id o us) = p d) (g k : Nat) (os : List (Nat × Op)) (a : Dev × List Nat) :
    p (os.foldl (overrunOp g k) a).1 = p a.1 := by
  induction os generalizing a with
  | nil => rfl
  | cons o os ih =>
    rw [List.foldl_cons, ih, overrunOp, parks]
    exact foldl_keeps p (fun d u => posts ..) _ a.1

theorem graphOf_resvEnded (d : Dev) (g k : Nat) (r : Resv) (n : Nat) : graphOf (resvEnded d g k r) n = graphOf d n :=
  overrunOps_keep (fun d => graphOf d n) (fun _ _ _ _ _ => rfl) (fun _ _ _ _ => rfl) g k _ _

theorem now_resvEnded (d : Dev) (g k : Nat) (r : Resv) : now (resvEnded d g k r) = now d :=
  overrunOps_keep now (fun _ _ _ _ _ => rfl) (fun _ _ _ _ => rfl) g k _ _

section
variable {d : Dev} {g k : Nat} {r : Resv}

theorem reservationEnd_none (none_ends : d.disp.resv.find? (fun r => r.graph == g && r.kind == k && r.till ≤ now d) = none) :
    reservationEnd d g k = d := by
  simp only [reservationEnd, none_ends]

/-- A reservation that ends takes the graph with it where the graph leaves and the window is over (R240). -/
theorem reservationEnd_some (ends : d.disp.resv.find? (fun r => r.graph == g && r.kind == k && r.till ≤ now d) = some r) :
    reservationEnd d g k =
      if (graphOf d g).leaving && r.window + gSpan (graphOf d g).rcd ≤ now d then graphEmpty (resvEnded d g k r) g
      else resvEnded d g k r := by
  rw [← graphOf_resvEnded d g k r g, ← now_resvEnded d g k r]
  simp only [reservationEnd, ends]
  rfl

theorem reservationEnd_stays (ends : d.disp.resv.find? (fun r => r.graph == g && r.kind == k && r.till ≤ now d) = some r)
    (stays : (graphOf d g).leaving = false ∨ now d < r.window + gSpan (graphOf d g).rcd) :
    reservationEnd d g k = resvEnded d g k r := by
  rw [reservationEnd_some ends, if_neg]
  rw [Bool.and_eq_true, decide_eq_true_eq, not_and, Nat.not_le]
  exact fun leaves => stays.resolve_left (by simp [leaves])

theorem reservationEnd_leaves (ends : d.disp.resv.find? (fun r => r.graph == g && r.kind == k && r.till ≤ now d) = some r)
    (leaves : (graphOf d g).leaving = true) (finished : r.window + gSpan (graphOf d g).rcd ≤ now d) :
    reservationEnd d g k = graphEmpty (resvEnded d g k r) g := by
  rw [reservationEnd_some ends, if_pos (by simp [leaves, finished])]

end

/-! ### A revoked graph -/

section
variable {d : Dev} {g : Nat}

theorem admissionRevoked_due {r : Nat} (last : (graphOf d g).revokedIn = some r) (revoked : (graphOf d g).st = 3)
    (due : nextOpening (graphOf d g).rcd r ≤ now d) :
    admissionRevoked d g =
      post (parkedToBe (setGraph d g { graphOf d g with revokedIn := none, place := [] }) g) (gCtx (graphOf d g).rcd) 0x0009 noCause
        (leBytes 1 g ++ leBytes 1 (graphOf d g).reason) := by
  have cleared (x : Graph) : graphOf (parkedToBe (setGraph d g x) g) g = x := graphOf_setGraph d g x
  simp only [admissionRevoked, last, revoked, due, decide_true, Bool.and_self, if_true, postRevoked, cleared]

theorem admissionRevoked_waits
    (waits : (graphOf d g).st ≠ 3 ∨ ∀ r, (graphOf d g).revokedIn = some r → now d < nextOpening (graphOf d g).rcd r) :
    admissionRevoked d g = d := by
  cases last : (graphOf d g).revokedIn with
  | none => simp only [admissionRevoked, last]
  | some r =>
    have not_due : ¬ (decide ((graphOf d g).st = 3) && decide (nextOpening (graphOf d g).rcd r ≤ now d)) = true := by
      rw [Bool.and_eq_true, decide_eq_true_eq, decide_eq_true_eq]
      rintro ⟨revoked, due⟩
      obtain other | early := waits
      · exact other revoked
      · exact Nat.not_le.mpr (early r last) due
    simp only [admissionRevoked, last, if_neg not_due]

end

/-! ### What the commands of the windows do -/

section
variable {s : State} {g k : Nat} {d : Dev} (graph : g < 64)
include graph

theorem does_admissionRevoked (left : admissionRevoked s.dev g = d) : Does (.admissionRevoked g) s d := by
  have runs : exec (.admissionRevoked g) s = runDev (g < 64) s fun d => admissionRevoked d g := rfl
  rw [Does, runs, runDev_next _ _ (decide_eq_true graph), left]

variable (kind : k < 4)
include kind

theorem does_reservationOpen (left : reservationOpen s.dev g k = d) : Does (.reservationOpen g k) s d := by
  have runs : exec (.reservationOpen g k) s = runDev (g < 64 && k < 4) s fun d => reservationOpen d g k := rfl
  rw [Does, runs, runDev_next _ _ (by simp [graph, kind]), left]

theorem does_reservationEnd (left : reservationEnd s.dev g k = d) : Does (.reservationEnd g k) s d := by
  have runs : exec (.reservationEnd g k) s = runDev (g < 64 && k < 4) s fun d => reservationEnd d g k := rfl
  rw [Does, runs, runDev_next _ _ (by simp [graph, kind]), left]

end

/-! ### The statement -/

/-- Settles O29: by the window that opens, the reservation that has come to its length, and the next opening of a revoked graph. -/
theorem reservationsOpen : Obligations.ReservationsOpen := by
  unfold Obligations.ReservationsOpen
  intro s g k graph kind d x
  refine ⟨?opens, ?idle, ?ends, ?runs, ?revoked, ?waits⟩
  case opens =>
    intro t opens used window admitted due fresh es opened
    exact ⟨does_reservationOpen graph kind (reservationOpen_opens (openingNow_window opens used window admitted due) fresh),
      fun tensor => sendPreempts_tensorDie opened tensor es⟩
  case idle => exact fun open_already => does_reservationOpen graph kind (reservationOpen_idle open_already)
  case ends =>
    intro r found late past ended
    refine ⟨fun stays => does_reservationEnd graph kind (reservationEnd_stays found stays),
      fun leaves finished => does_reservationEnd graph kind (reservationEnd_leaves found leaves finished), fun none_late => ?_⟩
    simp only [past, none_late, List.foldl_nil]
  case runs => exact fun none_ends => does_reservationEnd graph kind (reservationEnd_none none_ends)
  case revoked => exact fun r last revoked due => does_admissionRevoked graph (admissionRevoked_due last revoked due)
  case waits => exact fun waits => does_admissionRevoked graph (admissionRevoked_waits waits)

end Sys2Proof.Machine
end

section
/-!
SUPPORT. Proof of the statement on frames between peers (R278, R413, R417, R424 to R427). A refused put frees its credit and breaks
its transfer, and a get of a ring needs both of its ends on the signal die (log entry 71).
-/
namespace Sys2Proof.Machine
open Sys2Proof

/-! ### A frame in its turn -/

/-- What a frame that has been taken comes to: refused with a code, or in effect; and acknowledged (R414, R417). -/
def frameTaken (n : Nat) (f : WtFrame) (x : Option Nat × Dev) : Dev :=
  match x.1 with
  | some c => refusedWith f n (countPut x.2 n f (some c)) c
  | none => ackUp (countPut x.2 n f none) n f.lc false

/-- A frame that its endpoint may send is taken as its type says. -/
theorem takeNext_allowed {d e : Dev} {n : Nat} {f : WtFrame}
    (counted : e = modRx d n f.lc fun x => { x with next := (x.next + 1) % 2 ^ 32 })
    (version : f.version = 1) (known : typeKnown f.type = true) (size : f.payload.length ≤ 4096)
    (may : typeAllowed (epKind (epOf e n)) f.type = true) (act : Dev → Nat → WtFrame → Taken) :
    takeNext d n f act = (act e n f).map (frameTaken n f) := by
  subst counted
  simp only [takeNext, version, known, may, Nat.not_lt.mpr size, ne_eq, not_true_eq_false, decide_false, Bool.not_true, Bool.or_self,
    Bool.false_eq_true, if_false]
  congr 1
  funext x
  obtain ⟨_ | c, e⟩ := x <;> rfl

/-- The frame that a stream expects is the next to be taken (R414). -/
theorem takeOrdered_next {d : Dev} {n : Nat} {f : WtFrame} (session : (rxOf (epOf d n) f.lc).session = some f.session)
    (next : (rxOf (epOf d n) f.lc).next = f.seq) (act : Dev → Nat → WtFrame → Taken) :
    takeOrdered d n f act = takeNext d n f act := by
  have distance : (f.seq + 2 ^ 32 - f.seq) % 2 ^ 32 = 0 := by rw [Nat.add_sub_cancel_left, Nat.mod_self]
  simp only [takeOrdered, session, next, distance, ne_eq, not_true_eq_false, if_false, if_true]

section
variable {s : State} {f : WtFrame} {n : Nat} {d : Dev} (turn : FrameTurn s f n d)
include turn

/-- A frame in its turn is taken as its type says (R405, R411 to R414). -/
theorem wtTake_turn (act : Dev → Nat → WtFrame → Taken) : wtTake s.dev f act = (act d n f).map (frameTaken n f) := by
  obtain ⟨known, ordered, size, ⟨e, ⟨_, good, ⟨r, received, rfl⟩, sender⟩, session, next, rfl⟩, may⟩ := turn
  have not_open : f.type ≠ 0x20 := by omega
  have not_ack : f.type ≠ 0x21 := by omega
  have not_status : f.type ≠ 0x22 := by omega
  have takes : wtTake s.dev f act = takeOrdered (acked f n (crcPassed r f.eth.port)) n f act := by
    simp [wtTake, received, sender, good, not_open, not_ack, not_status, acked]
  rw [takes, takeOrdered_next session next, takeNext_allowed rfl good known size may]

variable {c : Instr} {ty : Nat} {act : Dev → Nat → WtFrame → Taken} (runs : exec c s = wtReceive s f ty act) (type : f.type = ty)
include runs type

theorem does_wtReceive : Does c s (((act d n f).map (frameTaken n f)).getD s.dev) := by
  have named : wtFrameOk f = true := by
    obtain ⟨_, from_n, _⟩ := turn.turn
    exact from_n.frame
  rw [Does, runs, wtReceive, runDev_next _ _ named, wtTake_turn turn, if_pos (by simp [type])]

/-- A frame whose effect has to wait leaves the device (R418). -/
theorem does_frameWaits (waits : act d n f = none) : Does c s s.dev := by
  have does := does_wtReceive turn runs type
  rwa [waits] at does

theorem does_frameTaken {e : Dev} (taken : act d n f = some (none, e)) : Does c s (ackUp (countPut e n f none) n f.lc false) := by
  have does := does_wtReceive turn runs type
  rwa [taken] at does

theorem does_frameRefused {k : Nat} {e : Dev} (refused : act d n f = some (some k, e)) :
    Does c s (refusedWith f n (countPut e n f (some k)) k) := by
  have does := does_wtReceive turn runs type
  rwa [refused] at does

end

/-- Only puts are counted (R425). -/
theorem countPut_other {f : WtFrame} (other : f.type ≠ 0x10) (d : Dev) (n : Nat) (code : Option Nat) : countPut d n f code = d :=
  if_pos other

section
variable {s : State} {f : WtFrame} {n : Nat} {d : Dev} (turn : FrameTurn s f n d) {c : Instr} {ty : Nat}
  {act : Dev → Nat → WtFrame → Taken} (runs : exec c s = wtReceive s f ty act) (type : f.type = ty) (other : f.type ≠ 0x10)
include turn runs type other

theorem does_otherTaken {e : Dev} (taken : act d n f = some (none, e)) : Does c s (ackUp e n f.lc false) := by
  have does := does_frameTaken turn runs type taken
  rwa [countPut_other other] at does

theorem does_otherRefused {k : Nat} {e : Dev} (refused : act d n f = some (some k, e)) : Does c s (refusedWith f n e k) := by
  have does := does_frameRefused turn runs type refused
  rwa [countPut_other other] at does

end

/-! ### The inbound ring -/

/-- The inbound ring of a frame's class takes it now, behind the earlier frames of its stream (R419 to R421). -/
def inboundRoom (d : Dev) (n : Nat) (f : WtFrame) : Prop :=
  (rxOf (epOf d n) f.lc).held = [] ∧ (rxOf (epOf d n) f.lc).asks = [] ∧ sysRoom d false f.lc = true

theorem not_inboundRoom_iff {d : Dev} {n : Nat} {f : WtFrame} :
    (!(rxOf (epOf d n) f.lc).held.isEmpty || !(rxOf (epOf d n) f.lc).asks.isEmpty || !sysRoom d false f.lc) = true
      ↔ ¬ inboundRoom d n f := by
  simp only [inboundRoom, Classical.not_and_iff_not_or_not, Bool.or_eq_true, Bool.not_eq_true', ← Bool.not_eq_true, List.isEmpty_iff,
    or_assoc]

theorem toInbound_down {d : Dev} (down : tensorDown d = true) (n : Nat) (f : WtFrame) (op : Option (Nat × Nat)) :
    toInbound d n f op = some (some 9, d) := if_pos down

section
variable {d : Dev} {n : Nat} {f : WtFrame} (up : tensorDown d = false)
include up

theorem toInbound_room (room : inboundRoom d n f) (op : Option (Nat × Nat)) :
    toInbound d n f op = some (none, sysPost d false f.lc
      { type := f.type, ctx := f.ctx % 64, ep := n, last := f.last, seq := f.seq, arg0 := f.arg0, arg1 := f.arg1, spoil := f.spoil,
        box := f.box, payload := f.payload, op := op }) := by
  obtain ⟨held, asks, free⟩ := room
  simp [toInbound, up, held, asks, free, frameCtx]

theorem toInbound_waits (full : ¬ inboundRoom d n f) (op : Option (Nat × Nat)) : toInbound d n f op = none := by
  simp only [toInbound, up, not_inboundRoom_iff.mpr full, Bool.false_eq_true, if_false, if_true]

end

/-! ### Puts -/

/-- The device with a put segment in a receive buffer; the first segment of a transfer begins it anew (R424 to R426). -/
def putHeld (d : Dev) (n : Nat) (f : WtFrame) : Dev :=
  modRx d n f.lc fun x => { x with
    held := x.held ++ [⟨f.arg0, f.ctx % 64, f.seq, frameIndex f, f.last, f.spoil, f.box, f.payload, 0⟩]
    broken := if frameIndex f = 0 then x.broken.filter fun y => y != (f.arg0, f.box) else x.broken }

/-- The device with the bytes of a put segment counted on its ring (R424). -/
def putFills (d : Dev) (n : Nat) (f : WtFrame) (r : Nat) : Dev :=
  modRx d n f.lc fun x => { x with
    fills := tset x.fills r (frameIndex f + f.payload.length, (tget (0, 0) (rxOf (epOf d n) f.lc).fills r).2) }

section
variable {d : Dev} {n : Nat} {f : WtFrame}

theorem actPut_stranger (stranger : ¬ epMay (epOf d n) (f.ctx % 64) = true) : actPut d n f = some (some 2, d) := by
  simp [actPut, frameCtx, stranger]

variable (may : epMay (epOf d n) (f.ctx % 64) = true)
include may

theorem actPut_full (full : epCredits (epOf d n) f.lc ≤ (rxOf (epOf d n) f.lc).puts - (rxOf (epOf d n) f.lc).freed) :
    actPut d n f = some (some 7, d) := by
  simp only [actPut, frameCtx, may, full, Bool.not_true, Bool.false_eq_true, if_false, if_true]

variable (credit : ¬ epCredits (epOf d n) f.lc ≤ (rxOf (epOf d n) f.lc).puts - (rxOf (epOf d n) f.lc).freed)
include credit

theorem actPut_noBox (no_box : wbTotal f.box = none) : actPut d n f = some (some 5, d) := by
  simp only [actPut, frameCtx, may, credit, no_box, Bool.not_true, Bool.false_eq_true, if_false]

variable {t : Nat} (box : wbTotal f.box = some t)
include box

theorem actPut_beyond (beyond : t < frameIndex f + f.payload.length) : actPut d n f = some (some 5, d) := by
  simp only [actPut, frameCtx, may, credit, box, beyond, Bool.not_true, Bool.false_eq_true, if_false, if_true]

variable (inside : frameIndex f + f.payload.length ≤ t)
include inside

theorem actPut_tensor (tensor : isRingId f.arg0 = false) :
    actPut d n f = if tensorDown d then some (some 9, d) else some (none, putHeld d n f) := by
  simp only [actPut, frameCtx, may, credit, box, Nat.not_lt.mpr inside, tensor, Bool.not_true, Bool.false_eq_true, if_false]
  rfl

variable (ring : isRingId f.arg0 = true)
include ring

theorem actPut_ring_refused {c : Nat} (refused : ringPutReason d n f (ringIdOf f.arg0) = some c) : actPut d n f = some (some c, d) := by
  simp only [actPut, frameCtx, may, credit, box, Nat.not_lt.mpr inside, ring, refused, Bool.not_true, Bool.false_eq_true, if_false,
    if_true]

theorem actPut_ring (takes : ringPutReason d n f (ringIdOf f.arg0) = none) :
    actPut d n f = some (none, putHeld (putFills d n f (ringIdOf f.arg0)) n f) := by
  simp only [actPut, frameCtx, may, credit, box, Nat.not_lt.mpr inside, ring, takes, Bool.not_true, Bool.false_eq_true, if_false,
    if_true]
  rfl

end

/-! ### Gets -/

/-- What a get of ring `r`, which is `x`, comes to (R417, R424, R425). -/
def getRing (d : Dev) (n : Nat) (f : WtFrame) (r : Nat) (x : Ring) : Taken :=
  if x.ctx ≠ f.ctx % 64 || x.lc != f.lc then some (some 2, d)
  else if x.prodDie ≠ 0 || x.consDie ≠ 0 || !(x.cons = none || x.cons = some (.get n f.lc)) || (ringMover d r false).isSome then
    some (some 8, d)
  else if !(rxOf (epOf d n) f.lc).held.isEmpty || (sysOpen d false f.lc).any (fun y => y.ep == n) then none
  else some (none, modRx d n f.lc fun y =>
    { y with asks := y.asks ++ [⟨r, f.ctx % 64, f.seq, frameIndex f, getLen f.arg1, []⟩] })

/-- The bytes that a get asks for lie in its box and fit a frame (R413, R424). -/
def getInside (d : Dev) (n : Nat) (f : WtFrame) (total : Nat) : Prop :=
  getLen f.arg1 ≠ 0 ∧ frameIndex f + getLen f.arg1 ≤ total ∧ getLen f.arg1 ≤ payloadLimit d n false

section
variable {d : Dev} {n : Nat} {f : WtFrame}

theorem not_getInside_iff {total : Nat} :
    (getLen f.arg1 = 0 || total < frameIndex f + getLen f.arg1 || payloadLimit d n false < getLen f.arg1) = true
      ↔ ¬ getInside d n f total := by
  simp only [getInside, Classical.not_and_iff_not_or_not, Bool.or_eq_true, decide_eq_true_eq, ne_eq, Classical.not_not, Nat.not_le,
    or_assoc]

theorem actGet_stranger (stranger : ¬ epMay (epOf d n) (f.ctx % 64) = true) : actGet d n f = some (some 2, d) := by
  simp [actGet, frameCtx, stranger]

variable (may : epMay (epOf d n) (f.ctx % 64) = true)
include may

theorem actGet_noBox (no_box : wbTotal f.box = none) : actGet d n f = some (some 5, d) := by
  simp only [actGet, frameCtx, may, no_box, Bool.not_true, Bool.false_eq_true, if_false]

variable {t : Nat} (box : wbTotal f.box = some t)
include box

theorem actGet_outside (outside : ¬ getInside d n f t) : actGet d n f = some (some 5, d) := by
  simp only [actGet, frameCtx, may, box, not_getInside_iff.mpr outside, Bool.not_true, Bool.false_eq_true, if_false, if_true]

variable (inside : getInside d n f t)
include inside

theorem actGet_tensor (tensor : isRingId f.arg0 = false) : actGet d n f = toInbound d n f none := by
  obtain ⟨some_bytes, in_box, in_frame⟩ := inside
  simp [actGet, frameCtx, may, box, some_bytes, Nat.not_lt.mpr in_box, Nat.not_lt.mpr in_frame, tensor]

variable (ring : isRingId f.arg0 = true)
include ring

theorem actGet_noRing (no_ring : ringOf d (ringIdOf f.arg0) = none) : actGet d n f = some (some 8, d) := by
  obtain ⟨some_bytes, in_box, in_frame⟩ := inside
  simp [actGet, frameCtx, may, box, some_bytes, Nat.not_lt.mpr in_box, Nat.not_lt.mpr in_frame, ring, no_ring]

theorem actGet_ring {x : Ring} (held : ringOf d (ringIdOf f.arg0) = some x) :
    actGet d n f = getRing d n f (ringIdOf f.arg0) x := by
  obtain ⟨some_bytes, in_box, in_frame⟩ := inside
  simp only [actGet, frameCtx, may, box, some_bytes, Nat.not_lt.mpr in_box, Nat.not_lt.mpr in_frame, ring, held, Bool.not_true,
    Bool.false_eq_true, decide_false, Bool.or_self, if_false]
  rfl

end

section
variable {d : Dev} {n : Nat} {f : WtFrame} {r : Nat} {x : Ring}

/-- A ring is of a get's context and class. -/
def getOwns (f : WtFrame) (x : Ring) : Prop := x.ctx = f.ctx % 64 ∧ x.lc = f.lc

/-- A ring has both ends on the signal die and no other consumer than its gets. -/
def getFree (d : Dev) (n : Nat) (f : WtFrame) (r : Nat) (x : Ring) : Prop :=
  x.prodDie = 0 ∧ x.consDie = 0 ∧ (x.cons = none ∨ x.cons = some (.get n f.lc)) ∧ ringMover d r false = none

/-- No earlier frame of a get's stream waits for its effect (R418). -/
def getClear (d : Dev) (n : Nat) (f : WtFrame) : Prop :=
  (rxOf (epOf d n) f.lc).held = [] ∧ ∀ y ∈ sysOpen d false f.lc, y.ep ≠ n

theorem not_getOwns_iff : (x.ctx ≠ f.ctx % 64 || x.lc != f.lc) = true ↔ ¬ getOwns f x := by
  simp only [getOwns, Classical.not_and_iff_not_or_not, Bool.or_eq_true, decide_eq_true_eq, bne_iff_ne, ne_eq]

theorem not_getFree_iff : (x.prodDie ≠ 0 || x.consDie ≠ 0 || !(x.cons = none || x.cons = some (.get n f.lc))
    || (ringMover d r false).isSome) = true ↔ ¬ getFree d n f r x := by
  simp only [getFree, Classical.not_and_iff_not_or_not, Bool.or_eq_true, decide_eq_true_eq, Bool.not_eq_true', ne_eq, or_assoc,
    Option.isSome_iff_ne_none, ← Bool.not_eq_true]

theorem not_getClear_iff : (!(rxOf (epOf d n) f.lc).held.isEmpty || (sysOpen d false f.lc).any (fun y => y.ep == n)) = true
    ↔ ¬ getClear d n f := by
  simp only [getClear, Classical.not_and_iff_not_or_not, Bool.or_eq_true, Bool.not_eq_true', ← Bool.not_eq_true, List.isEmpty_iff,
    List.any_eq_true, beq_iff_eq, Classical.not_forall, ne_eq, Classical.not_not, exists_prop]

theorem getRing_foreign (foreign : ¬ getOwns f x) : getRing d n f r x = some (some 2, d) :=
  if_pos (not_getOwns_iff.mpr foreign)

variable (own : getOwns f x)
include own

theorem getRing_taken (taken : ¬ getFree d n f r x) : getRing d n f r x = some (some 8, d) :=
  (if_neg (mt not_getOwns_iff.mp (not_not_intro own))).trans (if_pos (not_getFree_iff.mpr taken))

variable (free : getFree d n f r x)
include free

/-- A get whose ring is its own and free waits for the earlier frames of its stream. -/
theorem getRing_free : getRing d n f r x =
    if !(rxOf (epOf d n) f.lc).held.isEmpty || (sysOpen d false f.lc).any (fun y => y.ep == n) then none
    else some (none, modRx d n f.lc fun y =>
      { y with asks := y.asks ++ [⟨r, f.ctx % 64, f.seq, frameIndex f, getLen f.arg1, []⟩] }) :=
  (if_neg (mt not_getOwns_iff.mp (not_not_intro own))).trans (if_neg (mt not_getFree_iff.mp (not_not_intro free)))

theorem getRing_waits (earlier : ¬ getClear d n f) : getRing d n f r x = none :=
  (getRing_free own free).trans (if_pos (not_getClear_iff.mpr earlier))

theorem getRing_clear (clear : getClear d n f) : getRing d n f r x = some (none, modRx d n f.lc fun y =>
    { y with asks := y.asks ++ [⟨r, f.ctx % 64, f.seq, frameIndex f, getLen f.arg1, []⟩] }) :=
  (getRing_free own free).trans (if_neg (mt not_getClear_iff.mp (not_not_intro clear)))

end

/-! ### Data of gets, and lock-step samples -/

section
variable {d : Dev} {n : Nat} {f : WtFrame}

theorem actData_noGet (no_get : getOf d n f.lc f.arg0 = none) : actData d n f = some (none, d) := by simp only [actData, no_get]

variable {g : GetSeg} (get : getOf d n f.lc f.arg0 = some g)
include get

theorem actData_noOp (no_op : opOf d g.op = none) : actData d n f = some (none, dropGet d g) := by simp only [actData, get, no_op]

variable {o : Op} (op : opOf d g.op = some o)
include op

theorem actData_misfits (misfits : ¬ (f.payload.length = g.len ∧ f.arg1 = g.lo)) : actData d n f = some (some 5, d) := by
  have refused : (f.payload.length ≠ g.len || f.arg1 ≠ g.lo) = true := by
    rw [Classical.not_and_iff_not_or_not] at misfits
    simpa only [Bool.or_eq_true, decide_eq_true_eq] using misfits
  simp only [actData, get, op, refused, if_true]

variable (fits : f.payload.length = g.len ∧ f.arg1 = g.lo)
include fits

theorem actData_tensor (tensor : sideRing (mvTo o.desc) = none) : actData d n f = toInbound d n f (some (g.op, g.lo + g.len)) := by
  simp [actData, get, op, fits, tensor]

variable {r : Nat} (ring : sideRing (mvTo o.desc) = some r)
include ring

theorem actData_waits (earlier : streamClear d n f.lc = false) : actData d n f = none := by
  simp [actData, get, op, fits, ring, earlier]

variable (clear : streamClear d n f.lc = true)
include clear

theorem actData_ring {x : Ring} (held : ringOf d r = some x) :
    actData d n f = some (none, landRing (dropGet d g) g.op r x (withSpoil f.spoil f.payload) o) := by
  simp [actData, get, op, fits, ring, clear, held]

theorem actData_noRing (no_ring : ringOf d r = none) : actData d n f = some (none, dropGet d g) := by
  simp [actData, get, op, fits, ring, clear, no_ring]

end

section
variable {d : Dev} {n : Nat} {f : WtFrame}

theorem actSample_stranger (stranger : ¬ epMay (epOf d n) (f.ctx % 64) = true) : actSample d n f = some (some 2, d) := by
  simp [actSample, frameCtx, stranger]

variable (may : epMay (epOf d n) (f.ctx % 64) = true)
include may

theorem actSample_waits (earlier : streamClear d n f.lc = false) : actSample d n f = none := by
  simp [actSample, frameCtx, may, earlier]

theorem actSample_clear (clear : streamClear d n f.lc = true) : actSample d n f =
    some (none, if d.ls.enable = true ∧ d.ls.peer = n ∧ f.ctx % 64 = d.ls.ctx then lsArrive d f.payload else d) := by
  simp [actSample, frameCtx, may, clear, and_assoc]

end

/-! ### The statement -/

section
variable {s : State} {f : WtFrame} {n : Nat} {d : Dev} (turn : FrameTurn s f n d)
include turn

/-- A put that has its place is counted and acknowledged (R414, R425). -/
theorem does_putTaken (put : f.type = 0x10) {e : Dev} (taken : actPut d n f = some (none, e)) :
    Does (.peerPut f) s (ackUp (modRx e n f.lc fun x => { x with puts := x.puts + 1 }) n f.lc false) :=
  does_congr (by rw [countPut, if_neg (not_not_intro put)]) (does_frameTaken turn rfl put taken)

/-- A refused put frees its credit again and breaks its transfer (R425, R426). -/
theorem does_putRefused (put : f.type = 0x10) {k : Nat} (refused : actPut d n f = some (some k, d)) :
    Does (.peerPut f) s (refusedWith f n
      (markBroken (modRx d n f.lc fun x => { x with puts := x.puts + 1, freed := x.freed + 1 }) n f.lc f.arg0 f.box) k) :=
  does_congr (by rw [countPut, if_neg (not_not_intro put)]) (does_frameRefused turn rfl put refused)

end

/-- Settles O54: each frame by its type, and each type by the checks of its `act` in order. -/
theorem peerFrames : Obligations.PeerFrames := by
  unfold Obligations.PeerFrames
  intro s f n d turn ctx may r full count seg held bad inbound room k
  refine ⟨?put, ?get, ?data, ?sample⟩
  case put =>
    intro put
    have refuses {c : Nat} (refused : actPut d n f = some (some c, d)) : Does (.peerPut f) s (bad c) :=
      does_putRefused turn put refused
    have takes {e : Dev} (taken : actPut d n f = some (none, putHeld e n f)) : Does (.peerPut f) s (held e) :=
      does_putTaken turn put taken
    refine ⟨fun stranger => refuses (actPut_stranger stranger), fun may full => refuses (actPut_full may full),
      fun may credit no_box => refuses (actPut_noBox may credit no_box), fun t may credit box => ⟨?beyond, ?tensor, ?ring⟩⟩
    case beyond => exact fun beyond => refuses (actPut_beyond may credit box beyond)
    case tensor =>
      intro inside tensor
      have acts := actPut_tensor may credit box inside tensor
      exact ⟨fun down => refuses (acts.trans (if_pos down)), fun up => takes (acts.trans (if_neg (by rw [up]; decide)))⟩
    case ring =>
      intro inside ring
      exact ⟨fun c refused => refuses (actPut_ring_refused may credit box inside ring refused),
        fun fills => takes (actPut_ring may credit box inside ring fills)⟩
  case get =>
    intro get len
    have other : f.type ≠ 0x10 := by omega
    have refuses {c : Nat} (refused : actGet d n f = some (some c, d)) : Does (.peerGet f) s (refusedWith f n d c) :=
      does_otherRefused turn rfl get other refused
    have takes {e : Dev} (taken : actGet d n f = some (none, e)) : Does (.peerGet f) s (ackUp e n f.lc false) :=
      does_otherTaken turn rfl get other taken
    have waits (waiting : actGet d n f = none) : Does (.peerGet f) s s.dev := does_frameWaits turn rfl get waiting
    refine ⟨fun stranger => refuses (actGet_stranger stranger), fun may no_box => refuses (actGet_noBox may no_box),
      fun t may box => ⟨fun outside => refuses (actGet_outside may box outside), ?down, ?up, ?ring⟩⟩
    case down =>
      intro inside tensor down
      exact refuses ((actGet_tensor may box inside tensor).trans (toInbound_down down n f none))
    case up =>
      intro inside tensor up
      have acts := actGet_tensor may box inside tensor
      exact ⟨fun room => takes (acts.trans (toInbound_room up room none)),
        fun no_room => waits (acts.trans (toInbound_waits up no_room none))⟩
    case ring =>
      intro inside ring
      refine ⟨fun no_ring => refuses (actGet_noRing may box inside ring no_ring), fun x there => ?_⟩
      have acts := actGet_ring may box inside ring there
      exact ⟨fun foreign => refuses (acts.trans (getRing_foreign foreign)),
        fun own taken => refuses (acts.trans (getRing_taken own taken)),
        fun own free earlier => waits (acts.trans (getRing_waits own free earlier)),
        fun own free clear => takes (acts.trans (getRing_clear own free clear))⟩
  case data =>
    intro data
    have other : f.type ≠ 0x10 := by omega
    have refuses {c : Nat} (refused : actData d n f = some (some c, d)) : Does (.peerData f) s (refusedWith f n d c) :=
      does_otherRefused turn rfl data other refused
    have takes {e : Dev} (taken : actData d n f = some (none, e)) : Does (.peerData f) s (ackUp e n f.lc false) :=
      does_otherTaken turn rfl data other taken
    have waits (waiting : actData d n f = none) : Does (.peerData f) s s.dev := does_frameWaits turn rfl data waiting
    refine ⟨fun no_get => takes (actData_noGet no_get), fun g get => ⟨fun no_op => takes (actData_noOp get no_op), fun o op => ?_⟩⟩
    refine ⟨fun misfits => refuses (actData_misfits get op misfits), ?tensor, ?ring⟩
    case tensor =>
      intro fits tensor
      have acts := actData_tensor get op fits tensor
      exact ⟨fun down => refuses (acts.trans (toInbound_down down n f _)),
        fun up room => takes (acts.trans (toInbound_room up room _)),
        fun up no_room => waits (acts.trans (toInbound_waits up no_room _))⟩
    case ring =>
      intro q fits ring
      exact ⟨fun earlier => waits (actData_waits get op fits ring earlier),
        fun x clear there => takes (actData_ring get op fits ring clear there),
        fun clear no_ring => takes (actData_noRing get op fits ring clear no_ring)⟩
  case sample =>
    intro sample mine
    have other : f.type ≠ 0x10 := by omega
    have takes {e : Dev} (taken : actSample d n f = some (none, e)) : Does (.lockstepSample f) s (ackUp e n f.lc false) :=
      does_otherTaken turn rfl sample other taken
    refine ⟨fun stranger => does_otherRefused turn rfl sample other (actSample_stranger stranger),
      fun may earlier => does_frameWaits turn rfl sample (actSample_waits may earlier), fun may clear own => takes ?_,
      fun may clear foreign => takes ?_⟩
    · rw [actSample_clear may clear, if_pos own]
    · rw [actSample_clear may clear, if_neg foreign]

end Sys2Proof.Machine
end

section
/-!
SUPPORT. What settling a device leaves: everything but the queues, operations, memory, rings and endpoints that it is about. Each
function that `settle` runs through keeps the steady part of the device in every branch; a fold of such steps keeps it too.
-/
namespace Sys2Proof.Machine
open Sys2Proof

/-- What no step of `settle` changes: the subsystems it is not about, and the state registers of the contexts. -/
structure Steady where
  boot : BootSt
  time : TimeSt
  ls : LockSt
  pwr : PwrSt
  sc : ScSt
  fe : FeSt
  lr : LrSt
  tr : TrSt
  dict : DictSt
  test : StSt
  regs : Nat → GenSt

/-- The steady part of a device. -/
def steady (d : Dev) : Steady :=
  ⟨d.boot, d.time, d.ls, d.pwr, d.sc, d.fe, d.lr, d.tr, d.dict, d.test, fun n => (ctxOf d n).reg⟩

theorem steady_foldl {α : Type} {f : Dev → α → Dev} (keeps : ∀ d a, steady (f d a) = steady d) (l : List α) (d : Dev) :
    steady (l.foldl f d) = steady d := foldl_keeps steady keeps l d

/-! ### Events, memory and pages -/

/-- A context changed in anything but its state register. -/
theorem steady_modCtx {f : Ctx → Ctx} (keeps : ∀ c, (f c).reg = c.reg) (d : Dev) (n : Nat) :
    steady (modCtx d n f) = steady d := by
  have regs (k : Nat) : (ctxOf (modCtx d n f) k).reg = (ctxOf d k).reg := by
    by_cases same : k = n
    · rw [same, modCtx, ctxOf_setCtx, keeps]
    · rw [modCtx, ctxOf_setCtx_ne d _ same]
  simp only [steady, regs]
  rfl

@[simp] theorem steady_postAt (d : Dev) (tick ctx code : Nat) (c : Cause) (p : Bytes) :
    steady (postAt d tick ctx code c p) = steady d := by
  refine steady_modCtx (fun x => ?_) d ctx
  split <;> rfl

@[simp] theorem steady_post (d : Dev) (ctx code : Nat) (c : Cause) (p : Bytes) : steady (post d ctx code c p) = steady d :=
  steady_postAt ..

@[simp] theorem steady_postFault (d : Dev) (ctx : Nat) (c : Cause) (r op i va : Nat) :
    steady (postFault d ctx c r op i va) = steady d := steady_post ..

@[simp] theorem steady_postOpFault (d : Dev) (o : Op) (r va : Nat) : steady (postOpFault d o r va) = steady d :=
  steady_postFault ..

@[simp] theorem steady_setSync (d : Dev) (o : Nat) (x : Sync) : steady (setSync d o x) = steady d := rfl
@[simp] theorem steady_setOp (d : Dev) (id : Nat) (o : Op) : steady (setOp d id o) = steady d := rfl
@[simp] theorem steady_setRing (d : Dev) (r : Nat) (x : Ring) : steady (setRing d r x) = steady d := rfl
@[simp] theorem steady_modQueue (d : Dev) (q : Nat) (f : Queue → Queue) : steady (modQueue d q f) = steady d := rfl
@[simp] theorem steady_modPage (d : Dev) (ctx p : Nat) (f : Page → Page) : steady (modPage d ctx p f) = steady d := rfl
@[simp] theorem steady_memWrite (d : Dev) (ctx va : Nat) (bs : Bytes) (spoil : Bool) :
    steady (memWrite d ctx va bs spoil) = steady d := rfl
@[simp] theorem steady_memSpoilPage (d : Dev) (ctx p : Nat) : steady (memSpoilPage d ctx p) = steady d := rfl
@[simp] theorem steady_memClearPage (d : Dev) (ctx p : Nat) : steady (memClearPage d ctx p) = steady d := rfl
@[simp] theorem steady_slotClear (d : Dev) (r k : Nat) : steady (slotClear d r k) = steady d := rfl
@[simp] theorem steady_mem (d : Dev) (x : MemSt) : steady { d with mem := x } = steady d := rfl
@[simp] theorem steady_haul (d : Dev) (x : HaulSt) : steady { d with haul := x } = steady d := rfl
@[simp] theorem steady_net (d : Dev) (x : NetSt) : steady { d with net := x } = steady d := rfl
@[simp] theorem steady_free (d : Dev) (x : Nat) : steady { d with free := x } = steady d := rfl
@[simp] theorem steady_net_free (d : Dev) (x : NetSt) (n : Nat) : steady { d with net := x, free := n } = steady d := rfl

@[simp] theorem steady_syncAdd (d : Dev) (obj inc ctx blame : Nat) (c : Cause) (opcode idx : Nat) :
    steady (syncAdd d obj inc ctx blame c opcode idx) = steady d := by
  simp [syncAdd, apply_ite steady]

@[simp] theorem steady_clampAs (d : Dev) (ctx key idx sub : Nat) : steady (clampAs d ctx key idx sub) = steady d := by
  unfold clampAs
  split
  · rfl
  · exact (steady_mem _ _).trans (steady_post ..)

@[simp] theorem steady_memClamp (d : Dev) (ctx idx sub : Nat) : steady (memClamp d ctx idx sub) = steady d := by
  unfold memClamp memClampAs
  split
  · rfl
  · exact (steady_mem _ _).trans (steady_clampAs ..)

@[simp] theorem steady_unclampCtx (d : Dev) (ctx key sub : Nat) : steady (unclampCtx d ctx key sub) = steady d := rfl

@[simp] theorem steady_pickChan (d : Dev) (ctx : Nat) : steady (pickChan d ctx).2 = steady d := by
  simp only [pickChan]
  split
  · split <;> simp [apply_ite steady]
  · split <;> simp

@[simp] theorem steady_pageRequest (d : Dev) (ctx p : Nat) (o : Option Op) : steady (pageRequest d ctx p o) = steady d := by
  simp only [pageRequest]
  split
  · rfl
  · split <;> simp

@[simp] theorem steady_dropPage (d : Dev) (ctx p : Nat) : steady (dropPage d ctx p) = steady d := by
  simp only [dropPage]
  split <;> simp

@[simp] theorem steady_takeChan (d : Dev) (ctx : Nat) : steady (takeChan d ctx).2 = steady d := by
  have picks := steady_pickChan d ctx
  simp only [takeChan]
  split
  next picked => rwa [picked] at picks
  next picked =>
    rw [picked] at picks
    split <;> simpa using picks

@[simp] theorem steady_assignPage (d : Dev) (ctx p : Nat) : steady (assignPage d ctx p) = steady d := by
  have takes := steady_takeChan d ctx
  simp only [assignPage]
  split
  · rfl
  · split
    next taken => simpa [taken] using takes
    next taken => simpa [taken] using takes

@[simp] theorem steady_pageUnserved (d : Dev) (ctx p : Nat) (o : Option Op) : steady (pageUnserved d ctx p o) = steady d := by
  simp only [pageUnserved]
  split <;> simp <;> rfl

@[simp] theorem steady_touchPage (d : Dev) (ctx p : Nat) (o : Option Op) : steady (touchPage d ctx p o) = steady d := by
  simp only [touchPage]
  split
  · simp
  · split <;> simp [apply_ite steady]
  · rfl

@[simp] theorem steady_touchAll (d : Dev) (ns : List (Nat × Nat)) (o : Option Op) : steady (touchAll d ns o) = steady d :=
  steady_foldl (fun _ _ => steady_touchPage ..) ns d

@[simp] theorem steady_homeWritten (d : Dev) : steady (homeWritten d) = steady d := by
  refine steady_foldl (fun _ _ => ?_) _ d
  simp [apply_ite steady]

/-! ### The haul road and rings -/

@[simp] theorem steady_modRing (d : Dev) (r : Nat) (f : Ring → Ring) : steady (modRing d r f) = steady d := by
  unfold modRing
  split <;> rfl

@[simp] theorem steady_setSlot (d : Dev) (r k : Nat) (st : SlotSt) : steady (setSlot d r k st) = steady d := steady_modRing ..

@[simp] theorem steady_enqueue (d : Dev) (dir : Dir) (lc : Bool) (p : Payload) : steady (enqueue d dir lc p) = steady d := by
  unfold enqueue
  split
  · rfl
  · cases dir <;> rfl

@[simp] theorem steady_ringAdd (d : Dev) (r obj : Nat) : steady (ringAdd d r obj) = steady d := by
  unfold ringAdd
  split <;> simp [apply_ite steady]

@[simp] theorem steady_ringInc (d : Dev) (die r obj : Nat) : steady (ringInc d die r obj) = steady d := by
  unfold ringInc
  split
  · simp
  · split <;> simp

@[simp] theorem steady_deadlineCheck (d : Dev) (r : Nat) (x : Ring) : steady (deadlineCheck d r x) = steady d := by
  simp [deadlineCheck, apply_ite steady]

@[simp] theorem steady_slotFull (d : Dev) (r : Nat) : steady (slotFull d r) = steady d := by
  unfold slotFull
  split <;> simp [apply_ite steady]

@[simp] theorem steady_noteStored (d : Dev) (r off n : Nat) : steady (noteStored d r off n) = steady d := by
  unfold noteStored
  split
  · rfl
  · split
    · rfl
    · exact steady_foldl (fun _ _ => steady_enqueue ..) _ _

@[simp] theorem steady_slotPost (d : Dev) (r : Nat) : steady (slotPost d r) = steady d := by
  unfold slotPost
  split
  · rfl
  · split
    · simp
    · exact steady_foldl (fun _ _ => steady_enqueue ..) _ _

@[simp] theorem steady_slotRelease (d : Dev) (r k : Nat) : steady (slotRelease d r k) = steady d := by
  unfold slotRelease
  split <;> simp [apply_ite steady]

@[simp] theorem steady_slotGive (d : Dev) (r : Nat) : steady (slotGive d r) = steady d := by
  unfold slotGive
  split
  · rfl
  · split <;> simp

@[simp] theorem steady_slotPut (d : Dev) (r k off : Nat) (bs : List MByte) : steady (slotPut d r k off bs) = steady d := by
  refine steady_foldl (fun _ _ => ?_) _ _
  split <;> rfl

@[simp] theorem steady_slotFill (d : Dev) (r : Nat) (x : Ring) (off : Nat) (bs : List MByte) :
    steady (slotFill d r x off bs) = steady d := by simp [slotFill]

/-! ### Tensors written by MOVEs -/

@[simp] theorem steady_markWritten (d : Dev) (ctx : Nat) (t : Tensor) (bench : Option Nat) (lo hi : Nat) (spoil : Bool) :
    steady (markWritten d ctx t bench lo hi spoil) = steady d := steady_foldl (fun _ _ => steady_modPage ..) _ d

@[simp] theorem steady_dstElem (d : Dev) (ctx : Nat) (t : Tensor) (i code : Nat) (spoil : Bool) :
    steady (dstElem d ctx t i code spoil) = steady d := by
  simp only [dstElem]
  split <;> simp

@[simp] theorem steady_boxPut (d : Dev) (ctx : Nat) (t : Tensor) (b : Box) (p : Nat) (v : BitVec 8) (spoil : Bool) :
    steady (boxPut d ctx t b p v spoil) = steady d := by
  simp only [boxPut]
  split <;> simp [apply_ite steady]

@[simp] theorem steady_boxWrite (d : Dev) (ctx : Nat) (t : Tensor) (bench : Option Nat) (b : Box) (lo : Nat) (bs : List MByte) :
    steady (boxWrite d ctx t bench b lo bs) = steady d := by
  simp only [boxWrite, steady_foldl, steady_boxPut, steady_markWritten, implies_true]

/-! ### Frames and the system rings -/

@[simp] theorem steady_modRx (d : Dev) (n : Nat) (lc : Bool) (f : RxStream → RxStream) : steady (modRx d n lc f) = steady d := rfl
@[simp] theorem steady_modTx (d : Dev) (n : Nat) (lc : Bool) (f : TxStream → TxStream) : steady (modTx d n lc f) = steady d := rfl
@[simp] theorem steady_setEp (d : Dev) (n : Nat) (x : Endpoint) : steady (setEp d n x) = steady d := rfl
@[simp] theorem steady_modCb (d : Dev) (i : Nat) (f : CbRun → CbRun) : steady (modCb d i f) = steady d := rfl

@[simp] theorem steady_emit (d : Dev) (p pcp : Nat) (tag : Option Nat) (x : SentBody) : steady (emit d p pcp tag x) = steady d := by
  simp [emit, apply_ite steady]

@[simp] theorem steady_emitFrame (d : Dev) (m : EthMeta) (x : SentBody) : steady (emitFrame d m x) = steady d := by
  unfold emitFrame
  split <;> simp [apply_ite steady, steady_foldl]

@[simp] theorem steady_emitWt (d : Dev) (f : TxFrame) : steady (emitWt d f) = steady d := by
  simp [emitWt, apply_ite steady]

@[simp] theorem steady_sendBare (d : Dev) (ep : Nat) (lc : Bool) (type arg0 arg1 : Nat) :
    steady (sendBare d ep lc type arg0 arg1) = steady d := steady_emitWt ..

@[simp] theorem steady_sendOn (d : Dev) (f : TxFrame) (op : Option (Nat × Nat)) : steady (sendOn d f op) = steady d := by
  simp [sendOn]

@[simp] theorem steady_openTx (d : Dev) (ep : Nat) (lc : Bool) : steady (openTx d ep lc) = steady d := by
  simp [openTx, apply_ite steady]

@[simp] theorem steady_sendFrame (d : Dev) (f : TxFrame) (op : Option (Nat × Nat)) : steady (sendFrame d f op) = steady d := by
  simp [sendFrame]

@[simp] theorem steady_setSysRing (d : Dev) (out lc : Bool) (l : List SysSlot) : steady (setSysRing d out lc l) = steady d := by
  cases out <;> cases lc <;> rfl

@[simp] theorem steady_sysPost (d : Dev) (out lc : Bool) (x : SysSlot) : steady (sysPost d out lc x) = steady d := by
  simp [sysPost, steady_foldl]

/-! ### MOVEs -/

@[simp] theorem steady_countBlocks (d : Dev) (die n : Nat) : steady (countBlocks d die n) = steady d := rfl
@[simp] theorem steady_countMoved (d : Dev) (die : Nat) (o : Op) (a b : Nat) : steady (countMoved d die o a b) = steady d := rfl
@[simp] theorem steady_moveDone (d : Dev) (id die : Nat) (o : Op) : steady (moveDone d id die o) = steady d := rfl

@[simp] theorem steady_moveOver (d : Dev) (id die : Nat) (o : Op) : steady (moveOver d id die o) = steady d := by
  simp [moveOver, apply_ite steady]

@[simp] theorem steady_primeMove (d : Dev) (id lo n : Nat) (o : Op) : steady (primeMove d id lo n o) = steady d := by
  simp [primeMove]

@[simp] theorem steady_moveStall (d : Dev) (id lo hi : Nat) (o : Op) : steady (moveStall d id lo hi o) = steady d :=
  steady_primeMove ..

@[simp] theorem steady_fillTo (d : Dev) (id r : Nat) (x : Ring) (bs : List MByte) (e : Nat) (o : Op) :
    steady (fillTo d id r x bs e o) = steady d := by
  simp [fillTo, apply_ite steady]

@[simp] theorem steady_fillFromTensor (d : Dev) (id r : Nat) (x : Ring) (o : Op) :
    steady (fillFromTensor d id r x o) = steady d := by
  simp only [fillFromTensor]
  split <;> simp [apply_ite steady]

@[simp] theorem steady_copySlots (d : Dev) (id rs rd : Nat) (xs xd : Ring) (e : Nat) (o : Op) :
    steady (copySlots d id rs rd xs xd e o) = steady d := steady_fillTo ..

@[simp] theorem steady_fillFromRing (d : Dev) (id rs rd : Nat) (xs xd : Ring) (o : Op) :
    steady (fillFromRing d id rs rd xs xd o) = steady d := by
  simp [fillFromRing, apply_ite steady]

@[simp] theorem steady_fillSlot (d : Dev) (r : Nat) : steady (fillSlot d r) = steady d := by
  unfold fillSlot
  split
  · split
    · rfl
    · split
      · split <;> simp
      · simp [apply_ite steady]
  · rfl

@[simp] theorem steady_bindRing (d : Dev) (r : Nat) : steady (bindRing d r) = steady d := by
  simp only [bindRing]
  split
  · rfl
  · split <;> split <;> simp [apply_ite steady]

@[simp] theorem steady_pumpRing (n : Nat) (d : Dev) (r : Nat) : steady (pumpRing n d r) = steady d := by
  induction n generalizing d with
  | zero => rfl
  | succ n ih =>
    simp only [pumpRing]
    split
    · simp
    · split
      · simp
      · split <;> simp [apply_ite steady, ih]

@[simp] theorem steady_putToSystem (d : Dev) (id e : Nat) (bs : List MByte) (o : Op) :
    steady (putToSystem d id e bs o) = steady d := by simp [putToSystem]

@[simp] theorem steady_putDirect (d : Dev) (id e : Nat) (bs : List MByte) (o : Op) :
    steady (putDirect d id e bs o) = steady d := by simp [putDirect]

@[simp] theorem steady_putNext (d : Dev) (id : Nat) (o : Op) : steady (putNext d id o) = steady d := by
  simp only [putNext]
  split
  · rfl
  · split
    · split <;> simp [apply_ite steady]
    · split
      · rfl
      · split <;> simp [apply_ite steady]

@[simp] theorem steady_getNext (d : Dev) (id : Nat) (o : Op) : steady (getNext d id o) = steady d := by
  simp [getNext, apply_ite steady]

@[simp] theorem steady_landRing (d : Dev) (id r : Nat) (x : Ring) (bs : List MByte) (o : Op) :
    steady (landRing d id r x bs o) = steady d := by simp [landRing, apply_ite steady]

@[simp] theorem steady_landTensor (d : Dev) (id : Nat) (t : Tensor) (bs : List MByte) (o : Op) :
    steady (landTensor d id t bs o) = steady d := by simp [landTensor, apply_ite steady]

@[simp] theorem steady_getSpoil (d : Dev) (id : Nat) (o : Op) : steady (getSpoil d id o) = steady d := by
  unfold getSpoil
  split
  · split <;> simp [apply_ite steady]
  · split <;> simp

@[simp] theorem steady_pumpRemote (n : Nat) (d : Dev) (id : Nat) : steady (pumpRemote n d id) = steady d := by
  induction n generalizing d with
  | zero => rfl
  | succ n ih =>
    simp only [pumpRemote]
    split
    · rfl
    · split
      · rfl
      · split <;> simp [apply_ite steady, ih]

@[simp] theorem steady_pumpMoves (d : Dev) : steady (pumpMoves d) = steady d := by
  simp [pumpMoves, steady_foldl]

/-! ### Receive buffers -/

@[simp] theorem steady_ackUp (d : Dev) (ep : Nat) (lc force : Bool) : steady (ackUp d ep lc force) = steady d := by
  simp [ackUp, apply_ite steady]

@[simp] theorem steady_sendStatus (d : Dev) (ep : Nat) (lc : Bool) (seq code : Nat) :
    steady (sendStatus d ep lc seq code) = steady d := steady_sendBare ..

@[simp] theorem steady_arrive (d : Dev) (ep : Nat) (lc : Bool) (ctx dst : Nat) (box : Bytes) :
    steady (arrive d ep lc ctx dst box) = steady d := by
  simp [arrive, apply_ite steady]

@[simp] theorem steady_segWritten (d : Dev) (ep : Nat) (lc : Bool) (ctx dst : Nat) (box : Bytes) (last : Bool) :
    steady (segWritten d ep lc ctx dst box last) = steady d := by
  simp [segWritten, apply_ite steady]

@[simp] theorem steady_segRefused (d : Dev) (ep : Nat) (lc : Bool) (s : PutSeg) (code : Nat) :
    steady (segRefused d ep lc s code) = steady d := by
  simp [segRefused, markBroken]

@[simp] theorem steady_dropHeld (d : Dev) (ep : Nat) (lc : Bool) : steady (dropHeld d ep lc) = steady d := rfl

@[simp] theorem steady_fillPut (d : Dev) (ep : Nat) (lc : Bool) (s : PutSeg) (r : Nat) (x : Ring) :
    steady (fillPut d ep lc s r x) = steady d := by
  simp [fillPut, apply_ite steady]

@[simp] theorem steady_pumpHeld (d : Dev) (ep : Nat) (lc : Bool) : steady (pumpHeld d ep lc) = steady d := by
  simp only [pumpHeld]
  split
  · rfl
  · split
    · rfl
    · split
      · simp [apply_ite steady]
      · split
        · rfl
        · split <;> simp [apply_ite steady]

@[simp] theorem steady_takeAsk (d : Dev) (ep : Nat) (lc : Bool) (a : RingAsk) (x : Ring) :
    steady (takeAsk d ep lc a x) = steady d := by
  simp [takeAsk, apply_ite steady]

@[simp] theorem steady_pumpAsk (d : Dev) (ep : Nat) (lc : Bool) : steady (pumpAsk d ep lc) = steady d := by
  unfold pumpAsk
  split
  · rfl
  · split
    · simp [apply_ite steady]
    · split <;> simp [apply_ite steady]

@[simp] theorem steady_pumpStream (n : Nat) (d : Dev) (ep : Nat) (lc : Bool) : steady (pumpStream n d ep lc) = steady d := by
  induction n generalizing d with
  | zero => rfl
  | succ n ih => simp [pumpStream, apply_ite steady, ih]

@[simp] theorem steady_pumpPuts (d : Dev) : steady (pumpPuts d) = steady d := by
  simp [pumpPuts, steady_foldl]

/-! ### Covers and boosts -/

@[simp] theorem steady_armCover (d : Dev) (q : Nat) : steady (armCover d q) = steady d := by
  unfold armCover
  split <;> simp [apply_ite steady]

@[simp] theorem steady_endBoosts (d : Dev) : steady (endBoosts d) = steady d := rfl

@[simp] theorem steady_startBoost (d : Dev) (q : Nat) : steady (startBoost d q) = steady d := by
  unfold startBoost
  split
  · rfl
  · split
    · rfl
    · split
      · rfl
      · split <;> rfl

/-- Settling a device leaves every subsystem it is not about, and every context's state register. -/
@[simp] theorem steady_settle (d : Dev) : steady (settle d) = steady d := by
  simp [settle, steady_foldl]

theorem settle_ls (d : Dev) : (settle d).ls = d.ls := congrArg Steady.ls (steady_settle d)

theorem settle_reg (d : Dev) (n : Nat) : (ctxOf (settle d) n).reg = (ctxOf d n).reg :=
  congrFun (congrArg Steady.regs (steady_settle d)) n

end Sys2Proof.Machine
end

section
/-!
SUPPORT. Proof of the statement on LAYER and the lock-step time-out (R265 to R270, R276, R280, R281).
-/
namespace Sys2Proof.Machine
open Sys2Proof

/-! ### A ready LAYER -/

/-- A LAYER does not cross the haul road (R16). -/
theorem sendDesc_layer (d : Dev) {h : Head} (layer : hOpcode h.desc = 0x08) : sendDesc d h = d := by
  simp [sendDesc, onSignalDie, layer]

/-- A ready LAYER whose covered operations have completed is carried out on the device as it is (R270). -/
theorem does_layer {s : State} {q : Nat} {h : Head} {d : Dev} (ready : HeadReady s.dev q h 0x0901) (layer : hOpcode h.desc = 0x08)
    (passes : layerReason s.dev h = none) (issues : mayIssue s.dev h = true) (ended : (queueOf s.dev q).cover = some [])
    (left : runLayer s.dev h = d) : Does (.layer q) s d := by
  have carried := (carriesHead_coverRow s ready.queue (.layer q, famLayer) (by simp [coverRows])).does
  have covered : famLayer.ready s.dev h = true := by simp [famLayer, headOf_q ready.head, ended, issues]
  rw [armCover_armed ended] at carried
  refine does_congr ?_ carried
  rw [withHead_run famLayer ready layer (by decide) rfl passes covered, sendDesc_layer s.dev layer]
  exact left

/-- The device with the LAYER at the head of queue `q` at step 5, where it waits from now on (R270). -/
def layerMarked (d : Dev) (q : Nat) : Dev := modQueue d q fun x => { x with mark := some (now d) }

/-- The samples of a LAYER (R265, R270). -/
def layerSamples (d : Dev) (h : Head) : Dev := (lyIds h.desc).zipIdx.foldl (fun d e => layerSample h d e.2 e.1) d

/-- The device that has posted the core sample of tensor `id`, which is `t` (R265, R268). -/
def samplePosted (d : Dev) (h : Head) (id : Nat) (t : Tensor) : Dev :=
  post (if sampleOpen d h.ctx t then { d with free := d.free + 1 } else d) h.ctx 0x0010 ⟨hTag h.desc, h.q⟩
    (leBytes 8 (coreSample d h.ctx t) ++ leBytes 2 (dfield h.desc 24 0 16) ++ leBytes 2 (min (spoilBlocks d h.ctx t) 0xFFFF)
      ++ leBytes 4 id)

theorem inLockstep_congr {d e : Dev} (same : e.ls = d.ls) (n : Nat) : inLockstep e n = inLockstep d n := by
  simp only [inLockstep, same]

section
variable {d : Dev} {h : Head}

/-! ### Step 5 -/

theorem runLayer_marked (marked : (queueOf d h.q).mark ≠ none) : runLayer d h = layerFinish d h :=
  if_pos (Option.isSome_iff_ne_none.mpr marked)

/-- Outside a lock-step that runs, and in its first two layers, no LAYER waits for another. -/
theorem layerFinish_alone (alone : inLockstep d h.ctx = false ∨ d.ls.state ≠ 2 ∨ d.ls.lseq ≤ 1) :
    layerFinish d h = layerSeen (completeHead d h) h.ctx := by
  refine if_pos ?_
  obtain other | halted | first := alone
  · simp [other]
  · simp [halted]
  · simp [first]

section
variable (locked : inLockstep d h.ctx = true) (runs : d.ls.state = 2) (later : 2 ≤ d.ls.lseq)
include locked runs later

theorem layerFinish_lockstep : layerFinish d h =
    if !lsAll d (d.ls.lseq - 2) then d
    else if d.ls.mismatch.contains (d.ls.lseq - 2) then lsHalt d 3
    else layerSeen (completeHead d h) h.ctx := by
  refine if_neg ?_
  simp [locked, runs, Nat.not_le.mpr later]

theorem layerFinish_waits (waits : lsAll d (d.ls.lseq - 2) = false) : layerFinish d h = d := by
  rw [layerFinish_lockstep locked runs later, if_pos (by rw [waits]; rfl)]

variable (compared : lsAll d (d.ls.lseq - 2) = true)
include compared

theorem layerFinish_matches (same : d.ls.mismatch.contains (d.ls.lseq - 2) = false) :
    layerFinish d h = layerSeen (completeHead d h) h.ctx := by
  rw [layerFinish_lockstep locked runs later, if_neg (by rw [compared]; decide), if_neg (by rw [same]; decide)]

theorem layerFinish_mismatch (other : d.ls.mismatch.contains (d.ls.lseq - 2) = true) : layerFinish d h = lsHalt d 3 := by
  rw [layerFinish_lockstep locked runs later, if_neg (by rw [compared]; decide), if_pos other]

end

/-! ### Samples outside lock-step -/

@[simp] theorem samplePosted_ls (d : Dev) (h : Head) (id : Nat) (t : Tensor) : (samplePosted d h id t).ls = d.ls := by
  rw [samplePosted, post_ls]
  split <;> rfl

theorem samplePosted_closed {t : Tensor} (closed : sampleOpen d h.ctx t = false) (id : Nat) :
    samplePosted d h id t = post d h.ctx 0x0010 ⟨hTag h.desc, h.q⟩
      (leBytes 8 (coreSample d h.ctx t) ++ leBytes 2 (dfield h.desc 24 0 16) ++ leBytes 2 (min (spoilBlocks d h.ctx t) 0xFFFF)
        ++ leBytes 4 id) := by
  rw [samplePosted, if_neg (by rw [closed]; decide)]

section
variable (alone : inLockstep d h.ctx = false)
include alone

/-- Outside lock-step a sample is posted, and neither kept nor sent to a peer (R265, R277). -/
theorem layerSample_alone {id : Nat} {t : Tensor} (held : tensorOf d h.ctx id = some t) (slot : Nat) :
    layerSample h d slot id = samplePosted d h id t := by
  have posted : inLockstep (samplePosted d h id t) h.ctx = false := (inLockstep_congr (samplePosted_ls d h id t) h.ctx).trans alone
  simp only [layerSample, held]
  exact if_pos (by rw [← samplePosted, posted]; rfl)

theorem layerSample_ls (slot id : Nat) : (layerSample h d slot id).ls = d.ls := by
  cases held : tensorOf d h.ctx id with
  | none => simp only [layerSample, held]
  | some t => rw [layerSample_alone alone held, samplePosted_ls]

theorem layerSamples_ls : (layerSamples d h).ls = d.ls := by
  unfold layerSamples
  generalize (lyIds h.desc).zipIdx = es
  induction es generalizing d with
  | nil => rfl
  | cons e es ih =>
    have kept := layerSample_ls alone e.2 e.1
    rw [List.foldl_cons, ih ((inLockstep_congr kept h.ctx).trans alone), kept]

theorem layerSamples_one {t : Tensor} (one : lyCount h.desc = 1) (held : tensorOf d h.ctx (lyId h.desc 0) = some t) :
    layerSamples d h = samplePosted d h (lyId h.desc 0) t := by
  have only : (lyIds h.desc).zipIdx = [(lyId h.desc 0, 0)] := by simp [lyIds, one]
  rw [layerSamples, only, List.foldl_cons, List.foldl_nil, layerSample_alone alone held]

/-- A LAYER outside lock-step samples its tensors and completes (R270). -/
theorem runLayer_alone (unmarked : (queueOf d h.q).mark = none) :
    runLayer d h = layerSeen (completeHead (layerMarked (layerSamples d h) h.q) h) h.ctx := by
  have sampled : inLockstep (layerSamples d h) h.ctx = false := (inLockstep_congr (layerSamples_ls alone) h.ctx).trans alone
  have samples : runLayer d h = layerFinish (layerMarked (layerSamples d h) h.q) h := by
    refine (if_neg (by simp [unmarked])).trans ?_
    rw [← layerSamples]
    simp only [sampled, Bool.false_and, Bool.false_eq_true, if_false]
    rfl
  rw [samples, layerFinish_alone (.inl ?_)]
  exact (inLockstep_congr rfl h.ctx).trans sampled

end

end

/-! ### The time-out -/

section
variable {d : Dev}

/-- A LAYER of the lock-step context has waited past its time for the layer before it (R281). -/
def layerLate (d : Dev) : Prop :=
  d.ls.enable = true ∧ d.ls.state = 2 ∧ 2 ≤ d.ls.lseq ∧ lsAll d (d.ls.lseq - 2) = false
    ∧ (layerAt d).any (fun w => w.2 + 800 * d.ls.timeout < now d) = true

theorem lockstepTimeout_late (late : layerLate d) :
    lockstepTimeout d = lsHalt (postLs d 0x0012 (zeros 4 ++ leBytes 4 (d.ls.lseq - 2))) 4 := by
  obtain ⟨enabled, runs, later, waits, past⟩ := late
  refine if_pos ?_
  rw [enabled, runs, waits, past, decide_eq_true later]
  rfl

theorem lockstepTimeout_other (other : ¬ layerLate d) : lockstepTimeout d = d :=
  if_neg (by simpa only [layerLate, Bool.and_eq_true, beq_iff_eq, decide_eq_true_eq, Bool.not_eq_true', and_assoc] using other)

theorem reg_post (d : Dev) (ctx code : Nat) (c : Cause) (p : Bytes) (n : Nat) :
    (ctxOf (post d ctx code c p) n).reg = (ctxOf d n).reg := congrFun (congrArg Steady.regs (steady_post d ctx code c p)) n

/-- A lock-step event leaves the state registers of the contexts. -/
theorem reg_postLs (d : Dev) (code : Nat) (p : Bytes) (n : Nat) : (ctxOf (postLs d code p) n).reg = (ctxOf d n).reg := by
  refine (reg_post ..).trans ?_
  split <;> rfl

@[simp] theorem postLs_ls_ctx (d : Dev) (code : Nat) (p : Bytes) : (postLs d code p).ls.ctx = d.ls.ctx := by
  simp only [postLs, post_ls]
  split <;> rfl

@[simp] theorem lsHalt_ls_state (d : Dev) (st : Nat) : (lsHalt d st).ls.state = st := rfl

/-- The lock-step context stops where it was ACTIVE (R280, R281). -/
theorem reg_lsHalt (active : (ctxOf d d.ls.ctx).reg.st = ctxActive) (st : Nat) :
    (ctxOf (lsHalt d st) d.ls.ctx).reg = genTo (ctxOf d d.ls.ctx).reg ctxStopping := by
  simp only [lsHalt, modCtx, ctxOf_setCtx]
  exact congrArg Ctx.reg (if_pos active)

theorem does_lockstepTimeout {s : State} (left : lockstepTimeout s.dev = d) : Does .lockstepTimeout s d :=
  does_congr left (runDev_next s lockstepTimeout rfl)

end

/-! ### The statement -/

/-- Settles O32: a LAYER by whether it is marked at step 5 and by its lock-step, the time-out by whether the LAYER is late. -/
theorem layerCompletes : Obligations.LayerCompletes := by
  unfold Obligations.LayerCompletes
  refine ⟨?layer, ?late, ?inTime⟩
  case layer =>
    intro s q h ready layer passes issues ended d
    obtain rfl : h.q = q := headOf_q ready.head
    have does {e : Dev} (left : runLayer d h = e) : Does (.layer h.q) s e := does_layer ready layer passes issues ended left
    refine ⟨?one, fun unmarked alone => does (runLayer_alone alone unmarked),
      fun marked alone => does ((runLayer_marked marked).trans (layerFinish_alone alone)), ?lockstep⟩
    case one =>
      intro t unmarked alone one held closed e
      have sampled : layerSamples d h = e := (layerSamples_one alone one held).trans (samplePosted_closed closed _)
      exact sampled ▸ does (runLayer_alone alone unmarked)
    case lockstep =>
      intro marked locked runs later
      have finishes := runLayer_marked marked
      exact ⟨fun waits => does (finishes.trans (layerFinish_waits locked runs later waits)),
        fun compared same => does (finishes.trans (layerFinish_matches locked runs later compared same)),
        fun compared other => does (finishes.trans (layerFinish_mismatch locked runs later compared other))⟩
  case late =>
    intro s d enabled runs later waits past active
    have halts : Does .lockstepTimeout s (lsHalt (postLs d 0x0012 (zeros 4 ++ leBytes 4 (d.ls.lseq - 2))) 4) :=
      does_lockstepTimeout (lockstepTimeout_late ⟨enabled, runs, later, waits, past⟩)
    refine ⟨halts, _, halts, ?state, ?stopping, rfl, rfl⟩
    case state => simp only [settle_ls, lsHalt_ls_state]
    case stopping =>
      have still_active : (ctxOf (postLs d 0x0012 (zeros 4 ++ leBytes 4 (d.ls.lseq - 2))) d.ls.ctx).reg.st = ctxActive := by
        rw [reg_postLs, active]
      have stops := reg_lsHalt (d := postLs d 0x0012 (zeros 4 ++ leBytes 4 (d.ls.lseq - 2))) (by rwa [postLs_ls_ctx]) 4
      rw [postLs_ls_ctx, reg_postLs] at stops
      exact (settle_reg ..).trans stops
  case inTime =>
    intro s d in_time
    refine does_lockstepTimeout (lockstepTimeout_other ?_)
    rintro ⟨enabled, runs, later, waits, past⟩
    obtain ⟨w, at_layer, late⟩ := Option.any_eq_true _ _ |>.mp past
    obtain off | halted | first | compared | early := in_time
    · exact Bool.false_ne_true (off.symm.trans enabled)
    · exact halted runs
    · exact Nat.not_lt.mpr later first
    · exact Bool.false_ne_true (waits.symm.trans compared)
    · exact Nat.not_lt.mpr (early w at_layer) (of_decide_eq_true late)

end Sys2Proof.Machine
end

section
/-!
SUPPORT. Proof of the statement on requests for links, streams, listeners and ports (R291, R311, R363, R406, R443).
-/
namespace Sys2Proof.Machine
open Sys2Proof

/-! ### Writes to units of the signal die -/

/-- A write to an entry of the signal die that passes its rule's check does what the rule says, without crossing the haul road (R16). -/
theorem exec_writeOnSignalDie {c : Instr} {s : State} {f : DictFrame} {d : Dev} {x : Session} {i n : Nat} {rule : WriteRule}
    {mine : Bool} (writes : Writes s f d x i n) (row : exec c s = dictRow s f mine (opWrite rule)) (own : mine = true)
    (signal : tensorEntry i f.sub = false) (passes : rule.check { s with dev := d } n f.payload = none) :
    exec c s = .next (done f x (rule.apply { s with dev := d } n f.payload)) := by
  have stays : mgmtCross d f = d := by simp [mgmtCross, writes.index, signal]
  rw [row, dictRow_write writes rule own passes, stays]

/-- Such a write leaves the device that its rule comes to. -/
theorem writeDoes_onSignalDie {c : Instr} {s : State} {f : DictFrame} {d e : Dev} {x : Session} {i n : Nat} {rule : WriteRule}
    {mine : Bool} (writes : Writes s f d x i n) (row : exec c s = dictRow s f mine (opWrite rule)) (own : mine = true)
    (signal : tensorEntry i f.sub = false) (passes : rule.check { s with dev := d } n f.payload = none)
    (left : rule.apply { s with dev := d } n f.payload = { s with dev := e }) : WriteDoes c s f x e := by
  rw [WriteDoes, exec_writeOnSignalDie writes row own signal passes, left]

/-! ### The checks that pass -/

/-- A link may be asked for STOPPED, and for RUNNING where it runs or is STOPPED, valid and powered (R291). -/
theorem linkRule_check_none {s : State} {f : DictFrame} {l r : Nat} (idle : s.dev.test.running = none)
    (asked : asks f (linkOf s.dev l).reg r)
    (may : r = 0 ∨ (r = 2 ∧ ((linkOf s.dev l).reg.st = 2 ∨ ((linkOf s.dev l).reg.st = 0 ∧ lkL (linkOf s.dev l).rcd ≠ 0 ∧
      linkValid s.dev.fe.laneRate (4 ≤ l) (linkOf s.dev l).rcd = true ∧ linkPowered s.dev l = true)))) :
    linkRule.check s l f.payload = none := by
  have idle' := testIn_idle idle
  simp only [linkRule]
  refine requestCheck_none asked (by omega) (by omega) (idle' _) ?_
  obtain rfl | ⟨rfl, runs | ⟨stopped, used, valid, powered⟩⟩ := may
  · exact .inr (by simp [firstFail])
  · exact .inl ⟨runs.symm, rfl⟩
  · exact .inr (by simp [firstFail, stopped, used, valid, powered, idle'])

theorem streamRule_check_none {s : State} {f : DictFrame} {n : Nat} {tx : Bool} (idle : s.dev.test.running = none)
    (asked : asks f (if tx then (feTxOf s.dev n).reg else (feRxOf s.dev n).reg) 0) : (streamRule tx).check s n f.payload = none := by
  simp only [streamRule]
  exact requestCheck_none asked (by decide) (by decide) (testIn_idle idle _) (.inr (by simp [firstFail]))

theorem listenerRule_check_none {s : State} {f : DictFrame} {n : Nat} (idle : s.dev.test.running = none)
    (asked : asks f (lsnOf s.dev n).reg 0) : listenerRule.check s n f.payload = none := by
  simp only [listenerRule]
  exact requestCheck_none asked (by decide) (by decide) (testIn_idle idle _) (.inr (by simp [firstFail]))

/-- A port may be asked for DOWN where it is in service or DOWN, and for READY where it is READY, or DOWN and powered (R406). -/
theorem portRule_check_none {s : State} {f : DictFrame} {p r : Nat} (idle : s.dev.test.running = none)
    (asked : asks f (portOf s.dev p).reg r)
    (may : (r = 0 ∧ (portOf s.dev p).reg.st ≤ 2) ∨
      (r = 1 ∧ ((portOf s.dev p).reg.st = 1 ∨ ((portOf s.dev p).reg.st = 0 ∧ portPowered s.dev p = true)))) :
    portRule.check s p f.payload = none := by
  have idle' : (unitTested s.dev [0x04] p || testIn s.dev [0x0E]) = false := by simp [unitTested_idle idle, testIn_idle idle]
  simp only [portRule]
  refine requestCheck_none asked (by omega) (by omega) idle' ?_
  obtain ⟨rfl, serves⟩ | ⟨rfl, ready | ⟨down, powered⟩⟩ := may
  · have held : (portOf s.dev p).reg.st = 0 ∨ (portOf s.dev p).reg.st = 1 ∨ (portOf s.dev p).reg.st = 2 := by omega
    obtain down | ready | unlinked := held
    · exact .inl ⟨down.symm, rfl⟩
    · exact .inr (by simp [firstFail, ready])
    · exact .inr (by simp [firstFail, unlinked])
  · exact .inl ⟨ready.symm, rfl⟩
  · exact .inr (by simp [firstFail, down, powered])

/-! ### What the rules come to -/

theorem linkRule_apply_start (s : State) (l : Nat) {v : Bytes} (start : requested v = 2) :
    linkRule.apply s l v = { s with dev := if (linkOf s.dev l).reg.st = 0 then linkStart s.dev l else s.dev } := by
  simp [linkRule, onDevice, start]

theorem linkRule_apply_stop (s : State) (l : Nat) {v : Bytes} (stop : requested v = 0) :
    linkRule.apply s l v = { s with dev := if (linkOf s.dev l).reg.st = 0 then s.dev else linkStop s.dev l } := by
  simp [linkRule, onDevice, stop]

theorem streamRule_apply (tx : Bool) (s : State) (n : Nat) (v : Bytes) :
    (streamRule tx).apply s n v = { s with dev := if feState s.dev tx n = 0 then s.dev else requestStop s.dev tx n } := rfl

theorem listenerRule_apply (s : State) (n : Nat) (v : Bytes) :
    listenerRule.apply s n v = { s with
      dev := if (lsnOf s.dev n).reg.st = 1 then
          stopListener { s.dev with free := s.dev.free + 1 } n ((Config.freeBits s.dev.free).toNat % 256)
        else s.dev } := by
  simp only [listenerRule, onDevice, listenerStop, ne_eq, ite_not]
  rfl

theorem portRule_apply_ready (s : State) (p : Nat) {v : Bytes} (ready : requested v = 1) :
    portRule.apply s p v = { s with
      dev := if (portOf s.dev p).reg.st = 0 then portTo s.dev p (if (portOf s.dev p).lock then 1 else 2) else s.dev } := by
  simp [portRule, onDevice, ready, portReady]

theorem portRule_apply_down (s : State) (p : Nat) {v : Bytes} (down : requested v = 0) :
    portRule.apply s p v = { s with
      dev := if (portOf s.dev p).reg.st = 1 ∨ (portOf s.dev p).reg.st = 2 then movePorts (portTo s.dev p 0) p else s.dev } := by
  simp [portRule, onDevice, down]

/-! ### What the commands of the requests do -/

section
variable {s : State} {f : DictFrame} {d : Dev} {x : Session} {n : Nat} (idle : d.test.running = none)
include idle

theorem writeDoes_linkStart (writes : Writes s f d x 0x4012 n) (asked : asks f (linkOf d n).reg 2)
    (may : (linkOf d n).reg.st = 2 ∨ ((linkOf d n).reg.st = 0 ∧ lkL (linkOf d n).rcd ≠ 0 ∧
      linkValid d.fe.laneRate (4 ≤ n) (linkOf d n).rcd = true ∧ linkPowered d n = true)) :
    WriteDoes (.linkStartRequest f) s f x (if (linkOf d n).reg.st = 0 then linkStart d n else d) := by
  have start := requested_of_asks asked (by decide)
  exact writeDoes_onSignalDie writes rfl (by simp [writesTo_of_writes writes, start]) rfl
    (linkRule_check_none idle asked (.inr ⟨rfl, may⟩)) (linkRule_apply_start _ n start)

theorem writeDoes_linkStop (writes : Writes s f d x 0x4012 n) (asked : asks f (linkOf d n).reg 0) :
    WriteDoes (.linkStopRequest f) s f x (if (linkOf d n).reg.st = 0 then d else linkStop d n) := by
  have stop := requested_of_asks asked (by decide)
  exact writeDoes_onSignalDie writes rfl (by simp [writesTo_of_writes writes, stop]) rfl
    (linkRule_check_none idle asked (.inl rfl)) (linkRule_apply_stop _ n stop)

theorem writeDoes_rxStop (writes : Writes s f d x 0x4102 n) (asked : asks f (feRxOf d n).reg 0) :
    WriteDoes (.streamStopRequest f) s f x (if (feRxOf d n).reg.st = 0 then d else requestStop d false n) := by
  have rx : (f.index == 0x4103) = false := by rw [writes.index]; rfl
  exact writeDoes_onSignalDie (rule := streamRule false) writes (by rw [← rx]; rfl) (by simp [writesTo_of_writes writes]) rfl
    (streamRule_check_none idle asked) (streamRule_apply ..)

theorem writeDoes_txStop (writes : Writes s f d x 0x4103 n) (asked : asks f (feTxOf d n).reg 0) :
    WriteDoes (.streamStopRequest f) s f x (if (feTxOf d n).reg.st = 0 then d else requestStop d true n) := by
  have tx : (f.index == 0x4103) = true := by rw [writes.index]; rfl
  exact writeDoes_onSignalDie (rule := streamRule true) writes (by rw [← tx]; rfl) (by simp [writesTo_of_writes writes]) rfl
    (streamRule_check_none idle asked) (streamRule_apply ..)

theorem writeDoes_listenerStop (writes : Writes s f d x 0x4501 n) (asked : asks f (lsnOf d n).reg 0) :
    WriteDoes (.listenerStopRequest f) s f x (if (lsnOf d n).reg.st = 1 then
      stopListener { d with free := d.free + 1 } n ((Config.freeBits d.free).toNat % 256) else d) :=
  writeDoes_onSignalDie writes rfl (writesTo_of_writes writes) rfl (listenerRule_check_none idle asked) (listenerRule_apply ..)

theorem writeDoes_portDown (writes : Writes s f d x 0x1100 n) (asked : asks f (portOf d n).reg 0) (serves : (portOf d n).reg.st ≤ 2) :
    WriteDoes (.portDownRequest f) s f x
      (if (portOf d n).reg.st = 1 ∨ (portOf d n).reg.st = 2 then movePorts (portTo d n 0) n else d) := by
  have down := requested_of_asks asked (by decide)
  exact writeDoes_onSignalDie writes rfl (by simp [writesTo_of_writes writes, down]) rfl
    (portRule_check_none idle asked (.inl ⟨rfl, serves⟩)) (portRule_apply_down _ n down)

theorem writeDoes_portReady (writes : Writes s f d x 0x1100 n) (asked : asks f (portOf d n).reg 1)
    (may : (portOf d n).reg.st = 1 ∨ ((portOf d n).reg.st = 0 ∧ portPowered d n = true)) :
    WriteDoes (.portReadyRequest f) s f x
      (if (portOf d n).reg.st = 0 then portTo d n (if (portOf d n).lock then 1 else 2) else d) := by
  have ready := requested_of_asks asked (by decide)
  exact writeDoes_onSignalDie writes rfl (by simp [writesTo_of_writes writes, ready]) rfl
    (portRule_check_none idle asked (.inr ⟨rfl, may⟩)) (portRule_apply_ready _ n ready)

end

/-- A command whose effect depends on a condition, where the condition holds. -/
theorem writeDoes_pos {c : Instr} {s : State} {f : DictFrame} {x : Session} {d e : Dev} {p : Prop} [Decidable p] (holds : p)
    (does : WriteDoes c s f x (if p then d else e)) : WriteDoes c s f x d := by rwa [if_pos holds] at does

/-- A command whose effect depends on a condition, where the condition fails. -/
theorem writeDoes_neg {c : Instr} {s : State} {f : DictFrame} {x : Session} {d e : Dev} {p : Prop} [Decidable p] (fails : ¬ p)
    (does : WriteDoes c s f x (if p then d else e)) : WriteDoes c s f x e := by rwa [if_neg fails] at does

/-- Settles O18: by the rule of the unit's state register, in the state it holds. -/
theorem linkRequests : Obligations.LinkRequests := by
  unfold Obligations.LinkRequests
  intro s f d x n idle
  refine ⟨?linkStart, ?linkStop, ?rxStop, ?txStop, ?listenerStop, ?portDown, ?portReady, ?linkRuns, ?linkStopped, ?rxStopped, ?txStopped,
    ?listenerStopped, ?portIsDown, ?portIsReady⟩
  case linkStart =>
    intro writes asked stopped used valid powered
    exact writeDoes_pos stopped (writeDoes_linkStart idle writes asked (.inr ⟨stopped, used, valid, powered⟩))
  case linkStop => exact fun writes asked moves => writeDoes_neg moves (writeDoes_linkStop idle writes asked)
  case rxStop => exact fun writes asked bound => writeDoes_neg bound (writeDoes_rxStop idle writes asked)
  case txStop => exact fun writes asked bound => writeDoes_neg bound (writeDoes_txStop idle writes asked)
  case listenerStop => exact fun writes asked runs => writeDoes_pos runs (writeDoes_listenerStop idle writes asked)
  case portDown => exact fun writes asked serves => writeDoes_pos serves (writeDoes_portDown idle writes asked (by omega))
  case portReady =>
    exact fun writes asked down powered => writeDoes_pos down (writeDoes_portReady idle writes asked (.inr ⟨down, powered⟩))
  case linkRuns => exact fun writes asked runs => writeDoes_neg (by omega) (writeDoes_linkStart idle writes asked (.inl runs))
  case linkStopped => exact fun writes asked stopped => writeDoes_pos stopped (writeDoes_linkStop idle writes asked)
  case rxStopped => exact fun writes asked stopped => writeDoes_pos stopped (writeDoes_rxStop idle writes asked)
  case txStopped => exact fun writes asked stopped => writeDoes_pos stopped (writeDoes_txStop idle writes asked)
  case listenerStopped => exact fun writes asked stopped => writeDoes_neg (by omega) (writeDoes_listenerStop idle writes asked)
  case portIsDown => exact fun writes asked down => writeDoes_neg (by omega) (writeDoes_portDown idle writes asked (by omega))
  case portIsReady => exact fun writes asked ready => writeDoes_neg (by omega) (writeDoes_portReady idle writes asked (.inl ready))

end Sys2Proof.Machine
end

section
/-!
SUPPORT. Proof of the statement on writes that act on masks, pre-distortion, attestation and self-tests (R299, R301, R457, R473 to
R476).
-/
namespace Sys2Proof.Machine
open Sys2Proof

/-! ### The checks that pass -/

theorem rearmRule_check_none {s : State} {n : Nat} {v : Bytes} (rearm : beNat v = 1) : rearmRule.check s n v = none := by
  simp [rearmRule, firstFail, rearm]

theorem swapRule_check_none {s : State} {n : Nat} {v : Bytes} (swap : beNat v = 1) : swapRule.check s n v = none := by
  simp [swapRule, firstFail, swap]

theorem attestRule_check_none {s : State} {n : Nat} {v : Bytes} (length : v.length = 32) (same : s.trust.idMismatch = false)
    (ready : s.trust.attestReady = true) (idle : s.trust.signing = none) : attestRule.check s n v = none := by
  simp [attestRule, firstFail, length, same, ready, idle]

/-- The boot self-test, whose only unit is the device, passes the checks of a start where no test runs (R475). -/
theorem stStartCheck_boot {d : Dev} {v : Bytes} (test : stTest v = 1) (mask : stMask v = 1) (small : beNat v < 16777216)
    (idle : d.test.running = none) : stStartCheck d v = none := by
  simp [stStartCheck, firstFail, test, mask, small, idle, stReady, stMaskOk, stOut]

theorem stCancelCheck_none {d : Dev} {v : Bytes} {t : TestSt} (cancel : beNat v = 0) (runs : d.test.running = some t)
    (other : t.test ≠ 0x0E) : stCancelCheck d v = none := by
  simp [stCancelCheck, firstFail, stMask, cancel, runs, testIn, other]

theorem selfTestRule_check_start {s : State} {n : Nat} {v : Bytes} (start : stTest v ≠ 0) :
    selfTestRule.check s n v = stStartCheck s.dev v := if_neg start

theorem selfTestRule_check_cancel {s : State} {n : Nat} {v : Bytes} (cancel : stTest v = 0) :
    selfTestRule.check s n v = stCancelCheck s.dev v := if_pos cancel

/-! ### What the rules come to -/

theorem selfTestRule_apply_start {s : State} {n : Nat} {v : Bytes} (start : stTest v ≠ 0) :
    selfTestRule.apply s n v = stStart s (stTest v) (stMask v) := if_neg start

theorem selfTestRule_apply_cancel {s : State} {n : Nat} {v : Bytes} (cancel : stTest v = 0) :
    selfTestRule.apply s n v = { s with dev := stCancel s.dev } := if_pos cancel

theorem stCancel_some {d : Dev} {t : TestSt} (runs : d.test.running = some t) :
    stCancel d = { d with test := { d.test with running := some { t with cancel := true } } } := by
  rw [stCancel, runs]

/-- The record of a test that begins now. -/
def begunTest (d : Dev) (t m : Nat) : TestSt :=
  { test := t, mask := m, done := 0, failed := 0, transient := 0, detail := 0, start := d.time.ticks, cancel := false }

/-- A test other than those of the road and of the logic only begins to read RUNNING. -/
theorem stStart_other (s : State) {t : Nat} (m : Nat) (road : t ≠ 5) (scan : t ≠ 0x0E) :
    stStart s t m = { s with dev := { s.dev with test := { s.dev.test with running := some (begunTest s.dev t m) } } } := by
  simp [stStart, begunTest, road, scan]

/-! ### The statement -/

/-- A request that starts a self-test and passes its checks does what `stStart` says. -/
theorem exec_selftestStart {s : State} {f : DictFrame} {d : Dev} {x : Session} {n : Nat} (writes : Writes s f d x 0x7000 n)
    (start : stTest f.payload ≠ 0) (passes : stStartCheck d f.payload = none) :
    exec (.selftestStart f) s = .next (done f x (stStart { s with dev := d } (stTest f.payload) (stMask f.payload))) := by
  rw [exec_writeOnSignalDie (rule := selfTestRule) writes rfl (by simp [writesTo_of_writes writes, start]) rfl
    ((selfTestRule_check_start start).trans passes), selfTestRule_apply_start start]

/-- Settles O22: each write passes its rule's check and leaves what the rule comes to. -/
theorem unitWrites : Obligations.UnitWrites := by
  unfold Obligations.UnitWrites
  intro s f d x n s1
  refine ⟨?starts, ?rearm, ?swap, ?attest, ?boot, ?cancel⟩
  case starts => exact fun writes start passes => exec_selftestStart writes start passes
  case rearm =>
    intro writes rearm
    exact writeDoes_onSignalDie (rule := rearmRule) writes rfl (writesTo_of_writes writes) rfl (rearmRule_check_none rearm) rfl
  case swap =>
    intro writes swap
    exact writeDoes_onSignalDie (rule := swapRule) writes rfl (writesTo_of_writes writes) rfl (swapRule_check_none swap) rfl
  case attest =>
    intro writes length same ready idle
    exact exec_writeOnSignalDie (rule := attestRule) writes rfl (writesTo_of_writes writes) rfl
      (attestRule_check_none length same ready idle)
  case boot =>
    intro writes asked idle t
    have test : stTest f.payload = 1 := by rw [stTest, asked]
    have mask : stMask f.payload = 1 := by rw [stMask, asked]
    have passes := stStartCheck_boot test mask (by omega) idle
    rw [WriteDoes, exec_selftestStart writes (by omega) passes, test, mask, stStart_other _ _ (by decide) (by decide)]
    rfl
  case cancel =>
    intro t writes asked runs other
    have cancel : stTest f.payload = 0 := by rw [stTest, asked]
    exact writeDoes_onSignalDie writes rfl (by simp [writesTo_of_writes writes, cancel]) rfl
      ((selfTestRule_check_cancel cancel).trans (stCancelCheck_none asked runs other))
      (by rw [selfTestRule_apply_cancel cancel, stCancel_some runs])

end Sys2Proof.Machine
end

section
/-!
SUPPORT. Proof of the statement on JESD204C lanes and links (R288, R291 to R294).
-/
namespace Sys2Proof.Machine
open Sys2Proof

/-- A command that runs on the device, on units that exist, leaves what it runs to. -/
theorem does_runDev {c : Instr} {s : State} {d : Dev} {f : Dev → Dev} {ok : Bool} (row : exec c s = runDev ok s f) (units : ok = true)
    (left : f s.dev = d) : Does c s d := by
  rw [Does, row, runDev_next s f units, left]

/-! ### What a change of links and lanes leaves -/

/-- What a change of one entry of a list does not touch reads the same everywhere. -/
theorem lget_lmod_field {α β : Type} (field : α → β) {f : α → α} (keeps : ∀ a, field (f a) = field a) (d : α) (l : List α)
    (j k : Nat) : field (lget d (lmod l k f) j) = field (lget d l j) := by
  by_cases same : j = k
  · subst same
    by_cases inside : j < l.length
    · rw [lget_lmod_same d l j f inside, keeps]
    · rw [lget, lget, List.getD_eq_getElem?_getD, List.getD_eq_getElem?_getD, List.getElem?_eq_none (by rw [length_lmod]; omega),
        List.getElem?_eq_none (by omega)]
  · rw [lget_lmod_ne d l f same]

theorem linkOf_modLink_field {β : Type} (field : LinkSt → β) {f : LinkSt → LinkSt} (keeps : ∀ k, field (f k) = field k) (d : Dev)
    (l j : Nat) : field (linkOf (modLink d l f) j) = field (linkOf d j) := lget_lmod_field field keeps ..

theorem laneOf_modLane_field {β : Type} (field : LaneSt → β) {f : LaneSt → LaneSt} (keeps : ∀ x, field (f x) = field x) (d : Dev)
    (p j : Nat) : field (laneOf (modLane d p f) j) = field (laneOf d j) := lget_lmod_field field keeps ..

/-- The next multiblock of a link depends on its record, its base and the tick alone. -/
theorem nextMultiblock_congr {d e : Dev} {l : Nat} (time : e.time = d.time) (base : (linkOf e l).base = (linkOf d l).base)
    (rcd : (linkOf e l).rcd = (linkOf d l).rcd) : nextMultiblock e l = nextMultiblock d l := by
  rw [nextMultiblock, nextMultiblock, time, base, rcd]

section
variable {d : Dev} {p l : Nat}

/-! ### Lock (R291, R292) -/

/-- The device on which lane `p` has joined link `l`. -/
def lockGained (d : Dev) (l p : Nat) : Dev :=
  modLane (modLink d l fun k => { k with locked := insSorted k.locked p, since := max k.since d.time.ticks }) p
    fun x => { x with second := false }

/-- The device on which lane `p`, locked again, has marked the multiblocks `m` to `n - 1` of link `l`, which never came. -/
def missedMarked (e : Dev) (l p m n : Nat) : Dev :=
  modLane (modLink e l fun k => { k with badMb := ((List.range (n - m)).map fun i => m + i).foldl insSorted k.badMb }) p
    fun x => { x with mb := n, bad := false }

theorem laneLock_unused (unused : linkOfLane d p = none) : laneLock d p = d := by rw [laneLock, unused]

theorem lockLoss_unused (unused : linkOfLane d p = none) : lockLoss d p = d := by rw [lockLoss, unused]

theorem multiblock_unused (unused : linkOfLane d p = none) (ok : Bool) : multiblock d p ok = d := by rw [multiblock, unused]

section
variable (used : linkOfLane d p = some l)
include used

theorem laneLock_held (held : (laneOf d p).reg.st = 3 ∨ laneLocked d l p = true) : laneLock d p = d := by
  simp only [laneLock, used]
  exact if_pos (by simpa [laneLocked] using held)

theorem laneLock_gains (serves : (laneOf d p).reg.st ≠ 3) (unlocked : laneLocked d l p = false) :
    laneLock d p = if (linkOf d l).reg.st = 2 then
        let m := (laneOf (lockGained d l p) p).mb
        missedMarked (lockGained d l p) l p m (max m (nextMultiblock (lockGained d l p) l))
      else lockGained d l p := by
  simp only [laneLock, used]
  exact if_neg (by simpa [laneLocked, serves] using unlocked)

theorem laneLock_aligning (serves : (laneOf d p).reg.st ≠ 3) (unlocked : laneLocked d l p = false) (waits : (linkOf d l).reg.st ≠ 2) :
    laneLock d p = lockGained d l p := by
  rw [laneLock_gains used serves unlocked, if_neg waits]

theorem laneLock_running (serves : (laneOf d p).reg.st ≠ 3) (unlocked : laneLocked d l p = false) (runs : (linkOf d l).reg.st = 2) :
    laneLock d p = missedMarked (lockGained d l p) l p (laneOf d p).mb (max (laneOf d p).mb (nextMultiblock d l)) := by
  have mb : (laneOf (lockGained d l p) p).mb = (laneOf d p).mb := laneOf_modLane_field LaneSt.mb (by intro x; rfl) ..
  have next : nextMultiblock (lockGained d l p) l = nextMultiblock d l :=
    nextMultiblock_congr rfl (linkOf_modLink_field LinkSt.base (by intro k; rfl) d l l)
      (linkOf_modLink_field LinkSt.rcd (by intro k; rfl) d l l)
  rw [laneLock_gains used serves unlocked, if_pos runs, mb, next]

theorem lockLoss_locked (locked : laneLocked d l p = true) :
    lockLoss d p = laneFails (modLink d l fun k => { k with locked := delSorted k.locked p }) p := by
  simp only [lockLoss, used, locked, if_true]

theorem lockLoss_unlocked (unlocked : laneLocked d l p = false) : lockLoss d p = d := by
  simp only [lockLoss, used, unlocked, Bool.false_eq_true, if_false]

/-! ### Multiblocks (R293) -/

/-- The device on which the next multiblock of lane `p` on link `l` has failed. -/
def multiblockFailed (d : Dev) (l p : Nat) : Dev :=
  modLane (modLink d l fun k => { k with badMb := insSorted k.badMb (laneOf d p).mb }) p fun x => { x with mb := x.mb + 1, bad := true }

theorem multiblock_early
    (early : (linkOf d l).reg.st ≠ 2 ∨ laneLocked d l p = false ∨ d.time.ticks < multiblockEnd (linkOf d l) (laneOf d p).mb)
    (ok : Bool) : multiblock d p ok = d := by
  simp only [multiblock, used]
  exact if_pos (by simpa [or_assoc] using early)

theorem multiblock_due (runs : (linkOf d l).reg.st = 2) (locked : laneLocked d l p = true)
    (due : multiblockEnd (linkOf d l) (laneOf d p).mb ≤ d.time.ticks) (ok : Bool) :
    multiblock d p ok = if ok then
        modLane d p fun x => { x with
          mb := x.mb + 1, bad := false, transients := if x.bad then satAdd 32 x.transients 1 else x.transients }
      else if (laneOf d p).bad then jesdLaneOut (multiblockFailed d l p) p else multiblockFailed d l p := by
  have now : ¬ ((linkOf d l).reg.st ≠ 2 || !laneLocked d l p || d.time.ticks < multiblockEnd (linkOf d l) (laneOf d p).mb) = true := by
    simp [runs, locked, due]
  simp only [multiblock, used]
  exact if_neg now

end

/-! ### Attempts at lock (R292) -/

theorem laneFails_first (first : (laneOf d p).second = false) :
    laneFails d p = modLane d p fun x => { x with second := true, since := d.time.ticks } := by
  rw [laneFails, if_neg (Bool.eq_false_iff.mp first)]

theorem laneFails_second (second : (laneOf d p).second = true) : laneFails d p = jesdLaneOut d p := if_pos second

/-! ### Release (R289, R291) -/

/-- A link that waits for its release does not change. -/
theorem lemcRelease_waits (late : Option Nat)
    (waits : (linkOf d l).reg.st ≠ 1 ∨ allLocked d l = false ∨ releaseBoundary (linkOf d l) = none) : lemcRelease d l late = d := by
  rw [lemcRelease]
  cases boundary : releaseBoundary (linkOf d l) with
  | none => rfl
  | some b =>
    have other : (linkOf d l).reg.st ≠ 1 ∨ allLocked d l = false := by simpa [boundary] using waits
    exact if_pos (by obtain aligned | unlocked := other <;> simp [*])

section
variable {b : Nat} {late : Option Nat} (aligning : (linkOf d l).reg.st = 1) (boundary : releaseBoundary (linkOf d l) = some b)
  (locked : allLocked d l = true) (due : b + (if l < 4 then lkRelease (linkOf d l).rcd else 0) ≤ d.time.ticks)
include aligning boundary locked due

/-- The release that has come is decided by the late lane. -/
theorem lemcRelease_due : lemcRelease d l late =
    (late.filter fun p => l < 4 && (lkLanes (linkOf d l).rcd).contains p).elim
      (linkBegins (modLink (linkTo d l 2) l fun k => { k with base := b, badMb := [] }) l) fun p => linkFail d l p 2 := by
  have now : ¬ ((linkOf d l).reg.st ≠ 1 || !allLocked d l ||
      d.time.ticks < b + (if l < 4 then lkRelease (linkOf d l).rcd else 0)) = true := by
    simp [aligning, locked, due]
  simp only [lemcRelease, boundary]
  refine (if_neg now).trans ?_
  cases late.filter fun p => l < 4 && (lkLanes (linkOf d l).rcd).contains p <;> rfl

theorem lemcRelease_runs (none_late : ∀ p, late = some p → 4 ≤ l ∨ p ∉ lkLanes (linkOf d l).rcd) :
    lemcRelease d l late = linkBegins (modLink (linkTo d l 2) l fun k => { k with base := b, badMb := [] }) l := by
  have in_time : (late.filter fun p => l < 4 && (lkLanes (linkOf d l).rcd).contains p) = none := by
    rw [Option.filter_eq_none_iff]
    intro p names
    obtain transmit | other := none_late p names
    · simp [Nat.not_lt.mpr transmit]
    · simp [other]
  rw [lemcRelease_due aligning boundary locked due, in_time, Option.elim_none]

theorem lemcRelease_late (receive : l < 4) (used : p ∈ lkLanes (linkOf d l).rcd) (names : late = some p) :
    lemcRelease d l late = linkFail d l p 2 := by
  have is_late : (late.filter fun p => l < 4 && (lkLanes (linkOf d l).rcd).contains p) = some p := by
    rw [names, Option.filter_some, if_pos (by simp [receive, used])]
  rw [lemcRelease_due aligning boundary locked due, is_late, Option.elim_some]

end
end

/-! ### The commands of lanes and links -/

section
variable {s : State} {p : Nat} {d : Dev}

theorem does_laneLock (unit : p < 32) (left : (if p < 16 then laneLock s.dev p else s.dev) = d) : Does (.laneLock p) s d :=
  does_runDev (f := fun d => if p < 16 then laneLock d p else d) rfl (decide_eq_true unit) left

theorem does_laneLockLoss (unit : p < 32) (left : (if p < 16 then lockLoss s.dev p else s.dev) = d) : Does (.laneLockLoss p) s d :=
  does_runDev (f := fun d => if p < 16 then lockLoss d p else d) rfl (decide_eq_true unit) left

theorem does_jesdMultiblock {ok : Bool} (unit : p < 32) (left : (if p < 16 then multiblock s.dev p ok else s.dev) = d) :
    Does (.jesdMultiblock p ok) s d :=
  does_runDev (f := fun d => if p < 16 then multiblock d p ok else d) rfl (decide_eq_true unit) left

theorem does_laneLockTimeout (unit : p < 32) (left : (if p < 16 && lockOver s.dev p then laneFails s.dev p else s.dev) = d) :
    Does (.laneLockTimeout p) s d :=
  does_runDev (f := fun d => if p < 16 && lockOver d p then laneFails d p else d) rfl (decide_eq_true unit) left

theorem does_laneLockTimeout_past (receive : p < 16) (past : lockOver s.dev p = true) (left : laneFails s.dev p = d) :
    Does (.laneLockTimeout p) s d :=
  does_laneLockTimeout (by omega) ((if_pos (Bool.and_eq_true_iff.mpr ⟨decide_eq_true receive, past⟩)).trans left)

/-! Receive lanes -/

theorem does_laneLock_receive (receive : p < 16) (left : laneLock s.dev p = d) : Does (.laneLock p) s d :=
  does_laneLock (by omega) ((if_pos receive).trans left)

theorem does_laneLockLoss_receive (receive : p < 16) (left : lockLoss s.dev p = d) : Does (.laneLockLoss p) s d :=
  does_laneLockLoss (by omega) ((if_pos receive).trans left)

theorem does_jesdMultiblock_receive {ok : Bool} (receive : p < 16) (left : multiblock s.dev p ok = d) :
    Does (.jesdMultiblock p ok) s d :=
  does_jesdMultiblock (by omega) ((if_pos receive).trans left)

/-- A transmit lane has no lock to gain or lose, and no multiblocks to check. -/
theorem does_transmitLane (unit : p < 32) (transmit : ¬ p < 16) (ok : Bool) :
    Does (.laneLock p) s s.dev ∧ Does (.laneLockLoss p) s s.dev ∧ Does (.jesdMultiblock p ok) s s.dev :=
  ⟨does_laneLock unit (if_neg transmit), does_laneLockLoss unit (if_neg transmit), does_jesdMultiblock unit (if_neg transmit)⟩

theorem does_lemcRelease {l : Nat} {late : Option Nat} (unit : l < 8) (left : lemcRelease s.dev l late = d) :
    Does (.lemcRelease l late) s d :=
  does_runDev (f := fun d => lemcRelease d l late) rfl (decide_eq_true unit) left

end

/-! ### The statement -/

/-- Settles O39: a lane by the link that uses it, its lock and its further attempt; a link by its boundary and its late lane. -/
theorem jesdLinks : Obligations.JesdLinks := by
  unfold Obligations.JesdLinks
  intro s d
  refine ⟨?lane, ?inTime, ?unused, ?release, ?waits⟩
  case lane =>
    intro p l receive used k x
    refine ⟨?gains, ?held, ?late, ?lateAgain, ?loses, ?unlocked, ?due, ?early⟩
    case gains =>
      intro serves unlocked g
      exact ⟨fun waits => does_laneLock_receive receive (laneLock_aligning used serves unlocked waits),
        fun runs => does_laneLock_receive receive (laneLock_running used serves unlocked runs)⟩
    case held => exact fun held => does_laneLock_receive receive (laneLock_held used held)
    case late => exact fun past first => does_laneLockTimeout_past receive past (laneFails_first first)
    case lateAgain => exact fun past second => does_laneLockTimeout_past receive past (laneFails_second second)
    case loses =>
      intro locked lost
      have loses {e : Dev} (fails : laneFails lost p = e) : Does (.laneLockLoss p) s e :=
        does_laneLockLoss_receive receive ((lockLoss_locked used locked).trans fails)
      exact ⟨fun first => loses (laneFails_first (d := lost) first), fun second => loses (laneFails_second (d := lost) second)⟩
    case unlocked => exact fun unlocked => does_laneLockLoss_receive receive (lockLoss_unlocked used unlocked)
    case due =>
      intro runs locked due failed
      have checked (ok : Bool) := multiblock_due used runs locked due ok
      exact ⟨does_jesdMultiblock_receive receive (checked true),
        fun good => does_jesdMultiblock_receive receive ((checked false).trans (if_neg (Bool.eq_false_iff.mp good))),
        fun bad => does_jesdMultiblock_receive receive ((checked false).trans (if_pos bad))⟩
    case early => exact fun ok early => does_jesdMultiblock_receive receive (multiblock_early used early ok)
  case inTime =>
    intro p unit in_time
    refine does_laneLockTimeout unit (if_neg ?_)
    rw [Bool.and_eq_true, decide_eq_true_eq]
    rintro ⟨receive, past⟩
    obtain early | transmit := in_time
    · exact Bool.false_ne_true (early.symm.trans past)
    · exact Nat.not_le.mpr receive transmit
  case unused =>
    intro p ok unit unused
    by_cases receive : p < 16
    · have unused := unused.resolve_right (Nat.not_le.mpr receive)
      exact ⟨does_laneLock_receive receive (laneLock_unused unused),
        does_laneLockLoss_receive receive (lockLoss_unused unused),
        does_jesdMultiblock_receive receive (multiblock_unused unused ok)⟩
    · exact does_transmitLane unit receive ok
  case release =>
    intro l b unit aligning boundary locked due
    exact ⟨fun late none_late => does_lemcRelease unit (lemcRelease_runs aligning boundary locked due none_late),
      fun p receive lane => does_lemcRelease unit (lemcRelease_late aligning boundary locked due receive lane rfl)⟩
  case waits => exact fun l late unit waits => does_lemcRelease unit (lemcRelease_waits late waits)

end Sys2Proof.Machine
end

section
/-!
SUPPORT. What the operations of queues, rings, listeners and policy clamps leave of the radio front end: all of it.
-/
namespace Sys2Proof.Machine
open Sys2Proof

theorem fe_of_steady {d e : Dev} (same : steady e = steady d) : e.fe = d.fe := congrArg Steady.fe same

/-! ### Rings and clamps -/

@[simp] theorem slotGive_fe (d : Dev) (r : Nat) : (slotGive d r).fe = d.fe := fe_of_steady (steady_slotGive d r)

@[simp] theorem feClamp_fe (d : Dev) (on : Bool) (ctx idx sub : Nat) : (feClamp d on ctx idx sub).fe = d.fe := by
  unfold feClamp
  split
  · exact fe_of_steady (steady_clampAs ..)
  · rfl

@[simp] theorem memClampAs_fe (d : Dev) (ctx key idx sub : Nat) : (memClampAs d ctx key idx sub).fe = d.fe := by
  unfold memClampAs
  split
  · rfl
  · exact fe_of_steady (steady_clampAs ..)

@[simp] theorem memClampFree_fe (d : Dev) (ctx key sub : Nat) : (memClampFree d ctx key sub).fe = d.fe := by
  unfold memClampFree
  split
  · rfl
  · exact memClampAs_fe _ ctx key _ sub

@[simp] theorem pinLimits_fe (d : Dev) : (pinLimits d).fe = d.fe := by
  refine foldl_keeps Dev.fe (fun d b => foldl_keeps Dev.fe (fun d c => ?_) _ d) _ d
  split
  · exact memClampFree_fe d c pinKey (b + 1)
  · rfl

/-! ### Operations that end -/

@[simp] theorem modOp_fe (d : Dev) (id : Nat) (f : Op → Op) : (modOp d id f).fe = d.fe := by
  unfold modOp
  split <;> rfl

@[simp] theorem returnHome_fe (d : Dev) (l : Nat) : (returnHome d l).fe = d.fe := by
  refine (pinLimits_fe _).trans ?_
  split <;> rfl

@[simp] theorem checkReturn_fe (d : Dev) : (checkReturn d).fe = d.fe := by
  refine foldl_keeps Dev.fe (fun d e => ?_) _ d
  split
  · exact returnHome_fe d e.1
  · rfl

@[simp] theorem countUsage_fe (d : Dev) (o : Op) : (countUsage d o).fe = d.fe := by
  unfold countUsage
  split
  · split <;> rfl
  · rfl

@[simp] theorem completeOp_fe (d : Dev) (id : Nat) : (completeOp d id).fe = d.fe := by
  unfold completeOp
  split
  · rfl
  · rw [checkReturn_fe, finishDesc_fe]
    exact countUsage_fe d _

@[simp] theorem endUnitOp_fe (d : Dev) (op : Option Nat) : (endUnitOp d op).fe = d.fe := by
  cases op with
  | none => rfl
  | some id => exact (completeOp_fe _ id).trans (modOp_fe d id _)

@[simp] theorem endStreamOps_fe (d : Dev) (armed : Bool) (b : Binding) : (endStreamOps d armed b).fe = d.fe := by
  refine (foldl_keeps Dev.fe (fun d (s : Nat × Nat) => endUnitOp_fe d (some s.2)) _ _).trans ?_
  split
  · exact endUnitOp_fe d b.op
  · rfl

@[simp] theorem postLate_fe (d : Dev) (ctx : Nat) (c : Cause) (count tick : Nat) : (postLate d ctx c count tick).fe = d.fe := rfl

/-! ### Listeners -/

@[simp] theorem stopListener_fe (d : Dev) (n reason : Nat) : (stopListener d n reason).fe = d.fe := by
  simp only [stopListener]
  split
  · rfl
  · rw [post_fe, freeProd_fe, setLsn_fe]
    exact foldl_keeps Dev.fe (f := dropDem) (fun _ _ => rfl) _ d

@[simp] theorem stopListeners_fe (d : Dev) (stream : Nat) : (stopListeners d stream).fe = d.fe :=
  foldl_keeps Dev.fe (fun d n => stopListener_fe d n 2) _ d

@[simp] theorem hear_fe (d : Dev) (stream tick : Nat) (z : Cplx) : (hear d stream tick z).fe = d.fe :=
  foldl_keeps Dev.fe (f := fun d n => setLsn d n { lsnOf d n with heard := (tick, z) :: (lsnOf d n).heard }) (fun _ _ => rfl) _ d

end Sys2Proof.Machine
end

section
/-!
SUPPORT. Proof of the statement on detectors and correlators (R305 to R308).
-/
namespace Sys2Proof.Machine
open Sys2Proof

/-! ### FE_DETECT (R306, R307, R315) -/

theorem detOf_congr {d e : Dev} (same : d.fe = e.fe) (n : Nat) : detOf d n = detOf e n := by rw [detOf, detOf, same]

@[simp] theorem corrOf_setDet (d : Dev) (n : Nat) (x : DetSt) (c : Nat) : corrOf (setDet d n x) c = corrOf d c := rfl

/-- The state of a detector that an FE_DETECT binds. -/
theorem detOf_startDetect (d : Dev) (h : Head) :
    detOf (startDetect d h) (feUnit h.desc) = { detOf d (feUnit h.desc) with
      on := true, ctx := h.ctx, lc := h.lc, ring := feRing h.desc, corr := if feCorr h.desc < 16 then some (feCorr h.desc) else none,
      filled := false, phase := .idle, win := [], seen := 0, run := 0, first := (0, 0), held := 0, noiseDue := false,
      detDue := false, endDue := false } := by
  simp only [startDetect]
  rw [detOf_congr (completeHead_fe _ h), detOf_congr (bindProd_fe ..)]
  split <;> exact detOf_setDet ..

theorem famDetectOff_check_none {d : Dev} {h : Head} (clear : feReserved h.desc = false) (receive : feDir h.desc = false)
    (corr : feCorr h.desc ≤ 15 ∨ feCorr h.desc = 0xFF) : famDetectOff.check d h = none := by
  have named : ¬ (15 < feCorr h.desc ∧ ¬ feCorr h.desc = 0xFF) := by omega
  simp only [famDetectOff, reasonIf, clear, receive, Bool.false_or, Bool.and_eq_true, decide_eq_true_eq, bne_iff_ne, ne_eq, named,
    if_false]

/-! ### The noise floor and the threshold (R306) -/

section
variable {d : Dev} {n : Nat}

theorem noiseUpdate_idle (idle : (detOf d n).noiseDue = false) : noiseUpdate d n = d := by
  simp only [noiseUpdate, idle, Bool.not_false, if_true]

theorem noiseUpdate_first (due : (detOf d n).noiseDue = true) (first : (detOf d n).seen = 0) :
    noiseUpdate d n =
      formThreshold (setDet d n { detOf d n with noiseDue := false, noise := max (detOf d n).p 1, seen := 0 }) n := by
  have floor : (max ((detOf d n).p : Int) 1).toNat = max (detOf d n).p 1 := by omega
  simp only [noiseUpdate, due, Bool.not_true, Bool.false_eq_true, if_false, first, if_true, floor]

theorem noiseUpdate_later (due : (detOf d n).noiseDue = true) (later : (detOf d n).seen ≠ 0) :
    noiseUpdate d n = formThreshold (setDet d n { detOf d n with
      noiseDue := false,
      noise := (((detOf d n).noise : Int) + rna (((detOf d n).p : Int) - (detOf d n).noise) (2 ^ dtShift (detOf d n).cfg)).toNat,
      seen := 0 }) n := by
  simp only [noiseUpdate, due, Bool.not_true, Bool.false_eq_true, if_false, later]

/-- The hardware's threshold of a detector, moved into its envelope. -/
def clampedThreshold (x : DetSt) : Nat :=
  if hwThreshold x < leAt x.env 8 4 then leAt x.env 8 4 else if leAt x.env 12 4 < hwThreshold x then leAt x.env 12 4 else hwThreshold x

theorem clampedThreshold_in_envelope {x : DetSt} (ordered : leAt x.env 8 4 ≤ leAt x.env 12 4) :
    leAt x.env 8 4 ≤ clampedThreshold x ∧ clampedThreshold x ≤ leAt x.env 12 4 := by
  unfold clampedThreshold
  split
  · exact ⟨Nat.le_refl _, ordered⟩
  · split <;> omega

/-- Forming a threshold that is not pinned sets it to the hardware's one inside the envelope; the clamps posted leave the front end. -/
theorem thresh_formThreshold (formed : dePin (detOf d n).env = false) :
    (detOf (formThreshold d n) n).thresh = clampedThreshold (detOf d n) := by
  have sets : (formThreshold d n).fe = (setDet d n { detOf d n with thresh := clampedThreshold (detOf d n) }).fe := by
    simp only [formThreshold, formed, Bool.false_eq_true, if_false]
    split
    · rw [feClamp_fe, feClamp_fe]
      rfl
    · rfl
  rw [detOf_congr sets, detOf_setDet]

theorem formThreshold_in_envelope (formed : dePin (detOf d n).env = false)
    (ordered : leAt (detOf d n).env 8 4 ≤ leAt (detOf d n).env 12 4) :
    leAt (detOf d n).env 8 4 ≤ (detOf (formThreshold d n) n).thresh ∧
      (detOf (formThreshold d n) n).thresh ≤ leAt (detOf d n).env 12 4 := by
  rw [thresh_formThreshold formed]
  exact clampedThreshold_in_envelope ordered

/-! ### Detections and their hold-off (R305, R307, R308) -/

theorem detection_idle (idle : (detOf d n).detDue = false) : detection d n = d := by
  simp only [detection, idle, Bool.not_false, if_true]

theorem detection_alone (due : (detOf d n).detDue = true) (alone : (detOf d n).corr = none) :
    detection d n = detRecord (setDet d n { detOf d n with detDue := false }) n 1 0 (detOf d n).first.2 0 (detOf d n).power
      (detOf d n).thresh (detOf d n).noise := by
  simp only [detection, due, Bool.not_true, Bool.false_eq_true, if_false, alone]

section
variable {c : Nat} (due : (detOf d n).detDue = true) (bound : (detOf d n).corr = some c)
include due bound

theorem detection_arms (idle : (corrOf d c).search = none) :
    detection d n = setCorr (setDet d n { detOf d n with detDue := false }) c { corrOf d c with
      search := some ((detOf d n).first.1, (detOf d n).first.2, (detOf d n).power, (detOf d n).thresh, (detOf d n).noise) } := by
  simp only [detection, due, Bool.not_true, Bool.false_eq_true, if_false, bound, corrOf_setDet, idle]

theorem detection_busy (busy : (corrOf d c).search ≠ none) :
    detection d n = detRecord (setDet d n { detOf d n with detDue := false }) n 4 0 (detOf d n).first.2 0 (detOf d n).power
      (detOf d n).thresh (detOf d n).noise := by
  obtain ⟨x, search⟩ := Option.ne_none_iff_exists'.mp busy
  simp only [detection, due, Bool.not_true, Bool.false_eq_true, if_false, bound, corrOf_setDet, search]

end

theorem holdoffEnd_due (due : (detOf d n).endDue = true) :
    holdoffEnd d n = setDet d n { detOf d n with endDue := false, phase := .idle } := if_pos due

theorem holdoffEnd_idle (idle : (detOf d n).endDue = false) : holdoffEnd d n = d := if_neg (Bool.eq_false_iff.mp idle)

end

/-- A search none of whose alignments passes ends in a record of that (R307, R308). -/
theorem searchEnd_none {d : Dev} {c f tick p t nf n : Nat} (search : (corrOf d c).search = some (f, tick, p, t, nf))
    (det : (corrOf d c).det = some n)
    (fails : let rs := (List.range (crLen (corrOf d c).cfg)).map (refSmp (corrOf d c).ref)
      bestAlignment (crTh (corrOf d c).cfg) (energies rs)
        ((List.range (crSearch (corrOf d c).cfg + 1)).filterMap fun i => alignmentAt (corrOf d c) rs (f + i)) = none) :
    searchEnd d c = detRecord (setCorr d c { corrOf d c with search := none }) n 3 0 tick 0 p t nf := by
  simp only [searchEnd, search, det, fails]

/-! ### The statement -/

section
variable {s : State} {d : Dev} {n : Nat} (unit : n < 64)
include unit

theorem does_noiseFloorUpdate (left : noiseUpdate s.dev n = d) : Does (.noiseFloorUpdate n) s d :=
  does_runDev (f := fun d => noiseUpdate d n) rfl (decide_eq_true unit) left

theorem does_detection (left : detection s.dev n = d) : Does (.detection n) s d :=
  does_runDev (f := fun d => detection d n) rfl (decide_eq_true unit) left

theorem does_holdoffEnd (left : holdoffEnd s.dev n = d) : Does (.holdoffEnd n) s d :=
  does_runDev (f := fun d => holdoffEnd d n) rfl (decide_eq_true unit) left

end

/-- Settles O42: FE_DETECT by its direction, a detector by what it has due, a correlator by whether its search is over. -/
theorem detectorRuns : Obligations.DetectorRuns := by
  unfold Obligations.DetectorRuns
  refine ⟨?bind, ?detector, ?correlator⟩
  case bind =>
    intro s q h ready op e n
    refine ⟨fun on passes => ⟨?_, ?_⟩, fun off clear receive corr => ?_⟩
    · exact does_runHead (f := famDetectOn) rfl rfl ready op on passes rfl
    · rw [← detOf_congr (sendDesc_fe s.dev h)]
      exact detOf_startDetect e h
    · exact does_runHead (f := famDetectOff) rfl rfl ready op (by simp [famDetectOff, off])
        (famDetectOff_check_none clear receive corr) rfl
  case detector =>
    intro s n unit d x set
    exact ⟨fun due first => does_noiseFloorUpdate unit (noiseUpdate_first due first),
      fun due later => does_noiseFloorUpdate unit (noiseUpdate_later due later),
      fun idle => does_noiseFloorUpdate unit (noiseUpdate_idle idle),
      fun due alone => does_detection unit (detection_alone due alone),
      fun c due bound idle => does_detection unit (detection_arms due bound idle),
      fun c due bound busy => does_detection unit (detection_busy due bound busy),
      fun idle => does_detection unit (detection_idle idle),
      fun due => does_holdoffEnd unit (holdoffEnd_due due),
      fun idle => does_holdoffEnd unit (holdoffEnd_idle idle),
      formThreshold_in_envelope⟩
  case correlator =>
    intro s c unit d y
    have does {e : Dev} (left : (if searchOver d c then searchEnd d c else d) = e) : Does (.correlatorSearchEnd c) s e :=
      does_runDev (f := fun d => if searchOver d c then searchEnd d c else d) rfl (decide_eq_true unit) left
    exact ⟨fun ends => does (if_pos ends), fun goes => does (if_neg (Bool.eq_false_iff.mp goes)),
      fun f tick p t nf n search det fails => searchEnd_none search det fails⟩

end Sys2Proof.Machine
end

section
/-!
SUPPORT. Proof of the statement on the mask monitor and pre-distortion (R298 to R304).
-/
namespace Sys2Proof.Machine
open Sys2Proof

/-! ### The mask monitor (R298, R299) -/

@[simp] theorem linkFor_post (d : Dev) (ctx code : Nat) (c : Cause) (p : Bytes) (kind s : Nat) :
    linkFor (post d ctx code c p) kind s = linkFor d kind s := rfl

section
variable {d : Dev} {n : Nat}

/-- The boundary from which a stream whose block has just ended would be muted. -/
def muteFrom (d : Dev) (n : Nat) : Option Nat :=
  (linkFor d 1 n).map fun l =>
    boundaryFrom d l (sampleTick d l ((feTxOf d n).bind.start + (feTxOf d n).bind.n - 1) + 1)

theorem maskBlock_short (short : (feTxOf d n).block.length < 512) : maskBlock d n = d := if_pos short

section
variable (whole : 512 ≤ (feTxOf d n).block.length)
include whole

theorem maskBlock_keeps
    (keeps : silent (feTxOf d n).block = true ∨ (worstSegment (feTxOf d n).block.reverse (feTxOf d n).mask).2 ≤ 0) :
    maskBlock d n = setFeTx d n { feTxOf d n with
      block := [], mask := (feTxOf d n).maskNew.getD (feTxOf d n).mask, maskNew := none } := by
  refine (if_neg (Nat.not_lt.mpr whole)).trans (if_pos ?_)
  simpa using keeps

theorem maskBlock_violates
    (violates : ¬ (silent (feTxOf d n).block = true ∨ (worstSegment (feTxOf d n).block.reverse (feTxOf d n).mask).2 ≤ 0)) :
    let t := feTxOf d n
    let w := worstSegment t.block.reverse t.mask
    maskBlock d n = setFeTx (post d t.bind.ctx 0x0023 ⟨t.bind.tag, t.bind.queue⟩
        (leBytes 1 n ++ leBytes 1 w.1 ++ leBytes 2 (wrapBits 16 (satInt 16 w.2)) ++ leBytes 1 (mkAction t.mask))) n
      { t with
        block := [], mask := t.maskNew.getD t.mask, maskNew := none, violations := satAdd 32 t.violations 1,
        muted := if mkAction t.mask = 1 ∧ t.muted = none then muteFrom d n else t.muted } := by
  refine (if_neg (Nat.not_lt.mpr whole)).trans ((if_neg (by simpa using violates)).trans ?_)
  simp only [Bool.and_eq_true, decide_eq_true_eq, Option.isNone_iff_eq_none, muteFrom, linkFor_post]
  cases linkFor d 1 n <;> rfl

end

/-! ### Captures (R302 to R304) -/

theorem captureStart_starts {l : Nat} (link : linkFor d 2 n = some l) (pin : dpPin (dpdOf d n).env = false)
    (freeze : dpFreeze (dpdOf d n).env = false) (bound : dpStream (dpdOf d n).cfg < 64)
    (runs : (feTxOf d (dpStream (dpdOf d n).cfg)).reg.st = 2) (idle : (dpdOf d n).cap = none) (still : (dpdOf d n).swap = none)
    (up : (linkOf d l).reg.st = 2) :
    captureStart d n = setDpd d n { dpdOf d n with
      cap := some (boundaryFrom d l d.time.ticks), ins := [], obs := [], obsBad := false, ended := false } := by
  simp only [captureStart, link]
  exact if_neg (by simp [pin, freeze, Nat.not_le.mpr bound, runs, idle, still, up])

theorem captureStart_held
    (held : dpPin (dpdOf d n).env = true ∨ dpFreeze (dpdOf d n).env = true ∨ (dpdOf d n).cap ≠ none ∨ (dpdOf d n).swap ≠ none) :
    captureStart d n = d := by
  rw [captureStart]
  cases linkFor d 2 n with
  | none => rfl
  | some l => exact if_pos (by obtain pin | freeze | captures | swaps := held <;> simp [Option.isSome_iff_ne_none, *])

@[simp] theorem dpdOf_obs (d : Dev) (t : Tab Nat) (n : Nat) : dpdOf { d with fe := { d.fe with obs := t } } n = dpdOf d n := rfl
@[simp] theorem feTxOf_obs (d : Dev) (t : Tab Nat) (n : Nat) : feTxOf { d with fe := { d.fe with obs := t } } n = feTxOf d n := rfl
@[simp] theorem monitored_obs (d : Dev) (t : Tab Nat) (n : Nat) :
    monitored { d with fe := { d.fe with obs := t } } n = monitored d n := rfl

/-- The device on which observation stream `n` has passed its sample. -/
def obsPassed (d : Dev) (n : Nat) : Dev := { d with fe := { d.fe with obs := tset d.fe.obs n (tget 0 d.fe.obs n + 1) } }

section
variable {l : Nat} (link : linkFor d 2 n = some l) (keeps : linkKeepsTime d l = true)
  (now : sampleTick d l (tget 0 d.fe.obs n) ≤ d.time.ticks) (here : sampleHere d l (tget 0 d.fe.obs n) = true)
  (apart : monitored d (dpStream (dpdOf d n).cfg) = false ∨ 64 ≤ dpStream (dpdOf d n).cfg)
include link keeps now here apart

/-- A sample that no mask monitor listens to enters the capture of its engine alone. -/
theorem obsSample_apart (x : Cplx) :
    let e := dpdOf d n
    let bad := sampleBad d l (tget 0 d.fe.obs n)
    obsSample d n x = e.cap.elim (obsPassed d n) fun b =>
      if b ≤ sampleTick d l (tget 0 d.fe.obs n) && e.obs.length < dpLen e.cfg && !e.ended then
        setDpd (obsPassed d n) n { e with obs := (if bad then (0, 0) else x) :: e.obs, obsBad := e.obsBad || bad }
      else obsPassed d n := by
  have passes : ¬ (!linkKeepsTime d l || d.time.ticks < sampleTick d l (tget 0 d.fe.obs n) ||
      !sampleHere d l (tget 0 d.fe.obs n)) = true := by simp [keeps, here, now]
  have unheard : ¬ ((dpStream (dpdOf d n).cfg < 64 ∧ (feTxOf d (dpStream (dpdOf d n).cfg)).reg.st = 2) ∧
      monitored d (dpStream (dpdOf d n).cfg) = true) := by
    obtain unmonitored | unbound := apart
    · simp [unmonitored]
    · simp [Nat.not_lt.mpr unbound]
  simp only [obsSample, link]
  refine (if_neg passes).trans ?_
  simp only [Bool.and_eq_true, decide_eq_true_eq]
  simp only [dpdOf_obs, feTxOf_obs, monitored_obs, unheard, if_false]
  cases (dpdOf d n).cap <;> rfl

theorem obsSample_idle (idle : (dpdOf d n).cap = none) (x : Cplx) : obsSample d n x = obsPassed d n :=
  (obsSample_apart link keeps now here apart x).trans (by rw [idle]; rfl)

theorem obsSample_enters {b : Nat} (captures : (dpdOf d n).cap = some b) (begun : b ≤ sampleTick d l (tget 0 d.fe.obs n))
    (room : (dpdOf d n).obs.length < dpLen (dpdOf d n).cfg) (goes : (dpdOf d n).ended = false) (x : Cplx) :
    let bad := sampleBad d l (tget 0 d.fe.obs n)
    obsSample d n x = setDpd (obsPassed d n) n { dpdOf d n with
      obs := (if bad then (0, 0) else x) :: (dpdOf d n).obs, obsBad := (dpdOf d n).obsBad || bad } := by
  have enters : (b ≤ sampleTick d l (tget 0 d.fe.obs n) && (dpdOf d n).obs.length < dpLen (dpdOf d n).cfg &&
      !(dpdOf d n).ended) = true := by simp [begun, room, goes]
  refine (obsSample_apart link keeps now here apart x).trans ?_
  simp only [captures, Option.elim_some, enters, if_true]

end

theorem captureDone_idle (idle : (dpdOf d n).cap = none) (c : Nat) : captureDone d n c = d := if_pos (by simp [idle])

section
variable (captures : (dpdOf d n).cap ≠ none) (c : Nat)
include captures

theorem captureDone_ended (ended : (dpdOf d n).ended = true) :
    captureDone d n c = setDpd d n { dpdOf d n with cap := none, ended := false } := by
  simp only [captureDone, Option.isNone_iff_eq_none, captures, if_false, ended, if_true]

section
variable (goes : (dpdOf d n).ended = false)
include goes

theorem captureDone_partial (part : captured (dpdOf d n) = false) : captureDone d n c = d := by
  simp only [captureDone, Option.isNone_iff_eq_none, captures, goes, part, Bool.false_eq_true, if_false, Bool.not_false, if_true]

theorem captureDone_discards {r : Nat} (whole : captured (dpdOf d n) = true) (skips : skipReason (dpdOf d n) = some r) :
    captureDone d n c =
      if (feTxOf d (dpStream (dpdOf d n).cfg)).reg.st = 2 then
        post (setDpd d n { dpdOf d n with cap := none }) (feTxOf d (dpStream (dpdOf d n).cfg)).bind.ctx 0x0024 noCause
          (leBytes 1 n ++ leBytes 1 r)
      else setDpd d n { dpdOf d n with cap := none } := by
  simp only [captureDone, Option.isNone_iff_eq_none, captures, goes, whole, Bool.false_eq_true, if_false, Bool.not_true, skips]
  rfl

theorem captureDone_updates (whole : captured (dpdOf d n) = true) (good : skipReason (dpdOf d n) = none) :
    captureDone d n c =
      let u := dpdUpdate (dpdOf d n) c
      let ctx := (feTxOf d (dpStream (dpdOf d n).cfg)).bind.ctx
      let put := setDpd d n { dpdOf d n with cap := none, shadow := u.1, swap := some d.time.ticks }
      feClamp (feClamp put u.2.2 ctx 0x4204 (n + 1)) u.2.1 ctx 0x4204 (n + 1 + 256) := by
  simp only [captureDone, Option.isNone_iff_eq_none, captures, goes, whole, Bool.false_eq_true, if_false, Bool.not_true, good]

end
end

/-! ### Bank swaps (R301) -/

theorem bankSwap_asked {g : Nat} (asked : swapTick d (dpdOf d n) = some g) :
    bankSwap d n = if nextFrom d (dpStream (dpdOf d n).cfg) g then
        setDpd d n { dpdOf d n with active := (dpdOf d n).shadow, shadow := (dpdOf d n).active, swap := none }
      else d := by
  simp only [bankSwap, asked]

theorem bankSwap_idle (idle : (dpdOf d n).swap = none) : bankSwap d n = d := by
  simp only [bankSwap, swapTick, idle, Option.map_none]

end

/-! ### The statement -/

section
variable {s : State} {d : Dev} {n : Nat}

theorem does_maskBlock (unit : n < 64) (left : maskBlock s.dev n = d) : Does (.maskBlock n) s d :=
  does_runDev (f := fun d => maskBlock d n) rfl (decide_eq_true unit) left

section
variable (unit : n < 16)
include unit

theorem does_dpdCaptureStart (left : captureStart s.dev n = d) : Does (.dpdCaptureStart n) s d :=
  does_runDev (f := fun d => captureStart d n) rfl (decide_eq_true unit) left

theorem does_dpdCaptureComplete {w : Nat} (left : captureDone s.dev n w = d) : Does (.dpdCaptureComplete n w) s d :=
  does_runDev (f := fun d => captureDone d n w) rfl (decide_eq_true unit) left

theorem does_dpdBankSwap (left : bankSwap s.dev n = d) : Does (.dpdBankSwap n) s d :=
  does_runDev (f := fun d => bankSwap d n) rfl (decide_eq_true unit) left

/-- RX_SAMPLE of an observation stream. -/
theorem does_obsSample {i v : Int} (left : obsSample s.dev n (satInt 16 i, satInt 16 v) = d) : Does (.rxSample (64 + n) i v) s d := by
  refine does_runDev (f := fun d => if 64 + n < 64 then rxSample d (64 + n) (satInt 16 i, satInt 16 v)
    else obsSample d (64 + n - 64) (satInt 16 i, satInt 16 v)) rfl (decide_eq_true (by omega)) ((if_neg (by omega)).trans ?_)
  rw [Nat.add_sub_cancel_left, left]

end
end

/-- Settles O43: a mask block by what it violates, an engine by its capture and its swap. -/
theorem maskAndDpd : Obligations.MaskAndDpd := by
  unfold Obligations.MaskAndDpd
  refine ⟨?mask, ?engine⟩
  case mask =>
    intro s n unit d t fresh w mute
    refine ⟨fun short => does_maskBlock unit (maskBlock_short short), fun whole => does_maskBlock unit ?_⟩
    by_cases keeps : silent t.block = true ∨ w.2 ≤ 0
    · rw [if_pos keeps]
      exact maskBlock_keeps whole keeps
    · have from_boundary : mute = muteFrom d n := by
        simp only [mute, muteFrom]
        cases linkFor d 1 n <;> rfl
      rw [if_neg keeps, from_boundary]
      exact maskBlock_violates whole keeps
  case engine =>
    intro s n w unit d e x
    refine ⟨?starts, ?held, ?observes, ?idle, ?ended, ?part, ?discards, ?updates, ?swaps, ?still⟩
    case starts =>
      exact fun l link pin freeze bound runs idle still up =>
        does_dpdCaptureStart unit (captureStart_starts link pin freeze bound runs idle still up)
    case held => exact fun held => does_dpdCaptureStart unit (captureStart_held held)
    case observes =>
      intro l c i v link at_c keeps now here apart bad on
      subst at_c
      exact ⟨fun idle => does_obsSample unit (obsSample_idle link keeps now here apart idle _),
        fun b captures begun room goes =>
          does_obsSample unit (obsSample_enters link keeps now here apart captures begun room goes _)⟩
    case idle => exact fun idle => does_dpdCaptureComplete unit (captureDone_idle idle w)
    case ended => exact fun captures ended => does_dpdCaptureComplete unit (captureDone_ended captures w ended)
    case part => exact fun captures goes part => does_dpdCaptureComplete unit (captureDone_partial captures w goes part)
    case discards =>
      intro r captures goes whole skips none_
      have discards := captureDone_discards captures w goes whole skips
      exact ⟨fun runs => does_dpdCaptureComplete unit (discards.trans (if_pos runs)),
        fun other => does_dpdCaptureComplete unit (discards.trans (if_neg other))⟩
    case updates =>
      exact fun captures goes whole good => does_dpdCaptureComplete unit (captureDone_updates captures w goes whole good)
    case swaps =>
      intro g asked
      exact ⟨fun comes => does_dpdBankSwap unit ((bankSwap_asked asked).trans (if_pos comes)),
        fun later => does_dpdBankSwap unit ((bankSwap_asked asked).trans (if_neg (Bool.eq_false_iff.mp later)))⟩
    case still => exact fun idle => does_dpdBankSwap unit (bankSwap_idle idle)

end Sys2Proof.Machine
end

section
/-!
SUPPORT. Proof of the statement on streams on their ticks (R289, R290, R295, R297 to R302, R310 to R312).
-/
namespace Sys2Proof.Machine
open Sys2Proof

/-! ### Receive streams that start and stop (R289, R310, R311) -/

section
variable {d : Dev} {n l : Nat}

theorem stopDue_unasked {b : Binding} (unasked : b.stops = []) : stopDue d l b = false := by simp [stopDue, unasked]

theorem stopped_unasked {b : Binding} (unasked : b.stops = []) : stopped d l b = false := by simp [stopped, unasked]

theorem stopRxDue_unasked (unasked : (feRxOf d n).bind.stops = []) : stopRxDue d n = d := by
  unfold stopRxDue
  split
  · rw [stopDue_unasked unasked, Bool.and_false, Bool.false_and, if_neg Bool.false_ne_true]
  · rfl

theorem stopRxDue_early (link : linkFor d 0 n = some l) (early : (feRxOf d n).reg.st = 0 ∨ stopDue d l (feRxOf d n).bind = false) :
    stopRxDue d n = d := by
  simp only [stopRxDue, link]
  exact if_neg (by obtain stopped | early := early <;> simp [*])

theorem stopRxDue_due (link : linkFor d 0 n = some l) (bound : (feRxOf d n).reg.st ≠ 0) (due : stopDue d l (feRxOf d n).bind = true)
    (written : (feRxOf d n).line = []) : stopRxDue d n = stopRx d n := by
  simp only [stopRxDue, link]
  exact if_pos (by simp [bound, due, written])

theorem rxPump_stopped (stopped : (feRxOf d n).reg.st = 0) (k : Nat) : rxPump k d n = d := by
  cases k with
  | zero => rfl
  | succ k =>
    unfold rxPump
    split
    · exact if_neg (by simp [stopped])
    · rfl

theorem rxDue_stopped (stopped : (feRxOf d n).reg.st = 0) : rxDue d n = d := by
  rw [rxDue, rxPump_stopped stopped, stopRxDue]
  split
  · exact if_neg (by simp [stopped])
  · rfl

theorem rxDue_written (written : (feRxOf d n).line = []) : rxDue d n = stopRxDue d n := by
  rw [rxDue, written]
  rfl

theorem startRx_started (started : (feRxOf d n).reg.st ≠ 1) : startRx d n = d := by
  unfold startRx
  split
  · rfl
  · exact if_pos started

theorem startRx_armed (link : linkFor d 0 n = some l) (armed : (feRxOf d n).reg.st = 1) :
    startRx d n =
      let r := feRxOf d n
      let e := setFeRx d n { r with reg := genTo r.reg 2 }
      endUnitOp (if r.bind.late then
        postLate e r.bind.ctx ⟨r.bind.tag, r.bind.queue⟩ r.bind.count (sampleTick d l r.bind.start) else e) r.bind.op := by
  simp only [startRx, link]
  exact if_neg (not_not_intro armed)

/-! No stop count waits where none did. -/

theorem stops_startRx (unasked : (feRxOf d n).bind.stops = []) : (feRxOf (startRx d n) n).bind.stops = [] := by
  simp only [startRx]
  split
  · exact unasked
  · split
    · exact unasked
    · rw [feRxOf_congr (endUnitOp_fe ..)]
      split
      · rw [feRxOf_congr (postLate_fe ..), feRxOf_setFeRx]
        exact unasked
      · rw [feRxOf_setFeRx]
        exact unasked

theorem stops_stopRx (unasked : (feRxOf d n).bind.stops = []) : (feRxOf (stopRx d n) n).bind.stops = [] := by
  simp only [stopRx]
  split
  · exact unasked
  · rw [feRxOf_congr (stopListeners_fe ..), feRxOf_congr (endStreamOps_fe ..), feRxOf_setFeRx]
    rfl

/-- A sample written leaves the stream with what stop counts it had, or stops it. -/
theorem rxWrite_cases (d : Dev) (n : Nat) (y : Cplx) (bad : Bool) (tick : Nat) :
    ∃ e x, x.bind.stops = (feRxOf d n).bind.stops ∧
      (rxWrite d n y bad tick = setFeRx e n x ∨ rxWrite d n y bad tick = stopRx (setFeRx e n x) n) := by
  simp only [rxWrite]
  generalize (if (feRxOf d n).bind.slot = true then _ else _) = got
  cases got with
  | none =>
    refine ⟨_, _, ?_, .inl rfl⟩
    rfl
  | some claimed =>
    dsimp only
    generalize (if (feRxOf d n).bind.slot = true then (feRxOf d n).bind.pos else 0) = pos
    generalize (if (feRxOf d n).dropped = 0 then claimed.1 else _) = e
    split
    · refine ⟨_, _, ?_, .inl rfl⟩
      rfl
    · split
      · refine ⟨_, _, ?_, .inr rfl⟩
        rfl
      · refine ⟨_, _, ?_, .inl rfl⟩
        rfl

theorem stops_rxWrite (unasked : (feRxOf d n).bind.stops = []) (y : Cplx) (bad : Bool) (tick : Nat) :
    (feRxOf (rxWrite d n y bad tick) n).bind.stops = [] := by
  obtain ⟨e, x, stops, left⟩ := rxWrite_cases d n y bad tick
  have kept : (feRxOf (setFeRx e n x) n).bind.stops = [] := by rw [feRxOf_setFeRx, stops, unasked]
  obtain left | left := left
  · rw [left, kept]
  · rw [left, stops_stopRx kept]

/-- The one sample on its way reaches the slot, and starts an ARMED stream. -/
theorem rxDue_one {y : Nat × Cplx × Bool} (link : linkFor d 0 n = some l) (one : (feRxOf d n).line = [y])
    (bound : (feRxOf d n).reg.st ≠ 0) (arrived : latencyOver d l y.1 = true) (unasked : (feRxOf d n).bind.stops = []) :
    rxDue d n = rxWrite (startRx (setFeRx d n { feRxOf d n with line := [] }) n) n y.2.1 y.2.2 y.1 := by
  have pumps : rxPump 1 d n = rxWrite (startRx (setFeRx d n { feRxOf d n with line := [] }) n) n y.2.1 y.2.2 y.1 := by
    simp only [rxPump, one, link]
    exact if_pos (by simp [bound, arrived])
  rw [rxDue, one, List.length_singleton, pumps]
  exact stopRxDue_unasked (stops_rxWrite (stops_startRx (by rw [feRxOf_setFeRx]; exact unasked)) ..)

/-! ### Transmit streams that start and stop (R310, R311) -/

theorem startTx_armed (link : linkFor d 1 n = some l) (armed : (feTxOf d n).reg.st = 1) (keeps : linkKeepsTime d l = true)
    (due : sampleTick d l (feTxOf d n).bind.start ≤ d.time.ticks)
    (goes : stopped d l { (feTxOf d n).bind with n := 0 } = false) :
    startTx d n =
      let t := feTxOf d n
      let e := setFeTx d n { t with reg := genTo t.reg 2 }
      endUnitOp (if t.bind.late then
        postLate e t.bind.ctx ⟨t.bind.tag, t.bind.queue⟩ t.bind.count (sampleTick d l t.bind.start) else e) t.bind.op := by
  simp only [startTx, link]
  exact if_neg (by simp [armed, keeps, due, goes])

theorem startTx_other (other : (feTxOf d n).reg.st ≠ 1) : startTx d n = d := by
  unfold startTx
  split
  · rfl
  · exact if_pos (by simp [other])

theorem stopTxDue_due (link : linkFor d 1 n = some l) (bound : (feTxOf d n).reg.st ≠ 0)
    (due : stopDue d l (feTxOf d n).bind = true) : stopTxDue d n = stopTx d n := by
  simp only [stopTxDue, link]
  exact if_pos (by simp [bound, due])

theorem stopTxDue_early (link : linkFor d 1 n = some l) (early : (feTxOf d n).reg.st = 0 ∨ stopDue d l (feTxOf d n).bind = false) :
    stopTxDue d n = d := by
  simp only [stopTxDue, link]
  exact if_neg (by obtain stopped | early := early <;> simp [*])

/-- A STOPPED stream, or one with no stop count, does not stop. -/
theorem stopTxDue_goes (goes : (feTxOf d n).reg.st = 0 ∨ (feTxOf d n).bind.stops = []) : stopTxDue d n = d := by
  cases link : linkFor d 1 n with
  | none => simp only [stopTxDue, link]
  | some l => exact stopTxDue_early link (goes.imp_right stopDue_unasked)

/-! ### Receive samples (R289, R295) -/

theorem detFlush_idle (idle : detIdle (detOf d n)) : detFlush d n = d := by
  obtain ⟨-, noise, det, hold, corr⟩ := idle
  simp only [detFlush, noiseUpdate_idle noise, detection_idle det, holdoffEnd_idle hold, corr]

theorem detSample_off (off : (detOf d n).on = false) (y : Cplx) (tick : Nat) : detSample d n y tick = d := if_pos (by simp [off])

/-- A detector that is off lets a sample pass that the stream's listeners have heard. -/
theorem detSample_heard (off : (detOf d n).on = false) (r : FeRx) (y : Cplx) (tick : Nat) :
    detSample (hear (setFeRx d n r) n tick y) n y tick = hear (setFeRx d n r) n tick y :=
  detSample_off (by rw [detOf_congr (hear_fe ..)]; exact off) y tick

theorem rxSample_stopped (stopped : (feRxOf d n).reg.st = 0) (idle : detIdle (detOf d n)) (x : Cplx) : rxSample d n x = d := by
  unfold rxSample
  simp only [detFlush_idle idle, rxDue_stopped stopped]
  cases linkFor d 0 n with
  | none => rfl
  | some l => exact if_pos (by simp [stopped])

section
variable (link : linkFor d 0 n = some l) (runs : (feRxOf d n).reg.st = 2) (unasked : (feRxOf d n).bind.stops = [])
  (written : (feRxOf d n).line = []) (idle : detIdle (detOf d n)) (keeps : linkKeepsTime d l = true)
  (due : nextTick d l (feRxOf d n).bind ≤ d.time.ticks)
  (release : released d l ((feRxOf d n).bind.start + (feRxOf d n).bind.n) = true)
  (here : sampleHere d l ((feRxOf d n).bind.start + (feRxOf d n).bind.n) = true)
  (good : ∀ k, k < max 1 (rxDec (feRxOf d n).cfg) → sampleBad d l ((feRxOf d n).bind.start + (feRxOf d n).bind.n - k) = false)
include link runs unasked written idle keeps due release here good

/-- A good sample of a RUNNING stream passes its chain; an output sample is heard and is on its way. -/
theorem rxSample_good (x : Cplx) :
    let o := rxChain (feRxOf d n) x
    let t := nextTick d l (feRxOf d n).bind
    rxSample d n x = o.2.elim (setFeRx d n o.1) fun y =>
      rxDue (hear (setFeRx d n { o.1 with line := o.1.line ++ [(t, y, false)] }) n t y) n := by
  have flushed : rxDue (detFlush d n) n = d := by
    rw [detFlush_idle idle, rxDue_written written, stopRxDue_unasked unasked]
  have now : ¬ ((feRxOf d n).reg.st = 0 || !linkKeepsTime d l || d.time.ticks < nextTick d l (feRxOf d n).bind ||
      !released d l ((feRxOf d n).bind.start + (feRxOf d n).bind.n) || stopped d l (feRxOf d n).bind ||
      !sampleHere d l ((feRxOf d n).bind.start + (feRxOf d n).bind.n)) = true := by
    simp [runs, keeps, due, release, stopped_unasked unasked, here]
  have clean : sampleBad d l ((feRxOf d n).bind.start + (feRxOf d n).bind.n) = false := good 0 (by omega)
  have none_bad : ((List.range (min (max 1 (rxDec (feRxOf d n).cfg)) ((feRxOf d n).bind.n + 1))).any fun k =>
      sampleBad d l ((feRxOf d n).bind.start + (feRxOf d n).bind.n - k)) = false := by
    rw [List.any_eq_false]
    intro k inside
    have within : k < max 1 (rxDec (feRxOf d n).cfg) := by
      have := List.mem_range.mp inside
      omega
    rw [good k within]
    exact Bool.false_ne_true
  unfold rxSample
  simp only [flushed, link]
  refine (if_neg now).trans ?_
  simp only [clean, none_bad, Bool.false_eq_true, if_false]
  cases (rxChain (feRxOf d n) x).2 with
  | none => rfl
  | some y => simp only [Option.elim_some, detSample_heard idle.1]

theorem rxSample_inside {x : Cplx} (inside : (rxChain (feRxOf d n) x).2 = none) :
    rxSample d n x = setFeRx d n (rxChain (feRxOf d n) x).1 := by
  rw [rxSample_good link runs unasked written idle keeps due release here good x, inside, Option.elim_none]

theorem rxSample_out {x y : Cplx} (out : (rxChain (feRxOf d n) x).2 = some y) :
    let o := rxChain (feRxOf d n) x
    let t := nextTick d l (feRxOf d n).bind
    rxSample d n x = rxDue (hear (setFeRx d n { o.1 with line := o.1.line ++ [(t, y, false)] }) n t y) n := by
  rw [rxSample_good link runs unasked written idle keeps due release here good x, out, Option.elim_some]

end

/-! ### Transmit samples (R290, R297 to R301, R312) -/

theorem takeSlot_fe {e : Dev} {r k : Nat} (taken : takeSlot d r = some (e, k)) : e.fe = d.fe := by
  unfold takeSlot at taken
  split at taken
  · split at taken
    · obtain ⟨rfl, -⟩ := Prod.mk.inj (Option.some.inj taken)
      exact setSlot_fe ..
    · exact absurd taken (by simp)
  · exact absurd taken (by simp)

/-- Taking the next sample of a ring leaves the links. -/
theorem txTake_links (d : Dev) (n : Nat) : (txTake d n).1.fe.links = d.fe.links := by
  simp only [txTake]
  generalize held : (if (feTxOf d n).bind.slot = true then _ else _) = got
  have same (e : Dev) (k : Nat) (is : got = some (e, k)) : e.fe = d.fe := by
    rw [← held] at is
    split at is
    · split at is
      · obtain ⟨rfl, -⟩ := Prod.mk.inj (Option.some.inj is)
        rfl
      · exact absurd is (by simp)
    · exact takeSlot_fe is
  cases got with
  | none => rfl
  | some taken =>
    obtain ⟨e, k⟩ := taken
    dsimp only
    generalize (if (feTxOf d n).bind.slot = true then (feTxOf d n).bind.pos else 0) = pos
    generalize said : (if (feTxOf d n).starved = true then _ else e) = g
    have links : g.fe.links = d.fe.links := by
      rw [← same e k rfl, ← said]
      split <;> rfl
    split
    · exact links
    · exact (congrArg FeSt.links (slotGive_fe ..)).trans links

theorem linkOf_txTake (d : Dev) (n l : Nat) : linkOf (txTake d n).1 l = linkOf d l := by rw [linkOf, linkOf, txTake_links]

theorem linkOf_setFeTx (d : Dev) (n : Nat) (x : FeTx) (l : Nat) : linkOf (setFeTx d n x) l = linkOf d l := rfl

theorem linkOf_masked (d : Dev) (n : Nat) (y : Cplx) (l : Nat) :
    linkOf (if monitored d n then d else maskSample d n y) l = linkOf d l := by
  split <;> rfl

/-- The device that a transmit sample of tick `c` on `d` leaves, once its ring sample has been taken, on `g`, and has passed the chain
(R297 to R301). -/
def txSent (d g : Dev) (n l c : Nat) (o : FeTx × Cplx) : Dev :=
  let a := setFeTx g n o.1
  let p := txPredistort (if monitored a n then a else maskSample a n o.2) n c o.2
  let muted := (feTxOf p.1 n).muted.any fun m => decide (m ≤ c)
  setFeTx p.1 n { feTxOf p.1 n with last := if (linkOf d l).reg.st = 3 then none else some (if muted then (0, 0) else p.2) }

/-- A stream with no block to check, no stop count and no swap that waits has nothing to do before its sample. -/
theorem txSample_early (short : (feTxOf d n).block.length < 512) (started : (feTxOf d n).reg.st ≠ 1)
    (goes : (feTxOf d n).reg.st = 0 ∨ (feTxOf d n).bind.stops = []) : stopTxDue (startTx (maskBlock d n) n) n = d := by
  rw [maskBlock_short short, startTx_other started, stopTxDue_goes goes]

section
variable (short : (feTxOf d n).block.length < 512) (still : ∀ k, dpdFor d n = some k → (dpdOf d k).swap = none)
include short still

theorem txSample_stopped (stopped : (feTxOf d n).reg.st = 0) : txSample d n = d := by
  have early := txSample_early short (by omega) (.inl stopped)
  unfold txSample
  cases dpd : dpdFor d n
  case' none => simp only [early, dpd]
  case' some k => simp only [early, dpd, bankSwap_idle (still k dpd)]
  all_goals
    cases linkFor d 1 n with
    | none => rfl
    | some l => exact if_pos (by simp [stopped])

theorem txSample_due (link : linkFor d 1 n = some l) (runs : (feTxOf d n).reg.st = 2) (unasked : (feTxOf d n).bind.stops = [])
    (goes : (feTxOf d n).bind.halt = false) (keeps : linkKeepsTime d l = true)
    (due : nextTick d l (feTxOf d n).bind ≤ d.time.ticks + txLead d) :
    let t := feTxOf d n
    let take := t.bind.n % max 1 (txInterp t.cfg) = 0
    let g := if take then (txTake d n).1 else d
    txSample d n =
      txSent d g n l (nextTick d l t.bind) (txChain (feTxOf g n) (if take then some (txTake d n).2 else none)) := by
  have early := txSample_early short (by omega) (.inr unasked)
  have now : ¬ ((feTxOf d n).reg.st = 0 || !linkKeepsTime d l || !(decide (nextTick d l (feTxOf d n).bind ≤ d.time.ticks) ||
      decide (nextTick d l (feTxOf d n).bind ≤ d.time.ticks + txLead d)) || stopped d l (feTxOf d n).bind) = true := by
    simp [runs, keeps, due, stopped_unasked unasked]
  unfold txSample
  cases dpd : dpdFor d n
  case' none => simp only [early, dpd, link]
  case' some k => simp only [early, dpd, bankSwap_idle (still k dpd), link]
  all_goals
    refine (if_neg now).trans ?_
    simp only [goes, Bool.and_false, Bool.false_and, Bool.false_eq_true, if_false, beq_iff_eq]
    by_cases take : (feTxOf d n).bind.n % max 1 (txInterp (feTxOf d n).cfg) = 0
    · simp only [txSent, take, if_true, linkOf_masked, linkOf_setFeTx, linkOf_txTake]
      generalize txPredistort _ n _ _ = p
      cases (feTxOf p.1 n).muted <;> rfl
    · simp only [txSent, take, if_false, linkOf_masked, linkOf_setFeTx]
      generalize txPredistort _ n _ _ = p
      cases (feTxOf p.1 n).muted <;> rfl

end

end

/-! ### The statement -/

section
variable {s : State} {n : Nat} {d : Dev} (unit : n < 64)
include unit

theorem does_rxStart (left : rxDue s.dev n = d) : Does (.streamStart n) s d :=
  does_runDev (f := fun d => if n < 64 then rxDue d n else startTx d (n - 64)) rfl (decide_eq_true (by omega)) ((if_pos unit).trans left)

theorem does_rxStop (left : rxDue s.dev n = d) : Does (.streamStop n) s d :=
  does_runDev (f := fun d => if n < 64 then rxDue d n else stopTxDue d (n - 64)) rfl (decide_eq_true (by omega)) ((if_pos unit).trans left)

theorem does_txStart (left : startTx s.dev n = d) : Does (.streamStart (64 + n)) s d := by
  refine does_runDev (f := fun d => if 64 + n < 64 then rxDue d (64 + n) else startTx d (64 + n - 64)) rfl
    (decide_eq_true (by omega)) ((if_neg (by omega)).trans ?_)
  rw [Nat.add_sub_cancel_left, left]

theorem does_txStop (left : stopTxDue s.dev n = d) : Does (.streamStop (64 + n)) s d := by
  refine does_runDev (f := fun d => if 64 + n < 64 then rxDue d (64 + n) else stopTxDue d (64 + n - 64)) rfl
    (decide_eq_true (by omega)) ((if_neg (by omega)).trans ?_)
  rw [Nat.add_sub_cancel_left, left]

theorem does_rxSample {i v : Int} (left : rxSample s.dev n (satInt 16 i, satInt 16 v) = d) : Does (.rxSample n i v) s d :=
  does_runDev (f := fun d => if n < 64 then rxSample d n (satInt 16 i, satInt 16 v) else obsSample d (n - 64) (satInt 16 i, satInt 16 v))
    rfl (decide_eq_true (by omega)) ((if_pos unit).trans left)

theorem does_txSampleDue (left : txSample s.dev n = d) : Does (.txSampleDue n) s d :=
  does_runDev (f := fun d => txSample d n) rfl (decide_eq_true unit) left

end

/-- Settles O41: a receive stream by the samples on their way and its stop count, a transmit stream by its tick, a sample by its
chain. -/
theorem streamsRun : Obligations.StreamsRun := by
  unfold Obligations.StreamsRun
  intro s n unit d r t
  refine ⟨?rxArrives, ?rxStops, ?txStarts, ?txStarted, ?txStops, ?txGoes, ?rxSamples, ?rxStopped, ?txSamples, ?txStopped⟩
  case rxArrives =>
    intro l y link one arrived unasked a
    have emptied : feRxOf a n = { r with line := [] } := feRxOf_setFeRx ..
    have comes {e : Dev} (bound : r.reg.st ≠ 0) (starts : startRx a n = e) :
        Does (.streamStart n) s (rxWrite e n y.2.1 y.2.2 y.1) :=
      does_rxStart unit (starts ▸ rxDue_one link one bound arrived unasked)
    refine ⟨fun armed in_time => ?_, fun armed late => ?_, fun runs => ?_⟩
    · refine comes (by omega) ((startRx_armed (d := a) link (by rw [emptied]; exact armed)).trans ?_)
      simp only [emptied, in_time, Bool.false_eq_true, if_false]
    · refine comes (by omega) ((startRx_armed (d := a) link (by rw [emptied]; exact armed)).trans ?_)
      simp only [emptied, late, if_true]
      rfl
    · exact comes (by omega) (startRx_started (by rw [emptied]; exact fun armed => absurd (runs.symm.trans armed) (by decide)))
  case rxStops =>
    intro l link written
    refine ⟨fun bound due => does_rxStop unit ((rxDue_written written).trans (stopRxDue_due link bound due written)), fun early => ?_⟩
    have waits : rxDue d n = d := (rxDue_written written).trans (stopRxDue_early link early)
    exact ⟨does_rxStop unit waits, does_rxStart unit waits⟩
  case txStarts => exact fun l link armed keeps due goes => does_txStart unit (startTx_armed link armed keeps due goes)
  case txStarted => exact fun other => does_txStart unit (startTx_other other)
  case txStops => exact fun l link bound due => does_txStop unit (stopTxDue_due link bound due)
  case txGoes => exact fun l link early => does_txStop unit (stopTxDue_early link early)
  case rxSamples =>
    intro l i v link runs unasked written idle keeps due release here good o c
    exact ⟨fun inside => does_rxSample unit (rxSample_inside link runs unasked written idle keeps due release here good inside),
      fun y out => does_rxSample unit (rxSample_out link runs unasked written idle keeps due release here good out)⟩
  case rxStopped => exact fun i v stopped idle => does_rxSample unit (rxSample_stopped stopped idle _)
  case txSamples =>
    intro l link runs unasked short goes still keeps due c take g o a p muted
    have is_muted : muted = (feTxOf p.1 n).muted.any fun m => decide (m ≤ c) := by
      simp only [muted]
      cases (feTxOf p.1 n).muted <;> rfl
    refine does_txSampleDue unit ((txSample_due short still link runs unasked goes keeps due).trans ?_)
    rw [is_muted]
    rfl
  case txStopped => exact fun stopped short still => does_txSampleDue unit (txSample_stopped short still stopped)

end Sys2Proof.Machine
end

section
/-!
SUPPORT. Signal cores: what the next instruction of a program comes to, and the proofs of the statements on class-0, scalar and
control instructions (R322, R327, R328, R330, R331, R336, R342).
-/
namespace Sys2Proof.Machine
open Sys2Proof

/-! ### Instruction commands -/

/-- The commands of class 0 with their operation codes (R328). -/
def vectorRows (n : Nat) : List (Instr × Nat) :=
  [(.nop n, 0x00), (.vmov n, 0x01), (.cadd n, 0x02), (.csub n, 0x03), (.conj n, 0x04), (.perm n, 0x05), (.bfly n, 0x06),
    (.widen n, 0x07), (.cmul n, 0x08), (.cmulc n, 0x09), (.cmac n, 0x0A), (.cmacc n, 0x0B), (.mag2 n, 0x0C), (.hadd n, 0x0D),
    (.rnds n, 0x0E), (.cls n, 0x10), (.bexp n, 0x11), (.bshl n, 0x12), (.bshr n, 0x13), (.cfadd n, 0x18), (.cfmul n, 0x19),
    (.cfmac n, 0x1A), (.cfmacc n, 0x1B), (.rndf n, 0x1C), (.cvtf n, 0x1D)]

/-- The commands of the other classes with their classes and operation codes (R328). -/
def scalarRows (n : Nat) : List (Instr × Nat × Nat) :=
  [(.ldi n, 1, 1), (.addi n, 1, 2), (.add n, 1, 3), (.sub n, 1, 4), (.and n, 1, 5), (.shli n, 1, 6), (.controlNop n, 2, 0),
    (.loop n, 2, 1), (.br n, 2, 2), (.bz n, 2, 3), (.bnz n, 2, 4), (.halt n, 2, 5), (.rclaim n, 3, 1), (.rpost n, 3, 2),
    (.rtake n, 3, 3), (.rgive n, 3, 4), (.sig n, 3, 5)]

/-- Every instruction command with its class and operation code. -/
def coreRows (n : Nat) : List (Instr × Nat × Nat) := (vectorRows n).map (fun e => (e.1, 0, e.2)) ++ scalarRows n

theorem exec_coreRow (s : State) (n : Nat) : ∀ e ∈ coreRows n, exec e.1 s = runCore s n e.2.1 e.2.2 := by
  simp only [coreRows, vectorRows, scalarRows, List.map_cons, List.map_nil, List.cons_append, List.nil_append, List.forall_mem_cons,
    List.not_mem_nil, false_implies, implies_true, and_true]
  and_intros <;> rfl

theorem exec_vectorRow (s : State) {n op : Nat} {c : Instr} (row : (c, op) ∈ vectorRows n) : exec c s = runCore s n 0 op :=
  exec_coreRow s n (c, 0, op) (List.mem_append_left _ (List.mem_map_of_mem row))

/-- An instruction command on a core that exists leaves what the core's next instruction comes to. -/
theorem does_runCore {c : Instr} {s : State} {n cls op : Nat} {d : Dev} (row : exec c s = runCore s n cls op) (core : n < 32)
    (left : runInstr s.dev n cls op = d) : Does c s d :=
  does_runDev row (decide_eq_true core) left

section
variable {s : State} {n : Nat} {i : Inst} {o : Op} {w cls op : Nat} {c : Instr} (next : NextWord s.dev n i o w)
  (row : exec c s = runCore s n cls op) (here : wClass w = cls) (code : wOp w = op) (going : ¬ (cls = 2 ∧ op = 5))
include next row here code going

/-- A word carried out, after which the program goes on. -/
theorem does_word {d : Dev} {j : Inst} (runs : runWord s.dev i o w = .ok (d, some j)) : Does c s (instDone d n o i j w) :=
  does_runCore row next.core (by rw [runInstr_word next here code going, runs])

/-- A word that waits. -/
theorem does_word_waits {d : Dev} (waits : runWord s.dev i o w = .ok (d, none)) : Does c s d :=
  does_runCore row next.core (by rw [runInstr_word next here code going, waits])

/-- A word that faults. -/
theorem does_word_faults {r : Nat} (faults : runWord s.dev i o w = .error r) : Does c s (instFault s.dev n i r) :=
  does_runCore row next.core (by rw [runInstr_word next here code going, faults])

end

/-! ### What a word of a class comes to -/

section
variable (d : Dev) (i : Inst) (o : Op) {w : Nat}

theorem runWord_vector (vector : wClass w = 0) : runWord d i o w = (runClass0 d i o.ctx w).map did := by
  simp only [runWord, vector]

theorem runWord_scalar (scalar : wClass w = 1) : runWord d i o w = .ok (d, some (runScalar i w)) := by
  simp only [runWord, scalar]

theorem runWord_controlNop (control : wClass w = 2) (code : wOp w = 0) :
    runWord d i o w = .ok (d, some (passed { i with cycles := i.cycles + 1 } i.pc)) := by
  simp only [runWord, control, code]

theorem runWord_loop (control : wClass w = 2) (code : wOp w = 1) : runWord d i o w = .ok (d, some (runLoop i w)) := by
  simp only [runWord, control, code]

theorem runWord_br (control : wClass w = 2) (code : wOp w = 2) : runWord d i o w = .ok (d, some (runBranch i w true)) := by
  simp only [runWord, control, code]

theorem runWord_bz (control : wClass w = 2) (code : wOp w = 3) :
    runWord d i o w = .ok (d, some (runBranch i w (aReg i (wDst w) == 0))) := by
  simp only [runWord, control, code]

theorem runWord_bnz (control : wClass w = 2) (code : wOp w = 4) :
    runWord d i o w = .ok (d, some (runBranch i w (aReg i (wDst w) != 0))) := by
  simp only [runWord, control, code]

end

/-! ### Class-0 instructions (R327, R328, R336) -/

@[simp] theorem doMove_none (old : Inst) (y : Bool) (m : Move) (a : Dev × Inst) : doMove old y m none a = a := rfl
@[simp] theorem doPost_none (old : Inst) (free : Nat) (m : Move) (i : Inst) : doPost old free m none i = i := rfl

/-- A disabled move takes place nowhere. -/
theorem movePlace_disabled (d : Dev) (i : Inst) (y on : Bool) {m : Move} (disabled : m.en = false) :
    movePlace d i y on m = .ok none := by
  simp [movePlace, disabled]

/-- What belongs to no stage takes place in every run of a loop without stages (R333). -/
theorem takesPlace_unstaged {i : Inst} (unstaged : stagedLoop i = none) (stage : Nat) : takesPlace i stage = true := by
  simp only [takesPlace, unstaged]

/-- The registers that a compute operation writes, written. -/
def withResult (i : Inst) (w : Nat) (r : SimdOut) : Inst :=
  let j := match r.vd with | some v => setV i (wVd w) v | none => i
  let j := match r.vd1 with | some v => setV j (wVd w + 1) v | none => j
  match r.an with | some e => setA j (bitsAt w 43 4) e.1 e.2 | none => j

/-- A word of class 0 without moves and stages is its compute operation alone. -/
theorem runClass0_compute (d : Dev) {i : Inst} (ctx : Nat) {w : Nat} (no_x : (wX w).en = false) (no_y : (wY w).en = false)
    (unstaged : stagedLoop i = none) :
    let r := computeOf d i (ftzOf d ctx) w
    let j := withResult i w r
    runClass0 d i ctx w =
      .ok (raise { d with free := d.free + 8 } ctx r.f, passed { j with cycles := j.cycles + issueCycles w } i.pc) := by
  simp only [runClass0, movePlace_disabled d i _ _ no_x, movePlace_disabled d i _ _ no_y, takesPlace_unstaged unstaged, doMove_none,
    doPost_none, Option.isSome_none, Bool.false_and, Bool.or_false, Bool.false_eq_true, if_false, if_true, ite_self]
  rfl

/-- Settles O45: the row's command carries out the word; without moves and stages the word is its compute operation alone. -/
theorem vectorInstructions : Obligations.VectorInstructions := by
  unfold Obligations.VectorInstructions
  intro s n i o w c op mem next vector code d
  have row : exec c s = runCore s n 0 op := exec_vectorRow s mem
  have runs := runWord_vector s.dev i o vector
  have does {e : Dev} {j : Inst} (ok : runClass0 d i o.ctx w = .ok (e, j)) : Does c s (instDone e n o i j w) :=
    does_word next row vector code (by omega) (by rw [runs, ok]; rfl)
  refine ⟨?alone, fun e j => does, ?faults⟩
  case alone => exact fun no_x no_y _ _ unstaged => does (runClass0_compute d o.ctx no_x no_y unstaged)
  case faults => exact fun r failed => does_word_faults next row vector code (by omega) (by rw [runs, failed]; rfl)

/-! ### Scalar instructions (R322, R328) -/

/-- A scalar word carried out. -/
theorem does_scalar {s : State} {n : Nat} {i j : Inst} {o : Op} {w op : Nat} {c : Instr} (next : NextWord s.dev n i o w)
    (row : exec c s = runCore s n 1 op) (left : wOp w = op → runScalar i w = j) (scalar : wClass w = 1) (code : wOp w = op) :
    Does c s (instDone s.dev n o i j w) :=
  left code ▸ does_word next row scalar code (by omega) (runWord_scalar s.dev i o scalar)

/-! ### Control instructions (R330, R331, R342) -/

/-- A control word carried out, which leaves the device. -/
theorem does_control {s : State} {n : Nat} {i j : Inst} {o : Op} {w op : Nat} {c : Instr} (next : NextWord s.dev n i o w)
    (row : exec c s = runCore s n 2 op) (going : op ≠ 5)
    (left : wClass w = 2 → wOp w = op → runWord s.dev i o w = .ok (s.dev, some j)) (control : wClass w = 2) (code : wOp w = op) :
    Does c s (instDone s.dev n o i j w) :=
  does_word next row control code (fun h => going h.2) (left control code)

/-- The count of a LOOP: of an address register, or the word's own (R330). -/
def loopCount (i : Inst) (w : Nat) : Nat := if bitAt w 53 then aReg i (bitsAt w 0 4) else wImm w

theorem runLoop_skips {i : Inst} {w : Nat} (empty : loopCount i w = 0 ∨ wBody w = 0) :
    runLoop i w = passed { i with cycles := i.cycles + 1 } (i.pc + wBody w) :=
  if_pos (by simpa [loopCount] using empty)

theorem runLoop_enters {i : Inst} {w : Nat} (count : loopCount i w ≠ 0) (body : wBody w ≠ 0) :
    runLoop i w = { i with
      pc := i.pc + 1, cycles := i.cycles + 1, lc := lset i.lc (wLc w) (BitVec.ofNat 32 (loopCount i w)),
      loops := ⟨wLc w, i.pc + 1, i.pc + wBody w, loopCount i w, wStages w, rotSize (wRot w), 0⟩ :: i.loops,
      rrb := if wRot w = 0 then i.rrb else 0, cached := if wBody w ≤ 64 then some (i.pc + 1) else i.cached } :=
  if_neg (by simpa [loopCount] using And.intro count body)

/-- Settles O46: a scalar word is one register written, a control word goes on to the next word, to its target, or into its loop. -/
theorem scalarInstructions : Obligations.ScalarInstructions := by
  unfold Obligations.ScalarInstructions
  intro s n i o w word d dst a b x y on go next there count
  refine ⟨?ldi, ?addi, ?add, ?sub, ?and, ?shli, ?nop, ?br, ?bzTaken, ?bzPassed, ?bnzTaken, ?bnzPassed, ?skips, ?enters⟩
  case ldi | addi | add | sub | and | shli => exact does_scalar word rfl fun code => by simp only [runScalar, code]; rfl
  case nop => exact does_control word rfl (by decide) (runWord_controlNop d i o)
  case br => exact does_control word rfl (by decide) (runWord_br d i o)
  case bzTaken =>
    exact fun zero => does_control word rfl (by decide) fun control code => by
      rw [runWord_bz d i o control code, beq_iff_eq.mpr zero]; rfl
  case bzPassed =>
    exact fun other => does_control word rfl (by decide) fun control code => by
      rw [runWord_bz d i o control code, beq_eq_false_iff_ne.mpr other]; rfl
  case bnzTaken =>
    exact fun other => does_control word rfl (by decide) fun control code => by
      rw [runWord_bnz d i o control code, bne_iff_ne.mpr other]; rfl
  case bnzPassed =>
    exact fun zero => does_control word rfl (by decide) fun control code => by
      rw [runWord_bnz d i o control code, bne_eq_false_iff_eq.mpr zero]; rfl
  case skips =>
    exact fun empty => does_control word rfl (by decide) fun control code => by rw [runWord_loop d i o control code, runLoop_skips empty]
  case enters =>
    exact fun some_count body => does_control word rfl (by decide) fun control code => by
      rw [runWord_loop d i o control code, runLoop_enters some_count body]; rfl

end Sys2Proof.Machine
end

section
/-!
SUPPORT. Signal cores: proof of the statement on ring instructions and SIG (R250, R334, R335, R337).
-/
namespace Sys2Proof.Machine
open Sys2Proof

/-! ### A ring's slots claimed and taken (R163) -/

/-- A ring with its producer's side bound. -/
theorem ringOf_bindProd {d : Dev} {r : Nat} {x : Ring} (ring : ringOf d r = some x) (a : Agent) :
    ringOf (bindProd d r a) r = some { x with prod := some a } := by
  simp only [bindProd, modRing, ring, ringOf_setRing]

/-- A ring with its consumer's side bound. -/
theorem ringOf_bindCons {d : Dev} {r : Nat} {x : Ring} (ring : ringOf d r = some x) (a : Agent) :
    ringOf (bindCons d r a) r = some { x with cons := some a } := by
  simp only [bindCons, modRing, ring, ringOf_setRing]

section
variable {d : Dev} {r : Nat} {x : Ring} (ring : ringOf d r = some x)
include ring

theorem claimSlot_empty (empty : slotStOf x x.tail = .empty) :
    claimSlot d r = some (setSlot (slotClear (slotClear d r x.tail) r (stageSlot x x.tail)) r x.tail .filling, x.tail) := by
  simp only [claimSlot, ring, empty, if_true]

theorem claimSlot_held (held : slotStOf x x.tail ≠ .empty) : claimSlot d r = none := by
  simp only [claimSlot, ring, held, if_false]

theorem takeSlot_ready (ready : slotStOf x x.head = .full ∨ slotStOf x x.head = .spoil) :
    takeSlot d r = some (setSlot d r x.head .draining, x.head) := by
  simp only [takeSlot, ring, Bool.or_eq_true, decide_eq_true_eq, ready, if_true]

theorem takeSlot_waits (waits : slotStOf x x.head = .empty ∨ slotStOf x x.head = .filling ∨ slotStOf x x.head = .draining) :
    takeSlot d r = none := by
  have not_ready : ¬ (slotStOf x x.head = .full ∨ slotStOf x x.head = .spoil) := by
    obtain st | st | st := waits <;> rw [st] <;> decide
  simp only [takeSlot, ring, Bool.or_eq_true, decide_eq_true_eq, not_ready, if_false]

end

/-! ### RCLAIM and RTAKE (R334, R335) -/

/-- The die of the side of a ring that is mapped, the producer's to be filled. -/
def mapDie (x : Ring) (fill : Bool) : Nat := if fill then x.prodDie else x.consDie

/-- What that side is bound by. -/
def mapSide (x : Ring) (fill : Bool) : Option Agent := if fill then x.prod else x.cons

/-- The device with that side bound by a program on a core. -/
def mapBind (d : Dev) (r : Nat) (fill : Bool) (key : Nat) : Dev :=
  if fill then bindProd d r (.core key) else bindCons d r (.core key)

/-- A slot mapped to the word's window, whose address the word's register receives. -/
def mappedInst (i : Inst) (w slot : Nat) (fill : Bool) : Inst :=
  passed (setA { i with windows := lset i.windows (wWin w) (some ⟨wRing w, slot, fill, []⟩), cycles := i.cycles + 1 }
    (wDst w) (windowBase (wWin w)) false) i.pc

/-- The ring and the window are free for the program to map. -/
structure MayMap (d : Dev) (i : Inst) (o : Op) (w : Nat) (fill : Bool) (x : Ring) : Prop where
  own : x.ctx = o.ctx ∧ x.lc = o.lc ∧ lget none i.windows (wWin w) = none
  die : mapDie x fill = 0
  side : sideTaken d (wRing w) (mapSide x fill) fill (instKey i) = false

section
variable {d : Dev} {i : Inst} {o : Op} {w : Nat} {fill : Bool} {x : Ring}

theorem runMap_absent (absent : ringOf d (wRing w) = none) : runMap d i o w fill = .error 0x0B06 := by
  simp only [runMap, absent]

/-- RCLAIM and RTAKE by the slot that the bound ring offers. -/
theorem runMap_eq (ring : ringOf d (wRing w) = some x) (may : MayMap d i o w fill x) :
    runMap d i o w fill =
      match (if fill then claimSlot else takeSlot) (mapBind d (wRing w) fill (instKey i)) (wRing w) with
      | none => .ok (mapBind d (wRing w) fill (instKey i), none)
      | some (e, k) => .ok (e, some (mappedInst i w (if fill then stageSlot x k else k) fill)) := by
  obtain ⟨⟨ctx, lc, window⟩, die, side⟩ := may
  unfold mapDie at die
  unfold mapSide at side
  simp only [runMap, ring, ctx, lc, die, window, side, bne_self_eq_false, Option.isSome_none, Bool.or_self, Bool.false_eq_true, if_false]
  cases fill <;> rfl

/-- A ring that the program may not map, or a window already mapped. -/
theorem runMap_refused (ring : ringOf d (wRing w) = some x) (refused : ¬ MayMap d i o w fill x) :
    runMap d i o w fill = .error 0x0B06 := by
  simp only [runMap, ring]
  refine if_pos (by_contra fun passes => refused ?_)
  simp only [Bool.not_eq_true, Bool.or_eq_false_iff, bne_eq_false_iff_eq, Option.isSome_eq_false_iff,
    Option.isNone_iff_eq_none] at passes
  obtain ⟨⟨⟨⟨ctx, lc⟩, die⟩, window⟩, side⟩ := passes
  exact ⟨⟨ctx, lc, window⟩, die, side⟩

theorem runMap_maps {e : Dev} {k : Nat} (ring : ringOf d (wRing w) = some x) (may : MayMap d i o w fill x)
    (slot : (if fill then claimSlot else takeSlot) (mapBind d (wRing w) fill (instKey i)) (wRing w) = some (e, k)) :
    runMap d i o w fill = .ok (e, some (mappedInst i w (if fill then stageSlot x k else k) fill)) := by
  rw [runMap_eq ring may, slot]

theorem runMap_waits (ring : ringOf d (wRing w) = some x) (may : MayMap d i o w fill x)
    (no_slot : (if fill then claimSlot else takeSlot) (mapBind d (wRing w) fill (instKey i)) (wRing w) = none) :
    runMap d i o w fill = .ok (mapBind d (wRing w) fill (instKey i), none) := by
  rw [runMap_eq ring may, no_slot]

/-! ### RPOST and RGIVE (R335) -/

theorem runUnmap_unmapped (unmapped : lget none i.windows (wWin w) = none) : runUnmap d i w fill = .error 0x0B06 := by
  simp only [runUnmap, unmapped]

theorem runUnmap_other {y : Window} (maps : lget none i.windows (wWin w) = some y) (other : y.filling ≠ fill) :
    runUnmap d i w fill = .error 0x0B06 := by
  simp only [runUnmap, maps, bne_iff_ne.mpr other, if_true]

theorem runUnmap_leaves {y : Window} (maps : lget none i.windows (wWin w) = some y) (same : y.filling = fill) :
    runUnmap d i w fill = .ok (if fill then addOut (slotPost d y.ring) i.op y.ring else slotGive d y.ring,
      passed { i with windows := lset i.windows (wWin w) none, cycles := i.cycles + 1 } i.pc) := by
  simp only [runUnmap, maps, bne_eq_false_iff_eq.mpr same, Bool.false_eq_true, if_false]

/-! ### SIG (R250, R337) -/

theorem runSig_sends (allowed : (syncOf d (wObj w)).declared = false ∨ syncClassOk (syncOf d (wObj w)) o.lc = true) :
    runSig d i o w =
      (enqueue d .st o.lc (.syncInc (wObj w) (wImm w) o.ctx (hTag o.desc) o.queue (hOpcode o.desc) o.idx),
        passed { i with cycles := i.cycles + 1 } i.pc) := by
  obtain undeclared | ok := allowed
  · simp only [runSig, undeclared, Bool.false_and, Bool.false_eq_true, if_false]
  · simp only [runSig, ok, Bool.not_true, Bool.and_false, Bool.false_eq_true, if_false]

theorem runSig_forbidden (declared : (syncOf d (wObj w)).declared = true)
    (forbidden : syncClassOk (syncOf d (wObj w)) o.lc = false) :
    runSig d i o w = (postOpFault d o 0x0803 0, passed { i with cycles := i.cycles + 1 } i.pc) := by
  simp only [runSig, declared, forbidden, Bool.not_false, Bool.and_self, if_true]

end

/-! ### What a word of the ring class comes to -/

section
variable (d : Dev) (i : Inst) (o : Op) {w : Nat} (here : wClass w = 3)
include here

theorem runWord_rclaim (code : wOp w = 1) : runWord d i o w = runMap d i o w true := by simp only [runWord, here, code]
theorem runWord_rpost (code : wOp w = 2) : runWord d i o w = (runUnmap d i w true).map did := by simp only [runWord, here, code]
theorem runWord_rtake (code : wOp w = 3) : runWord d i o w = runMap d i o w false := by simp only [runWord, here, code]
theorem runWord_rgive (code : wOp w = 4) : runWord d i o w = (runUnmap d i w false).map did := by simp only [runWord, here, code]
theorem runWord_sig (code : wOp w = 5) : runWord d i o w = .ok (did (runSig d i o w)) := by simp only [runWord, here, code]

end

/-- Settles O47: each ring instruction by whether it is refused, waits or moves its slot; a SIG by the class of its object. -/
theorem ringInstructions : Obligations.RingInstructions := by
  unfold Obligations.RingInstructions
  intro s n i o w word here d r k me mapped left
  have runs {c : Instr} {op : Nat} {e : Dev} {j : Inst} (row : exec c s = runCore s n 3 op) (code : wOp w = op)
      (ok : runWord d i o w = .ok (e, some j)) : Does c s (instDone e n o i j w) := does_word word row here code (by omega) ok
  have waits {c : Instr} {op : Nat} {e : Dev} (row : exec c s = runCore s n 3 op) (code : wOp w = op)
      (ok : runWord d i o w = .ok (e, none)) : Does c s e := does_word_waits word row here code (by omega) ok
  have faults {c : Instr} {op : Nat} (row : exec c s = runCore s n 3 op) (code : wOp w = op)
      (error : runWord d i o w = .error 0x0B06) : Does c s (instFault d n i 0x0B06) :=
    does_word_faults word row here code (by omega) error
  refine ⟨?maps, ?absent, ?leaves, ?unmapped, ?signals⟩
  case maps =>
    intro x ring own b c
    have refused {fill : Bool} (bad : ¬ own ∨ mapDie x fill ≠ 0 ∨ sideTaken d r (mapSide x fill) fill (instKey i) = true) :
        runMap d i o w fill = .error 0x0B06 := by
      refine runMap_refused ring fun ⟨same, die, free⟩ => ?_
      obtain other | other_die | taken := bad
      · exact other same
      · exact other_die die
      · exact absurd taken (Bool.eq_false_iff.mp free)
    refine ⟨?claims, ?takes, ?claimRefused, ?takeRefused⟩
    case claims =>
      intro code same die free
      have may : MayMap d i o w true x := ⟨same, die, free⟩
      have bound : ringOf b r = some { x with prod := some me } := ringOf_bindProd ring me
      have is_map := runWord_rclaim d i o here code
      refine ⟨fun empty => ?_, fun held => ?_⟩
      · have slot := claimSlot_empty bound empty
        exact runs rfl code (is_map.trans (runMap_maps ring may slot))
      · have no_slot := claimSlot_held bound held
        exact waits rfl code (is_map.trans (runMap_waits ring may no_slot))
    case takes =>
      intro code same die free
      have may : MayMap d i o w false x := ⟨same, die, free⟩
      have bound : ringOf c r = some { x with cons := some me } := ringOf_bindCons ring me
      have is_map := runWord_rtake d i o here code
      refine ⟨fun ready => ?_, fun none_yet => ?_⟩
      · have slot := takeSlot_ready bound ready
        exact runs rfl code (is_map.trans (runMap_maps ring may slot))
      · have no_slot := takeSlot_waits bound none_yet
        exact waits rfl code (is_map.trans (runMap_waits ring may no_slot))
    case claimRefused => exact fun code bad => faults rfl code ((runWord_rclaim d i o here code).trans (refused bad))
    case takeRefused => exact fun code bad => faults rfl code ((runWord_rtake d i o here code).trans (refused bad))
  case absent =>
    exact fun absent => ⟨fun code => faults rfl code ((runWord_rclaim d i o here code).trans (runMap_absent absent)),
      fun code => faults rfl code ((runWord_rtake d i o here code).trans (runMap_absent absent))⟩
  case leaves =>
    intro y maps
    refine ⟨?posts, ?gives, ?postOther, ?giveOther⟩
    case posts =>
      exact fun code fills => runs rfl code (by rw [runWord_rpost d i o here code, runUnmap_leaves maps fills]; rfl)
    case gives =>
      exact fun code drains => runs rfl code (by rw [runWord_rgive d i o here code, runUnmap_leaves maps drains]; rfl)
    case postOther =>
      exact fun code drains => faults rfl code (by rw [runWord_rpost d i o here code, runUnmap_other maps (by simp [drains])]; rfl)
    case giveOther =>
      exact fun code fills => faults rfl code (by rw [runWord_rgive d i o here code, runUnmap_other maps (by simp [fills])]; rfl)
  case unmapped =>
    exact fun unmapped => ⟨
      fun code => faults rfl code (by rw [runWord_rpost d i o here code, runUnmap_unmapped unmapped]; rfl),
      fun code => faults rfl code (by rw [runWord_rgive d i o here code, runUnmap_unmapped unmapped]; rfl)⟩
  case signals =>
    intro code next
    have is_sig := runWord_sig d i o here code
    exact ⟨fun allowed => runs rfl code (by rw [is_sig, runSig_sends allowed]; rfl),
      fun declared forbidden => runs rfl code (by rw [is_sig, runSig_forbidden declared forbidden]; rfl)⟩

end Sys2Proof.Machine
end

section
/-!
SUPPORT. Signal cores: proof of the statement on SC_RUN and the end of instances (R328, R331, R340, R342, R343, R347).
-/
namespace Sys2Proof.Machine
open Sys2Proof

/-! ### SC_RUN (R340, R347) -/

@[simp] theorem sendDesc_sc (d : Dev) (h : Head) : (sendDesc d h).sc = d.sc := by
  unfold sendDesc
  split
  · exact crossFlit_sc ..
  · rfl

theorem imageOf_congr {d e : Dev} (same : e.sc = d.sc) (ctx p : Nat) : imageOf e ctx p = imageOf d ctx p := by
  simp only [imageOf, imagesOf, same]

/-- A program that its context holds is placed on each core that its operation takes, and the words to be read are checked. -/
theorem startScRun_image {d : Dev} {h : Head} {im : Bytes} (cs : List CoreFail)
    (image : imageOf d h.ctx (srProgram h.desc) = some im) :
    startScRun cs d h = (freshOp d h).units.foldl memoryCheck
      (((freshOp d h).units.zipIdx).foldl (placeInst h im cs d.disp.nextOp) (issue d h (freshOp d h)).2) := by
  simp only [startScRun, image]
  rfl

/-! ### The limit and expired loops (R331, R342) -/

section
variable {s : State} {n : Nat} (core : n < 32)
include core

theorem does_cycleLimitReached :
    Does (.cycleLimitReached n) s ((running s.dev n).elim s.dev fun i =>
      if limitReached i then instFault s.dev n i 0x0B07 else s.dev) := by
  rw [Does, show exec (.cycleLimitReached n) s = execCycleLimitReached n s from rfl, execCycleLimitReached,
    runDev_next s _ (decide_eq_true core)]
  cases running s.dev n <;> rfl

theorem does_loopExit :
    Does (.loopExit n) s ((running s.dev n).elim s.dev fun i => if loopOver i then putInst s.dev n (loopExit i) else s.dev) := by
  rw [Does, show exec (.loopExit n) s = execLoopExit n s from rfl, execLoopExit, runDev_next s _ (decide_eq_true core)]
  cases running s.dev n <;> rfl

end

/-! ### Words that run no instruction (R328, R343) -/

section
variable {s : State} {n : Nat}

/-- A HALT takes its issue cycle, then ends the program or faults. -/
theorem runInstr_halt {i : Inst} {o : Op} {w : Nat} (next : NextWord s.dev n i o w) (control : wClass w = 2) (code : wOp w = 5) :
    runInstr s.dev n 2 5 = runHalt s.dev n i := by
  obtain ⟨-, ⟨j, runs, rfl, not_due⟩, op, below, word, legal⟩ := next
  rw [flushLoops_op] at op
  unfold runInstr
  rw [memoryCheck_none runs not_due]
  simp only [runs, op, below, word, legal, control, code]
  rfl

/-- A word beyond the code or an illegal one faults, whichever instruction was expected. -/
theorem runInstr_illegal {j : Inst} {o : Op} (runs : running s.dev n = some j) (not_due : ∀ e ∈ j.fails, j.cycles < e.1)
    (op : opOf s.dev (flushLoops 5 j).op = some o) (below : limitReached (flushLoops 5 j) = false)
    (bad : fetchWord (flushLoops 5 j) = none ∨ ∃ w, fetchWord (flushLoops 5 j) = some w ∧ illegal (flushLoops 5 j) w = true)
    (cls code : Nat) : runInstr s.dev n cls code = instFault s.dev n (flushLoops 5 j) 0x0B04 := by
  rw [flushLoops_op] at op
  unfold runInstr
  rw [memoryCheck_none runs not_due]
  obtain beyond | ⟨w, word, illegal⟩ := bad
  · simp only [runs, op, below, beyond, Bool.false_eq_true, if_false]
  · simp only [runs, op, below, word, illegal, Bool.false_eq_true, if_false, if_true]

end

/-! ### Failing memory words (R347) -/

section
variable {d : Dev} {n k : Nat} {j : Inst} (runs : running d n = some j) (due : k ≤ j.cycles)
include runs due

theorem memoryCheck_transient (fails : j.fails = [(k, false)]) :
    memoryCheck d n =
      modCore (putInst d n { j with fails := [] }) n fun c => { c with transients := satAdd 32 c.transients 1 } := by
  simp [memoryCheck, runs, fails, due]

theorem memoryCheck_permanent (fails : j.fails = [(k, true)]) :
    memoryCheck d n = pairRetire (instFault
      (modCore (putInst d n { j with fails := [] }) n fun c => { c with transients := satAdd 32 c.transients 0 }) n
      { j with fails := [] } 0x0B09) (n / 2) := by
  simp [memoryCheck, runs, fails, due]

end

/-- Settles O44: SC_RUN by its image, the ends of a program by the branch of its next instruction that they take. -/
theorem programsRun : Obligations.ProgramsRun := by
  unfold Obligations.ProgramsRun
  refine ⟨?starts, ?steps, ?halts, ?illegal, ?checks⟩
  case starts =>
    intro s q cs h im ready code passes issues image e o
    have started := does_runHead (c := .scRun q cs) (f := famScRun cs) rfl rfl ready code rfl passes issues
    have held : imageOf e h.ctx (srProgram h.desc) = some im := (imageOf_congr (sendDesc_sc s.dev h) ..).trans image
    rwa [show (famScRun cs).run = startScRun cs from rfl, startScRun_image cs held] at started
  case steps =>
    intro s n core
    have limit := does_cycleLimitReached (s := s) core
    have exits := does_loopExit (s := s) core
    refine ⟨fun stopped => ?_, fun i runs => ?_⟩
    · rw [stopped] at limit exits
      exact ⟨limit, exits⟩
    · rw [runs] at limit exits
      exact ⟨fun reached => does_congr (if_pos reached) limit, fun below => does_congr (if_neg (Bool.eq_false_iff.mp below)) limit,
        fun expired => does_congr (if_pos expired) exits, fun inside => does_congr (if_neg (Bool.eq_false_iff.mp inside)) exits⟩
  case halts =>
    intro s n i o w next control code j d
    have does {e : Dev} (left : runHalt s.dev n i = e) : Does (.halt n) s e :=
      does_runCore rfl next.core ((runInstr_halt next control code).trans left)
    refine ⟨fun unmapped => does (if_neg ?_), fun mapped => does (if_pos ?_)⟩
    · simpa using unmapped
    · simpa [Option.isSome_iff_ne_none] using mapped
  case illegal =>
    intro s n j o core runs not_due op below bad c mem
    obtain ⟨row, listed, rfl⟩ := List.mem_map.mp (show c ∈ (coreRows n).map Prod.fst from mem)
    exact does_runCore (exec_coreRow s n row listed) core (runInstr_illegal runs not_due op below bad ..)
  case checks =>
    intro d n j runs i count
    exact ⟨memoryCheck_none runs, fun k fails due => memoryCheck_transient runs due fails,
      fun k fails due => memoryCheck_permanent runs due fails⟩

end Sys2Proof.Machine
end

section
/-!
SUPPORT. Signal cores: the exact values of lanes, and the proof of the statement on lane arithmetic (R321, R323, R324, R326).
-/
namespace Sys2Proof.Machine
open Sys2Proof

/-! ### Integers that a field holds -/

/-- `x` is a `w`-bit signed integer. -/
def Fits (w : Nat) (x : Int) : Prop := intMin w ≤ x ∧ x ≤ intMax w

theorem two_pow_eq_double {w : Nat} (pos : 0 < w) : 2 ^ w = 2 * 2 ^ (w - 1) := by
  rw [← Nat.pow_succ', Nat.succ_eq_add_one, Nat.sub_add_cancel pos]

theorem sext_fits {w : Nat} (pos : 0 < w) (x : Nat) : Fits w (sext w x) := by
  have below : x % 2 ^ w < 2 ^ w := Nat.mod_lt _ (Nat.two_pow_pos w)
  have double := two_pow_eq_double pos
  simp only [Fits, sext, intMin, intMax]
  split <;> omega

theorem satInt_fits {w : Nat} (x : Int) : Fits w (satInt w x) := by
  have some_value : (0 : Int) < ((2 ^ (w - 1) : Nat) : Int) := Int.natCast_pos.mpr (Nat.two_pow_pos _)
  have ordered : intMin w ≤ intMax w := by simp only [intMin, intMax]; omega
  simp only [Fits, satInt, clampInt]
  split
  · omega
  · split <;> omega

theorem satInt_of_fits {w : Nat} {x : Int} (fits : Fits w x) : satInt w x = x := by
  rw [satInt, clampInt, if_neg (Int.not_lt.mpr fits.1), if_neg (Int.not_lt.mpr fits.2)]

theorem natCast_wrapBits (w : Nat) (x : Int) : (wrapBits w x : Int) = x % ((2 ^ w : Nat) : Int) :=
  Int.toNat_of_nonneg (Int.emod_nonneg x (Int.natCast_ne_zero.mpr (Nat.two_pow_pos w).ne'))

theorem wrapBits_lt (w : Nat) (x : Int) : wrapBits w x < 2 ^ w := by
  have below := Int.emod_lt_of_pos x (Int.natCast_pos.mpr (Nat.two_pow_pos w))
  rwa [← natCast_wrapBits, Int.ofNat_lt] at below

/-- An integer that its field holds reads back. -/
theorem sext_wrapBits_of_fits {w : Nat} (pos : 0 < w) {x : Int} (fits : Fits w x) : sext w (wrapBits w x) = x := by
  have double := two_pow_eq_double pos
  have read : sext w (wrapBits w x) =
      if wrapBits w x < 2 ^ (w - 1) then (wrapBits w x : Int) else (wrapBits w x : Int) - ((2 ^ w : Nat) : Int) := by
    simp only [sext, Nat.mod_eq_of_lt (wrapBits_lt w x)]
  have code := natCast_wrapBits w x
  obtain ⟨low, high⟩ := fits
  simp only [intMin, intMax] at low high
  rw [read]
  by_cases negative : x < 0
  · rw [← Int.add_emod_right, Int.emod_eq_of_lt (by omega) (by omega)] at code
    rw [if_neg (by omega)]
    omega
  · rw [Int.emod_eq_of_lt (by omega) (by omega)] at code
    rw [if_pos (by omega), code]

/-! ### Two fields of a lane -/

theorem bitsAt_low {w a b : Nat} (small : a < 2 ^ w) : bitsAt (a + b * 2 ^ w) 0 w = a := by
  rw [bitsAt, Nat.pow_zero, Nat.div_one, Nat.add_mul_mod_self_right, Nat.mod_eq_of_lt small]

theorem bitsAt_high {w a b : Nat} (small : a < 2 ^ w) (small' : b < 2 ^ w) : bitsAt (a + b * 2 ^ w) w w = b := by
  rw [bitsAt, Nat.add_mul_div_right _ _ (Nat.two_pow_pos w), Nat.div_eq_of_lt small, Nat.zero_add, Nat.mod_eq_of_lt small']

/-- Both components of a sample or an accumulator fit its fields. -/
def FitsC (w : Nat) (z : Cplx) : Prop := Fits w z.1 ∧ Fits w z.2

/-- A pair of fields of up to 40 bits reads back from a lane's 80 bits. -/
theorem sext_fields {w : Nat} (pos : 0 < w) (room : w ≤ 40) {z : Cplx} (fits : FitsC w z) :
    let bits := (BitVec.ofNat 80 (wrapBits w z.1 + wrapBits w z.2 * 2 ^ w)).toNat
    (sext w (bitsAt bits 0 w), sext w (bitsAt bits w w)) = z := by
  have low := wrapBits_lt w z.1
  have high := wrapBits_lt w z.2
  have fields : wrapBits w z.1 + wrapBits w z.2 * 2 ^ w < 2 ^ 80 :=
    calc wrapBits w z.1 + wrapBits w z.2 * 2 ^ w
      _ < 2 ^ w * 2 ^ w := by nlinarith
      _ = 2 ^ (w + w) := (Nat.pow_add 2 w w).symm
      _ ≤ 2 ^ 80 := Nat.pow_le_pow_right (by decide) (by omega)
  simp only [BitVec.toNat_ofNat, Nat.mod_eq_of_lt fields, bitsAt_low low, bitsAt_high low high, sext_wrapBits_of_fits pos fits.1,
    sext_wrapBits_of_fits pos fits.2]

theorem laneSmp_smpLane {z : Cplx} (fits : FitsC 16 z) (spoil : Bool) : laneSmp (smpLane z spoil) = z :=
  sext_fields (by decide) (by decide) fits

theorem laneAcc_accLane {z : Cplx} (fits : FitsC 40 z) (spoil : Bool) : laneAcc (accLane z spoil) = z :=
  sext_fields (by decide) (by decide) fits

theorem laneSmp_fits (l : Lane) : FitsC 16 (laneSmp l) := ⟨sext_fits (by decide) _, sext_fits (by decide) _⟩

theorem satC_fits (z : Cplx) : FitsC 16 (satC z).1 := ⟨satInt_fits _, satInt_fits _⟩
theorem sat40_fits (z : Cplx) : FitsC 40 (sat40 z).1 := ⟨satInt_fits _, satInt_fits _⟩

/-! ### Products (R324) -/

theorem natAbs_of_fits16 {x : Int} (fits : Fits 16 x) : x.natAbs ≤ 2 ^ 15 := by
  obtain ⟨low, high⟩ := fits
  simp only [intMin, intMax] at low high
  omega

theorem natAbs_mul_of_fits16 {x y : Int} (x_fits : Fits 16 x) (y_fits : Fits 16 y) : (x * y).natAbs ≤ 2 ^ 30 := by
  calc (x * y).natAbs
    _ = x.natAbs * y.natAbs := Int.natAbs_mul x y
    _ ≤ 2 ^ 15 * 2 ^ 15 := Nat.mul_le_mul (natAbs_of_fits16 x_fits) (natAbs_of_fits16 y_fits)
    _ = 2 ^ 30 := by decide

theorem fits40_of_natAbs {x : Int} (small : x.natAbs ≤ 2 ^ 32) : Fits 40 x := by
  simp only [Fits, intMin, intMax]
  omega

/-- The product of two samples, with or without the conjugate, is exact in 40 bits. -/
theorem cprod_fits (conj : Bool) {x y : Cplx} (x_fits : FitsC 16 x) (y_fits : FitsC 16 y) : FitsC 40 (cprod conj x y) := by
  have ii := natAbs_mul_of_fits16 x_fits.1 y_fits.1
  have iq := natAbs_mul_of_fits16 x_fits.1 y_fits.2
  have qi := natAbs_mul_of_fits16 x_fits.2 y_fits.1
  have qq := natAbs_mul_of_fits16 x_fits.2 y_fits.2
  cases conj <;> refine ⟨fits40_of_natAbs ?_, fits40_of_natAbs ?_⟩ <;>
    simp only [cprod, Bool.false_eq_true, if_true, if_false, Int.mul_neg] <;> omega

/-- The energy of a sample is the sum of its squares (R326). -/
theorem energy_eq (x : Cplx) : (energy x : Int) = x.1 * x.1 + x.2 * x.2 :=
  Int.toNat_of_nonneg (Int.add_nonneg (mul_self_nonneg x.1) (mul_self_nonneg x.2))

theorem energy_fits {x : Cplx} (fits : FitsC 16 x) : Fits 40 (energy x : Int) := by
  have ii := natAbs_mul_of_fits16 fits.1 fits.1
  have qq := natAbs_mul_of_fits16 fits.2 fits.2
  rw [energy_eq]
  exact fits40_of_natAbs (by omega)

/-! ### What each lane operation holds (R323, R324, R326) -/

theorem laneSmp_add (a b : Lane) : laneSmp (addSub false false a b).1 =
    (satInt 16 ((laneSmp a).1 + (laneSmp b).1), satInt 16 ((laneSmp a).2 + (laneSmp b).2)) :=
  laneSmp_smpLane (satC_fits _) _

theorem laneSmp_sub (a b : Lane) : laneSmp (addSub true false a b).1 =
    (satInt 16 ((laneSmp a).1 - (laneSmp b).1), satInt 16 ((laneSmp a).2 - (laneSmp b).2)) :=
  laneSmp_smpLane (satC_fits _) _

theorem laneSmp_conj (a : Lane) : laneSmp (conjLane a).1 = ((laneSmp a).1, satInt 16 (-(laneSmp a).2)) :=
  (laneSmp_smpLane (satC_fits _) _).trans (congrArg (·, _) (satInt_of_fits (laneSmp_fits a).1))

theorem laneAcc_mul (conj : Bool) (a b : Lane) : laneAcc (mulLane conj a b).1 = cprod conj (laneSmp a) (laneSmp b) :=
  laneAcc_accLane (cprod_fits conj (laneSmp_fits a) (laneSmp_fits b)) _

theorem laneAcc_mac (conj : Bool) (d a b : Lane) : laneAcc (macLane conj d a b).1 =
    (satInt 40 ((laneAcc d).1 + (cprod conj (laneSmp a) (laneSmp b)).1),
      satInt 40 ((laneAcc d).2 + (cprod conj (laneSmp a) (laneSmp b)).2)) :=
  laneAcc_accLane (sat40_fits _) _

theorem laneAcc_widen (a : Lane) : laneAcc (widenLane a).1 = laneSmp a := by
  have wider {x : Int} (fits : Fits 16 x) : Fits 40 x := fits40_of_natAbs ((natAbs_of_fits16 fits).trans (by decide))
  exact laneAcc_accLane ⟨wider (laneSmp_fits a).1, wider (laneSmp_fits a).2⟩ _

theorem laneAcc_mag2 (a : Lane) :
    laneAcc (mag2Lane a).1 = ((laneSmp a).1 * (laneSmp a).1 + (laneSmp a).2 * (laneSmp a).2, 0) :=
  (laneAcc_accLane ⟨energy_fits (laneSmp_fits a), fits40_of_natAbs (x := 0) (by decide)⟩ _).trans (congrArg (·, 0) (energy_eq _))

/-! ### The lanes of a vector -/

section
variable {k : Nat} (lane : k < 8)
include lane

theorem laneAt_lanes2 (f : Lane → Lane → Lane × Flags) (a b : Vec) :
    laneAt (lanes2 f a b).v k = (f (laneAt a k) (laneAt b k)).1 := by
  simp [lanes2, vres, laneAt, lget, lane]

theorem laneAt_lanes3 (f : Lane → Lane → Lane → Lane × Flags) (a b d : Vec) :
    laneAt (lanes3 f a b d).v k = (f (laneAt a k) (laneAt b k) (laneAt d k)).1 := by
  simp [lanes3, vres, laneAt, lget, lane]

theorem laneAt_map (f : Lane → Lane × Flags) {a : Vec} (length : a.length = 8) :
    laneAt (vres (a.map f)).v k = (f (laneAt a k)).1 := by
  have inside : k < a.length := length ▸ lane
  simp [vres, laneAt, lget, inside]

end

/-- Settles O48: each lane of an operation's result is the lane operation's, whose value fits its field. -/
theorem laneArithmetic : Obligations.LaneArithmetic := by
  unfold Obligations.LaneArithmetic
  intro a b d k half ftz lane a_lanes _ _ x y c out bad
  have lane_add (h : Bool) : out 0x02 h = (addSub false h (laneAt a k) (laneAt b k)).1 := laneAt_lanes2 lane ..
  have lane_sub : out 0x03 false = (addSub true false (laneAt a k) (laneAt b k)).1 := laneAt_lanes2 lane ..
  have lane_conj : out 0x04 half = (conjLane (laneAt a k)).1 := laneAt_map lane _ a_lanes
  have lane_mul : out 0x08 half = (mulLane false (laneAt a k) (laneAt b k)).1 := laneAt_lanes2 lane ..
  have lane_mulc : out 0x09 half = (mulLane true (laneAt a k) (laneAt b k)).1 := laneAt_lanes2 lane ..
  have lane_mac : out 0x0A half = (macLane false (laneAt d k) (laneAt a k) (laneAt b k)).1 := laneAt_lanes3 lane ..
  have lane_widen : out 0x07 half = (widenLane (laneAt a k)).1 := laneAt_map lane _ a_lanes
  have lane_mag2 : out 0x0C half = (mag2Lane (laneAt a k)).1 := laneAt_map lane _ a_lanes
  refine ⟨?add, ?sub, ?conj, ?mul, ?mulc, ?mac, ?widen, ?mag2, ?addSpoil, ?mulSpoil, ?macSpoil⟩
  case add => rw [lane_add, laneSmp_add]
  case sub => rw [lane_sub, laneSmp_sub]
  case conj => rw [lane_conj, laneSmp_conj]
  case mul => rw [lane_mul, laneAcc_mul]; rfl
  case mulc =>
    have conjugate : cprod true x y = (x.1 * y.1 + x.2 * y.2, x.2 * y.1 - x.1 * y.2) := by
      simp only [cprod, if_true, Prod.mk.injEq]
      constructor <;> ring
    rw [lane_mulc, laneAcc_mul, ← conjugate]
  case mac => rw [lane_mac, laneAcc_mac]; rfl
  case widen => rw [lane_widen, laneAcc_widen]
  case mag2 => rw [lane_mag2, laneAcc_mag2]
  case addSpoil => rw [lane_add]; rfl
  case mulSpoil => rw [lane_mul]; rfl
  case macSpoil => rw [lane_mac]; exact Bool.or_assoc ..

end Sys2Proof.Machine
end

section
/-!
SUPPORT. Proof of the statement on the chirp modem's transmit side (R357 to R359, R373).
-/
namespace Sys2Proof.Machine
open Sys2Proof

/-! ### A head that must wait -/

/-- A ready head that passes its family's checks, but whose unit is not free, leaves the device. -/
theorem does_runHead_waits {s : State} {q : Nat} {h : Head} {c : Instr} {f : Family} (runs : exec c s = runHead s q f)
    (known : opcodes.contains f.op = true) (ready : HeadReady s.dev q h f.invalid) (op : hOpcode h.desc = f.op)
    (sub : f.sub h.desc = true) (check : f.check s.dev h = none) (busy : f.ready s.dev h = false) : Does c s s.dev := by
  have goes : ¬ headHeld s.dev h := by
    rintro (unmet | ⟨crosses, blocked⟩)
    · rw [ready.wait] at unmet
      cases unmet
    · rw [ready.road crosses] at blocked
      cases blocked
  exact does_congr
    (withHead_notReady ⟨ready.head, ready.active, ready.free⟩ ⟨known, op, sub⟩ ready.header goes ready.gate check busy)
    (carriesHead_runHead ready.queue runs known).does

/-! ### What crossing, issue and a corrected memory word leave -/

@[simp] theorem sendDesc_lr (d : Dev) (h : Head) : (sendDesc d h).lr = d.lr := by
  unfold sendDesc
  split
  · exact crossFlit_lr ..
  · rfl

@[simp] theorem sendDesc_disp (d : Dev) (h : Head) : (sendDesc d h).disp = d.disp := by
  unfold sendDesc
  split
  · exact crossFlit_disp ..
  · rfl

@[simp] theorem issue_lr (d : Dev) (h : Head) (o : Op) : (issue d h o).2.lr = d.lr := by
  have served (e : Dev) : (noteServed e h).lr = e.lr := by
    unfold noteServed
    split
    · split
      · rfl
      · rw [modCtx_lr]
    · rfl
  exact (served _).trans (advance_lr d h.q)

@[simp] theorem trTransient_disp (d : Dev) (hw : HwOutcome) : (trTransient d hw).disp = d.disp := by
  unfold trTransient
  split <;> rfl

@[simp] theorem trTransient_lr (d : Dev) (hw : HwOutcome) : (trTransient d hw).lr = d.lr := by
  unfold trTransient
  split <;> rfl

theorem mixOf_congr {d e : Dev} (same : e.lr = d.lr) (n : Nat) : mixOf e n = mixOf d n := by rw [mixOf, mixOf, same]

/-! ### LR_TX and LR_MIX (R357 to R359) -/

theorem startLrTx_takes {d : Dev} {h : Head} {n : Nat} (free : freeModulator d = some n) :
    startLrTx d h = modTake (setModulator (issue d h (freshOp d h)).2 n
      { op := d.disp.nextOp, mix := lrMix h.desc, taken := false, values := [], begun := none, m := 0, phase := 0 }) n := by
  have still : freeModulator (issue d h (freshOp d h)).2 = some n := by rwa [freeModulator, issue_lr]
  simp only [startLrTx, still]
  rfl

theorem stopMix_stopped {d : Dev} {mix : Nat} (stopped : (mixOf d mix).reg.st = 0) : stopMix d mix = d := if_pos stopped

theorem stopMix_bound {d : Dev} {mix : Nat} (bound : (mixOf d mix).reg.st ≠ 0) :
    stopMix d mix = mixTo (freeProd (cutFrames d mix) (mixOf (cutFrames d mix) mix).ring (.mix mix)) mix 0 := if_neg bound

theorem famMixOff_check_none {d : Dev} {h : Head} (clear : lrReserved h.desc = false) (field : dfield h.desc 24 4 2 = 0) :
    famMixOff.check d h = none := by
  simp only [famMixOff, reasonIf, clear, field]
  rfl

/-! ### A frame's start (R359) -/

theorem modTake_taken {d : Dev} {n : Nat} {x : ModSt} {o : Op} (modulator : modulatorOf d n = some x) (op : opOf d x.op = some o)
    (taken : x.taken = true) : modTake d n = d := by
  simp only [modTake, modulator, op, taken, Bool.true_or, if_true]

section
variable {d : Dev} {n : Nat} {x : ModSt} {o : Op} (modulator : modulatorOf d n = some x) (op : opOf d x.op = some o)
  (taken : x.taken = true)
include modulator op taken

theorem frameStart_idle (idle : x.begun ≠ none ∨ (mixOf d x.mix).reg.st ≠ 2) : frameStart d n = d := by
  simp only [frameStart, modTake_taken modulator op taken, modulator, op]
  refine if_pos ?_
  obtain begun | stopped := idle
  · simp [Option.isSome_iff_ne_none, begun]
  · simp [stopped]

theorem frameStart_beyond
    (beyond : (mixOf d x.mix).written + mixSlotSamples d (mixOf d x.mix) ≤ mixFirst d (mixOf d x.mix) (lrCount o.desc)) :
    frameStart d n = d := by
  simp only [frameStart, modTake_taken modulator op taken, modulator, op]
  exact if_pos (by simp [beyond])

section
variable (waits : x.begun = none) (runs : (mixOf d x.mix).reg.st = 2)
include waits runs

/-- A frame whose first sample lies before the end of the next slot begins there, or late at the first one not yet written. -/
theorem frameStart_begins
    (near : mixFirst d (mixOf d x.mix) (lrCount o.desc) < (mixOf d x.mix).written + mixSlotSamples d (mixOf d x.mix)) :
    frameStart d n =
      let m := mixOf d x.mix
      let c := mixFirst d m (lrCount o.desc)
      let b := setModulator d n { x with begun := some (max c m.written) }
      if c < m.written then postLate b o.ctx ⟨hTag o.desc, o.queue⟩ (lrCount o.desc) (mixTick d m (max c m.written)) else b := by
  simp only [frameStart, modTake_taken modulator op taken, modulator, op]
  exact if_neg (by simp [taken, waits, runs, near])

theorem frameStart_onTime (ahead : (mixOf d x.mix).written ≤ mixFirst d (mixOf d x.mix) (lrCount o.desc))
    (near : mixFirst d (mixOf d x.mix) (lrCount o.desc) < (mixOf d x.mix).written + mixSlotSamples d (mixOf d x.mix)) :
    frameStart d n = setModulator d n { x with begun := some (mixFirst d (mixOf d x.mix) (lrCount o.desc)) } := by
  rw [frameStart_begins modulator op taken waits runs near]
  simp only [Nat.not_lt.mpr ahead, if_false, Nat.max_eq_left ahead]

theorem frameStart_late (late : mixFirst d (mixOf d x.mix) (lrCount o.desc) < (mixOf d x.mix).written) :
    frameStart d n = postLate (setModulator d n { x with begun := some (mixOf d x.mix).written }) o.ctx
      ⟨hTag o.desc, o.queue⟩ (lrCount o.desc) (mixTick d (mixOf d x.mix) (mixOf d x.mix).written) := by
  rw [frameStart_begins modulator op taken waits runs (Nat.lt_add_right _ late)]
  simp only [late, if_true, Nat.max_eq_right late.le]

end

end

theorem modFail_modulator {d : Dev} {n : Nat} {x : ModSt} {o : Op} (modulator : modulatorOf d n = some x)
    (op : opOf d x.op = some o) :
    modFail d n = endUnitOp (dropModulator (postOpFault d o 0x0C04 0) n) (some x.op) := by
  simp only [modFail, modulator, op]

/-! ### A mix's slot (R358) -/

section
variable {d : Dev} {mix : Nat}

theorem mixFill_idle (idle : (mixOf d mix).reg.st ≠ 2) : mixFill d mix = d := if_pos idle

section
variable {x : Ring} (runs : (mixOf d mix).reg.st = 2) (ring : ringOf d (mixOf d mix).ring = some x)
include runs ring

theorem mixFill_held (held : slotStOf x x.tail ≠ .empty) : mixFill d mix = d := by
  simp only [mixFill, runs, claimSlot_held ring held]
  rfl

theorem mixFill_fills (empty : slotStOf x x.tail = .empty) :
    let m := mixOf d mix
    let a := setSlot (slotClear (slotClear d m.ring x.tail) m.ring (stageSlot x x.tail)) m.ring x.tail .filling
    let n := mixSlotSamples a m
    let b := (List.range n).foldl (mixSample mix x.tail) ((modsOf a mix).foldl frameStart a)
    mixFill d mix = slotPost (setMix b mix { mixOf b mix with written := m.written + n }) m.ring := by
  simp only [mixFill, runs, claimSlot_empty ring empty]
  rfl

end

end

/-! ### The statement -/

section
variable {s : State} {d : Dev} {n : Nat} (unit : n < 64)
include unit

theorem does_lrFrameStart {hw : HwOutcome}
    (left : (if (modulatorOf s.dev n).isNone then s.dev else if hw = .permanent then modFail s.dev n
      else frameStart (trTransient s.dev hw) n) = d) : Does (.lrFrameStart n hw) s d :=
  does_runDev (f := fun d => if (modulatorOf d n).isNone then d else if hw = .permanent then modFail d n
    else frameStart (trTransient d hw) n) rfl (decide_eq_true unit) left

theorem does_lrFrameStart_unused {hw : HwOutcome} (unused : modulatorOf s.dev n = none) : Does (.lrFrameStart n hw) s s.dev :=
  does_lrFrameStart unit (if_pos (by rw [unused]; rfl))

section
variable {x : ModSt} (modulator : modulatorOf s.dev n = some x)
include modulator

theorem does_lrFrameStart_fails (left : modFail s.dev n = d) : Does (.lrFrameStart n .permanent) s d := by
  refine does_lrFrameStart unit ?_
  simpa [modulator] using left

theorem does_lrFrameStart_reads {hw : HwOutcome} (reads : hw ≠ .permanent) (left : frameStart (trTransient s.dev hw) n = d) :
    Does (.lrFrameStart n hw) s d := by
  refine does_lrFrameStart unit ?_
  simpa [modulator, reads] using left

end

end

/-- Settles O49: a descriptor by its family's run, a modulator by where its frame's first sample lies, a mix by its next slot. -/
theorem chirpTransmit : Obligations.ChirpTransmit := by
  unfold Obligations.ChirpTransmit
  refine ⟨?descriptors, ?modulators, ?unused, ?slots⟩
  case descriptors =>
    intro s q h ready d x e m
    have same (n : Nat) : mixOf e n = mixOf d n := mixOf_congr (sendDesc_lr d h) n
    refine ⟨fun n op passes free => ?_, fun op passes busy => ?_, fun op on passes => ?_, fun op off clear field => ?_⟩
    · have still : freeModulator e = some n := by rwa [freeModulator, sendDesc_lr]
      have id : e.disp.nextOp = d.disp.nextOp := by rw [sendDesc_disp]
      rw [← id]
      exact does_congr (startLrTx_takes still)
        (does_runHead (f := famLrTx) rfl rfl ready op rfl passes (Option.isSome_iff_exists.mpr ⟨n, free⟩))
    · exact does_runHead_waits (f := famLrTx) rfl rfl ready op rfl passes (congrArg Option.isSome busy)
    · have started := does_runHead (c := .lrMixEnable q) (f := famMixOn) rfl rfl ready op on passes rfl
      simp only [m, ← same]
      exact started
    · have stops := does_runHead (c := .lrMixDisable q) (f := famMixOff) rfl rfl ready op (congrArg not off)
        (famMixOff_check_none clear field) rfl
      simp only [m, ← same]
      exact ⟨fun stopped => does_congr (congrArg (completeHead · h) (stopMix_stopped stopped)) stops,
        fun bound => does_congr (congrArg (completeHead · h) (stopMix_bound bound)) stops⟩
  case modulators =>
    intro s n x o hw unit modulator op d m c
    have held : modulatorOf d n = some x := by rwa [modulatorOf, trTransient_lr]
    have its : opOf d x.op = some o := by rwa [opOf, trTransient_disp]
    refine ⟨fun reads taken waits runs => ⟨fun ahead near => ?_, fun late => ?_, fun beyond => ?_⟩, fun reads taken idle => ?_, ?_⟩
    · exact does_lrFrameStart_reads unit modulator reads (frameStart_onTime held its taken waits runs ahead near)
    · exact does_lrFrameStart_reads unit modulator reads (frameStart_late held its taken waits runs late)
    · exact does_lrFrameStart_reads unit modulator reads (frameStart_beyond held its taken beyond)
    · exact does_lrFrameStart_reads unit modulator reads (frameStart_idle held its taken idle)
    · exact does_lrFrameStart_fails unit modulator (modFail_modulator modulator op)
  case unused => exact fun s n hw unit unused => does_lrFrameStart_unused unit unused
  case slots =>
    intro s mix unit d m
    have does {e : Dev} (left : mixFill d mix = e) : Does (.mixSlotFill mix) s e :=
      does_runDev (f := fun d => mixFill d mix) rfl (decide_eq_true unit) left
    exact ⟨fun x runs ring => ⟨fun empty => does (mixFill_fills runs ring empty), fun held => does (mixFill_held runs ring held)⟩,
      fun idle => does (mixFill_idle idle)⟩

end Sys2Proof.Machine
end

section
/-!
SUPPORT. Proof of the statement on the chirp modem's receive side (R360 to R363, R373).
-/
namespace Sys2Proof.Machine
open Sys2Proof

/-! ### LR_LISTEN (R363) -/

theorem lsnOf_congr {d e : Dev} (same : e.lr = d.lr) (n : Nat) : lsnOf e n = lsnOf d n := by rw [lsnOf, lsnOf, same]

theorem demsOf_congr {d e : Dev} (same : e.lr = d.lr) (n : Nat) : demsOf e n = demsOf d n := by rw [demsOf, demsOf, same]

theorem stopListener_other {d : Dev} {n : Nat} (other : (lsnOf d n).reg.st ≠ 1) (reason : Nat) : stopListener d n reason = d :=
  if_pos other

theorem stopListener_runs {d : Dev} {n : Nat} (runs : (lsnOf d n).reg.st = 1) (reason : Nat) :
    let l := lsnOf d n
    stopListener d n reason = post (freeProd (setLsn ((demsOf d n).foldl dropDem d) n { l with reg := genTo l.reg 0, heard := [] })
      l.ring (.listener n)) l.ctx 0x0028 noCause
      (leBytes 1 n ++ leBytes 1 reason ++ zeros 2 ++ leBytes 4 (demsOf d n).length) := if_neg (not_not.mpr runs)

theorem famListenOff_check_none {d : Dev} {h : Head} (clear : lrReserved h.desc = false) : famListenOff.check d h = none := by
  simp only [famListenOff, reasonIf, clear]
  rfl

/-! ### A preamble declared (R360) -/

section
variable {d : Dev} {n sf : Nat} (factor : 6 ≤ sf)
include factor

theorem preamble_unwatched (unwatched : ¬ ((lsnOf d n).reg.st = 1 ∧ bitAt (lnMask (lsnOf d n).cfg) (sf - 6) = true)) :
    preamble d n sf = d := by
  refine if_pos ?_
  simpa [Nat.not_lt.mpr factor, or_iff_not_imp_left] using unwatched

section
variable (runs : (lsnOf d n).reg.st = 1) (asked : bitAt (lnMask (lsnOf d n).cfg) (sf - 6) = true)
include runs asked

theorem preamble_unseen (unseen : preambleSeen d (lsnOf d n) sf = none) : preamble d n sf = d := by
  simp only [preamble, runs, asked, Nat.not_lt.mpr factor, unseen]
  rfl

section
variable {start : Nat} (seen : preambleSeen d (lsnOf d n) sf = some start)
include seen

/-- A preamble seen is not taken again where a demodulation of the search has its timing. -/
theorem preamble_seen :
    preamble d n sf =
      if d.lr.dems.any fun e =>
          e.2.lsn == n && e.2.sf == sf && !timingApart start e.2.frameTick (symbolTicks sf (lnBw (lsnOf d n).cfg)) then d
      else (firstBelow 256 fun k => !thas d.lr.dems k).elim { d with lr := { d.lr with refused := satAdd 32 d.lr.refused 1 } } fun k =>
        setDem d k { lsn := n, sf := sf, found := false, frameTick := start, place := 0, cfo := 0, snr := 0, peak := 0, symbols := 0,
                     netId := 0, header := none, soft := [], waiting := false, badTicks := [], spoil := false } := by
  simp only [preamble, runs, asked, Nat.not_lt.mpr factor, seen]
  cases firstBelow 256 fun k => !thas d.lr.dems k <;> rfl

end

end

end

/-- No demodulation of a search has the timing of a preamble. -/
theorem timing_new_iff (t : Tab DemSt) (n sf start period : Nat) :
    (t.any fun e => e.2.lsn == n && e.2.sf == sf && !timingApart start e.2.frameTick period) = false ↔
      ∀ e ∈ t, e.2.lsn = n → e.2.sf = sf → timingApart start e.2.frameTick period = true := by
  simp only [List.any_eq_false, Bool.and_eq_true, beq_iff_eq, Bool.not_eq_true', Bool.not_eq_false, not_and, and_imp]

/-! ### The statement -/

section
variable {s : State} {d : Dev} {n : Nat}

theorem does_preambleDeclared {sf : Nat} (listener : n < 64) (factor : sf ≤ 12) (left : preamble s.dev n sf = d) :
    Does (.preambleDeclared n sf) s d :=
  does_runDev (f := fun d => preamble d n sf) rfl (by simp [listener, factor]) left

section
variable (unit : n < 256)
include unit

theorem does_demodSymbol_unused {hw : HwOutcome} (unused : tfind s.dev.lr.dems n = none) : Does (.demodSymbol n hw) s s.dev := by
  rw [Does, show exec (.demodSymbol n hw) s = execDemodSymbol n hw s from rfl, execDemodSymbol, runDev_next s _ (decide_eq_true unit)]
  simp only [unused]

theorem does_demodSymbol {x : DemSt} (found : tfind s.dev.lr.dems n = some x) (hw : HwOutcome) :
    Does (.demodSymbol n hw) s (if hw = .permanent then postFault (dropDem s.dev n) (lsnOf s.dev x.lsn).ctx noCause 0x0C04 0 0 0
      else demod (trTransient s.dev hw) n) := by
  rw [Does, show exec (.demodSymbol n hw) s = execDemodSymbol n hw s from rfl, execDemodSymbol, runDev_next s _ (decide_eq_true unit)]
  simp only [found]

end

end

/-- Settles O50: a listener by its state, a preamble by whether it is seen and new, a demodulation by its next symbol. -/
theorem chirpReceive : Obligations.ChirpReceive := by
  unfold Obligations.ChirpReceive
  refine ⟨?listeners, ?preambles, ?symbols, ?unused⟩
  case listeners =>
    intro s q h ready op d n l e
    have same : l = lsnOf e n := (lsnOf_congr (sendDesc_lr d h) n).symm
    have stops (off : lrEnable h.desc = false) (clear : lrReserved h.desc = false) :
        Does (.lrListenStop q) s (completeHead (stopListener e n 1) h) :=
      does_runHead (f := famListenOff) rfl rfl ready op (congrArg not off) (famListenOff_check_none clear) rfl
    rw [same]
    simp only [← demsOf_congr (sendDesc_lr d h)]
    exact ⟨fun on passes => does_runHead (f := famListenOn) rfl rfl ready op on passes rfl,
      fun off clear other => does_congr (congrArg (completeHead · h) (stopListener_other other 1)) (stops off clear),
      fun off clear runs => does_congr (congrArg (completeHead · h) (stopListener_runs runs 1)) (stops off clear)⟩
  case preambles =>
    intro s n sf listener least most d l
    have does {e : Dev} (left : preamble d n sf = e) : Does (.preambleDeclared n sf) s e :=
      does_preambleDeclared listener most left
    by_cases watched : l.reg.st = 1 ∧ bitAt (lnMask l.cfg) (sf - 6) = true
    · rw [if_pos watched]
      obtain ⟨runs, asked⟩ := watched
      cases seen : preambleSeen d l sf with
      | none => exact does (preamble_unseen least runs asked seen)
      | some start =>
        refine does ((preamble_seen least runs asked seen).trans ?_)
        simp only [← timing_new_iff]
        cases d.lr.dems.any _ <;> cases firstBelow 256 fun k => !thas d.lr.dems k <;> rfl
    · rw [if_neg watched]
      exact does (preamble_unwatched least watched)
  case symbols =>
    intro s n x hw unit found d l t y till m bad z id
    have held : tfind d.lr.dems n = some x := by rwa [trTransient_lr]
    have next : demod d n =
        if !y.found then d
        else if y.waiting || d.time.ticks < till then setDem d n y
        else if y.symbols = 0 then setDem d n { z with symbols := 1, netId := 64 * identityValue y.sf m }
        else if y.symbols = 1 then
          if id ≠ leAt l.cfg 8 2 && leAt l.cfg 3 1 = 0 then
            setLsn (dropDem d n) y.lsn { l with netRejects := satAdd 32 l.netRejects 1 }
          else setDem d n { z with symbols := 2, netId := id }
        else softSymbol d n z bad m := by
      simp only [demod, held]
      rfl
    have does (reads : hw ≠ .permanent) {e : Dev} (left : demod d n = e) : Does (.demodSymbol n hw) s e :=
      does_congr ((if_neg reads).trans left) (does_demodSymbol unit found hw)
    refine ⟨fun reads lost => ?_, fun reads located waits => ?_, fun reads located free past => ?_, ?_⟩
    · exact does reads (next.trans (if_pos (by rw [lost]; rfl)))
    · refine does reads (next.trans ((if_neg (by rw [located]; decide)).trans (if_pos ?_)))
      simpa using waits
    · have decided := next.trans ((if_neg (by rw [located]; decide)).trans (if_neg (by simp [free, past])))
      refine ⟨fun first => does reads (decided.trans (if_pos first)), fun second => does reads (decided.trans ?_),
        fun later => does reads (decided.trans ?_)⟩
      · simp [second]
      · rw [if_neg (by omega), if_neg (by omega)]
    · exact does_demodSymbol unit found .permanent
  case unused => exact fun s n hw unit unused => does_demodSymbol_unused unit unused

end Sys2Proof.Machine
end

section
/-!
SUPPORT. The trellis unit (R368, R369): the refutation of the statement on it, whose clause on codewords that start fails of a table
that lists a job's number twice, and the proof of that clause for tables that do not.
-/
namespace Sys2Proof.Machine
open Sys2Proof

/-! ### What a command leaves is one device -/

theorem settle_eq_of_does {c : Instr} {s : State} {d e : Dev} (left : Does c s d) (other : Does c s e) : settle d = settle e := by
  have same := Eq.trans (Eq.symm left) other
  injection same with same
  exact congrArg State.dev same

theorem does_trellisCodewordStart {s : State} {e : Nat} (engine : e < 5) :
    Does (.trellisCodewordStart e) s (codewordStart s.dev e) :=
  does_runDev (f := fun d => codewordStart d e) rfl (decide_eq_true engine) rfl

/-! ### Two jobs under one number

The table of jobs is a plain list, and a statement about every state is also about the tables that list a number twice. `nextJob`
looks at every entry, so the second job under a number can make it the next; `codewordStart` then finds the first. -/

/-- A TR_ENC from ring 0 into ring 1. -/
def encDesc : Desc := BitVec.ofNat 512 (0xB0 + 2 ^ (8 * 28))

/-- A ring of four EMPTY slots. -/
def emptyRing : Ring := rgNew ⟨0, 0, false, BitVec.ofNat 512 (4 * 2 ^ (8 * 28)), 0⟩

/-- The job of operation 0, which waits: the head of its input ring is EMPTY. -/
def waitingJob : TrJob :=
  { op := some 0, dem := none, lc := false, enc := true, code := [], soft := false, tail := false, len := 0, left := 1, input := [],
    avail := 0, running := false }

/-- A device that lists number 0 twice: the job that waits, and one with no rings, which is ready. -/
def repeatedJob : Dev :=
  let d := setOp (setRing (setRing Dev.reset 0 emptyRing) 1 emptyRing) 0 (freshOp Dev.reset ⟨0, 0, false, encDesc, 0⟩)
  { d with tr := { d.tr with jobs := [(0, waitingJob), (0, { waitingJob with op := none })] } }

/-- The slot at the head of ring 0. -/
def headSlot (d : Dev) : Option SlotSt := (ringOf d 0).map fun r => slotStOf r r.head

/-- Refutes O51: with number 0 listed twice the encoder begins a job whose input slot is EMPTY, and takes no slot. -/
theorem not_trellisRuns : ¬ Obligations.TrellisRuns := by
  unfold Obligations.TrellisRuns
  rintro ⟨-, engines, -⟩
  obtain ⟨-, starts, -⟩ := engines { State.reset with dev := repeatedJob } 4 (by decide)
  have next : nextJob repeatedJob 4 = some 0 := by decide +kernel
  have desc : jobDesc repeatedJob waitingJob = some encDesc := by decide +kernel
  have claimed := (starts 0 waitingJob next rfl).2 encDesc emptyRing emptyRing desc (by decide +kernel) (by decide +kernel)
    (by decide +kernel)
  have same := settle_eq_of_does (does_trellisCodewordStart (by decide)) claimed
  have kept : headSlot (settle (codewordStart repeatedJob 4)) = some .empty := by decide +kernel
  rw [same] at kept
  exact absurd kept (by decide +kernel)

/-! ### What an engine starts where no number is listed twice (R368, R369) -/

/-- No number is listed twice. -/
def ListedOnce {α : Type} (t : Tab α) : Prop := (t.map Prod.fst).Nodup

theorem tfind_of_mem {α : Type} {t : Tab α} (once : ListedOnce t) {c : Nat × α} (listed : c ∈ t) : tfind t c.1 = some c.2 := by
  induction t with
  | nil => cases listed
  | cons e t ih =>
    obtain ⟨new, rest⟩ := List.nodup_cons.mp (show (e.1 :: t.map Prod.fst).Nodup from once)
    rcases List.mem_cons.mp listed with rfl | later
    · exact if_pos rfl
    · have other : e.1 ≠ c.1 := fun same => new (same ▸ List.mem_map_of_mem later)
      exact (if_neg other).trans (ih rest later)

/-- The first of candidates by an order is one of them. -/
theorem foldl_first_mem {α : Type} (before : α → α → Bool) (a : α) (t : List α) :
    t.foldl (fun m c => if before c m then c else m) a ∈ a :: t := by
  induction t generalizing a with
  | nil => exact List.mem_singleton_self a
  | cons b t ih =>
    rcases List.mem_cons.mp (ih (if before b a then b else a)) with first | later
    · rw [List.foldl_cons, first]
      split <;> simp
    · exact List.mem_cons_of_mem _ (List.mem_cons_of_mem _ later)

/-- The job that an engine starts a codeword of is ready. -/
theorem jobReady_of_nextJob {d : Dev} {e id : Nat} {j : TrJob} (once : ListedOnce d.tr.jobs) (next : nextJob d e = some id)
    (job : tfind d.tr.jobs id = some j) : (jobReady d id j).isSome = true := by
  unfold nextJob at next
  split at next
  case h_1 i begun =>
    cases found : tfind d.tr.jobs i with
    | none => simp [found] at next
    | some k =>
      simp only [found, Option.ite_none_right_eq_some, Bool.and_eq_true, Option.some.injEq] at next
      obtain ⟨⟨-, ready⟩, rfl⟩ := next
      rwa [Option.some.inj (job.symm.trans found)]
  case h_2 free =>
    generalize listing : d.tr.jobs.filterMap _ = candidates at next
    cases candidates with
    | nil => cases next
    | cons a t =>
      have chosen := foldl_first_mem candBefore a t
      rw [← listing] at chosen
      obtain ⟨c, listed, candidate⟩ := List.mem_filterMap.mp chosen
      obtain ⟨-, candidate⟩ := Option.ite_none_left_eq_some.mp candidate
      obtain ⟨tick, ready, number⟩ := Option.map_eq_some_iff.mp candidate
      have number : c.1 = id := (congrArg (·.2.2) number).trans (Option.some.inj next)
      subst number
      rw [Option.some.inj (job.symm.trans (tfind_of_mem once listed)), ready]
      rfl

theorem ringOf_modRing_ne (d : Dev) {j r : Nat} (f : Ring → Ring) (other : j ≠ r) : ringOf (modRing d r f) j = ringOf d j := by
  unfold modRing
  split
  · exact ringOf_setRing_ne _ _ other
  · rfl

section
variable {d : Dev} {id : Nat} {j : TrJob} {x : Desc} {r w : Ring} (desc : jobDesc d j = some x) (input : ringOf d (tIn x) = some r)
  (output : ringOf d (tOut x) = some w)
include desc input output

/-- A descriptor's job that is ready has its input slot filled and its output slot EMPTY. -/
theorem slots_of_jobReady (ready : (jobReady d id j).isSome = true) :
    (slotStOf r r.head = .full ∨ slotStOf r r.head = .spoil) ∧ slotStOf w w.tail = .empty := by
  have has_op : j.op ≠ none := by
    intro internal
    simp [jobDesc, internal] at desc
  obtain ⟨op, descriptor⟩ := Option.ne_none_iff_exists'.mp has_op
  simp only [jobReady, descriptor, desc, input, output, Option.isSome_ite, Bool.and_eq_true, Bool.or_eq_true, beq_iff_eq] at ready
  obtain ⟨⟨-, empty⟩, filled⟩ := ready
  exact ⟨filled, empty⟩

theorem codewordStart_descriptor {e : Nat} (once : ListedOnce d.tr.jobs) (next : nextJob d e = some id)
    (job : tfind d.tr.jobs id = some j) (apart : tIn x ≠ tOut x) :
    let d' := setJob { d with tr := { d.tr with engines := lset d.tr.engines e (some id) } } id { j with running := true }
    let b := setSlot (bindProd (bindCons d' (tIn x) (.job id)) (tOut x) (.job id)) (tIn x) r.head .draining
    codewordStart d e =
      setSlot (slotClear (slotClear b (tOut x) w.tail) (tOut x) (stageSlot w w.tail)) (tOut x) w.tail .filling := by
  intro d' b
  obtain ⟨filled, empty⟩ := slots_of_jobReady desc input output (jobReady_of_nextJob once next job)
  have desc' : jobDesc d' j = some x := desc
  have head : ringOf (bindProd (bindCons d' (tIn x) (.job id)) (tOut x) (.job id)) (tIn x) = some { r with cons := some (.job id) } :=
    (ringOf_modRing_ne _ _ apart).trans (ringOf_bindCons (d := d') input _)
  have tail : ringOf b (tOut x) = some { w with prod := some (.job id) } :=
    (ringOf_modRing_ne _ _ apart.symm).trans (ringOf_bindProd ((ringOf_modRing_ne d' _ apart.symm).trans output) _)
  have takes := takeSlot_ready head filled
  have claims := claimSlot_empty tail empty
  simp only [codewordStart, next, job]
  simp only [d', b] at desc' takes claims
  simp only [desc', takes, claims]
  rfl

end

/-- The clause of O51 that fails, on a device that lists no job twice: the input slot is DRAINING and the output slot FILLING. -/
theorem does_trellisCodewordStart_descriptor {s : State} {e id : Nat} {j : TrJob} {x : Desc} {r w : Ring} (engine : e < 5)
    (once : ListedOnce s.dev.tr.jobs) (next : nextJob s.dev e = some id) (job : tfind s.dev.tr.jobs id = some j)
    (desc : jobDesc s.dev j = some x) (input : ringOf s.dev (tIn x) = some r) (output : ringOf s.dev (tOut x) = some w)
    (apart : tIn x ≠ tOut x) :
    let d := setJob { s.dev with tr := { s.dev.tr with engines := lset s.dev.tr.engines e (some id) } } id { j with running := true }
    let b := setSlot (bindProd (bindCons d (tIn x) (.job id)) (tOut x) (.job id)) (tIn x) r.head .draining
    Does (.trellisCodewordStart e) s
      (setSlot (slotClear (slotClear b (tOut x) w.tail) (tOut x) (stageSlot w w.tail)) (tOut x) w.tail .filling) :=
  does_congr (codewordStart_descriptor desc input output once next job apart) (does_trellisCodewordStart engine)

end Sys2Proof.Machine
end

section
/-!
SUPPORT. What completion, listeners and receive streams leave of the time unit: all of it; and so what a tick leaves of it (R383).
-/
namespace Sys2Proof.Machine
open Sys2Proof

theorem time_of_steady {d e : Dev} (same : steady e = steady d) : e.time = d.time := congrArg Steady.time same

/-! ### Operations that end -/

@[simp] theorem memClampFree_time (d : Dev) (ctx key sub : Nat) : (memClampFree d ctx key sub).time = d.time := by
  unfold memClampFree
  split
  · rfl
  · unfold memClampAs
    split
    · rfl
    · exact time_of_steady (steady_clampAs { d with free := d.free + 1 } ctx key _ sub)

@[simp] theorem pinLimits_time (d : Dev) : (pinLimits d).time = d.time := by
  refine foldl_keeps Dev.time (fun d b => foldl_keeps Dev.time (fun d c => ?_) _ d) _ d
  split
  · exact memClampFree_time d c pinKey (b + 1)
  · rfl

@[simp] theorem modOp_time (d : Dev) (id : Nat) (f : Op → Op) : (modOp d id f).time = d.time := by
  unfold modOp
  split <;> rfl

@[simp] theorem returnHome_time (d : Dev) (l : Nat) : (returnHome d l).time = d.time := by
  refine (pinLimits_time _).trans ?_
  split <;> rfl

@[simp] theorem checkReturn_time (d : Dev) : (checkReturn d).time = d.time := by
  refine foldl_keeps Dev.time (fun d e => ?_) _ d
  split
  · exact returnHome_time d e.1
  · rfl

@[simp] theorem countUsage_time (d : Dev) (o : Op) : (countUsage d o).time = d.time := by
  unfold countUsage
  split
  · split <;> rfl
  · rfl

@[simp] theorem completeOp_time (d : Dev) (id : Nat) : (completeOp d id).time = d.time := by
  unfold completeOp
  split
  · rfl
  · rw [checkReturn_time, finishDesc_time]
    exact countUsage_time d _

@[simp] theorem endUnitOp_time (d : Dev) (op : Option Nat) : (endUnitOp d op).time = d.time := by
  cases op with
  | none => rfl
  | some id => exact (completeOp_time _ id).trans (modOp_time d id _)

/-! ### Receive streams that start, write and stop -/

@[simp] theorem endStreamOps_time (d : Dev) (armed : Bool) (b : Binding) : (endStreamOps d armed b).time = d.time := by
  refine (foldl_keeps Dev.time (fun d (s : Nat × Nat) => endUnitOp_time d (some s.2)) _ _).trans ?_
  split
  · exact endUnitOp_time d b.op
  · rfl

@[simp] theorem stopListener_time (d : Dev) (n reason : Nat) : (stopListener d n reason).time = d.time := by
  simp only [stopListener]
  split
  · rfl
  · rw [post_time, freeProd_time, setLsn_time]
    exact foldl_keeps Dev.time (f := dropDem) (fun _ _ => rfl) _ d

@[simp] theorem stopListeners_time (d : Dev) (stream : Nat) : (stopListeners d stream).time = d.time :=
  foldl_keeps Dev.time (fun d n => stopListener_time d n 2) _ d

@[simp] theorem slotPost_time (d : Dev) (r : Nat) : (slotPost d r).time = d.time := time_of_steady (steady_slotPost d r)

@[simp] theorem stopRx_time (d : Dev) (n : Nat) : (stopRx d n).time = d.time := by
  simp only [stopRx]
  split
  · rfl
  · rw [stopListeners_time, endStreamOps_time, setFeRx_time, freeProd_time]
    split
    · exact slotPost_time d _
    · rfl

@[simp] theorem startRx_time (d : Dev) (n : Nat) : (startRx d n).time = d.time := by
  simp only [startRx]
  split
  · rfl
  · split
    · rfl
    · rw [endUnitOp_time]
      split <;> rfl

@[simp] theorem ringStore_time (d : Dev) (r s off : Nat) (bs : Bytes) (spoil : Bool) :
    (ringStore d r s off bs spoil).time = d.time :=
  time_of_steady (d := slotStore d r (stageOf d r s) off bs spoil) (steady_noteStored ..)

theorem claimSlot_time {d : Dev} {r : Nat} {c : Dev × Nat} (claims : claimSlot d r = some c) : c.1.time = d.time := by
  unfold claimSlot at claims
  split at claims
  · split at claims
    · cases claims
      exact setSlot_time ..
    · cases claims
  · cases claims

@[simp] theorem rxWrite_time (d : Dev) (n : Nat) (y : Cplx) (bad : Bool) (tick : Nat) : (rxWrite d n y bad tick).time = d.time := by
  simp only [rxWrite]
  split
  next => rfl
  next e k got =>
    have kept : e.time = d.time := by
      split at got
      · split at got
        · cases got
          rfl
        · cases got
      · exact claimSlot_time got
    simp only [apply_ite Dev.time, stopRx_time, setFeRx_time, slotPost_time, ringStore_time, post_time, kept, ite_self]

@[simp] theorem stopRxDue_time (d : Dev) (n : Nat) : (stopRxDue d n).time = d.time := by
  unfold stopRxDue
  split
  · split
    · exact stopRx_time d n
    · rfl
  · rfl

@[simp] theorem rxPump_time (k : Nat) (d : Dev) (n : Nat) : (rxPump k d n).time = d.time := by
  induction k generalizing d with
  | zero => rfl
  | succ k ih =>
    unfold rxPump
    split
    · split
      · rw [ih, rxWrite_time, startRx_time, setFeRx_time]
      · rfl
    · rfl

@[simp] theorem rxDueAll_time (d : Dev) : (rxDueAll d).time = d.time :=
  foldl_keeps Dev.time (fun d n => (stopRxDue_time _ n).trans (rxPump_time _ d n)) _ d

/-! ### The tick -/

@[simp] theorem markWait_time (d : Dev) (q : Nat) : (markWait d q).time = d.time := by
  unfold markWait
  split
  · rfl
  · exact (apply_ite Dev.time ..).trans (ite_self _)

/-- The device with its waits past their deadline marked, as the tick begins (R252). -/
def markWaits (d : Dev) : Dev := (d.disp.queues.map fun e => e.1).foldl markWait d

@[simp] theorem markWaits_time (d : Dev) : (markWaits d).time = d.time := foldl_keeps Dev.time markWait_time _ d

/-- A tick marks the waits and moves the time unit on, and after an alignment sends the timebase (R19, R389). -/
theorem tickDev_eq (d : Dev) :
    tickDev d =
      let e := { markWaits d with time := timeTick d.time }
      if d.time.align == some 1 then sendTimebase e else e := by
  rw [← markWaits_time d]
  rfl

/-- Whatever else is due on a tick, the time unit moves on. -/
@[simp] theorem tickAll_time (d : Dev) : (tickAll d).time = timeTick d.time := by
  rw [tickAll, rxDueAll_time, tickDev_eq]
  dsimp only
  split
  · exact enqueue_time ..
  · rfl

/-- Where no alignment is due, a tick marks the waits, moves the time unit on and stores the samples that are due. -/
theorem tickAll_unaligned {d : Dev} (unaligned : d.time.align = none) :
    tickAll d = rxDueAll { markWaits d with time := timeTick d.time } := by
  rw [tickAll, tickDev_eq, unaligned]
  rfl

end Sys2Proof.Machine
end

section
/-!
SUPPORT. Proofs of the statements on ticks, seconds and slews (R383, R385, R401, R403).
-/
namespace Sys2Proof.Machine
open Sys2Proof

/-! ### The shares of a slew (R385) -/

theorem slewShare_eq_floor (o : Int) (n i : Nat) :
    slewShare o n i = Rat.floor (((o * (i + 1) : Int) : Rat) / (n : Rat)) - Rat.floor (((o * i : Int) : Rat) / (n : Rat)) := by
  have floor (a : Int) : Int.fdiv a n = Rat.floor ((a : Rat) / (n : Rat)) :=
    (Int.fdiv_eq_ediv_of_nonneg a (Int.natCast_nonneg n)).trans (Rat.floor_intCast_div_natCast a n).symm
  rw [slewShare, floor, floor]

/-- The shares of the first `k` ticks come to the last of the floors that they step through. -/
theorem sum_slewShare (o : Int) (n k : Nat) : ((List.range k).map (slewShare o n)).sum = Int.fdiv (o * k) n := by
  induction k with
  | zero => simp
  | succ k ih => simp [List.range_succ, ih, slewShare]

theorem sum_slewShare_all (o : Int) {n : Nat} (runs : 0 < n) : ((List.range n).map (slewShare o n)).sum = o := by
  rw [sum_slewShare, Int.mul_fdiv_cancel _ (by omega)]

/-! ### The time of day of the next tick -/

/-- The seconds that the time unit shows of a time of day. -/
theorem timeTick_sec {t : TimeSt} {tod : Nat} (next : todNext t = tod) : (timeTick t).sec = tod / secondUnits % 2 ^ 48 := by
  change (Int.fdiv (todNext t) secondUnits).toNat % 2 ^ 48 = _
  rw [next, Int.fdiv_eq_ediv_of_nonneg _ (Int.natCast_nonneg _), ← Int.natCast_div, Int.toNat_natCast]

/-- The rest below a second that it shows. -/
theorem timeTick_nano {t : TimeSt} {tod : Nat} (next : todNext t = tod) : (timeTick t).nano = tod % secondUnits := by
  change (Int.fmod (todNext t) secondUnits).toNat = _
  rw [next, Int.fmod_eq_emod_of_nonneg _ (Int.natCast_nonneg _), ← Int.natCast_mod, Int.toNat_natCast]

/-- A tick takes the time of day to `todNext`, in seconds and a rest below one (R383). -/
theorem tod_timeTick {t : TimeSt} (low : 0 ≤ todNext t) (high : todNext t < 2 ^ 48 * secondUnits) :
    (((timeTick t).sec * secondUnits + (timeTick t).nano : Nat) : Int) = todNext t := by
  obtain ⟨tod, next⟩ := Int.eq_ofNat_of_zero_le low
  rw [next] at high
  have seconds : tod / secondUnits < 2 ^ 48 := Nat.div_lt_of_lt_mul (by rw [Nat.mul_comm]; exact_mod_cast high)
  rw [timeTick_sec next, timeTick_nano next, next, Nat.mod_eq_of_lt seconds, Nat.mul_comm, Nat.div_add_mod]

/-- With no alignment waiting a tick counts on, and besides it changes the time of day, the slew and the pulses (R383, R388). -/
theorem timeTick_unaligned {t : TimeSt} (align : t.align = none) :
    timeTick t = { t with
      ticks := (t.ticks + 1) % 2 ^ 64, replica := (t.replica + 1) % 2 ^ 64, sec := (timeTick t).sec, nano := (timeTick t).nano,
      slew := slewNext t, set := none, step := none, align := none,
      pulses := t.pulses ++ if rollsOver t && ppsOn t then [⟨2, t.ticks + 7, t.ticks + 7 + leAt t.pps 4 4⟩] else [] } := by
  simp only [timeTick, align, outLatency, reduceCtorEq, if_false]

theorem slewDue_none {t : TimeSt} (slew : t.slew = none) : slewDue t = 0 := by
  simp [slewDue, slew]

theorem slewNext_last {t : TimeSt} {o : Int} {n : Nat} (slew : t.slew = some (o, n + 1, n)) : slewNext t = none := by
  simp [slewNext, slew]

section
variable {t : TimeSt} (set : t.set = none) (step : t.step = none)
include set step

/-- With no setting and no step waiting the increment and the slew share are added (R383, R385). -/
theorem todNext_runs : todNext t = ((t.sec * secondUnits + t.nano + t.inc : Nat) : Int) + slewDue t := by
  simp [todNext, set, step]

/-- A tick to `sec` seconds and `nano` below one second, with no alignment waiting either. -/
theorem timeTick_runs {sec nano : Nat} (align : t.align = none) (tod : todNext t = ((sec * secondUnits + nano : Nat) : Int))
    (rest : nano < secondUnits) :
    timeTick t = { t with
      ticks := (t.ticks + 1) % 2 ^ 64, replica := (t.replica + 1) % 2 ^ 64, sec := sec % 2 ^ 48, nano := nano, slew := slewNext t,
      pulses := t.pulses ++
        if t.sec < sec ∧ ppsOn t = true then [⟨2, t.ticks + 7, t.ticks + 7 + leAt t.pps 4 4⟩] else [] } := by
  have quotient : (sec * secondUnits + nano) / secondUnits = sec := by
    rw [Nat.mul_comm, Nat.mul_add_div (by decide), Nat.div_eq_of_lt rest, Nat.add_zero]
  have remainder : (sec * secondUnits + nano) % secondUnits = nano := by
    rw [Nat.mul_comm, Nat.mul_add_mod, Nat.mod_eq_of_lt rest]
  have rolls : rollsOver t = decide (t.sec < sec) := by
    rw [rollsOver, set, tod, Option.isNone_none, Bool.true_and]
    refine decide_eq_decide.mpr (Int.ofNat_le.trans ⟨fun above => ?_, fun later => ?_⟩)
    · have below : (t.sec + 1) * secondUnits < (sec + 1) * secondUnits := by rw [Nat.add_mul sec]; omega
      exact Nat.lt_of_succ_lt_succ (Nat.lt_of_mul_lt_mul_right below)
    · exact Nat.le_add_right_of_le (Nat.mul_le_mul_right _ later)
  rw [timeTick_unaligned align, timeTick_sec tod, timeTick_nano tod, quotient, remainder, rolls]
  simp only [align, set, step, Bool.and_eq_true, decide_eq_true_eq]

/-- At a second's end the seconds advance on the next tick (R383). -/
theorem rollsOver_of_end (slew : t.slew = none) (ends : secondUnits ≤ t.nano + t.inc) : rollsOver t = true := by
  rw [rollsOver, set, todNext_runs set step, slewDue_none slew, Option.isNone_none, Bool.true_and, decide_eq_true_eq, Nat.add_mul]
  omega

/-- A second's end carries into the seconds (R383). -/
theorem timeTick_rollover (align : t.align = none) (slew : t.slew = none) (below : t.nano < secondUnits)
    (inc : t.inc ≤ secondUnits) (ends : secondUnits ≤ t.nano + t.inc) :
    timeTick t = { t with
      ticks := (t.ticks + 1) % 2 ^ 64, replica := (t.replica + 1) % 2 ^ 64, sec := (t.sec + 1) % 2 ^ 48,
      nano := t.nano + t.inc - secondUnits,
      pulses := t.pulses ++ if ppsOn t = true then [⟨2, t.ticks + 7, t.ticks + 7 + leAt t.pps 4 4⟩] else [] } := by
  have next : slewNext t = t.slew := by simp [slewNext, slew]
  have tod : todNext t = (((t.sec + 1) * secondUnits + (t.nano + t.inc - secondUnits) : Nat) : Int) := by
    rw [todNext_runs set step, slewDue_none slew, Int.add_zero, Nat.add_mul]
    omega
  rw [timeTick_runs set step align tod (by omega), next]
  simp only [Nat.lt_succ_self, true_and]

/-- The last tick of a slew inside a second adds its share and ends it (R385). -/
theorem timeTick_lastShare {o : Int} {n : Nat} (align : t.align = none) (slew : t.slew = some (o, n + 1, n))
    (low : 0 ≤ t.nano + t.inc + slewShare o (n + 1) n) (high : t.nano + t.inc + slewShare o (n + 1) n < secondUnits)
    (seconds : t.sec < 2 ^ 48) :
    timeTick t = { t with
      ticks := (t.ticks + 1) % 2 ^ 64, replica := (t.replica + 1) % 2 ^ 64, slew := none,
      nano := (t.nano + t.inc + slewShare o (n + 1) n).toNat } := by
  have due : slewDue t = slewShare o (n + 1) n := by simp [slewDue, slew]
  have tod : todNext t = ((t.sec * secondUnits + (t.nano + t.inc + slewShare o (n + 1) n).toNat : Nat) : Int) := by
    rw [todNext_runs set step, due]
    omega
  rw [timeTick_runs set step align tod (by omega), slewNext_last slew, Nat.mod_eq_of_lt seconds]
  simp only [Nat.lt_irrefl, false_and, if_false, List.append_nil]

end

/-! ### Steps and commands that tick -/

/-- With no command waiting a step is a tick (log entry 6). -/
theorem step_idle {s : State} (idle : s.pending = []) : step s = .next (tickState s) := by
  rw [step, idle]

/-- A slew's tick adds its share beside the increment and counts the slew on (R385). -/
theorem step_slew {s : State} {o : Int} {n i : Nat} (idle : s.pending = []) (up : s.dev.boot.phase = .up)
    (slew : s.dev.time.slew = some (o, n, i)) (low : 0 ≤ todNext s.dev.time)
    (high : todNext s.dev.time < 2 ^ 48 * secondUnits) :
    ∃ e, step s = .next e ∧ ((e.dev.time.sec * secondUnits + e.dev.time.nano : Nat) : Int) = todNext s.dev.time
      ∧ e.dev.time.slew = if i + 1 < n then some (o, n, i + 1) else none := by
  refine ⟨{ s with dev := tickAll s.dev }, ?_, ?_, ?_⟩
  · rw [step_idle idle, tickState, if_pos up]
  · rw [tickAll_time, tod_timeTick low high]
  · rw [tickAll_time]
    change slewNext s.dev.time = _
    rw [slewNext, slew]

theorem exec_secondRollover (s : State) :
    exec .secondRollover s = onDev true s fun d => if d.boot.phase = .up && rollsOver d.time then tickAll d else d := rfl

theorem exec_slewComplete (s : State) :
    exec .slewComplete s =
      onDev true s fun d => if d.boot.phase = .up && d.time.slew.isSome && (slewNext d.time).isNone then tickAll d else d := rfl

theorem doesJust_secondRollover (s : State) :
    DoesJust .secondRollover s (if s.dev.boot.phase = .up ∧ rollsOver s.dev.time = true then tickAll s.dev else s.dev) := by
  simp only [DoesJust, exec_secondRollover, onDev, if_true, Bool.and_eq_true, decide_eq_true_eq]

theorem doesJust_slewComplete (s : State) :
    DoesJust .slewComplete s
      (if s.dev.boot.phase = .up ∧ s.dev.time.slew ≠ none ∧ slewNext s.dev.time = none then tickAll s.dev else s.dev) := by
  simp only [DoesJust, exec_slewComplete, onDev, if_true, Bool.and_eq_true, decide_eq_true_eq, Option.isSome_iff_ne_none,
    Option.isNone_iff_eq_none, and_assoc]

/-! ### The statement on ticks -/

/-- The device one tick later, its time unit as `u`. -/
theorem tickAll_to {d : Dev} {u : TimeSt} (align : d.time.align = none) (time : timeTick d.time = u) :
    tickAll d = rxDueAll { markWaits d with time := u } := by rw [tickAll_unaligned align, time]

/-- Settles O2: by the time of day that the next tick comes to. -/
theorem timeTicks : Obligations.TimeTicks := by
  unfold Obligations.TimeTicks
  refine ⟨?idle, ?ticks, ?commands⟩
  case idle =>
    intro s idle
    rw [step_idle idle, tickState]
  case ticks =>
    intro s up set step align below inc t d next
    have rolls (ends : secondUnits ≤ t.nano + t.inc) (slew : t.slew = none) : DoesJust .secondRollover s (tickAll s.dev) :=
      doesJust_congr (if_pos ⟨up, rollsOver_of_end set step slew ends⟩) (doesJust_secondRollover s)
    refine ⟨?plain, ?pulsed, ?lastShare⟩
    case plain =>
      intro ends slew off
      have quiet : ppsOn s.dev.time = false := by rw [ppsOn, off]; rfl
      have rolled := timeTick_rollover set step align slew below inc ends
      rw [if_neg (by simp [quiet]), List.append_nil] at rolled
      exact doesJust_congr (tickAll_to align rolled) (rolls ends slew)
    case pulsed =>
      intro ends slew on
      have pulses : ppsOn s.dev.time = true := by rw [ppsOn, on]; rfl
      have rolled := timeTick_rollover set step align slew below inc ends
      rw [if_pos pulses] at rolled
      exact doesJust_congr (tickAll_to align rolled) (rolls ends slew)
    case lastShare =>
      intro o n slew low high seconds
      have runs : s.dev.time.slew ≠ none := Option.ne_none_iff_exists'.mpr ⟨_, slew⟩
      have completes := doesJust_congr (if_pos ⟨up, runs, slewNext_last slew⟩) (doesJust_slewComplete s)
      exact doesJust_congr (tickAll_to align (timeTick_lastShare set step align slew low high seconds)) completes
  case commands =>
    intro s
    exact ⟨fun due => doesJust_congr (if_pos due) (doesJust_secondRollover s),
      fun early => doesJust_congr (if_neg early) (doesJust_secondRollover s),
      fun due => doesJust_congr (if_pos due) (doesJust_slewComplete s),
      fun early => doesJust_congr (if_neg early) (doesJust_slewComplete s)⟩

end Sys2Proof.Machine
end

section
/-!
SUPPORT. Proofs of the statements on writes to the time unit (R383 to R390). That a slew of no duration is over at once is log entry
40; that a new time of day replaces a waiting step, and that steps add up, is log entry 39.
-/
namespace Sys2Proof.Machine
open Sys2Proof

/-! ### The checks of a slew (R385) -/

section
variable {s : State} {n : Nat} {v : Bytes} (length : v.length = 16) (reserved : leAt v 12 4 = 0)
include length reserved

/-- A slew of the right form is refused where it is steeper than allowed, and else where another one runs. -/
theorem slewRule_check :
    slewRule.check s n v =
      if leAt v 8 4 * 0x51EB85 < (slewOffset v).natAbs then some abRange
      else if s.dev.time.slew.isSome then some abBusy else none := by
  by_cases steep : leAt v 8 4 * 0x51EB85 < (slewOffset v).natAbs
  · simp [slewRule, firstFail, length, reserved, steep]
  · by_cases runs : s.dev.time.slew.isSome <;> simp [slewRule, firstFail, length, reserved, steep, runs]

theorem slewRule_check_none (gentle : (slewOffset v).natAbs ≤ leAt v 8 4 * 0x51EB85) (still : s.dev.time.slew = none) :
    slewRule.check s n v = none := by
  rw [slewRule_check length reserved, if_neg (Nat.not_lt.mpr gentle), still]
  rfl

theorem slewRule_check_steep (steep : leAt v 8 4 * 0x51EB85 < (slewOffset v).natAbs) :
    slewRule.check s n v = some abRange := by
  rw [slewRule_check length reserved, if_pos steep]

theorem slewRule_check_busy (gentle : (slewOffset v).natAbs ≤ leAt v 8 4 * 0x51EB85) (runs : s.dev.time.slew ≠ none) :
    slewRule.check s n v = some abBusy := by
  rw [slewRule_check length reserved, if_neg (Nat.not_lt.mpr gentle), if_pos (Option.isSome_iff_ne_none.mpr runs)]

end

/-! ### The other checks that pass -/

theorem incrementRule_check_none {s : State} {n : Nat} {v : Bytes} (low : 0x13FAE147B ≤ beNat v)
    (high : beNat v ≤ 0x14051EB85) : incrementRule.check s n v = none := by
  simp [incrementRule, firstFail, Nat.not_lt.mpr low, Nat.not_lt.mpr high]

theorem todRule_check_none {s : State} {n : Nat} {v : Bytes} (length : v.length = 12) (below : leAt v 6 4 < 1000000000) :
    todRule.check s n v = none := by
  simp [todRule, firstFail, length, Nat.not_le.mpr below]

/-- The conditions under which the timebase may change state (R390). -/
structure BaseStill (d : Dev) : Prop where
  links : linksStopped d (List.range 8) = true
  contexts : (ctxsWhere d fun c => c.reg.st == ctxActive) = []
  graphs : anyAdmitted d = false
  triggers : (d.time.trigs.any fun e => e.2.armed) = false

/-- The timebase may be asked for a state that it holds, and for the other one while links, contexts, graphs and triggers are still
(R389, R390). -/
theorem baseRule_check_none {s : State} {f : DictFrame} {n r : Nat} (asked : asks f s.dev.time.base r) (state : r ≤ 1)
    (may : s.dev.time.base.st = r ∨ BaseStill s.dev) : baseRule.check s n f.payload = none := by
  have asked' : beNat f.payload = s.dev.time.base.gen * 65536 + r := asked
  have generation : beNat f.payload / 65536 = s.dev.time.base.gen := by omega
  have reserved : beNat f.payload / 16 % 4096 = 0 := by omega
  have names : beNat f.payload % 16 = r := by omega
  obtain held | ⟨links, contexts, graphs, triggers⟩ := may
  · simp [baseRule, firstFail, generation, reserved, names, held, Nat.not_lt.mpr state]
  · simp [baseRule, firstFail, generation, reserved, names, links, contexts, graphs, triggers, Nat.not_lt.mpr state]

/-! ### What the rules come to -/

theorem slewRule_apply_starts (s : State) (n : Nat) {v : Bytes} (lasts : leAt v 8 4 ≠ 0) :
    slewRule.apply s n v =
      { s with dev := { s.dev with time := { s.dev.time with slewRcd := v, slew := some (slewOffset v, leAt v 8 4, 0) } } } := by
  simp [slewRule, onDevice, lasts]

/-- A slew of no duration is over at once. -/
theorem slewRule_apply_over {s : State} (n : Nat) {v : Bytes} (instant : leAt v 8 4 = 0) (still : s.dev.time.slew = none) :
    slewRule.apply s n v = { s with dev := { s.dev with time := { s.dev.time with slewRcd := v } } } := by
  simp [slewRule, onDevice, instant, ← still]

theorem baseRule_apply (s : State) (n : Nat) {v : Bytes} {r : Nat} (names : requested v = r) :
    baseRule.apply s n v = { s with
      dev := if s.dev.time.base.st = r then s.dev
        else { s.dev with time := { s.dev.time with
          base := genTo s.dev.time.base r, align := if r = 1 then some 2 else s.dev.time.align } } } := by
  subst names
  simp only [baseRule, onDevice, eq_comm]

/-! ### What the commands of the writes do -/

section
variable {s : State} {f : DictFrame} {d : Dev} {x : Session} {n : Nat}

theorem writeDoes_slew (writes : Writes s f d x 0x3002 n) (length : f.payload.length = 16) (reserved : leAt f.payload 12 4 = 0)
    (lasts : leAt f.payload 8 4 ≠ 0) (gentle : (slewOffset f.payload).natAbs ≤ leAt f.payload 8 4 * 0x51EB85)
    (still : d.time.slew = none) :
    WriteDoes (.tbSlewWrite f) s f x
      { d with time := { d.time with slewRcd := f.payload, slew := some (slewOffset f.payload, leAt f.payload 8 4, 0) } } :=
  writeDoes_onSignalDie writes rfl (writesTo_of_writes writes) rfl (slewRule_check_none length reserved gentle still)
    (slewRule_apply_starts _ n lasts)

theorem writeDoes_align (writes : Writes s f d x 0x3000 n) (asked : asks f d.time.base 1)
    (may : d.time.base.st = 1 ∨ BaseStill d) :
    WriteDoes (.timebaseAlign f) s f x
      (if d.time.base.st = 1 then d else { d with time := { d.time with base := genTo d.time.base 1, align := some 2 } }) := by
  have names := requested_of_asks asked (by decide)
  exact writeDoes_onSignalDie writes rfl (by simp [writesTo_of_writes writes, names]) rfl
    (baseRule_check_none asked (by decide) may) (baseRule_apply _ n names)

theorem writeDoes_freeRun (writes : Writes s f d x 0x3000 n) (asked : asks f d.time.base 0)
    (may : d.time.base.st = 0 ∨ BaseStill d) :
    WriteDoes (.timebaseFreeRun f) s f x
      (if d.time.base.st = 0 then d else { d with time := { d.time with base := genTo d.time.base 0 } }) := by
  have names := requested_of_asks asked (by decide)
  exact writeDoes_onSignalDie writes rfl (by simp [writesTo_of_writes writes, names]) rfl
    (baseRule_check_none asked (by decide) may) (baseRule_apply _ n names)

end

/-! ### The statements -/

/-- Settles O23: the shares telescope, the write by its rule's checks in their order, and the tick by `step_slew`. -/
theorem slewWrites : Obligations.SlewWrites := by
  unfold Obligations.SlewWrites
  refine ⟨?shares, ?writes, ?ticks⟩
  case shares => exact fun o n runs => ⟨slewShare_eq_floor o n, sum_slewShare_all o runs⟩
  case writes =>
    intro s f d x n writes length reserved o m refused
    have own : writesTo f 0x3002 = true := writesTo_of_writes writes
    exact ⟨fun gentle still runs => writeDoes_slew writes length reserved (Nat.ne_of_gt runs) gentle still,
      fun steep => dictRow_refused writes slewRule own (slewRule_check_steep length reserved steep),
      fun gentle runs => dictRow_refused writes slewRule own (slewRule_check_busy length reserved gentle runs)⟩
  case ticks =>
    intro s o n i idle up slew set step t tod low high
    have next : todNext s.dev.time = tod := by
      rw [todNext_runs set step, slewDue, slew]
    rw [← next] at low high ⊢
    exact step_slew idle up slew low high

/-- Settles O19: each write passes its rule's check and leaves what the rule comes to. -/
theorem timeWrites : Obligations.TimeWrites := by
  unfold Obligations.TimeWrites
  intro s f d x n
  refine ⟨?increment, ?slew, ?noSlew, ?step, ?tod, ?base, ?held⟩
  case increment =>
    intro writes low high
    exact writeDoes_onSignalDie (rule := incrementRule) writes rfl (writesTo_of_writes writes) rfl
      (incrementRule_check_none low high) rfl
  case slew =>
    exact fun writes length reserved lasts gentle still => writeDoes_slew writes length reserved lasts gentle still
  case noSlew =>
    intro writes length reserved instant nothing still
    have gentle : (slewOffset f.payload).natAbs ≤ leAt f.payload 8 4 * 0x51EB85 := by rw [nothing]; exact Nat.zero_le _
    exact writeDoes_onSignalDie writes rfl (writesTo_of_writes writes) rfl (slewRule_check_none length reserved gentle still)
      (slewRule_apply_over n instant still)
  case step =>
    intro writes
    exact writeDoes_onSignalDie (rule := stepRule) writes rfl (writesTo_of_writes writes) rfl rfl rfl
  case tod =>
    intro writes length below
    exact writeDoes_onSignalDie (rule := todRule) writes rfl (writesTo_of_writes writes) rfl (todRule_check_none length below) rfl
  case base =>
    intro writes links contexts graphs triggers
    have still : BaseStill d := ⟨links, contexts, graphs, triggers⟩
    exact ⟨fun asked freeRuns => writeDoes_neg (by omega) (writeDoes_align writes asked (.inr still)),
      fun asked aligned => writeDoes_neg (by omega) (writeDoes_freeRun writes asked (.inr still))⟩
  case held =>
    intro writes
    exact ⟨fun asked aligned => writeDoes_pos aligned (writeDoes_align writes asked (.inl aligned)),
      fun asked freeRuns => writeDoes_pos freeRuns (writeDoes_freeRun writes asked (.inl freeRuns))⟩

end Sys2Proof.Machine
end

section
/-!
SUPPORT. Proof of the statement on time triggers (R395 to R399, R402, R403).
-/
namespace Sys2Proof.Machine
open Sys2Proof

/-! ### TU_ARM and TU_DISARM (R395, R396, R398, R399) -/

@[simp] theorem sendDesc_time (d : Dev) (h : Head) : (sendDesc d h).time = d.time := by
  unfold sendDesc
  split
  · exact crossFlit_time ..
  · rfl

@[simp] theorem trigOf_sendDesc (d : Dev) (h : Head) (n : Nat) : trigOf (sendDesc d h) n = trigOf d n := by
  simp only [trigOf, sendDesc_time]

@[simp] theorem fires_sendDesc (d : Dev) (h : Head) (n : Nat) : fires (sendDesc d h) n = fires d n := by
  simp only [fires, trigOf_sendDesc, sendDesc_time]

@[simp] theorem trigOfDesc_sendDesc (d : Dev) (g h : Head) : trigOfDesc (sendDesc d g) h = trigOfDesc d h := by
  simp only [trigOfDesc, sendDesc_time]

/-- A trigger is armed as its descriptor says, and fires at once where its first tick has passed (R396, R398). -/
theorem arm_sendDesc (d : Dev) (h : Head) :
    arm (sendDesc d h) h =
      let a := setTrig (sendDesc d h) (tuTrig h.desc) (trigOfDesc d h)
      completeHead (if tuFirst h.desc < d.time.ticks then fireLate a h else a) h := by
  have ticks : (setTrig (sendDesc d h) (tuTrig h.desc) (trigOfDesc d h)).time.ticks = d.time.ticks := by
    change (sendDesc d h).time.ticks = _
    rw [sendDesc_time]
  simp only [arm, trigOfDesc_sendDesc, ticks]
  rfl

/-- A trigger disarmed on a tick on which it does not fire (R399). -/
theorem disarm_rests {d : Dev} {n : Nat} (rests : fires d n = false) (h : Head) :
    disarm (sendDesc d h) n = withdrawIncs (setTrig (sendDesc d h) n { trigOf d n with armed := false }) n := by
  simp only [disarm, fires_sendDesc, rests, Bool.false_eq_true, if_false, trigOf_sendDesc]

/-- A trigger that is to be disarmed on its tick fires first (R399). -/
theorem disarm_fires {d : Dev} {n : Nat} (now : fires d n = true) (h : Head) :
    disarm (sendDesc d h) n =
      let e := fire (sendDesc d h) n
      withdrawIncs (setTrig e n { trigOf e n with armed := false }) n := by
  simp only [disarm, fires_sendDesc, now, if_true]

section
variable {s : State} {q : Nat} {h : Head} (ready : HeadReady s.dev q h 0x0E01)
include ready

theorem does_tuArm (opcode : hOpcode h.desc = 0xC0) (passes : tuArmReason s.dev h = none) :
    Does (.tuArm q) s (arm (sendDesc s.dev h) h) :=
  does_runHead (f := famTuArm) rfl (by decide) ready opcode rfl passes rfl

theorem does_tuDisarm (opcode : hOpcode h.desc = 0xC1) (passes : tuDisarmReason s.dev h = none) :
    Does (.tuDisarm q) s (completeHead (disarm (sendDesc s.dev h) (tuTrig h.desc)) h) :=
  does_runHead (f := famTuDisarm) rfl (by decide) ready opcode rfl passes rfl

end

/-! ### Increments and firings (R396, R397, R402, R403) -/

section
variable {s : State} {n : Nat} (unit : n < 64)
include unit

theorem does_triggerFiring : Does (.triggerFiring n) s (if fires s.dev n then fire s.dev n else s.dev) :=
  runDev_next s (fun d => if fires d n then fire d n else d) (decide_eq_true unit)

/-- An increment is sent 64 ticks ahead of the firing (R397). -/
theorem does_triggerIncrementSend :
    let t := trigOf s.dev n
    Does (.triggerIncrementSend n) s
      (if t.armed && t.objEn && !t.sent && s.dev.time.ticks + 64 == firingTick t then
        setTrig (sendTrigInc s.dev n (firingTick t)) n { t with sent := true }
      else s.dev) :=
  runDev_next s (fun d => let t := trigOf d n
    if t.armed && t.objEn && !t.sent && d.time.ticks + 64 == firingTick t then
      setTrig (sendTrigInc d n (firingTick t)) n { t with sent := true } else d) (decide_eq_true unit)

end

theorem fires_iff (d : Dev) (n : Nat) :
    fires d n = true ↔ (trigOf d n).armed = true ∧ d.time.ticks = firingTick (trigOf d n) := by
  simp [fires]

section
variable {d : Dev} {n : Nat}

/-- A trigger with an object sends its increment to the dispatcher, unless the road is worked out (R176, R397). -/
theorem sendTrigInc_object (object : (trigOf d n).objEn = true) (tick : Nat) :
    let t := trigOf d n
    sendTrigInc d n tick = if roadDown d then d else
      setRoad d .st { roadOf d .st with
        wait := (roadOf d .st).wait ++ [⟨true, .trigInc ⟨n, t.obj, t.inc, t.ctx, tick⟩, []⟩] } := by
  simp only [sendTrigInc, object, if_true]
  rfl

theorem sendTrigInc_none (object : (trigOf d n).objEn = false) (tick : Nat) : sendTrigInc d n tick = d := by
  simp [sendTrigInc, object]

/-- With no increment held none applies. -/
theorem applyHeld_none (held : d.time.heldIncs = []) : applyHeld d = d := by
  have emptied : { d with time := { d.time with heldIncs := [] } } = d := by rw [← held]
  simp only [applyHeld, held, List.filter_nil, List.foldl_nil, emptied]

end

/-- A firing whose increment has not been sent ahead sends it then (R397). -/
theorem fire_unsent {d : Dev} {n : Nat} (unsent : (trigOf d n).sent = false) :
    let t := trigOf d n
    let e := sendTrigInc (fireMarks d n t.k (firingTick t)) n (firingTick t)
    fire d n = applyHeld (setTrig e n (trigNext (trigOf e n) (t.k + 1))) := by
  simp [fire, unsent]

/-- A firing of a trigger with neither object nor output is counted and its event posted, and the next one stands one period on
(R396, R397, R402). -/
theorem fire_plain {d : Dev} {n : Nat} (now : d.time.ticks = firingTick (trigOf d n)) (object : (trigOf d n).objEn = false)
    (sent : (trigOf d n).sent = false) (out : (trigOf d n).out = 0) (held : d.time.heldIncs = []) :
    let t := trigOf d n
    let counted := setTrig d n { t with firings := satAdd 32 t.firings 1 }
    let posted := if t.event then
        postAt counted d.time.ticks t.ctx 0x0030 ⟨t.tag, t.queue⟩
          (leBytes 1 n ++ zeros 3 ++ leBytes 4 t.k ++ leBytes 8 d.time.ticks)
      else counted
    fire d n = setTrig posted n (trigNext { t with firings := satAdd 32 t.firings 1 } (t.k + 1)) := by
  intro t counted posted
  have kept : posted.time = counted.time := by
    simp only [posted]
    split <;> rfl
  have reads : trigOf posted n = { t with firings := satAdd 32 t.firings 1 } := by
    rw [trigOf, kept]
    exact tget_tset_same ..
  have marks : fireMarks d n t.k (firingTick t) = posted := by
    rw [← now]
    exact if_pos out
  have unsent : sendTrigInc posted n (firingTick t) = posted := sendTrigInc_none (by rw [reads]; exact object) _
  have fired := fire_unsent sent
  dsimp only at fired
  rw [fired, marks, unsent, reads]
  exact applyHeld_none ((congrArg TimeSt.heldIncs kept).trans held)

/-- After its `k`-th grid point a trigger stays armed where it has a period and its repeats are not used up (R396). -/
theorem trigNext_eq (t : Trigger) (k : Nat) :
    trigNext t k = { t with k := k, sent := false, armed := t.period ≠ 0 && (t.repeats = 0 || k < t.repeats) } := by
  have goes_on : (!trigOver t k) = (t.period ≠ 0 && (t.repeats = 0 || k < t.repeats) : Bool) := by
    rw [Bool.eq_iff_iff]
    simp [trigOver, or_iff_not_imp_left]
  rw [trigNext, goes_on]

/-! ### The statement -/

/-- Settles O25: arming and disarming by their families, an increment by `sendTrigInc_object`, a firing by whether it is due. -/
theorem triggerFirings : Obligations.TriggerFirings := by
  unfold Obligations.TriggerFirings
  refine ⟨?heads, ?due, ?early⟩
  case heads =>
    intro s q h ready d n e
    refine ⟨?arm, ?disarm⟩
    case arm =>
      intro opcode passes a
      have arms := does_tuArm ready opcode passes
      rw [arm_sendDesc] at arms
      exact ⟨fun ahead => does_congr (congrArg (completeHead · h) (if_neg (Nat.not_lt.mpr ahead))) arms,
        fun late => does_congr (congrArg (completeHead · h) (if_pos late)) arms⟩
    case disarm =>
      intro opcode passes
      have disarms := does_tuDisarm ready opcode passes
      exact ⟨fun rests => does_congr (congrArg (completeHead · h) (disarm_rests rests h)) disarms,
        fun now => does_congr (congrArg (completeHead · h) (disarm_fires now h)) disarms⟩
  case due =>
    intro s n unit d t armed
    have sends (object : t.objEn = true) (unsent : t.sent = false) (ahead : d.time.ticks + 64 = t.first + t.k * t.period) :
        Does (.triggerIncrementSend n) s (setTrig (sendTrigInc d n (firingTick t)) n { t with sent := true }) := by
      have due : (t.armed && t.objEn && !t.sent && d.time.ticks + 64 == firingTick t) = true := by
        simp [armed, object, unsent, ahead, firingTick]
      exact does_congr (if_pos due) (does_triggerIncrementSend unit)
    have fired (now : d.time.ticks = t.first + t.k * t.period) : Does (.triggerFiring n) s (fire d n) :=
      does_congr (if_pos ((fires_iff ..).mpr ⟨armed, now⟩)) (does_triggerFiring unit)
    refine ⟨?send, ?roadDown, fired, ?plain⟩
    case send =>
      intro object unsent ahead road
      have sent := sends object unsent ahead
      rw [sendTrigInc_object object, if_neg (by simp [road])] at sent
      rwa [ahead]
    case roadDown =>
      intro object unsent ahead road
      have sent := sends object unsent ahead
      rwa [sendTrigInc_object object, if_pos road] at sent
    case plain =>
      intro now object unsent out held counted posted
      have fires := fired now
      rw [fire_plain now object unsent out held, trigNext_eq] at fires
      exact fires
  case early =>
    intro s n unit t
    refine ⟨fun waits => ?_, fun waits => ?_⟩
    · refine does_congr (if_neg ?_) (does_triggerFiring unit)
      rw [fires_iff]
      rintro ⟨armed, now⟩
      obtain disarmed | other := waits
      · exact Bool.false_ne_true (disarmed.symm.trans armed)
      · exact other now
    · refine does_congr (if_neg ?_) (does_triggerIncrementSend unit)
      simp only [Bool.and_eq_true, Bool.not_eq_true', beq_iff_eq]
      rintro ⟨⟨⟨armed, object⟩, unsent⟩, ahead⟩
      obtain disarmed | bare | sent | other := waits
      · exact Bool.false_ne_true (disarmed.symm.trans armed)
      · exact Bool.false_ne_true (bare.symm.trans object)
      · exact Bool.false_ne_true (unsent.symm.trans sent)
      · exact other ahead

end Sys2Proof.Machine
end

section
/-!
SUPPORT. Proofs of the statements on every command and every step: each command answers one next state or the model's fault, and
keeps the trust invariant (R456, R459, R496). Almost every command acts on the device alone; the few that reach what the trust
rules protect are taken one by one.
-/
namespace Sys2Proof.Machine
open Sys2Proof

/-! ### What every answer keeps -/

/-- State `t` has the waiting commands of `s`, and it is safe where `s` is. -/
structure Follows (s t : State) : Prop where
  pending : t.pending = s.pending
  safe : Safe s → Safe t

theorem follows_device (s : State) (d : Dev) : Follows s { s with dev := d } := ⟨rfl, id⟩

theorem Follows.trans {s t u : State} (first : Follows s t) (second : Follows t u) : Follows s u :=
  ⟨second.pending.trans first.pending, fun safe => second.safe (first.safe safe)⟩

/-- A state that follows still does with another device. -/
theorem Follows.device {s t : State} (first : Follows s t) (d : Dev) : Follows s { t with dev := d } :=
  first.trans (follows_device t d)

theorem follows_ite {s t u : State} {p : Prop} [Decidable p] (yes : Follows s t) (no : Follows s u) :
    Follows s (if p then t else u) := by
  split
  · exact yes
  · exact no

/-! ### What the trust operations keep (R456, R459, R496) -/

theorem trustSafe_reset : TrustSafe Trust.reset where
  noSecrets _ := rfl
  scanAfter := Bool.noConfusion
  mismatch _ := rfl
  selected := Nat.noConfusion

/-- Once the secrets are overwritten and attestation is off, nothing the test port does is unsafe. -/
theorem trustSafe_of_zeroed {t : Trust} (zeroed : t.secretsZeroed = true) (off : t.attestReady = false) : TrustSafe t :=
  ⟨fun _ => off, fun _ => zeroed, fun _ => off, fun _ => zeroed⟩

theorem follows_fullReset (s : State) (keepPll : Bool) : Follows s (fullReset s keepPll) := ⟨rfl, fun _ => trustSafe_reset⟩

/-- Selecting an instruction of the test port other than boundary scan is safe. -/
theorem follows_selectInstr (s : State) {i : Nat} (other : i ≠ 2) (data : Nat) : Follows s (selectInstr s i data) where
  pending := rfl
  safe safe := { safe with selected := fun scan => absurd scan other }

theorem follows_rsaDerived (s : State) (matchesRecord : Bool) : Follows s (rsaDerived s matchesRecord) := by
  simp only [rsaDerived]
  split
  · exact follows_device s s.dev
  next derives =>
    -- A key is derived only while attestation is off, no mismatch is known and the secrets stand.
    simp only [Bool.or_eq_true, not_or, Bool.not_eq_true] at derives
    obtain ⟨⟨⟨_, off⟩, same⟩, kept⟩ := derives
    refine ⟨rfl, fun safe => ?_⟩
    cases matchesRecord with
    | true => exact { safe with noSecrets := fun zeroed => absurd (kept.symm.trans zeroed) Bool.false_ne_true
                                mismatch := fun other => absurd (same.symm.trans other) Bool.false_ne_true }
    | false => exact { safe with noSecrets := safe.noSecrets, mismatch := fun _ => off }

theorem follows_reportReady (s : State) : Follows s (reportReady s) := by
  unfold reportReady
  split
  · exact follows_device s s.dev
  · exact ⟨rfl, fun safe => ⟨safe.noSecrets, safe.scanAfter, safe.mismatch, safe.selected⟩⟩

theorem follows_boundaryScan (s : State) : Follows s
    (if scanAllow s.dev then selectInstr { s with trust := { zeroise s.trust with scanEnabled := true } } 2 0
      else selectInstr s 0 0) :=
  follows_ite ⟨rfl, fun _ => trustSafe_of_zeroed rfl rfl⟩ (follows_selectInstr s (by decide) 0)

/-- Starting the logic scan overwrites the secrets first; starting any other test leaves what the trust rules protect (R477). -/
theorem follows_stStart (s : State) (t m : Nat) : Follows s (stStart s t m) := by
  by_cases scan : t = 0x0E
  · simp only [stStart, scan, if_true]
    exact ⟨rfl, fun _ => trustSafe_of_zeroed rfl rfl⟩
  · simp only [stStart, scan, if_false]
    exact follows_device s _

/-- The end of the logic scan leaves scan enabled only while boundary scan is selected, which overwrote the secrets. -/
theorem follows_stUnitDone (s : State) (r : TestRun) : Follows s (stUnitDone s r) := by
  unfold stUnitDone
  split
  · exact follows_device s s.dev
  · split
    · exact follows_device s s.dev
    · simp only
      split
      · exact follows_device s _
      · refine ⟨rfl, fun safe => ?_⟩
        simp only [Safe]
        split
        · exact { safe with scanAfter := fun scan => safe.selected (beq_iff_eq.mp scan) }
        · exact safe

/-! ### Dictionary requests -/

/-- Whatever a row does with a request of a session follows from the state before it. -/
def RequestFollows (op : State → DictFrame → Session → Served) : Prop :=
  ∀ (s : State) (f : DictFrame) (x : Session), Follows s (op s f x).st

/-- Whatever a write of an entry sets follows from the state before it. -/
def WriteFollows (rule : WriteRule) : Prop := ∀ (s : State) (n : Nat) (v : Bytes), Follows s (rule.apply s n v)

/-- A write of an entry that acts on the device alone. -/
def ActsOnDevice (rule : WriteRule) : Prop :=
  ∀ (s : State) (n : Nat) (v : Bytes), rule.apply s n v = { s with dev := (rule.apply s n v).dev }

theorem writeFollows_of_actsOnDevice {rule : WriteRule} (acts : ActsOnDevice rule) : WriteFollows rule := by
  intro s n v
  rw [acts s n v]
  exact follows_device s _

theorem follows_readDomain (s : State) (f : DictFrame) (x : Session) (e : Entry) : Follows s (readDomain s f x e).st := by
  simp only [readDomain, apply_ite Served.st, served, ite_self]
  exact follows_device s s.dev

theorem follows_readScalar (s : State) (f : DictFrame) (x : Session) (e : Entry) : Follows s (readScalar s f x e).st := by
  simp only [readScalar, apply_ite Served.st, served, ite_self]
  exact follows_device s s.dev

theorem requestFollows_opRead : RequestFollows opRead := by
  intro s f x
  unfold opRead
  split
  · exact follows_device s s.dev
  · simp only
    split
    · exact (follows_device s _).trans (follows_readDomain ..)
    · exact (follows_device s _).trans (follows_readScalar ..)

theorem requestFollows_opClose : RequestFollows opClose := fun s _ _ => follows_device s s.dev

theorem requestFollows_opSegment : RequestFollows opSegment := by
  intro s f x
  unfold opSegment
  split
  · exact follows_device s s.dev
  · split
    · exact follows_device s s.dev
    · simp only
      split <;> exact follows_device s s.dev

theorem requestFollows_opWrite {rule : WriteRule} (follows : WriteFollows rule) : RequestFollows (opWrite rule) := by
  intro s f x
  unfold opWrite
  split
  · exact follows_device s s.dev
  · split
    · exact follows_device s s.dev
    · simp only [apply_ite Served.st]
      refine follows_ite (follows_device s s.dev) ?_
      split
      · exact follows_device s s.dev
      · exact (follows_device s _).trans (follows ..)

theorem follows_dictServe {op : State → DictFrame → Session → Served} (follows : RequestFollows op) (s : State)
    (f : DictFrame) : Follows s (dictServe s f op) := by
  simp only [dictServe]
  split
  · exact follows_device s _
  · split
    · exact follows_device s _
    · split
      · exact follows_device s _
      · split
        · exact follows_device s _
        · split
          · exact follows_device s _
          · split
            · exact follows_device s _
            · exact ((follows_device s _).trans (follows ..)).device _

/-! ### Writes of entries without a row of their own -/

/-- The rule of an entry, if it has one here, acts on the device alone. -/
def RuleActsOnDevice (rule : Option WriteRule) : Prop := ∀ r, rule = some r → ActsOnDevice r

theorem ruleActsOnDevice_some {rule : WriteRule} (acts : ActsOnDevice rule) : RuleActsOnDevice (some rule) := by
  rintro r ⟨⟩
  exact acts

theorem ruleActsOnDevice_none : RuleActsOnDevice none := by rintro r ⟨⟩

theorem RuleActsOnDevice.or {a b : Option WriteRule} (first : RuleActsOnDevice a) (second : RuleActsOnDevice b) :
    RuleActsOnDevice (a.or b) := by
  cases a with
  | none => exact second
  | some r => exact first

theorem RuleActsOnDevice.getD {rule : Option WriteRule} {r : WriteRule} (listed : RuleActsOnDevice rule)
    (other : ActsOnDevice r) : ActsOnDevice (rule.getD r) := by
  cases rule with
  | none => exact other
  | some r => exact listed r rfl

theorem ruleActsOnDevice_netRule (idx : Nat) : RuleActsOnDevice (netRule idx) := by
  unfold netRule
  split
  case h_10 => exact ruleActsOnDevice_none
  all_goals exact ruleActsOnDevice_some fun _ _ _ => rfl

theorem ruleActsOnDevice_ctxRuleOf (idx : Nat) : RuleActsOnDevice (ctxRuleOf idx) := by
  unfold ctxRuleOf
  split
  case h_15 => exact ruleActsOnDevice_none
  all_goals exact ruleActsOnDevice_some fun _ _ _ => rfl

theorem ruleActsOnDevice_lockRuleOf (sub : Nat) : RuleActsOnDevice (lockRuleOf sub) := by
  unfold lockRuleOf
  split
  case h_5 => exact ruleActsOnDevice_none
  all_goals exact ruleActsOnDevice_some fun _ _ _ => rfl

theorem ruleActsOnDevice_memRuleOf (idx : Nat) : RuleActsOnDevice (memRuleOf idx) := by
  unfold memRuleOf
  split
  case h_5 => exact ruleActsOnDevice_none
  all_goals exact ruleActsOnDevice_some fun _ _ _ => rfl

theorem ruleActsOnDevice_ptpRuleOf (sub : Nat) : RuleActsOnDevice (ptpRuleOf sub) := by
  unfold ptpRuleOf
  split
  case h_9 => exact ruleActsOnDevice_none
  all_goals exact ruleActsOnDevice_some fun _ _ _ => rfl

theorem ruleActsOnDevice_timeRuleOf (idx sub : Nat) : RuleActsOnDevice (timeRuleOf idx sub) := by
  unfold timeRuleOf
  split
  case h_1 => exact ruleActsOnDevice_ptpRuleOf sub
  case h_6 => exact ruleActsOnDevice_none
  all_goals exact ruleActsOnDevice_some fun _ _ _ => rfl

theorem ruleActsOnDevice_feRuleOf (idx sub : Nat) : RuleActsOnDevice (feRuleOf idx sub) := by
  unfold feRuleOf
  split
  case h_1 => split <;> exact ruleActsOnDevice_some fun _ _ _ => rfl
  case h_14 => exact ruleActsOnDevice_none
  all_goals exact ruleActsOnDevice_some fun _ _ _ => rfl

theorem ruleActsOnDevice_coreRuleOf (idx : Nat) : RuleActsOnDevice (coreRuleOf idx) := by
  unfold coreRuleOf
  split
  case h_5 => exact ruleActsOnDevice_none
  all_goals exact ruleActsOnDevice_some fun _ _ _ => rfl

/-- Every entry without a row of its own is of a unit of the device. -/
theorem actsOnDevice_entryRule (idx sub : Nat) : ActsOnDevice (entryRule idx sub) := by
  have own : RuleActsOnDevice (match idx with
      | 0x1010 => some (inRange 1 3600 fun d _ v => { d with dict := { d.dict with timeout := v } })
      | 0x2400 => lockRuleOf sub
      | _ => none) := by
    split
    · exact ruleActsOnDevice_some fun _ _ _ => rfl
    · exact ruleActsOnDevice_lockRuleOf sub
    · exact ruleActsOnDevice_none
  have listed := (((((own.or (ruleActsOnDevice_netRule idx)).or (ruleActsOnDevice_ctxRuleOf idx)).or
    (ruleActsOnDevice_memRuleOf idx)).or (ruleActsOnDevice_timeRuleOf idx sub)).or (ruleActsOnDevice_feRuleOf idx sub)).or
    (ruleActsOnDevice_coreRuleOf idx)
  exact listed.getD fun _ _ _ => rfl

/-! ### How a command answers -/

/-- What a command answers whose operands name existing units or not: a next state that follows, or the model's fault. -/
structure Answered (units : Bool) (s : State) (answer : Host.Outcome State Fault Refusal) : Prop where
  next : units = true → ∃ t, answer = .next t ∧ Follows s t
  fault : units = false → answer = .fault .noSuchUnit

theorem answered_next {s t : State} (follows : Follows s t) : Answered true s (.next t) :=
  ⟨fun _ => ⟨t, rfl, follows⟩, Bool.noConfusion⟩

theorem answered_fault (s : State) : Answered false s (.fault .noSuchUnit) := ⟨Bool.noConfusion, fun _ => rfl⟩

theorem answered_onDev (units : Bool) (s : State) (f : Dev → Dev) : Answered units s (onDev units s f) := by
  cases units with
  | true => exact answered_next (follows_device s _)
  | false => exact answered_fault s

theorem answered_dictRow {op : State → DictFrame → Session → Served} (follows : RequestFollows op) (s : State)
    (f : DictFrame) (mine : Bool) : Answered (dictFrameOk f) s (dictRow s f mine op) := by
  unfold dictRow
  cases dictFrameOk f with
  | true =>
    simp only [Bool.not_true, Bool.false_eq_true, if_false]
    split
    · exact answered_next ((follows_dictServe follows s f).device _)
    · exact answered_next (follows_device s s.dev)
  | false => exact answered_fault s

theorem answered_write {rule : WriteRule} (follows : WriteFollows rule) (s : State) (f : DictFrame) (mine : Bool) :
    Answered (dictFrameOk f) s (dictRow s f mine (opWrite rule)) :=
  answered_dictRow (requestFollows_opWrite follows) s f mine

theorem answered_deviceWrite {rule : WriteRule} (acts : ActsOnDevice rule) (s : State) (f : DictFrame) (mine : Bool) :
    Answered (dictFrameOk f) s (dictRow s f mine (opWrite rule)) :=
  answered_write (writeFollows_of_actsOnDevice acts) s f mine

theorem writeFollows_attestRule : WriteFollows attestRule :=
  fun _ _ _ => ⟨rfl, fun safe => ⟨safe.noSecrets, safe.scanAfter, safe.mismatch, safe.selected⟩⟩

theorem writeFollows_selfTestRule : WriteFollows selfTestRule := by
  intro s n v
  by_cases cancel : stTest v = 0
  · rw [selfTestRule_apply_cancel cancel]
    exact follows_device s _
  · rw [selfTestRule_apply_start cancel]
    exact follows_stStart ..

theorem answered_selftestUnitComplete (r : TestRun) (s : State) :
    Answered (r.chanFail.all (· < 8)) s (execSelftestUnitComplete r s) where
  next named := ⟨{ stUnitDone s r with dev := settle (stUnitDone s r).dev }, if_pos named, (follows_stUnitDone s r).device _⟩
  fault missing := if_neg (Bool.eq_false_iff.mp missing)

theorem follows_pllLockLoss (s : State) : Follows s (if s.dev.boot.pllLocked then fullReset s false else s) :=
  follows_ite (follows_fullReset s false) (follows_device s s.dev)

/-- Every command answers as its operands say. -/
theorem answered_exec (c : Instr) (s : State) : Answered (wellFormed c) s (exec c s) := by
  cases c
  case porstAssert | pwrGoodLow => exact answered_next (follows_fullReset s false)
  case resetAssert => exact answered_next (follows_fullReset s true)
  case pllLockLoss => exact answered_next (follows_pllLockLoss s)
  case rsaIdentityDerived ok => exact answered_next (follows_rsaDerived s ok)
  case attestReportReady => exact answered_next (follows_reportReady s)
  case idcode => exact answered_next (follows_selectInstr s (by decide) _)
  case bypass => exact answered_next (follows_selectInstr s (by decide) _)
  case boundaryScan => exact answered_next (follows_boundaryScan s)
  case selftestUnitComplete r => exact answered_selftestUnitComplete r s
  case dictOpen f => exact answered_dictRow requestFollows_opRead s f _
  case dictRead f => exact answered_dictRow requestFollows_opRead s f _
  case dictClose f => exact answered_dictRow requestFollows_opClose s f _
  case dictWriteSegment f => exact answered_dictRow requestFollows_opSegment s f _
  case attestRequest f => exact answered_write writeFollows_attestRule s f _
  case selftestStart f => exact answered_write writeFollows_selfTestRule s f _
  case selftestCancel f => exact answered_write writeFollows_selfTestRule s f _
  case entryWrite f => exact answered_deviceWrite (actsOnDevice_entryRule f.index f.sub) s f _
  case benchGateRequest | benchReadyRequest | pairGateRequest | pairReadyRequest | domainGateRequest | domainReadyRequest |
      channelDrainRequest | linkStartRequest | linkStopRequest | streamStopRequest | listenerStopRequest | portDownRequest |
      portReadyRequest | tbIncrementWrite | tbSlewWrite | tbStepWrite | tbTodSetWrite | timebaseAlign | timebaseFreeRun |
      contextCreate | contextActivate | contextStop | contextDestroy | flagClear | queueResume | queueReset | graphAdmit |
      graphWithdraw | haulTagsPeakReset | lockstepArm | lockstepDisable | maskRearm | dpdSwap =>
    simp only [exec, wellFormed, execBenchGateRequest, execBenchReadyRequest, execPairGateRequest, execPairReadyRequest,
      execDomainGateRequest, execDomainReadyRequest, execChannelDrainRequest, execLinkStartRequest, execLinkStopRequest,
      execStreamStopRequest, execListenerStopRequest, execPortDownRequest, execPortReadyRequest, execTbIncrementWrite,
      execTbSlewWrite, execTbStepWrite, execTbTodSetWrite, execTimebaseAlign, execTimebaseFreeRun, execContextCreate,
      execContextActivate, execContextStop, execContextDestroy, execFlagClear, execQueueResume, execQueueReset, execGraphAdmit,
      execGraphWithdraw, execHaulTagsPeakReset, execLockstepArm, execLockstepDisable, execMaskRearm, execDpdSwap]
    exact answered_deviceWrite (fun _ _ _ => rfl) ..
  all_goals
    -- Every other command acts on the device alone, where its operands name existing units.
    simp only [exec, wellFormed, runHead, runDev, runCore, runWork, wtReceive, execSyncDeclare, execSyncSet, execSyncWait,
      execSyncHold, execSyncRelease, execSyncUndeclare, execWaitTimeout, execFence, execLaunchAt, execBoostExhausted,
      execUsageRatioHalving, execReservationOpen, execReservationEnd, execPreemptComplete, execAdmissionRevoked, execLayer,
      execLockstepTimeout, execGateIntervalEnd, execStreamGateIntervalEnd, execCbHistoryReset, execPcsLockLoss,
      execPcsLockRegain, execArpRequest, execNeighborDiscovery, execIcmpEcho, execUnaddressedFrame, execFcsError,
      execWtCrcError, execQueueWrite, execDoorbell, execTensorWrite, execTensorRead, execSignal, execEventRead, execEventAck,
      execPeerPut, execPeerGet, execPeerData, execLockstepSample, execWtOpen, execWtAck, execWtStatus, execResendTimeout,
      execMove, execRingCreate, execRingDestroy, execRingReset, execRingSlotFull, execRingSlotEmpty, execConveyorSlotAccept,
      execConveyorFetch, execSlotData, execSlotRelease, execDescriptorFlit, execTimebaseDescriptor, execLinkFlit,
      execFlitCrcError, execRoadRetrainComplete, execTriggerFiring, execTriggerIncrementSend, execTuArm, execTuDisarm,
      execPulseEnd, execCaptureEdge, execPtpMessageReceived, execPtpMessageTransmit, execPorstRelease, execResetRelease,
      execLrFrameStart, execMixSlotFill, execLrTx, execLrMixEnable, execLrMixDisable, execLrListenStart, execLrListenStop,
      execPreambleDeclared, execDemodSymbol, execTrEnc, execTrDec, execTrellisCodewordStart, execTrellisCodewordComplete,
      execSysrefEdge, execLaneLock, execLaneLockTimeout, execLaneLockLoss, execLemcRelease, execJesdMultiblock, execMatmul,
      execConvolve, execVop, execQuant, execDescriptorComplete, execOperationResume, execAlloc, execFree, execPageInComplete,
      execHostPageTimeout, execPageMigration, execPageMoveComplete, execNoiseFloorUpdate, execHoldoffEnd, execDetection,
      execCorrelatorSearchEnd, execRxSample, execMaskBlock, execDpdCaptureStart, execDpdCaptureComplete, execDpdBankSwap,
      execTxSampleDue, execStreamStart, execStreamStop, execFeStart, execFeStop, execFeDetectStart, execFeDetectStop, execScRun,
      execPairDrainComplete, execNop, execVmov, execCadd, execCsub, execConj, execPerm, execBfly, execWiden, execCmul,
      execCmulc, execCmac, execCmacc, execMag2, execHadd, execRnds, execCls, execBexp, execBshl, execBshr, execCfadd, execCfmul,
      execCfmac, execCfmacc, execRndf, execCvtf, execLdi, execAddi, execAdd, execSub, execAnd, execShli, execControlNop,
      execLoop, execBr, execBz, execBnz, execHalt, execRclaim, execRpost, execRtake, execRgive, execSig, execLoopExit,
      execCycleLimitReached, execPowerUpComplete, execBenchDrainComplete, execAvsLoopUpdate, execPowerEstimate,
      execThermalThrottle, execThermalTrip, execSupplyUndervoltage, execSupplyRecovery, execDictSessionTimeout,
      execDictCrcError, execContextStopped, execSystemRingSlotApply, execSystemRingSlotSend, execSecondRollover,
      execSlewComplete, answered_onDev]

/-! ### The statements -/

/-- Settles O1: by the queue of the state. -/
theorem stepRunsFront : Obligations.StepRunsFront := by
  unfold Obligations.StepRunsFront
  intro s c rest
  rfl

/-- Settles O3: by how each command answers. -/
theorem execAnswers : Obligations.ExecAnswers := by
  unfold Obligations.ExecAnswers
  intro c s
  obtain ⟨next, fault⟩ := answered_exec c s
  refine ⟨fun named => ?_, fault⟩
  obtain ⟨t, answers, follows⟩ := next named
  exact ⟨t, answers, follows.pending⟩

/-- Settles O8: nothing is ready, enabled or selected after reset. -/
theorem resetSafe : Obligations.ResetSafe := by
  unfold Obligations.ResetSafe
  exact trustSafe_reset

/-- A command that answers a next state keeps a safe one safe. -/
theorem safe_exec {c : Instr} {s t : State} (safe : Safe s) (answers : exec c s = .next t) : Safe t := by
  obtain ⟨next, fault⟩ := answered_exec c s
  cases named : wellFormed c with
  | true =>
    obtain ⟨u, same, follows⟩ := next named
    cases same.symm.trans answers
    exact follows.safe safe
  | false => cases (fault named).symm.trans answers

/-- A tick leaves what the trust rules protect. -/
theorem safe_tickState {s : State} (safe : Safe s) : Safe (tickState s) := by
  unfold tickState
  split
  · exact safe
  · exact safe

/-- Settles O9: a step is a tick or a command, and each keeps a safe state safe. -/
theorem stepKeepsSafe : Obligations.StepKeepsSafe := by
  unfold Obligations.StepKeepsSafe
  intro s t safe steps
  cases waiting : s.pending with
  | nil =>
    cases (step_idle waiting).symm.trans steps
    exact safe_tickState safe
  | cons c rest =>
    have runs : exec c { s with pending := rest } = .next t := by
      rw [← steps, step, waiting]
    exact safe_exec (s := { s with pending := rest }) safe runs

end Sys2Proof.Machine
end

section
/-!
SUPPORT. Proof of the statement on what follows by itself after a command: every subsystem it names is in the steady part, which no
pass of `settle` changes.
-/
namespace Sys2Proof.Machine
open Sys2Proof

theorem settle_boot (d : Dev) : (settle d).boot = d.boot := congrArg Steady.boot (steady_settle d)

theorem settle_pwr (d : Dev) : (settle d).pwr = d.pwr := congrArg Steady.pwr (steady_settle d)

/-- Settles O60: by the steady part of the device. -/
theorem settleFrame : Obligations.SettleFrame := by
  unfold Obligations.SettleFrame
  intro d t
  have same : steady t = steady d := steady_settle d
  exact ⟨settle_boot d, congrArg Steady.time same, settle_ls d, congrArg Steady.sc same, congrArg Steady.fe same,
    congrArg Steady.lr same, congrArg Steady.tr same, congrArg Steady.dict same, congrArg Steady.test same, settle_pwr d⟩

end Sys2Proof.Machine
end

section
/-!
SUPPORT. Proof of the statement on frames for tensor-die memory (R417, R419 to R423): the four ways in which each of the seven rows
can take a frame in its turn.
-/
namespace Sys2Proof.Machine
open Sys2Proof

/-- Action `act` refuses a frame that its endpoint may not send (code 2) and posts any other into the inbound ring. -/
structure ActsInbound (act : Dev → Nat → WtFrame → Taken) (d : Dev) (n : Nat) (f : WtFrame) (may : Prop) : Prop where
  stranger : ¬ may → act d n f = some (some 2, d)
  posts : may → act d n f = toInbound d n f none

theorem actsInbound_actCtx (d : Dev) (n : Nat) (f : WtFrame) : ActsInbound actCtx d n f (epMay (epOf d n) (f.ctx % 64) = true) where
  stranger not_may := if_pos (by simpa [frameCtx] using not_may)
  posts may := if_neg (by simpa [frameCtx] using may)

theorem actsInbound_actQueue (d : Dev) (n : Nat) (f : WtFrame) : ActsInbound actQueue d n f
    (epMay (epOf d n) (f.ctx % 64) = true ∧ queueAllowed d f.arg0 (f.ctx % 64) f.lc = true) where
  stranger not_may := if_pos (by simpa [frameCtx, Classical.or_iff_not_imp_left] using not_may)
  posts may := if_neg (by simpa [frameCtx] using may)

section
variable {s : State} {f : WtFrame} {n : Nat} {d : Dev} (turn : FrameTurn s f n d) {c : Instr} {ty : Nat}
  {act : Dev → Nat → WtFrame → Taken} {may : Prop}
include turn

/-- A frame for tensor-die memory in its turn: refused, waiting or posted (R417, R419 to R421). -/
theorem does_hostFrame (acts : ActsInbound act d n f may) (runs : exec c s = wtReceive s f ty act) (type : f.type = ty)
    (other : f.type ≠ 0x10) :
    (¬ may → Does c s (refusedWith f n d 2))
      ∧ (may → tensorDown d = true → Does c s (refusedWith f n d 9))
      ∧ (may → tensorDown d = false → inboundRoom d n f → Does c s (ackUp (sysPost d false f.lc
          { type := ty, ctx := f.ctx % 64, ep := n, last := f.last, seq := f.seq, arg0 := f.arg0, arg1 := f.arg1, spoil := f.spoil,
            box := f.box, payload := f.payload, op := none }) n f.lc false))
      ∧ (may → tensorDown d = false → ¬ inboundRoom d n f → Does c s s.dev) := by
  refine ⟨fun not_may => ?_, fun allowed down => ?_, fun allowed up room => ?_, fun allowed up full => ?_⟩
  · exact does_otherRefused turn runs type other (acts.stranger not_may)
  · exact does_otherRefused turn runs type other ((acts.posts allowed).trans (toInbound_down down n f none))
  · have taken := does_otherTaken turn runs type other ((acts.posts allowed).trans (toInbound_room up room none))
    rwa [type] at taken
  · exact does_frameWaits turn runs type ((acts.posts allowed).trans (toInbound_waits up full none))

end

/-- Settles O53: the rows for a queue need its owner and class too, the rows for a context only the endpoint's access. -/
theorem hostFrames : Obligations.HostFrames := by
  unfold Obligations.HostFrames
  intro s f n d c ty queue listed turn type ctx may r room
  have may_queue : queue = true → (may ↔ epMay (epOf d n) ctx = true ∧ queueAllowed d f.arg0 ctx f.lc = true) := by
    rintro rfl
    simp only [may, forall_true_left]
  have may_ctx : queue = false → (may ↔ epMay (epOf d n) ctx = true) := by
    rintro rfl
    simp only [may, Bool.false_eq_true, false_implies, and_true]
  simp only [List.mem_cons, Prod.mk.injEq, List.not_mem_nil, or_false] at listed
  have ring_type (small : ty < 0x10) : f.type ≠ 0x10 := by omega
  obtain ⟨rfl, rfl, q⟩ | ⟨rfl, rfl, q⟩ | ⟨rfl, rfl, q⟩ | ⟨rfl, rfl, q⟩ | ⟨rfl, rfl, q⟩ | ⟨rfl, rfl, q⟩ | ⟨rfl, rfl, q⟩ := listed
  case inl | inr.inl =>
    rw [may_queue q]
    refine does_hostFrame turn (actsInbound_actQueue d n f) ?_ type (ring_type (by decide))
    rfl
  all_goals
    rw [may_ctx q]
    refine does_hostFrame turn (actsInbound_actCtx d n f) ?_ type (ring_type (by decide))
    rfl

end Sys2Proof.Machine
end

section
/-!
SUPPORT. Proof of the statement on gate lists and recovery history (R408, R503, R504): the next run of a gate by what is due, and the
two places that keep one.
-/
namespace Sys2Proof.Machine
open Sys2Proof

/-! ### A gate at the end of an interval -/

section
variable (parse : Bytes → GateList) {r : GateRun} {t : Nat}

theorem gateNext_admin {b : Bytes} {st : Nat} (waiting : r.admin = some (b, st)) (due : st ≤ t) :
    gateNext parse r t = gateBegin parse b st := by
  simp only [gateNext, waiting, if_pos due]

/-- Until the list that waits begins, the operational one goes on. -/
theorem gateNext_waits (waits : ∀ b st, r.admin = some (b, st) → t < st) : gateNext parse r t = gateMove parse r t := by
  unfold gateNext
  split
  case h_1 b st waiting => exact if_neg (Nat.not_le.mpr (waits b st waiting))
  case h_2 => rfl

theorem gateMove_idle (idle : (parse r.oper).on = false ∨ t < r.till) : gateMove parse r t = r :=
  if_pos (by simpa using idle)

variable (on : (parse r.oper).on = true) (past : r.till ≤ t)
include on past

/-- An interval that has ended: the next cycle, the next entry, or the rest of the cycle. -/
theorem gateMove_ends : gateMove parse r t =
    if r.start + (parse r.oper).cycle ≤ r.till then { gateBegin parse r.oper (r.start + (parse r.oper).cycle) with admin := r.admin }
    else
      match (parse r.oper).entries[r.idx + 1]? with
      | some (g, n) => { r with idx := r.idx + 1, till := min (r.till + n) (r.start + (parse r.oper).cycle), gates := g }
      | none => { r with idx := (parse r.oper).entries.length, till := r.start + (parse r.oper).cycle } :=
  if_neg (by simpa [on] using past)

theorem gateMove_cycle (ended : r.start + (parse r.oper).cycle ≤ r.till) :
    gateMove parse r t = { gateBegin parse r.oper (r.start + (parse r.oper).cycle) with admin := r.admin } :=
  (gateMove_ends parse on past).trans (if_pos ended)

variable (within : r.till < r.start + (parse r.oper).cycle)
include within

theorem gateMove_entry {g n : Nat} (entry : (parse r.oper).entries[r.idx + 1]? = some (g, n)) :
    gateMove parse r t = { r with idx := r.idx + 1, till := min (r.till + n) (r.start + (parse r.oper).cycle), gates := g } := by
  rw [gateMove_ends parse on past, if_neg (Nat.not_le.mpr within), entry]

theorem gateMove_last (last : (parse r.oper).entries[r.idx + 1]? = none) :
    gateMove parse r t = { r with idx := (parse r.oper).entries.length, till := r.start + (parse r.oper).cycle } := by
  rw [gateMove_ends parse on past, if_neg (Nat.not_le.mpr within), last]

end

/-- What an interval's end comes to, for a keeper of runs that stores the next run. -/
theorem gateNext_cases (parse : Bytes → GateList) (r : GateRun) (now : Nat) {is : GateRun → Prop}
    (stores : is (gateNext parse r now)) :
    (∀ b st, r.admin = some (b, st) → st ≤ now → is (gateBegin parse b st))
      ∧ (∀ g n, (∀ b st, r.admin = some (b, st) → now < st) → (parse r.oper).on = true → r.till ≤ now →
        r.till < r.start + (parse r.oper).cycle → (parse r.oper).entries[r.idx + 1]? = some (g, n) →
        is { r with idx := r.idx + 1, till := min (r.till + n) (r.start + (parse r.oper).cycle), gates := g })
      ∧ ((∀ b st, r.admin = some (b, st) → now < st) → (parse r.oper).on = true → r.till ≤ now →
        r.till < r.start + (parse r.oper).cycle → (parse r.oper).entries[r.idx + 1]? = none →
        is { r with idx := (parse r.oper).entries.length, till := r.start + (parse r.oper).cycle })
      ∧ ((∀ b st, r.admin = some (b, st) → now < st) → (parse r.oper).on = true → r.till ≤ now →
        r.start + (parse r.oper).cycle ≤ r.till →
        is { gateBegin parse r.oper (r.start + (parse r.oper).cycle) with admin := r.admin })
      ∧ ((∀ b st, r.admin = some (b, st) → now < st) → (parse r.oper).on = false ∨ now < r.till → is r) := by
  refine ⟨fun b st waiting due => ?admin, fun g n waits on past within entry => ?entry, fun waits on past within last => ?last,
    fun waits on past ended => ?cycle, fun waits idle => ?idle⟩
  case admin => rwa [gateNext_admin parse waiting due] at stores
  case entry => rwa [gateNext_waits parse waits, gateMove_entry parse on past within entry] at stores
  case last => rwa [gateNext_waits parse waits, gateMove_last parse on past within last] at stores
  case cycle => rwa [gateNext_waits parse waits, gateMove_cycle parse on past ended] at stores
  case idle => rwa [gateNext_waits parse waits, gateMove_idle parse idle] at stores

/-! ### Where the runs are kept -/

/-- Only what a place holds matters to a change of it. -/
theorem lmod_congr {α : Type} (d : α) (l : List α) (k : Nat) {f g : α → α} (agree : f (lget d l k) = g (lget d l k)) :
    lmod l k f = lmod l k g := by
  by_cases inside : k < l.length
  · have held : l[k]? = some l[k] := List.getElem?_eq_getElem inside
    have is_held : lget d l k = l[k] := by simp [lget, List.getD, held]
    rw [lmod_eq_set held, lmod_eq_set held, ← is_held, agree]
  · have beyond (f : α → α) : lmod l k f = l := List.modify_eq_self (Nat.not_lt.mp inside)
    rw [beyond f, beyond g]

theorem doesJust_onDev {c : Instr} {s : State} {ok : Bool} {f : Dev → Dev} {d : Dev} (runs : exec c s = onDev ok s f)
    (holds : ok = true) (left : f s.dev = d) : DoesJust c s d := by
  rw [DoesJust, runs, onDev, if_pos holds, left]

/-- The command at the end of an interval of port `p` leaves the run `r` of its gates. -/
def PortRuns (s : State) (p : Nat) (r : GateRun) : Prop :=
  DoesJust (.gateIntervalEnd p) s (modPort s.dev p fun x => { x with run := r })

/-- The command at the end of an interval of stream gate `k` leaves the run `r` of it. -/
def StreamGateRuns (s : State) (k : Nat) (r : GateRun) : Prop :=
  DoesJust (.streamGateIntervalEnd k) s
    { s.dev with net := { s.dev.net with psfpGates := lmod s.dev.net.psfpGates k fun _ => r } }

theorem portRuns_gateNext (s : State) {p : Nat} (port : p < 4) :
    PortRuns s p (gateNext tasList (portOf s.dev p).run s.dev.time.ticks) := by
  have runs : exec (.gateIntervalEnd p) s = onDev (p < 4) s fun d =>
    modPort d p fun x => { x with run := gateNext tasList x.run d.time.ticks } := rfl
  refine doesJust_onDev runs (decide_eq_true port) ?_
  simp only [modPort]
  rw [lmod_congr portDefault s.dev.net.ports p]
  rfl

theorem streamGateRuns_gateNext (s : State) {k : Nat} (gate : k < 64) :
    StreamGateRuns s k (gateNext psfpList (lget gateDefault s.dev.net.psfpGates k) s.dev.time.ticks) := by
  have runs : exec (.streamGateIntervalEnd k) s = onDev (k < 64) s fun d =>
    { d with net := { d.net with psfpGates := lmod d.net.psfpGates k fun r => gateNext psfpList r d.time.ticks } } := rfl
  refine doesJust_onDev runs (decide_eq_true gate) ?_
  rw [lmod_congr gateDefault s.dev.net.psfpGates k]
  rfl

/-- Recovery record `i` has accepted a frame, and none for `RESET_US` (R503). -/
def HistoryDue (d : Dev) (i : Nat) : Prop :=
  (cbRunOf d i).newest ≠ none ∧ leAt (cbRecord d i) 0 1 = 2
    ∧ (cbRunOf d i).tick + 800 * beAt (cbRecord d i) 28 4 ≤ d.time.ticks

theorem historyDue_iff (d : Dev) (i : Nat) :
    ((cbRunOf d i).newest.isSome && decide (leAt (cbRecord d i) 0 1 = 2)
      && decide ((cbRunOf d i).tick + 800 * beAt (cbRecord d i) 28 4 ≤ d.time.ticks)) = true ↔ HistoryDue d i := by
  simp only [HistoryDue, Bool.and_eq_true, decide_eq_true_eq, Option.isSome_iff_ne_none, and_assoc]

theorem doesJust_cbHistoryReset {s : State} {i : Nat} (record : i < 128) {d : Dev}
    (left : (if (cbRunOf s.dev i).newest.isSome && decide (leAt (cbRecord s.dev i) 0 1 = 2)
      && decide ((cbRunOf s.dev i).tick + 800 * beAt (cbRecord s.dev i) 28 4 ≤ s.dev.time.ticks)
      then modCb s.dev i fun c => { c with newest := none, hist := [] } else s.dev) = d) : DoesJust (.cbHistoryReset i) s d := by
  have runs : exec (.cbHistoryReset i) s = execCbHistoryReset i s := rfl
  rw [DoesJust, runs, execCbHistoryReset, onDev, if_pos (decide_eq_true record)]
  exact congrArg (fun e => Host.Outcome.next { s with dev := e }) left

/-- Settles O57: by what is due of a gate's run, and by the age of a recovery record. -/
theorem timedGates : Obligations.TimedGates := by
  unfold Obligations.TimedGates
  refine ⟨fun s p k port gate => ?gates, fun s i record => ?history⟩
  case gates =>
    exact ⟨gateNext_cases tasList _ _ (portRuns_gateNext s port),
      gateNext_cases psfpList _ _ (is := StreamGateRuns s k) (streamGateRuns_gateNext s gate)⟩
  case history =>
    exact ⟨fun due => doesJust_cbHistoryReset record (if_pos ((historyDue_iff s.dev i).mpr due)),
      fun not_due => doesJust_cbHistoryReset record (if_neg (mt (historyDue_iff s.dev i).mp not_due))⟩

end Sys2Proof.Machine
end

section
/-!
SUPPORT. Proof of the statement on ports and their frames (R405, R406, R416): the lock of a port, its frame errors, and the frames
that it answers itself.
-/
namespace Sys2Proof.Machine
open Sys2Proof

/-! ### A port's lock -/

/-- The device with the PCS lock of port `p` seen as `b`. -/
def portLocked (d : Dev) (p : Nat) (b : Bool) : Dev := modPort d p fun x => { x with lock := b }

/-- A port's lock is not its register. -/
theorem portOf_portLocked_reg (d : Dev) (p : Nat) (b : Bool) : (portOf (portLocked d p b) p).reg = (portOf d p).reg :=
  lget_lmod_field PortSt.reg (f := fun x => { x with lock := b }) (fun _ => rfl) ..

section
variable {s : State} {p : Nat} (port : p < 5)
include port

theorem does_pcsLockLoss (powered : portPowered s.dev p = true) : Does (.pcsLockLoss p) s
    (if (portOf s.dev p).reg.st = 1 then movePorts (portTo (portLocked s.dev p false) p 2) p else portLocked s.dev p false) := by
  rw [← portOf_portLocked_reg s.dev p false, Does]
  simp only [exec, execPcsLockLoss, runDev_next _ _ (decide_eq_true port), powered, Bool.not_true, Bool.false_eq_true, if_false]
  rfl

theorem does_pcsLockRegain (powered : portPowered s.dev p = true) : Does (.pcsLockRegain p) s
    (if (portOf s.dev p).reg.st = 2 then portTo (portLocked s.dev p true) p 1 else portLocked s.dev p true) := by
  rw [← portOf_portLocked_reg s.dev p true, Does]
  simp only [exec, execPcsLockRegain, runDev_next _ _ (decide_eq_true port), powered, Bool.not_true, Bool.false_eq_true, if_false]
  rfl

theorem does_pcsLock_unpowered (dark : portPowered s.dev p = false) :
    Does (.pcsLockLoss p) s s.dev ∧ Does (.pcsLockRegain p) s s.dev := by
  constructor <;>
    simp only [Does, exec, execPcsLockLoss, execPcsLockRegain, runDev_next _ _ (decide_eq_true port), dark, Bool.not_false, if_true]

/-! ### Frame errors of a port -/

theorem does_fcsError : Does (.fcsError p) s
    (if portUp s.dev p then modPort s.dev p fun x => { x with fcs := satAdd 32 x.fcs 1 } else s.dev) :=
  runDev_next s _ (decide_eq_true port)

theorem does_wtCrcError : Does (.wtCrcError p) s (wtCrcError s.dev p) :=
  runDev_next s (fun d => wtCrcError d p) (decide_eq_true port)

end

section
variable {d : Dev} {p : Nat} (serves : portUp d p = true)
include serves

theorem wtCrcError_first (first : ¬ ((portOf d p).crcFailed = true ∨ (portOf d p).dictFailed = true)) :
    wtCrcError d p = modPort d p fun x => { x with crcFailed := true } := by
  simp only [wtCrcError, serves, Bool.not_true, Bool.false_eq_true, if_false, Bool.or_eq_true, if_neg first]

theorem wtCrcError_again (failed : (portOf d p).crcFailed = true ∨ (portOf d p).dictFailed = true) :
    wtCrcError d p = crcPermanent d p := by
  simp only [wtCrcError, serves, Bool.not_true, Bool.false_eq_true, if_false, Bool.or_eq_true, if_pos failed]

end

theorem wtCrcError_notServing {d : Dev} {p : Nat} (dark : portUp d p = false) : wtCrcError d p = d :=
  if_pos (by rw [dark]; rfl)

theorem crcPermanent_dataPort {p : Nat} (data : p < 4) (d : Dev) :
    crcPermanent d p = portWorkedOut (modPort d p fun x => { x with crcFailed := false, dictFailed := false }) p :=
  if_neg (Nat.ne_of_lt data)

/-! ### Frames that a port answers itself -/

/-- A frame that is not the port's own is discarded. -/
theorem receive_notMine (d : Dev) (m : EthMeta) : (receive d m false).1 = false := by
  unfold receive
  dsimp only
  split
  · rfl
  · split
    · rfl
    · rw [if_pos (by rw [Bool.not_false, Bool.or_true])]

/-- A request of IP version `ver` for the address of its port (R405). -/
def AsksFor (d : Dev) (m : EthMeta) (ver : Nat) : Prop :=
  m.ipVer = ver ∧ leAt (portOf d m.port).cfg 33 1 = ver ∧ m.dstIp = beAt (portOf d m.port).cfg 16 16
    ∧ m.vlan = leAt (portOf d m.port).cfg 2 2 % 4096

theorem asksFor_iff (d : Dev) (m : EthMeta) (ver : Nat) :
    (m.ipVer == ver && leAt (portOf d m.port).cfg 33 1 == ver && m.dstIp == beAt (portOf d m.port).cfg 16 16
      && m.vlan == leAt (portOf d m.port).cfg 2 2 % 4096) = true ↔ AsksFor d m ver := by
  simp only [AsksFor, Bool.and_eq_true, beq_iff_eq, and_assoc]

/-- What is received, and answered where it counts. -/
def answerReceived (x : Bool × Dev) (m : EthMeta) (kind : Nat) (bytes : Dev → Bytes) : Dev :=
  if x.1 then answer x.2 m kind (bytes x.2) else x.2

theorem askAddress_own {d : Dev} {m : EthMeta} {ver : Nat} (own : AsksFor d m ver) (kind : Nat) :
    askAddress d m ver kind = answerReceived (receive d m true) m kind (fun r => ownAddresses r m.port) := by
  simp only [askAddress, (asksFor_iff d m ver).mpr own, answerReceived]

theorem askAddress_other {d : Dev} {m : EthMeta} {ver : Nat} (other : ¬ AsksFor d m ver) (kind : Nat) :
    askAddress d m ver kind = (receive d m false).2 := by
  simp only [askAddress, Bool.eq_false_iff.mpr (mt (asksFor_iff d m ver).mp other), receive_notMine, Bool.false_eq_true, if_false]

section
variable {s : State} {m : EthMeta} (named : ethOk m = true)
include named

theorem does_arpRequest {d : Dev} (left : askAddress s.dev m 4 1 = d) : Does (.arpRequest m) s d := by
  rw [← left]
  exact runDev_next s (fun d => askAddress d m 4 1) named

theorem does_neighborDiscovery {d : Dev} (left : askAddress s.dev m 6 2 = d) : Does (.neighborDiscovery m) s d := by
  rw [← left]
  exact runDev_next s (fun d => askAddress d m 6 2) named

theorem does_icmpEcho (bs : Bytes) :
    Does (.icmpEcho m bs) s (answerReceived (receive s.dev m (addressed s.dev m)) m 3 fun _ => bs) :=
  runDev_next s (fun d => answerReceived (receive d m (addressed d m)) m 3 fun _ => bs) named

theorem does_unaddressedFrame : Does (.unaddressedFrame m) s (receive s.dev m false).2 :=
  runDev_next s (fun d => (receive d m false).2) named

/-- A frame that is received and counts is answered, one that does not count is not. -/
theorem does_ownFrame {bs : Bytes} {counts : Bool} {r : Dev} (received : receive s.dev m true = (counts, r)) :
    (AsksFor s.dev m 4 → Does (.arpRequest m) s (answerReceived (counts, r) m 1 fun r => ownAddresses r m.port))
      ∧ (AsksFor s.dev m 6 → Does (.neighborDiscovery m) s (answerReceived (counts, r) m 2 fun r => ownAddresses r m.port))
      ∧ (addressed s.dev m = true → Does (.icmpEcho m bs) s (answerReceived (counts, r) m 3 fun _ => bs)) := by
  rw [← received]
  refine ⟨fun own => does_arpRequest named (askAddress_own own 1), fun own => does_neighborDiscovery named (askAddress_own own 2),
    fun own => ?_⟩
  have does := does_icmpEcho (s := s) named bs
  rw [own] at does
  exact does

end

/-- Settles O52: by the port's power and state, and by whom a frame is for. -/
theorem portLinks : Obligations.PortLinks := by
  unfold Obligations.PortLinks
  refine ⟨fun s p port => ?links, fun s m bs named => ?frames⟩
  case links =>
    have crc {d : Dev} (left : wtCrcError s.dev p = d) : Does (.wtCrcError p) s d := left ▸ does_wtCrcError port
    have fcs := does_fcsError (s := s) port
    refine ⟨fun powered => ?lock, does_pcsLock_unpowered port, fun serves => ?errors, fun dark => ?dark⟩
    case lock =>
      have loss := does_pcsLockLoss port powered
      have regain := does_pcsLockRegain port powered
      refine ⟨fun ready => ?_, fun other => ?_, fun noLink => ?_, fun other => ?_⟩
      · rw [if_pos ready] at loss
        exact loss
      · rw [if_neg other] at loss
        exact loss
      · rw [if_pos noLink] at regain
        exact regain
      · rw [if_neg other] at regain
        exact regain
    case errors =>
      rw [if_pos serves] at fcs
      refine ⟨fcs, fun first => crc (wtCrcError_first serves first), fun again data => ?_, fun again management => ?_⟩
      · exact crc ((wtCrcError_again serves again).trans (crcPermanent_dataPort data s.dev))
      · exact crc ((wtCrcError_again serves again).trans (if_pos management))
    case dark =>
      rw [if_neg (by rw [dark]; exact Bool.false_ne_true)] at fcs
      exact ⟨fcs, crc (wtCrcError_notServing dark)⟩
  case frames =>
    refine ⟨fun r received => ?answered, fun r received => ?silent,
      fun counts r received => ⟨?discarded, fun other => ?arp, fun other => ?neighbor, fun other => ?echo, ?unaddressed⟩⟩
    case answered =>
      have own := does_ownFrame (bs := bs) named received
      simp only [answerReceived, if_true] at own
      exact own
    case silent =>
      have own := does_ownFrame (bs := bs) named received
      simp only [answerReceived, Bool.false_eq_true, if_false] at own
      exact own
    case discarded => exact (congrArg Prod.fst received).symm.trans (receive_notMine s.dev m)
    case arp => exact does_arpRequest named ((askAddress_other other 1).trans (congrArg Prod.snd received))
    case neighbor => exact does_neighborDiscovery named ((askAddress_other other 2).trans (congrArg Prod.snd received))
    case echo =>
      have does := does_icmpEcho (s := s) named bs
      rw [other, answerReceived, receive_notMine, if_neg Bool.false_ne_true, received] at does
      exact does
    case unaddressed =>
      have does := does_unaddressedFrame (s := s) named
      rw [received] at does
      exact does

end Sys2Proof.Machine
end

section
/-!
SUPPORT. Proof of the statement on frames of the transport itself (R411, R413 to R415, R417, R427): a STATUS takes effect before the
acknowledgement that any frame carries, an OPEN after it.
-/
namespace Sys2Proof.Machine
open Sys2Proof

/-! ### A version 1 frame of an endpoint -/

section
variable {s : State} {f : WtFrame} {n : Nat} {d : Dev} (sent : FrameFrom s f n d)
include sent

/-- OPEN, ACK and STATUS are no part of the sequence. -/
theorem wtTake_transport (act : Dev → Nat → WtFrame → Taken) :
    (f.type = 0x20 → wtTake s.dev f act = some (takeOpen (acked f n d) n f))
      ∧ (f.type = 0x21 → wtTake s.dev f act = some (acked f n d))
      ∧ (f.type = 0x22 → wtTake s.dev f act = some (acked f n (takeStatus d n f))) := by
  obtain ⟨_, good, ⟨r, received, rfl⟩, sender⟩ := sent
  refine ⟨fun type => ?_, fun type => ?_, fun type => ?_⟩ <;> simp [wtTake, received, sender, good, type, acked]

theorem does_wtFrame {c : Instr} {ty : Nat} (runs : exec c s = wtReceive s f ty actNone) (type : f.type = ty) {e : Dev}
    (taken : wtTake s.dev f actNone = some e) : Does c s e := by
  rw [Does, runs, wtReceive, runDev_next _ _ sent.frame, if_pos (by simp [type]), taken]
  rfl

theorem does_wtOpen (type : f.type = 0x20) {e : Dev} (left : takeOpen (acked f n d) n f = e) : Does (.wtOpen f) s e :=
  left ▸ does_wtFrame sent rfl type ((wtTake_transport sent actNone).1 type)

theorem does_wtAck (type : f.type = 0x21) : Does (.wtAck f) s (acked f n d) :=
  does_wtFrame sent rfl type ((wtTake_transport sent actNone).2.1 type)

theorem does_wtStatus (type : f.type = 0x22) {e : Dev} (left : takeStatus d n f = e) : Does (.wtStatus f) s (acked f n e) :=
  left ▸ does_wtFrame sent rfl type ((wtTake_transport sent actNone).2.2 type)

end

/-! ### OPEN -/

/-- The receive stream of a new session, the old one closed (R411). -/
def newSession (d : Dev) (n : Nat) (f : WtFrame) : Dev :=
  modRx (closeRx d n f.lc) n f.lc fun _ => { rxDefault with session := some f.arg0, next := 1 }

/-- The endpoint of a new session open, at its port or the one it moves to (R411, R415). -/
def openedEp (e : Dev) (n : Nat) (f : WtFrame) : Dev :=
  setEp e n { epOf e n with
    st := 1, port := if (epOf e n).st = 1 && portUp e (epOf e n).port then (epOf e n).port
      else (readyPort e (epOf e n)).getD f.eth.port }

section
variable {d : Dev} {n : Nat} {f : WtFrame} (good : f.version = 1)
include good

theorem takeOpen_again (again : (rxOf (epOf d n) f.lc).session = some f.arg0) : takeOpen d n f = ackUp d n f.lc true := by
  simp only [takeOpen, good, again, ne_eq, not_true_eq_false, if_false, if_true]

variable (fresh : ¬ (rxOf (epOf d n) f.lc).session = some f.arg0)
include fresh

theorem takeOpen_late (late : f.seq ≠ 0) : takeOpen d n f = sendStatus d n f.lc f.seq 1 := by
  simp only [takeOpen, good, fresh, late, ne_eq, not_true_eq_false, not_false_eq_true, if_false, if_true]

/-- A new session opens the endpoint, and a peer's lets the device open its own stream with the credits it grants (R411, R425). -/
theorem takeOpen_opens (first : f.seq = 0) : takeOpen d n f = ackUp
    (if epKind (epOf (newSession d n f) n) = 2 then
      openTx (modTx (openedEp (newSession d n f) n f) n f.lc fun t => { t with credit := f.arg1 }) n f.lc
    else openedEp (newSession d n f) n f) n f.lc false := by
  simp only [takeOpen, good, fresh, first, ne_eq, not_true_eq_false, if_false]
  rfl

end

/-! ### STATUS -/

theorem takeStatus_host {d : Dev} {n : Nat} (host : epKind (epOf d n) ≠ 2) (f : WtFrame) :
    takeStatus d n f = sendStatus d n f.lc f.seq 2 := if_pos host

/-- A peer's refusal ends the transfer it names, where it names one (R427). -/
theorem takeStatus_peer {d : Dev} {n : Nat} (peer : epKind (epOf d n) = 2) (f : WtFrame) :
    takeStatus d n f = match refusedOp d n f.lc f.arg0 with
      | some id => giveUp d 0x0F01 id
      | none => d := if_neg (not_not_intro peer)

/-! ### Re-send -/

theorem does_resendTimeout (s : State) {n : Nat} (ep : n < 64) (lc : Bool) :
    Does (.resendTimeout n lc) s (resendTimeout s.dev n lc) :=
  runDev_next s (fun d => resendTimeout d n lc) (decide_eq_true ep)

theorem resendTimeout_none {d : Dev} {n : Nat} {lc : Bool} (nothing : (txOf (epOf d n) lc).unacked = []) :
    resendTimeout d n lc = d := by
  rw [resendTimeout, nothing]

/-- What has had no acknowledgement in time is sent again, up to the limit (R415). -/
theorem resendTimeout_some {d : Dev} {n : Nat} {lc : Bool} {u : Unacked} {t : List Unacked}
    (oldest : (txOf (epOf d n) lc).unacked = u :: t) : resendTimeout d n lc =
      if d.time.ticks < u.tick + 800 * d.net.resendUs then d
      else if d.net.resendLimit ≤ u.resends then epDown d n 1 else resend d n lc := by
  rw [resendTimeout, oldest]

/-- Settles O55: by the type of the frame, and by the age and the re-sends of the oldest unacknowledged frame. -/
theorem streamFrames : Obligations.StreamFrames := by
  unfold Obligations.StreamFrames
  refine ⟨fun s f n d sent => ⟨fun type => ?opens, fun type => does_wtAck sent type, fun type => ?status⟩,
    fun s n lc ep => ?resends⟩
  case opens =>
    have opens {e : Dev} (left : takeOpen (acked f n d) n f = e) : Does (.wtOpen f) s e := does_wtOpen sent type left
    refine ⟨fun again => opens (takeOpen_again sent.good again), fun fresh late => opens (takeOpen_late sent.good fresh late),
      fun fresh first host => opens ?_, fun fresh first peer => opens ?_⟩
    · rw [takeOpen_opens sent.good fresh first]
      exact congrArg (ackUp · n f.lc false) (if_neg host)
    · rw [takeOpen_opens sent.good fresh first]
      exact congrArg (ackUp · n f.lc false) (if_pos peer)
  case status =>
    refine ⟨fun host => does_wtStatus sent type (takeStatus_host host f), fun id peer named => does_wtStatus sent type ?_,
      fun peer nothing => does_wtStatus sent type ?_⟩
    · rw [takeStatus_peer peer, named]
    · rw [takeStatus_peer peer, nothing]
  case resends =>
    have does := does_resendTimeout s ep lc
    refine ⟨fun nothing => ?_, fun u t oldest => ?_⟩
    · rw [resendTimeout_none nothing] at does
      exact does
    · rw [resendTimeout_some oldest] at does
      refine ⟨fun early => ?_, fun due again => ?_, fun due spent => ?_⟩
      · rw [if_pos (Nat.not_le.mp early)] at does
        exact does
      · rw [if_neg (Nat.not_lt.mpr due), if_neg (Nat.not_le.mpr again)] at does
        exact does
      · rw [if_neg (Nat.not_lt.mpr due), if_pos spent] at does
        exact does

end Sys2Proof.Machine
end

section
/-!
SUPPORT. Proof of the statement on the identity key and the attestation report (R456, R457).
-/
namespace Sys2Proof.Machine
open Sys2Proof

/-- The derived key of a served device that still awaits it and has its secrets (R456, R459). -/
theorem rsaDerived_awaited {s : State} (served : s.dev.boot.phase = .up ∨ s.dev.boot.phase = .tripped)
    (unready : s.trust.attestReady = false) (undecided : s.trust.idMismatch = false) (secrets : s.trust.secretsZeroed = false)
    (ok : Bool) : rsaDerived s ok = { s with trust := { s.trust with attestReady := ok, idMismatch := !ok } } := by
  have answers : (decide (s.dev.boot.phase = .up) || decide (s.dev.boot.phase = .tripped)) = true := by
    rwa [Bool.or_eq_true, decide_eq_true_eq, decide_eq_true_eq]
  simp only [rsaDerived, answers, unready, undecided, secrets, Bool.not_true, Bool.or_self, Bool.false_eq_true, if_false]
  cases ok <;> rfl

/-- The signature block of a report (R457). -/
def signatureBlock (d : Dev) : Bytes := (List.range 8660).map fun i => Config.freeByte d.free i

theorem length_signatureBlock (d : Dev) : (signatureBlock d).length = 8660 := by
  rw [signatureBlock, List.length_map, List.length_range]

theorem reportReady_signing {s : State} {h : Bytes} (signing : s.trust.signing = some h) :
    reportReady s = { s with
      trust := { s.trust with signing := none, report := h ++ signatureBlock s.dev }
      dev := { s.dev with free := s.dev.free + 1 } } := by
  rw [reportReady, signing]
  rfl

/-- Settles O6: the key by what the record says of it, the report by its head and its signature block. -/
theorem attestationReports : Obligations.AttestationReports := by
  unfold Obligations.AttestationReports
  refine ⟨fun s ok served unready undecided secrets => ?key, fun s h signing => ?report⟩
  case key => exact congrArg Host.Outcome.next (rsaDerived_awaited served unready undecided secrets ok)
  case report =>
    refine ⟨_, congrArg Host.Outcome.next (reportReady_signing signing), rfl, ?_, ?_, rfl, rfl, rfl⟩
    · exact List.take_left
    · rw [List.length_append, length_signatureBlock]

end Sys2Proof.Machine
end

section
/-!
SUPPORT. Proof of the statement on the holds of heat and power (R466, R487). That a throttle is counted as it begins is the model's
choice (log entry 99).
-/
namespace Sys2Proof.Machine
open Sys2Proof

/-! ### A device that is up -/

theorem up_of_phase {d : Dev} (serving : d.boot.phase = .up) : up d = true := by
  rw [up, serving]
  rfl

/-! ### Heat -/

theorem does_thermalThrottle {s : State} (serving : s.dev.boot.phase = .up) {temp : Int} {d : Dev}
    (left : thermal s.dev temp = d) : Does (.thermalThrottle temp) s d := by
  subst left
  simp only [Does, exec, execThermalThrottle, runDev_next _ _ rfl, up_of_phase serving, if_true]

section
variable {d : Dev} {temp : Int}

theorem thermal_begins (free : d.pwr.heatHold = false) (hot : 10500 ≤ temp) : thermal d temp = postThrottle { d with
    pwr := { d.pwr with temp := temp, heatHold := true, throttles := satAdd 32 d.pwr.throttles 1 } } temp 1 := by
  simp only [thermal, free, hot, decide_true, Bool.not_false, Bool.and_self, if_true]

theorem thermal_ends (held : d.pwr.heatHold = true) (cool : temp ≤ 10000) : thermal d temp =
    postThrottle { d with pwr := { d.pwr with temp := temp, heatHold := false } } temp 2 := by
  simp only [thermal, held, cool, decide_true, Bool.not_true, Bool.and_false, Bool.and_self, Bool.false_eq_true, if_false, if_true]

theorem thermal_held (held : d.pwr.heatHold = true) (warm : 10000 < temp) :
    thermal d temp = { d with pwr := { d.pwr with temp := temp } } := by
  simp only [thermal, held, Int.not_le.mpr warm, decide_false, Bool.not_true, Bool.and_false, Bool.false_and, Bool.false_eq_true,
    if_false]

theorem thermal_free (free : d.pwr.heatHold = false) (cool : temp < 10500) :
    thermal d temp = { d with pwr := { d.pwr with temp := temp } } := by
  simp only [thermal, free, Int.not_le.mpr cool, decide_false, Bool.not_false, Bool.and_false, Bool.false_and, Bool.false_eq_true,
    if_false]

end

/-! ### Power -/

theorem avsClamp_pwr (d : Dev) (on : Bool) (bound : Nat) : (avsClamp d on bound).pwr = d.pwr := by
  unfold avsClamp
  dsimp only
  split
  · rfl
  · split
    · rfl
    · exact postActive_pwr d _ _

/-- The power state after a voltage transaction that was acknowledged or not (R487). -/
def transactedPwr (p : PwrSt) (milliamps : Nat) (ack : Bool) : PwrSt :=
  { p with
    current := if ack then milliamps else p.current
    noAck := if ack then 0 else p.noAck + 1
    target := if ack = false ∧ 2 ≤ p.noAck then p.acked else p.target }

/-- The third transaction in a row without an acknowledgement. -/
theorem third_unacknowledged (ack : Bool) (n : Nat) : 3 ≤ (if ack then 0 else n + 1) ↔ ack = false ∧ 2 ≤ n := by
  cases ack <;> simp

/-- An estimate is a transaction, and a hold that begins, ends or stays (R466). -/
theorem powerEstimate_eq (d : Dev) (watts milliamps : Nat) (ack : Bool) : powerEstimate d watts milliamps ack =
    if pCeil d < watts then
      avsClamp { d with pwr := { transactedPwr d.pwr milliamps ack with powerHold := true } } true 5
    else if watts + 5 ≤ pCeil d then
      avsClamp { d with pwr := { transactedPwr d.pwr milliamps ack with powerHold := false } } false 5
    else { d with pwr := transactedPwr d.pwr milliamps ack } := by
  simp only [powerEstimate, third_unacknowledged]
  rfl

theorem powerEstimate_pwr (d : Dev) (watts milliamps : Nat) (ack : Bool) :
    (powerEstimate d watts milliamps ack).pwr = { transactedPwr d.pwr milliamps ack with
      powerHold := if pCeil d < watts then true else if watts + 5 ≤ pCeil d then false else d.pwr.powerHold } := by
  rw [powerEstimate_eq]
  by_cases above : pCeil d < watts
  · rw [if_pos above, if_pos above, avsClamp_pwr]
  · rw [if_neg above, if_neg above]
    by_cases release : watts + 5 ≤ pCeil d
    · rw [if_pos release, if_pos release, avsClamp_pwr]
    · rw [if_neg release, if_neg release]
      rfl

/-- Settles O11: by the hold and the temperature, and by the estimate against `P_CEIL`. -/
theorem heatAndPowerHolds : Obligations.HeatAndPowerHolds := by
  unfold Obligations.HeatAndPowerHolds
  refine ⟨fun s temp serving => ?heat, fun s w ma ack serving => ?power⟩
  case heat =>
    exact ⟨fun free hot => does_thermalThrottle serving (thermal_begins free hot),
      fun held cool => does_thermalThrottle serving (thermal_ends held cool),
      fun held warm => does_thermalThrottle serving (thermal_held held warm),
      fun free cool => does_thermalThrottle serving (thermal_free free cool)⟩
  case power =>
    have answers : exec (.powerEstimate w ma ack) s = .next { s with dev := settle (powerEstimate s.dev w ma ack) } := by
      simp only [exec, execPowerEstimate, runDev_next _ _ rfl, up_of_phase serving, if_true]
    exact ⟨_, answers, (settle_pwr _).trans (powerEstimate_pwr s.dev w ma ack), rfl, rfl⟩

end Sys2Proof.Machine
end

section
/-!
SUPPORT. Proof of the statement on the OPEN of the dictionary protocol (R434, R458). The 16 sessions and sequence number 0 are
R434's, the answers to other requests R439's and R440's; the session number is free (log entries 1 and 82).
-/
namespace Sys2Proof.Machine
open Sys2Proof

/-- A token is good where it is all-zero for an all-zero hash, and where it has any other hash (R458). -/
theorem tokenOk_iff (d : Dev) (token : Bytes) : tokenOk d token = true ↔
    (slice d.boot.body 144 48 = zeros 48 → token = zeros 16)
      ∧ (slice d.boot.body 144 48 ≠ zeros 48 → sha384 token = slice d.boot.body 144 48) := by
  by_cases zero : slice d.boot.body 144 48 = zeros 48 <;> simp [tokenOk, zero]

/-- An OPEN that the device receives comes to `dictOpen` (R405, R434). -/
theorem does_dictOpen {s : State} {f : DictFrame} {r d : Dev} (named : dictFrameOk f = true) (good : badFrame f = false)
    (type : f.type = 1) (received : receive s.dev f.eth (dictMine s.dev f.eth) = (true, r))
    (left : dictOpen (dictCrcPassed r f.eth.port) f = d) : Does (.dictOpen f) s d := by
  subst left
  have serves : dictServe s f opRead = { s with dev := dictOpen (dictCrcPassed r f.eth.port) f } := by
    simp only [dictServe, received, good, type, Bool.not_true, Bool.false_eq_true, if_false, if_true]
  have row : exec (.dictOpen f) s = dictRow s f (f.type == 1) opRead := rfl
  rw [Does, row, dictRow, if_neg (by simp [named]), if_pos (by simp [type]), serves]

section
variable {d : Dev} {f : DictFrame} (first : f.seq = 0)
include first

theorem dictOpen_stranger (stranger : tokenOk d f.payload = false) : dictOpen d f = dictRefuse d f abNoSession := by
  simp only [dictOpen, first, stranger, ne_eq, not_true_eq_false, Bool.not_false, if_false, if_true]

variable (known : tokenOk d f.payload = true)
include known

theorem dictOpen_full (full : 16 ≤ d.dict.sessions.length) : dictOpen d f = dictRefuse d f abNoResource := by
  simp only [dictOpen, first, known, full, ne_eq, not_true_eq_false, Bool.not_true, Bool.false_eq_true, if_false, if_true]

theorem dictOpen_accepted (place : d.dict.sessions.length < 16) : dictOpen d f =
    dictSend { d with
      free := d.free + 1
      dict := { d.dict with
        sessions := tset d.dict.sessions (sessionNumber d)
          ⟨0, dictBytes f 0x80 (sessionNumber d) 0 0 0 [], none, none, d.time.ticks⟩
        requests := satAdd 64 d.dict.requests 1 } } f.eth (dictBytes f 0x80 (sessionNumber d) 0 0 0 []) := by
  simp only [dictOpen, first, known, Nat.not_le.mpr place, ne_eq, not_true_eq_false, Bool.not_true, Bool.false_eq_true, if_false]

end

/-- Settles O14: by the token and the places left. -/
theorem dictOpens : Obligations.DictOpens := by
  unfold Obligations.DictOpens
  intro s f r named wellFormed type first received d hash n b good
  have opens {e : Dev} (left : dictOpen d f = e) : Does (.dictOpen f) s e := does_dictOpen named wellFormed type received left
  have token : tokenOk d f.payload = true ↔ good := tokenOk_iff d f.payload
  exact ⟨fun known place => opens (dictOpen_accepted first (token.mpr known) place),
    fun stranger => opens (dictOpen_stranger first (Bool.eq_false_iff.mpr (mt token.mp stranger))),
    fun known full => opens (dictOpen_full first (token.mpr known) full)⟩

end Sys2Proof.Machine
end

section
/-!
SUPPORT. Proof of the statement on descriptors for gated engines (R463).
-/
namespace Sys2Proof.Machine
open Sys2Proof

/-- Only engines of the signal die that one domain powers are in a domain: the front end, the chirp modem and the trellis unit. -/
theorem opcode_of_domain {x : Desc} {k : Nat} (domain : domainOf x = some k) :
    hOpcode x ∈ [0x80, 0x81, 0x82, 0xA0, 0xA1, 0xA2, 0xB0, 0xB1] := by
  revert domain
  unfold domainOf
  split <;> simp [*]

/-- What a descriptor of an engine in a domain is not: one of the tensor die's memory, its benches or the signal cores. -/
theorem gateReason_of_domain {x : Desc} {k : Nat} (domain : domainOf x = some k) (d : Dev) :
    gateReason d x = if (lget ⟨0, 1⟩ d.pwr.domains k).st = 0 then some 0x1002 else none := by
  have opcode := opcode_of_domain domain
  simp only [List.mem_cons, List.not_mem_nil, or_false] at opcode
  have near : usesMemory d x = false := by obtain h | h | h | h | h | h | h | h := opcode <;> simp [usesMemory, h]
  have others : (∀ op ∈ [0x08, 0x10, 0x11, 0x20, 0x30, 0x90], (hOpcode x == op) = false) := by
    intro op listed
    simp only [List.mem_cons, List.not_mem_nil, or_false] at listed
    rw [beq_eq_false_iff_ne]
    omega
  simp only [List.forall_mem_cons, List.not_mem_nil, false_implies, implies_true, and_true] at others
  obtain ⟨load, matmul, conv, vop, quant, core⟩ := others
  simp only [gateReason, near, load, matmul, conv, vop, quant, core, Bool.or_self, Bool.and_false, Bool.false_eq_true, if_false,
    domain]

/-- Compute work and the signal cores are in no domain. -/
theorem domainOf_none {x : Desc} (opcode : hOpcode x ∈ [0x08, 0x10, 0x11, 0x20, 0x30, 0x90]) : domainOf x = none := by
  cases domain : domainOf x with
  | none => rfl
  | some k =>
    have other := opcode_of_domain domain
    simp only [List.mem_cons, List.not_mem_nil, or_false] at opcode other
    omega

theorem gateReason_ne_gated {x : Desc} (outside : domainOf x = none) (d : Dev) : gateReason d x ≠ some 0x1002 := by
  simp only [gateReason, outside]
  split_ifs <;> simp

/-- The descriptor commands of the front end, the chirp modem and the trellis unit. -/
def gatedRows (q : Nat) : List (Instr × Family) :=
  [(.feStart q, famFeStart), (.feStop q, famFeStop), (.feDetectStart q, famDetectOn), (.feDetectStop q, famDetectOff),
    (.lrTx q, famLrTx), (.lrMixEnable q, famMixOn), (.lrMixDisable q, famMixOff), (.lrListenStart q, famListenOn),
    (.lrListenStop q, famListenOff), (.trEnc q, famTrEnc), (.trDec q, famTrDec)]

theorem gatedRows_subset (q : Nat) : gatedRows q ⊆ engineRows q [] := by
  simp only [gatedRows, List.cons_subset, List.nil_subset, and_true]
  and_intros <;> simp [engineRows]

/-- Settles O59: a gated engine's domain is the first thing that its service fails on; benches and pairs are in none. -/
theorem gatedEngines : Obligations.GatedEngines := by
  unfold Obligations.GatedEngines
  refine ⟨?gated, fun d x opcode => gateReason_ne_gated (domainOf_none opcode) d⟩
  intro s q h c f k row below head active free op sub good met crosses domain gated
  have engine : (c, f) ∈ engineRows q [] := gatedRows_subset q row
  obtain ⟨known, does⟩ := carriesHead_row s below _ (List.mem_append_right _ engine)
  have goes : ¬ headHeld s.dev h := by
    rintro (unmet | ⟨_, stays⟩)
    · exact Bool.false_ne_true (unmet.symm.trans met)
    · exact Bool.false_ne_true (stays.symm.trans crosses)
  have reason : gateReason s.dev h.desc = some 0x1002 := (gateReason_of_domain domain s.dev).trans (if_pos gated)
  exact does_congr (withHead_fault ⟨head, active, free⟩ ⟨known, op, sub⟩ good goes (by rw [reason]; rfl)) does

end Sys2Proof.Machine
end

section
/-!
SUPPORT. Proof of the statement on reset values and full resets (R432, R445, R497). That a device which TEST_MODE holds in reset
stays so held through RESET_N, and that the selection of the test port returns to its default, are the model's choices (log
entries 97 and 100).
-/
namespace Sys2Proof.Machine
open Sys2Proof

/-- A full reset that does not keep the PLL locks and holds nothing. -/
theorem fullReset_cold (s : State) : fullReset s false = { s with
    trust := Trust.reset
    dev := { Dev.reset with free := s.dev.free, boot := { BootSt.reset with pllLocked := false, testHeld := false } } } := rfl

/-- A full reset by RESET_N leaves the PLL and the hold of TEST_MODE (R497). -/
theorem fullReset_warm (s : State) : fullReset s true = { s with
    trust := Trust.reset
    dev := { Dev.reset with
      free := s.dev.free
      boot := { BootSt.reset with pllLocked := s.dev.boot.pllLocked, testHeld := s.dev.boot.testHeld } } } := rfl

/-- After reset every context is FREE. -/
theorem ctxOf_reset_reg (n : Nat) : (ctxOf State.reset.dev n).reg = ⟨0, ctxFree⟩ := rfl

/-- Settles O4: the reset state by evaluation, the four causes by the full reset each of them is. -/
theorem fullResets : Obligations.FullResets := by
  unfold Obligations.FullResets
  refine ⟨?values, fun s => ⟨?porst, ?power, ?reset, fun locked => ?pll⟩⟩
  case values =>
    exact ⟨rfl, rfl, rfl, rfl, rfl, rfl, rfl, rfl, rfl, rfl, rfl, rfl, fun n _ => ctxOf_reset_reg n, rfl⟩
  case porst | power => exact congrArg Host.Outcome.next (fullReset_cold s)
  case reset => exact congrArg Host.Outcome.next (fullReset_warm s)
  case pll =>
    have resets : (if s.dev.boot.pllLocked then fullReset s false else s) = fullReset s false := if_pos locked
    exact congrArg Host.Outcome.next (resets.trans (fullReset_cold s))

end Sys2Proof.Machine
end

section
/-!
SUPPORT. Proof of the statement on start-up (R452, R493, R497, R498): the slot that the checks let start, and the training of a road
and of channels that all train.
-/
namespace Sys2Proof.Machine
open Sys2Proof

/-! ### Start-up by its checks -/

/-- Start-up's device with the PLL locked and the haul road trained. -/
def roadTrained (d : Dev) (b : Boot) : Dev := trainRoad { d with boot := { d.boot with pllLocked := true } } b.laneFail

/-- A slot that has passed its checks: its record's values in their entries, and the dictionary served (R452, R454). -/
def slotServed (d : Dev) (b : Boot) (image : SlotImage) : Dev :=
  { loadRecord d image b.portLock with boot := { (loadRecord d image b.portLock).boot with phase := .up, step := 5 } }

/-- The device that falls back from slot A after the failure `c`, with slot B started or not (R452). -/
def fallenBack (d : Dev) (c : Nat) (starts : Bool) : Dev :=
  { d with boot := { d.boot with fallback := true, failCode := c, slotB := starts || d.boot.slotB } }

section
variable (d : Dev) {b : Boot}

theorem startUp_noPuf (lost : b.puf = false) : startUp d b = haltBoot (roadTrained d b) 1 0 := by
  simp only [startUp, lost, Bool.not_false, if_true]
  rfl

variable (recovered : b.puf = true)
include recovered

theorem startUp_slotA (good : slotCheck b.deviceId b.slotA = none) :
    startUp d b = train (slotServed (roadTrained d b) b b.slotA) b.chanFail := by
  simp only [startUp, recovered, Bool.not_true, Bool.false_eq_true, if_false, good]
  rfl

variable {c : Nat} (bad : slotCheck b.deviceId b.slotA = some c)
include bad

theorem startUp_slotB (good : slotCheck b.deviceId b.slotB = none) :
    startUp d b = train (slotServed (fallenBack (roadTrained d b) c true) b b.slotB) b.chanFail := by
  simp only [startUp, recovered, Bool.not_true, Bool.false_eq_true, if_false, bad, good]
  rfl

theorem startUp_neither {k : Nat} (worse : slotCheck b.deviceId b.slotB = some k) :
    startUp d b = haltBoot (fallenBack (roadTrained d b) c false) k 1 := by
  simp only [startUp, recovered, Bool.not_true, Bool.false_eq_true, if_false, bad, worse]
  rfl

end

/-! ### A road and channels that all train -/

/-- A device whose road runs on all lanes and none of whose channels is worked out. -/
structure Trains (d : Dev) : Prop where
  lanes : d.haul.roadLanes = 32
  latency : d.haul.roadLatency = 48
  chans : countBelow 8 (fun c => (chanReg d c).st == 3) = 0

/-- What neither the haul road nor the channels see leaves training as it is. -/
theorem Trains.congr {d e : Dev} (trains : Trains d) (haul : e.haul = d.haul) (chans : e.mem.chans = d.mem.chans) : Trains e where
  lanes := by rw [haul, trains.lanes]
  latency := by rw [haul, trains.latency]
  chans := by simp only [chanReg, chans]; exact trains.chans

theorem trains_slotServed {d : Dev} (trains : Trains d) (b : Boot) (image : SlotImage) : Trains (slotServed d b image) :=
  trains.congr rfl rfl

theorem trains_fallenBack {d : Dev} (trains : Trains d) (c : Nat) (starts : Bool) : Trains (fallenBack d c starts) :=
  trains.congr rfl rfl

/-- A device whose channels all train is at step 6 (R194, R452). -/
theorem train_all {d : Dev} {fails : List Nat} (trains : Trains d) (none_fails : fails = []) :
    train d fails = { d with boot := { d.boot with step := 6, trainedPartial := false } } := by
  have serves : roadDown d = false := by rw [roadDown, trains.lanes]; rfl
  simp [train, serves, trains.chans, none_fails]

/-- A list of one value reads that value everywhere, where it is the default too. -/
theorem lget_replicate {α : Type} (a : α) (n k : Nat) : lget a (List.replicate n a) k = a := by
  by_cases inside : k < n <;> simp [lget, List.getD, inside]

/-- At reset every lane of the haul road is in service (R173). -/
theorem halfGone_reset (free : Nat) (boot : BootSt) (k h : Nat) :
    halfGone { Dev.reset with free := free, boot := boot } k h = false := by
  have lane (l : Nat) : lget ⟨0, 1⟩ Dev.reset.haul.lanes l = ⟨0, 1⟩ :=
    lget_replicate (⟨0, 1⟩ : GenSt) 64 l
  simp [halfGone, lane]

theorem lanesLeft_reset (free : Nat) (boot : BootSt) : lanesLeft { Dev.reset with free := free, boot := boot } = 32 := by
  simp [lanesLeft, halfGone_reset]

/-- At reset every lane and channel is in service (R173, R194). -/
theorem trains_reset (free : Nat) (boot : BootSt) {b : Boot} (lanes : b.laneFail = []) :
    Trains (roadTrained { Dev.reset with free := free, boot := boot } b) := by
  rw [roadTrained, trainRoad, lanes]
  simp only [List.foldl_nil, lanesLeft_reset, if_true]
  exact ⟨rfl, rfl, rfl⟩

/-- Road training leaves the boot record but for the lock of the PLL. -/
theorem roadTrained_boot (d : Dev) {b : Boot} (lanes : b.laneFail = []) :
    (roadTrained d b).boot = { d.boot with pllLocked := true } := by
  rw [roadTrained, lanes]
  exact enqueue_boot ..

theorem benchReg_loadRecord (d : Dev) (image : SlotImage) (locks : List Nat) {n : Nat} (bench : n < 16) :
    benchReg (loadRecord d image locks) n = if bitAt (leAt image.recBody 114 2) n then ⟨0, 1⟩ else ⟨0, 4⟩ := by
  simp [benchReg, loadRecord, lget, List.getD, bench]

/-! ### The statement -/

/-- The rise of PORST_N and of RESET_N (R493, R497, R498). -/
theorem doesJust_releases {s : State} {b : Boot} (named : bootOk b = true) (held : s.dev.boot.phase = .held) :
    (s.dev.boot.pllLocked = false → s.dev.boot.testHeld = false →
        (b.testMode = false → DoesJust (.porstRelease b) s (startUp s.dev b))
          ∧ (b.testMode = true → DoesJust (.porstRelease b) s { s.dev with boot := { s.dev.boot with testHeld := true } }))
      ∧ (s.dev.boot.pllLocked = true → DoesJust (.resetRelease b) s (startUp s.dev b)) := by
  refine ⟨fun unlocked free => ⟨fun normal => ?_, fun test => ?_⟩, fun locked => ?_⟩
  · simp [DoesJust, exec, execPorstRelease, onDev, named, porstRise, held, unlocked, free, normal]
  · simp [DoesJust, exec, execPorstRelease, onDev, named, porstRise, held, unlocked, free, test]
  · simp [DoesJust, exec, execResetRelease, onDev, named, held, locked]

/-- Settles O5: the pins by the state of reset, start-up by the slots' checks. -/
theorem startUpFromReset : Obligations.StartUp := by
  unfold Obligations.StartUp
  refine ⟨fun s b named held => doesJust_releases named held, fun s b reset lanes chans => ?starts⟩
  have at_reset : s.dev = { Dev.reset with free := s.dev.free, boot := { BootSt.reset with pllLocked := s.dev.boot.pllLocked } } :=
    reset
  have trains : Trains (roadTrained s.dev b) := by
    rw [at_reset]
    exact trains_reset _ _ lanes
  have boot : (roadTrained s.dev b).boot = { BootSt.reset with pllLocked := true } := by
    rw [roadTrained_boot s.dev lanes, at_reset]
  refine ⟨fun lost => ?noPuf, fun recovered good => ?slotA, fun c recovered bad => ?slotAFails⟩
  case noPuf =>
    rw [startUp_noPuf s.dev lost]
    exact ⟨rfl, rfl⟩
  case slotA =>
    rw [startUp_slotA s.dev recovered good, train_all (trains_slotServed trains b b.slotA) chans]
    refine ⟨rfl, rfl, congrArg BootSt.fallback boot, congrArg BootSt.failCode boot, trains.lanes, trains.latency, rfl, rfl,
      fun n bench => ?_⟩
    refine (congrArg GenSt.st (benchReg_loadRecord (roadTrained s.dev b) b.slotA b.portLock bench)).trans ?_
    split <;> rfl
  case slotAFails =>
    cases other : slotCheck b.deviceId b.slotB with
    | none =>
      rw [startUp_slotB s.dev recovered bad other,
        train_all (trains_slotServed (trains_fallenBack trains c true) b b.slotB) chans]
      exact ⟨rfl, fun _ => ⟨rfl, rfl, rfl⟩, nofun⟩
    | some k =>
      rw [startUp_neither s.dev recovered bad other]
      refine ⟨rfl, nofun, ?_⟩
      rintro j ⟨⟩
      exact ⟨rfl, rfl⟩

end Sys2Proof.Machine
end

section
/-!
SUPPORT. Proof of the statement on the test port and the end of a self-test (R459, R473, R474, R477, R479, R480, R496). That the
units go in increasing order, that the unit at which a cancel takes effect is still recorded, and that scan after the logic scan
follows the selected instruction, are the model's choices (log entries 95 and 96).
-/
namespace Sys2Proof.Machine
open Sys2Proof

/-! ### The test port -/

/-- The silicon step is above the 28 bits that IDCODE fixes (R496). -/
theorem idcode_low : idcode % 2 ^ 28 = 0x088164F3 % 2 ^ 28 :=
  Nat.add_mul_mod_self_right 0x088164F3 (Config.siliconStep / 256) (2 ^ 28)

theorem exec_boundaryScan_allowed {s : State} (allowed : scanAllow s.dev = true) : exec .boundaryScan s = .next { s with
    trust := { s.trust with
      secretsZeroed := true, attestReady := false, signing := none, scanEnabled := true, scanInstr := 2, scanData := 0 } } :=
  congrArg Host.Outcome.next (if_pos allowed)

/-- Without `SCAN_ALLOW` boundary scan acts as BYPASS (R496). -/
theorem exec_boundaryScan_refused {s : State} (refused : scanAllow s.dev = false) : exec .boundaryScan s = exec .bypass s :=
  congrArg Host.Outcome.next (if_neg (Bool.eq_false_iff.mp refused))

/-! ### A unit of a self-test -/

theorem stRecord_test (d : Dev) (t : TestSt) (n : Nat) (r : TestRun) : (stRecord d t n r).test = t.test := rfl

theorem not_goesOn {done mask : Nat} {cancel : Bool} (past : done = mask ∨ cancel = true) : ¬ (done ≠ mask ∧ cancel = false) :=
  fun ⟨unfinished, wanted⟩ => past.elim unfinished (Bool.eq_false_iff.mp wanted)

/-- The next unit of a running test, in rising number. -/
def nextUnit (t : TestSt) : Option Nat := firstBelow 16 fun n => bitAt t.mask n && !bitAt t.done n

/-- A unit recorded, and worked out where it failed twice in service (R479). -/
def unitRecorded (d : Dev) (t : TestSt) (n : Nat) (r : TestRun) : Dev :=
  if stOut d t.test n = false ∧ r.pass = false ∧ r.retest = false then
    stRetire { d with test := { d.test with running := some (stRecord d t n r) } } t.test n r.domain
  else { d with test := { d.test with running := some (stRecord d t n r) } }

/-- The status of a test that ends: aborted, failed, passed with a transient, or passed (R480). -/
def endStatus (x : TestSt) : Nat := if x.cancel then 5 else if x.failed ≠ 0 then 4 else if x.transient ≠ 0 then 3 else 2

theorem stUnitDone_idle {s : State} (idle : s.dev.test.running = none) (r : TestRun) : stUnitDone s r = s := by
  rw [stUnitDone, idle]

section
variable {s : State} {t : TestSt} {n : Nat} (running : s.dev.test.running = some t) (unit : nextUnit t = some n) (r : TestRun)
include running unit

/-- The unit is recorded; the test goes on, or ends with its memories zeroed and, after the logic scan, the channels trained
again. -/
theorem stUnitDone_eq : stUnitDone s r =
    if (stRecord s.dev t n r).done ≠ t.mask ∧ t.cancel = false then { s with dev := unitRecorded s.dev t n r }
    else
      { s with
        dev := testEnd
          (if t.test = 0x0E then r.chanFail.foldl chanRetire (stZeroed (unitRecorded s.dev t n r) t.test t.mask)
          else stZeroed (unitRecorded s.dev t n r) t.test t.mask)
          (stRecord s.dev t n r) (endStatus (stRecord s.dev t n r))
        trust := if t.test = 0x0E then { s.trust with scanEnabled := s.trust.scanInstr == 2 } else s.trust } := by
  have next : (firstBelow 16 fun n => bitAt t.mask n && !bitAt t.done n) = some n := unit
  simp only [stUnitDone, running, next, Bool.and_eq_true, Bool.not_eq_true', decide_eq_true_eq, and_assoc]
  rfl

theorem stUnitDone_goesOn (more : ¬ ((stRecord s.dev t n r).done = t.mask ∨ t.cancel = true)) :
    stUnitDone s r = { s with dev := unitRecorded s.dev t n r } := by
  obtain ⟨unfinished, wanted⟩ := not_or.mp more
  rw [stUnitDone_eq running unit, if_pos ⟨unfinished, Bool.eq_false_iff.mpr wanted⟩]

variable (past : (stRecord s.dev t n r).done = t.mask ∨ t.cancel = true)
include past

theorem stUnitDone_ends (other : t.test ≠ 0x0E) : stUnitDone s r = { s with
    dev := testEnd (stZeroed (unitRecorded s.dev t n r) t.test t.mask) (stRecord s.dev t n r)
      (endStatus (stRecord s.dev t n r)) } := by
  rw [stUnitDone_eq running unit, if_neg (not_goesOn past), if_neg other, if_neg other]

theorem stUnitDone_scanEnds (scan : t.test = 0x0E) : stUnitDone s r = { s with
    dev := testEnd (r.chanFail.foldl chanRetire (stZeroed (unitRecorded s.dev t n r) t.test t.mask)) (stRecord s.dev t n r)
      (endStatus (stRecord s.dev t n r))
    trust := { s.trust with scanEnabled := s.trust.scanInstr == 2 } } := by
  rw [stUnitDone_eq running unit, if_neg (not_goesOn past), if_pos scan, if_pos scan]

end

/-! ### The command of a unit -/

theorem exec_selftestUnitComplete {s : State} {r : TestRun} (named : ∀ c ∈ r.chanFail, c < 8) :
    exec (.selftestUnitComplete r) s = .next { stUnitDone s r with dev := settle (stUnitDone s r).dev } :=
  if_pos (List.all_eq_true.mpr fun c listed => decide_eq_true (named c listed))

theorem does_selftestUnitComplete {s : State} {r : TestRun} (named : ∀ c ∈ r.chanFail, c < 8) {d : Dev}
    (left : stUnitDone s r = { s with dev := d }) : Does (.selftestUnitComplete r) s d := by
  rw [Does, exec_selftestUnitComplete named, left]

/-! ### A test of one unit that changes no memory -/

/-- Test 1 has one unit, which nothing works out and which leaves no memory zeroed (R473). -/
theorem unitRecorded_one {d : Dev} {t : TestSt} (one : t.test = 1) (r : TestRun) :
    unitRecorded d t 0 r = { d with test := { d.test with running := some (stRecord d t 0 r) } } := by
  rw [unitRecorded, one]
  exact ite_self _

/-- A first unit passed, passed on its retest, or failed twice (R479, R480). -/
theorem endStatus_first {d : Dev} {t : TestSt} (one : t.test = 1) (none_failed : t.failed = 0) (none_transient : t.transient = 0)
    (uncancelled : t.cancel = false) (r : TestRun) :
    endStatus (stRecord d t 0 r) = if r.pass then 2 else if r.retest then 3 else 4 := by
  cases pass : r.pass <;> cases retest : r.retest <;>
    simp [endStatus, stRecord, stOut, one, none_failed, none_transient, uncancelled, pass, retest]

/-- Settles O7: the test port by its instruction, a unit by whether it is the last and which test it ends. -/
theorem testPortAndSelfTest : Obligations.TestPortAndSelfTest := by
  unfold Obligations.TestPortAndSelfTest
  refine ⟨fun s => ?port, fun s r t trains running one mask done failed transient cancel => ?oneUnit, fun s r named => ?units⟩
  case port => exact ⟨rfl, idcode_low, rfl, exec_boundaryScan_allowed, exec_boundaryScan_refused⟩
  case oneUnit =>
    have named : ∀ c ∈ r.chanFail, c < 8 := by rw [trains]; exact List.forall_mem_nil _
    have unit : nextUnit t = some 0 := by rw [nextUnit, mask, done]; rfl
    have past : (stRecord s.dev t 0 r).done = t.mask ∨ t.cancel = true := .inl (by rw [stRecord, mask, done]; rfl)
    have ends := stUnitDone_ends running unit r past (by rw [one]; decide)
    rw [unitRecorded_one one, endStatus_first one failed transient cancel, one] at ends
    refine does_congr ?_ (does_selftestUnitComplete named ends)
    simp only [stZeroed, testEnd, stRecord_test, one]
  case units =>
    refine ⟨fun idle => does_selftestUnitComplete named (stUnitDone_idle idle r), fun t n running unit => ⟨fun more => ?goesOn,
      fun past other => ?ends, fun past scan => ?scanEnds⟩⟩
    case goesOn => exact does_selftestUnitComplete named (stUnitDone_goesOn running unit r more)
    case ends => exact does_selftestUnitComplete named (stUnitDone_ends running unit r past other)
    case scanEnds => rw [exec_selftestUnitComplete named, stUnitDone_scanEnds running unit r past scan]; rfl

end Sys2Proof.Machine
end
